-- ==== Sys2Proof/Word.lean ====
section
/-! DEFINITION. The 48-bit word of R7, bytes, and bit fields of them (R5). -/

namespace Sys2Proof

/-- R7, R8: a word, and a register, is 48 bits. -/
abbrev Word := BitVec 48

/-- One byte, least significant bit first in value. -/
abbrev Byte := BitVec 8

/-- R5: the range [hi:lo] of a bit vector, both ends included, as a number. -/
def bits (w : BitVec n) (hi lo : Nat) : Nat := (w.toNat / 2 ^ lo) % 2 ^ (hi + 1 - lo)

/-- R5: a single bit [i]. -/
def bitAt (w : BitVec n) (i : Nat) : Bool := w.getLsbD i

/-- `w` with the range [hi:lo] replaced by the low bits of `v`. -/
def putBits (w : Word) (hi lo v : Nat) : Word :=
  let span := 2 ^ (hi + 1 - lo)
  BitVec.ofNat 48 (w.toNat - bits w hi lo * 2 ^ lo + (v % span) * 2 ^ lo)

/-- A number as a word (modulo 2^48). -/
def word (v : Nat) : Word := BitVec.ofNat 48 v

/-- 1 for true, as fields are written. -/
def b2n (b : Bool) : Nat := if b then 1 else 0

/-- Saturating addition of a counter of `w` bits. -/
def satAdd (w a b : Nat) : Nat := min (a + b) (2 ^ w - 1)

/-- The least whole number not below a / b. -/
def ceilDiv (a b : Nat) : Nat := (a + b - 1) / b

end Sys2Proof
end

