-- ==== Sys2Proof/Syntax.lean ====
section
/-! DEFINITION. The commands and events of the module, one constructor for each row of spec/opcode_table.json, and
the types of their operands. The table gives no operand fields; the operands are those the numbered rules name. A fact
that the module reads from a bitstream, a packet or a pin comes as an operand of the event that brings it. -/

namespace Sys2Proof

/-- A ring descriptor without its opcode (R131): who issued it, flags [35:24], tag [23:0] and words 1 to 7. The opcode
is the constructor's. -/
structure Cmd where
  slot : Fin 8
  ring : Fin 64
  flags : BitVec 12 := 0
  tag : BitVec 24 := 0
  w1 : Word := 0
  w2 : Word := 0
  w3 : Word := 0
  w4 : Word := 0
  w5 : Word := 0
  w6 : Word := 0
  w7 : Word := 0
  deriving DecidableEq, Repr

/-- What an access to host memory brought (R143, R152): the bytes, a refusal by the host, or exhausted retries. -/
inductive HostData where
  | bytes (bs : List Byte)
  | denied
  | timeout
  deriving DecidableEq, Repr

/-- A 48-byte descriptor as it stands in host memory (R127, R131). -/
structure Desc where
  w0 : Word
  w1 : Word := 0
  w2 : Word := 0
  w3 : Word := 0
  w4 : Word := 0
  w5 : Word := 0
  w6 : Word := 0
  w7 : Word := 0
  deriving DecidableEq, Repr

/-- The outcome of a descriptor fetch (R135, R143). -/
inductive FetchResult where
  | descs (ds : List Desc)
  | denied
  | timeout
  deriving DecidableEq, Repr

/-- An IPv4 or IPv6 address; an IPv4 address stands in the low 32 bits. -/
structure Addr where
  v6 : Bool := false
  bits : BitVec 128
  deriving DecidableEq, Repr

/-- An ARP request or neighbour solicitation: the address that it asks for and its sender's MAC address (R189). -/
structure AddrQuery where
  target : Addr
  sender : Word
  deriving DecidableEq, Repr

/-- A CM REQ as R120 and R121 read it. -/
structure CmReq where
  src : Addr
  /-- the address it was sent to, and the Ethernet source address of its frame (R189) -/
  dst : Addr
  mac : Word := 0
  /-- bytes 0 to 7 of the data that the REQ carries for its receiver (R120) -/
  priv : List Byte
  mtu : Nat := 4096
  rc : Bool := true
  deriving DecidableEq, Repr

/-- The operator's station: source address and UDP port (R163, R170). -/
structure Station where
  addr : Addr
  port : BitVec 16
  deriving DecidableEq, Repr

/-- What a frame on MGMT carries (R163, R208): a UDP datagram, an IP fragment with the UDP destination port that a first one
shows, an ARP request or neighbour solicitation, an ICMP or ICMPv6 echo request, a PAUSE frame, or anything else, RoCEv2 and
PTP among it. -/
inductive MgmtBody where
  | udp (src dst : Addr) (sport dport : BitVec 16) (payload : List Byte)
  | fragment (first : Option (BitVec 16))
  | arp (target : Addr)
  | echo (src dst : Addr) (data : List Byte)
  | pause
  | other
  deriving DecidableEq, Repr

/-- A frame that arrives on MGMT. -/
structure MgmtFrame where
  dst : Word
  src : Word
  fcsOk : Bool := true
  body : MgmtBody
  deriving DecidableEq, Repr

/-- An 802.1Q or 802.1ad tag (R193). -/
structure VTag where
  tpid : BitVec 16
  vid : BitVec 12
  pcp : BitVec 3
  deriving DecidableEq, Repr

/-- A decrypted RTP packet (R216, R451), and what the parsers of R223 to R225, R285, R298 and R452 find in its payload. -/
structure RtpFacts where
  /-- the packet after decryption: header, extensions as received, payload -/
  bytes : List Byte
  /-- layer indices under R225 -/
  s : Nat := 0
  t : Nat := 0
  /-- a key picture; the layer sync bit of VP8 or the U bit of VP9; a VP9 layer that is not inter-predicted (R225) -/
  key : Bool := false
  sync : Bool := false
  intraLayer : Bool := false
  /-- the decode targets that the dependency descriptor marks as "switch" (R225) -/
  ddSwitches : List (Nat × Nat) := []
  /-- the packet starts a refresh point (R452) -/
  refresh : Bool := false
  /-- the packet ends a frame of its layer (R237) -/
  endOfFrame : Bool := false
  /-- the packet belongs only to frames above the target, or is padding (R298) -/
  unneeded : Bool := false
  /-- the bitstream marks the packet's picture as used by no later picture (R285) -/
  disposable : Bool := false
  deriving DecidableEq, Repr

/-- What the packet engine reads from an SRTCP packet (R216, R260), and how many of the RTCP packets in it are of a type that
the module ignores (R226). -/
structure RtcpFacts where
  /-- the compound packet after decryption, without its tag, E flag and index -/
  bytes : List Byte
  index : BitVec 31
  e : Bool := true
  ignored : Nat := 0
  deriving DecidableEq, Repr

/-- The payload of a UDP datagram to a media port (R216). -/
inductive Media where
  | rtp (h : RtpFacts)
  | rtcp (h : RtcpFacts)
  deriving DecidableEq, Repr

/-- A RoCEv2 packet as R117 judges it. -/
structure RoceFacts where
  dip : Addr
  rc : Bool := true
  /-- UD on QP1, for connection management -/
  cm : Bool := false
  pkeyOk : Bool := true
  icrcOk : Bool := true
  /-- the connection whose queue pair the packet names -/
  qp : Option (Fin 8)
  /-- SEND, atomic or memory-window binding on RC (R117: NAK Invalid Request) -/
  refusedOp : Bool := false
  /-- how many of the packets that the module has sent and not seen acknowledged it acknowledges -/
  ack : Nat := 0
  deriving DecidableEq, Repr

/-- The body of a frame received on a data port (R25). -/
inductive FrameBody where
  | roce (f : RoceFacts)
  /-- a PTP message: its domain, and whether it is a management message (R65) -/
  | ptp (domain : BitVec 8) (management : Bool)
  | macControl (opcode : BitVec 16) (enables : BitVec 8) (quanta : List (BitVec 16))
  | arp (target : Addr)
  /-- a UDP datagram: addresses, ports, first payload byte, and what an RTP or RTCP parser reads from it -/
  | udp (src : Addr) (sport dport : BitVec 16) (fragment : Bool) (b0 b1 : Byte) (media : Media)
  | other
  deriving DecidableEq, Repr

/-- A frame at a data-port MAC (R190 to R193). -/
structure Frame where
  /-- length in bytes from destination address through FCS -/
  len : Nat
  fcsOk : Bool := true
  /-- FEC codewords corrected, and those found uncorrectable, among the codewords that hold the frame (R190, R207) -/
  fecCorr : Nat := 0
  fecUncorr : Nat := 0
  da : Word
  sa : Word := 0
  tags : List VTag := []
  body : FrameBody
  deriving DecidableEq, Repr

/-- A Grinal frame (R461, R462). -/
structure GrnFrame where
  /-- arrival port: false GRINAL-E, true GRINAL-W -/
  west : Bool
  /-- the CRC is good and no codeword of the frame is uncorrectable; the frame holds LENGTH bytes of payload (R463) -/
  crcOk : Bool := true
  lengthOk : Bool := true
  version : BitVec 4 := 1
  kind : BitVec 4
  src : BitVec 4
  dst : BitVec 4 := 0
  bcast : Bool := false
  dirWest : Bool := false
  wrapped : Bool := false
  conceded : Bool := false
  ttl : BitVec 6 := 32
  a : Word := 0
  b : Word := 0
  epoch : BitVec 24 := 0
  seq : BitVec 24 := 0
  payload : List Byte := []
  deriving DecidableEq, Repr

/-- A plug-in as CMIS describes it (R182, R183, R460). -/
structure Plug where
  cmis5 : Bool := true
  answers : Bool := true
  /-- offers the four-lane 400GAUI-4 (data) or the 800GAUI-8 (Grinal) application -/
  application : Bool := true
  /-- declared greatest power in W -/
  watts : Nat
  deriving DecidableEq, Repr

/-- One packet of an RFC 8888 report (R230): arrival on the receiver's clock in 2^-24 s, none when reported lost. -/
structure CcfbPacket where
  ssrc : BitVec 32
  seq : BitVec 16
  arrival : Option Nat
  deriving DecidableEq, Repr

/-- One decoded block for the taint map (R302): the areas it overlaps; whether it was concealed or intra; and for an
inter block, each reference slot it predicts from with the areas its displaced, grown and clipped region overlaps. -/
structure BlockFact where
  x : Nat
  y : Nat
  w : Nat
  h : Nat
  concealed : Bool := false
  intra : Bool := false
  /-- the reference slots that it predicts from, each with its motion vector in sixteenths of a luma sample -/
  refs : List (Nat × Int × Int) := []
  deriving DecidableEq, Repr

/-- A coding tool or format that the decoder does not support, whatever the context (R287). -/
inductive StreamTool where
  /-- interlaced coding, 0x01; a chroma format other than 4:2:0 or monochrome, 0x02 -/
  | interlaced
  | chroma
  /-- AV1 super-resolution, 0x04; AV1 large-scale tile, 0x05 -/
  | superResolution
  | largeScaleTile
  /-- H.264 FMO, ASO and redundant slices, 0x06; HEVC extension tools, 0x07 -/
  | h264Slices
  | hevcTools
  deriving DecidableEq, Repr

/-- What a decode task finds in a picture's bitstream (R285 to R303). -/
structure PicFacts where
  width : Nat
  height : Nat
  s : Nat := 0
  t : Nat := 0
  monochrome : Bool := false
  /-- H.273 primaries, transfer, matrix and full range, when the stream carries a description -/
  colour : Option (Nat × Nat × Nat × Bool) := none
  /-- an unsupported tool or format of R287 -/
  tool : Option StreamTool := none
  /-- profile and level of the stream, in the values of R286 -/
  profile : Nat := 0
  level : Nat := 0
  /-- bits in a sample, references that the sequence needs, and its spatial and temporal layers -/
  depth : Nat := 8
  refsNeeded : Nat := 0
  sLayers : Nat := 1
  tLayers : Nat := 1
  /-- an AV1 S mode (R289) -/
  simulcast : Bool := false
  /-- the picture's packets carry a dependency descriptor (R286) -/
  dd : Bool := false
  /-- another frame of the same released picture follows: a higher spatial layer (R289) -/
  more : Bool := false
  randomAccess : Bool := false
  intraOnly : Bool := false
  /-- the codec shows the picture (R295) -/
  shown : Bool := true
  /-- the codec's reference slots that the picture reads, and those it refreshes -/
  reads : List Nat := []
  refreshes : List Nat := []
  blocks : List BlockFact := []
  /-- every missing packet lies outside the frames decoded (R297) -/
  lossHarmless : Bool := false
  /-- pictures still held back by the stream's reorder delay (R295) -/
  reorder : Nat := 0
  /-- the luma and chroma planes as they stand in the slot (R293, R294) -/
  planes : List Byte := []
  deriving DecidableEq, Repr

/-- What a decoder gives of a sender for one period: samples at 48 kHz, codec full scale at ±2^23 (R368). -/
inductive Sound where
  | mono (xs : List Int)
  | stereo (left right : List Int)
  deriving DecidableEq, Repr

/-- Why a running task yields (R405). -/
inductive YieldReason where
  | sourceRows
  | poolSlot
  | heldPage
  | blockAbove
  deriving DecidableEq, Repr

/-- The cause that stops a DMA transfer (R426). -/
inductive DmaCause where
  | memory
  | hostRefused
  | hostTimeout
  | peer
  deriving DecidableEq, Repr

/-- What one start meets (R521, R522): the identity key's check, the boot history, the reading of the image, and DRAM
training. -/
structure StartFacts where
  /-- the identity key passes its check -/
  identityOk : Bool := true
  /-- the chosen slot is read from SPI NOR without error (R521, R526) -/
  readback : Bool := true
  /-- neither copy of the boot history is valid (R523) -/
  historyLost : Bool := false
  /-- stacks whose training fails (R522) -/
  trainFailed : List Nat := []
  deriving DecidableEq, Repr

/-- The collision outcome of one attempt on MGMT (R211). -/
inductive Collision where
  | busy
  | none
  | early
  | late
  deriving DecidableEq, Repr

/-- What a read of memory by the patrol or by a reader finds in a 64-byte unit (R439 to R441). -/
inductive EccFind where
  | clean
  | corrected (die : Fin 16)
  | uncorrectable
  deriving DecidableEq, Repr

/-- The domain and the sequenceId of a received PTP message (R65, R69). -/
structure PtpId where
  domain : BitVec 8
  seq : BitVec 16
  deriving DecidableEq, Repr

/-- What a response to a delay request brings (R69): when its sender received the request and sent the response, in ns, and
the correction in 2^-16 ns. -/
structure PtpDelay where
  received : Int
  sent : Int
  correction : Int
  deriving DecidableEq, Repr

/-- The kinds of PTP message that a port sends at its intervals (R66). -/
inductive PtpSend where
  | sync
  | delayReq
  | pdelayReq
  | announce
  deriving DecidableEq, Repr

/-- A unit under self-test (R510). -/
inductive TestUnit where
  | engine (e : Fin 2)
  | lane (l : Fin 1024)
  | core (c : Fin 152)
  deriving DecidableEq, Repr

/-- The event sources of DMA request lines (R429). -/
inductive ReqSrc where
  | canvasRow
  | canvasPicture
  | decodePicture
  | mixPeriod
  | ppsIn
  deriving DecidableEq, Repr

/-- The commands and events of spec/opcode_table.json, in its order. -/
inductive Instr where
  -- ring commands: "Host Control over RDMA"
  | nop (c : Cmd)
  | ringCreate (c : Cmd)
  | ringDestroy (c : Cmd)
  | cqCreate (c : Cmd)
  | cqDestroy (c : Cmd)
  | regionAdd (c : Cmd)
  | regionRemove (c : Cmd)
  | windowOpen (c : Cmd)
  | windowClose (c : Cmd)
  | barrier (c : Cmd)
  | connInfo (c : Cmd)
  | timeRead (c : Cmd)
  | timeSetIncr (c : Cmd)
  | timeStep (c : Cmd)
  | timeSubscribe (c : Cmd)
  | timePathAck (c : Cmd)
  | confCreate (c : Cmd)
  | confDestroy (c : Cmd)
  | streamCreate (c : Cmd)
  | streamModify (c : Cmd)
  | streamDestroy (c : Cmd)
  | streamQuery (c : Cmd)
  | legCreate (c : Cmd)
  | legModify (c : Cmd)
  | legDestroy (c : Cmd)
  | legLayers (c : Cmd)
  | meterSet (c : Cmd)
  | shaperSet (c : Cmd)
  | keyInstall (c : Cmd) (blob : HostData)
  | keyRetire (c : Cmd)
  | keyQuery (c : Cmd)
  | cipherJob (c : Cmd) (block source : HostData)
  | decCreate (c : Cmd)
  | decModify (c : Cmd)
  | decDestroy (c : Cmd)
  | decRequestIntra (c : Cmd)
  | canvasCreate (c : Cmd)
  | canvasSetLayers (c : Cmd) (records : HostData)
  | canvasDestroy (c : Cmd)
  | encCreate (c : Cmd) (block : HostData)
  | encModify (c : Cmd)
  | encDestroy (c : Cmd)
  | encRefresh (c : Cmd)
  | mixCreate (c : Cmd) (block : HostData)
  | mixModify (c : Cmd)
  | mixDestroy (c : Cmd)
  | audioLegSet (c : Cmd)
  | dmaSubmit (c : Cmd)
  | dmaCancel (c : Cmd)
  | dmaQuery (c : Cmd)
  | preserveExport (c : Cmd) (host : HostData)
  | preserveQuery (c : Cmd)
  | memQuery (c : Cmd)
  | brambleQuery (c : Cmd)
  | statRead (c : Cmd)
  | diagRun (c : Cmd)
  | statRipeness (c : Cmd)
  | identityRead (c : Cmd) (host : HostData)
  | attestQuote (c : Cmd) (request : HostData)
  -- peer messages and Grinal frames
  | confAttach (f : GrnFrame)
  | confDetach (f : GrnFrame)
  | streamSubscribe (f : GrnFrame)
  | keyPictureRequest (f : GrnFrame)
  | preserveFetch (f : GrnFrame)
  | mixJoin (f : GrnFrame)
  | join (f : GrnFrame) (mac : Word)
  | hello (f : GrnFrame) (age : Nat)
  | beacon (f : GrnFrame)
  | media (f : GrnFrame) (h : RtpFacts)
  | partialMix (f : GrnFrame)
  | rankReport (f : GrnFrame)
  | seatDecision (f : GrnFrame)
  | dmaWrite (f : GrnFrame)
  | dmaRead (f : GrnFrame)
  | dmaData (f : GrnFrame)
  | ack (f : GrnFrame)
  | helloSend (west : Bool)
  | beaconSend
  | joinRepeat
  | memberLoss (m : Fin 16)
  | beaconLoss
  | reclaim
  | ackTimeout (seq : BitVec 24)
  | grinalLinkAbsent (west : Bool) (linkDown : Bool)
  | unwrap (west : Bool)
  | grinalLinkUp (west : Bool)
  | mirrorGapTimeout (ctx : Nat)
  | seatMerge (group : Nat)
  | decisionMissing (group : Nat)
  | partialMixDeadline (group : Nat)
  | grnEnable (v : Word)
  -- connections, doorbells and host accesses
  | cmReq (port : Fin 2) (r : CmReq)
  | rtu (slot : Fin 8)
  | rtuTimeout (slot : Fin 8)
  | mraRepeat (slot : Fin 8)
  | dreq (slot : Fin 8)
  | rdmaErrorNak (slot : Fin 8)
  | rdmaRetryExhausted (slot : Fin 8)
  | holdExpiry (slot : Fin 8)
  | cnpReceived (slot : Fin 8)
  | recoveryPeriodEnd (slot : Fin 8)
  | ecnCePacket (slot : Fin 8)
  | windowRdmaRead (slot : Fin 8) (addr : Word) (len : Nat) (rkey : BitVec 32)
  | windowRdmaWrite (slot : Fin 8) (addr : Word) (data : List Byte) (rkey : BitVec 32)
  | bootSlotWrite (slot : Fin 8) (index : Fin 6) (value : BitVec 64)
  | bootGo (slot : Fin 8)
  | ringPi (slot : Fin 8) (ring : Fin 64) (value : BitVec 32)
  | cqCi (slot : Fin 8) (queue : Fin 64) (value : BitVec 32)
  | eqCi (slot : Fin 8) (value : BitVec 32)
  | cqArm (slot : Fin 8) (queue : Fin 64) (value : BitVec 64)
  | eqArm (slot : Fin 8) (value : BitVec 64)
  | doorbellIgnored (slot : Fin 8)
  | wakeDelayExpiry (slot : Fin 8) (queue : Option (Fin 64))
  | descriptorFetch (slot : Fin 8) (ring : Fin 64) (r : FetchResult)
  | eventBacklogPost (slot : Fin 8) (queue : Fin 64)
  -- Oxvan and register writes
  | oxvanOpen (f : MgmtFrame)
  | oxvanBatch (f : MgmtFrame)
  | oxvanClose (f : MgmtFrame)
  | oxvanPing (f : MgmtFrame)
  | oxvanDrop (f : MgmtFrame)
  | sessionExpiry
  | registerWrite (offset : Nat) (v : Word)
  | stepGo (force snap : Bool)
  | snap
  | tbIncrWrite (v : Word)
  | ptpPortWrite (port : Fin 2) (v : Word)
  | stateReqActive
  | stateReqQuiet
  | stateReqDormant
  | stateReqRestart
  | stateReqWindfall
  | stateTransitionDone
  | profileSave
  | profileSaveDone
  | profileClear
  | partCommit
  | partApplied
  | oxvanCfgWrite (v : Word)
  | mgtCtrlWrite (v : Word)
  | mgtAddressWrite (reg : Fin 4) (v : Word)
  | slotDisable (slot : Fin 8)
  | gateCommit (port : Fin 2)
  | gateChangeTime (port : Fin 2)
  | gateEntry (port : Fin 2)
  | cipFlush (lane : Fin 1024)
  | spareGo (stack : Fin 32)
  | sparingDone
  | scrubRead (found : EccFind)
  | dmaChCommit (ch : Fin 256)
  | dmaChannelEnable (ch : Fin 256) (v : Word)
  | dmaTransferStart (ch : Fin 256)
  | dmaTransferDone (id : Nat) (host : HostData)
  | dmaTransferError (id : Nat) (cause : DmaCause) (written : Nat)
  | dmaArmTrigger (ch : Fin 256)
  | dmaRequest (src : ReqSrc) (obj : Nat)
  | dmaWindowOpen (ch : Fin 256)
  | dmaWindowClose (ch : Fin 256)
  | fwBegin (slotB : Bool) (length : BitVec 32)
  | fwData (v : Word)
  | fwVerify
  | fwVerifyDone (readback : Bool)
  | fwActivate
  | fwAbort
  | fwReverify (slotB : Bool)
  | kekLoad (slot : Fin 8) (len256 : Bool)
  | kekClear (slot : Fin 8)
  | lampTest
  | lampTestEnd
  -- frames and packets
  | macFrameReceive (port : Fin 2) (f : Frame)
  | packetClassify (engine : Fin 2)
  | arpRequest (port : Fin 2) (q : AddrQuery)
  | lockstepCompare (engine : Fin 2) (equal : Bool)
  | mediaGateAdmit (engine : Fin 2)
  | cipherLaneStart (group : Fin 16)
  | cipherLaneEnd (lane : Fin 1024) (tagOk : Bool) (laneFault : Bool)
  | ticketStep (ctx : Nat) (rtx : Bool)
  | fifoPop (lane : Fin 1024)
  | streamEnginePacket
  | keyReserveWritten (keyId : Word)
  | shaperEvaluate (shaper : Nat)
  | txSelect (port : Fin 2)
  | pauseFrame (port : Fin 2) (opcode : BitVec 16) (enables : BitVec 8) (quanta : List (BitVec 16))
  | pauseQuantaExpiry (port : Fin 2) (cls : Fin 8)
  | pfcRepeat (port : Fin 2)
  | pauseWatchdog (port : Fin 2) (cls : Fin 8) (own : Bool)
  | pauseWatchdogEnd (port : Fin 2) (cls : Fin 8) (own : Bool)
  | plugInsert (cage : Fin 4) (p : Plug)
  | plugRemove (cage : Fin 4)
  | cmisRetry (cage : Fin 4)
  | dataLinkUp (port : Fin 2)
  | dataLinkDown (port : Fin 2) (remoteFault : Bool)
  | mgmtLinkChange (up : Bool) (full : BitVec 3) (half : BitVec 2)
  | mgmtArp (f : MgmtFrame)
  | mgmtEcho (f : MgmtFrame)
  | mgmtDrop (f : MgmtFrame)
  | mgmtTransmit (c : Collision)
  | mgmtBackoffExpiry
  | rtcpSr (ctx : Nat) (ntp : BitVec 64) (rtp : BitVec 32)
  | rtcpRr (leg : Nat) (lsr dlsr : BitVec 32)
  | rtcpNack (ctx : Nat) (seqs : List (BitVec 16))
  | rtcpPliFir (ctx : Nat) (fir : Bool)
  | rtcpCcfb (leg : Nat) (packets : List CcfbPacket)
  | rtcpBye (leg : Nat) (ssrc : BitVec 32)
  | rtcpReportTimer (leg : Nat)
  | ccfbReportTimer (leg : Nat)
  | nackTimer (ctx : Nat) (seq : Nat)
  | estimateStale (leg : Nat)
  | pointRateUpdate
  | switchInstant (ctx : Nat)
  | jbRelease (ctx : Nat)
  | pictureDecoded (dec : Nat) (p : PicFacts)
  | redecodeRunDone (dec entry : Nat)
  | taintRequestTimer (dec : Nat)
  | specCommitDeadline (entry : Nat)
  | joinEntryFreed
  | canvasPictureStart (canvas : Nat)
  | composeRowDone (canvas : Nat)
  | composeRowDeadline (canvas row : Nat)
  | encPictureStart (channel : Nat)
  | encBlockRow (channel layer segment nbits : Nat) (intra : List Nat)
  | encLastRowDeadline (channel : Nat)
  | encPictureFinal (channel : Nat) (packets : List RtpFacts)
  | mixPeriodStart (group : Nat) (samples : List (Nat × Sound))
  | mixFrameFinal (group : Nat) (ctx : Nat) (packet : RtpFacts)
  | mixFrameDrop (group : Nat) (ctx : Nat)
  | taskEnd (core : Fin 152)
  | taskYield (core : Fin 152) (why : YieldReason)
  | schedTick
  | coreFault (core : Fin 152)
  | tskWindowEnd
  | ptpSync (port : Fin 2) (domain : BitVec 8) (seq : BitVec 16) (twoStep : Bool) (origin correction : Int)
  | ptpFollowUp (port : Fin 2) (id : PtpId) (origin correction : Int)
  | ptpDelayResp (port : Fin 2) (id : PtpId) (m : PtpDelay)
  | ptpAnnounce (port : Fin 2) (domain : BitVec 8) (clockIdentity : BitVec 64) (state : BitVec 4)
  | announceTimeout (port : Fin 2)
  | ptpMessageTimer (port : Fin 2) (kind : PtpSend)
  | ppsInEdge (falling : Bool)
  | ppsOutRise
  | ppsOutFall
  | ref10Valid
  | ref10Locked
  | ref10Lost
  | queueOverflow (slot : Fin 8)
  -- power, supplies, fans, panel
  | mainsOn (inlet : Fin 2)
  | pwrOk (f : StartFacts)
  | ready
  | readyTimeout
  | startConfirmed
  | moduleErrorRestart (code : BitVec 16) (instanceNo : BitVec 16) (detailA detailB : Word)
  | powerFail
  | railsDrop
  | supplyFailed (k : Fin 2) (outputFault inputLost removed : Bool)
  | supplyInserted (k : Fin 2) (codeOk mains : Bool)
  | fanFailed (f : Fin 6) (rpm : BitVec 16) (removed : Bool)
  | redundancyRestored (fan : Bool) (k : Fin 6)
  | thermalWarning (proc inlet : BitVec 16)
  | thermalCritical (proc inlet : BitVec 16)
  | windfallButtonPress
  | windfallButtonFeedback
  | windfallButtonArm
  | windfallButtonRelease
  | ptpDelayReq (port : Fin 2) (domain : BitVec 8) (seq : BitVec 16) (peer : Bool)
  | localAckTimeout (slot : Fin 8)
  | rnrNak (slot : Fin 8)
  | cmisError (cage : Fin 4)
  | fanInserted (f : Fin 6) (codeOk : Bool)
  | supplyInputRestored (k : Fin 2)
  | fanSpeedReached
  | flashProgramDone
  | selfTestDone (u : TestUnit) (result : BitVec 2)
  deriving DecidableEq, Repr

end Sys2Proof
end

