-- ==== Sys2Proof/Decode.lean ====
section
/-! DEFINITION. The word form of the commands. spec/opcode_table.json gives no row a bit field: commands reach the
block as operations, so no word spells one. -/

namespace Sys2Proof

/-- The command that a word of `nbits` bits spells by the table. The table gives no row any bits. -/
def decodeTableWord (_nbits _w : Nat) : Option Instr := none

end Sys2Proof
end

