-- ==== Sys2Proof/Config.lean ====
section
/-! DEFINITION. What one PX9M fixes for itself, and the free values: constants without a body for every value the
spec leaves open. No proof can see a free value, so a statement holds whatever it is. -/

namespace Sys2Proof

/-- A free value of `w` bits; the counter in State makes each use fresh. -/
opaque Config.free : (w : Nat) → Nat → BitVec w

/-- GLB_IDENT.BASE_MAC (R188), per module. -/
opaque Config.baseMac : Word
/-- SEED_SERIAL (R157), per module. -/
opaque Config.serial : Word
/-- Build number of the image that the module came with (SEED_RELEASE.BUILD). -/
opaque Config.build : BitVec 24
/-- Build number reported by the boot ROM in Windfall mode (R528). -/
opaque Config.romBuild : BitVec 24
/-- Bytes and length of the device certificate and of the intermediate certificate (R535), per module. -/
opaque Config.certByte : (intermediate : Bool) → Nat → Byte
opaque Config.certLength : (intermediate : Bool) → Nat

/-- R526: whether 384 bytes are the firmware-signing key's signature over the first 64 bytes of an image. -/
opaque Config.fwSigned : (header signature : List Byte) → Bool

/-- Byte i of an attestation signature over a body (R536). -/
opaque Config.quoteSig : List Byte → Nat → Byte
/-- The bytes of the stored profile record of some register values (R536 hashes them); the manual does not lay it out. -/
opaque Config.profileRecord : List (Nat × Word) → List Byte
/-- The luma SAD of a 16 × 16 block of an encoder against a reference displaced by a vector in quarter samples (R349): it
rests on reconstructed samples, which the spec leaves to the encoder's coding. -/
opaque Config.sad : (n layer col row : Nat) → (lower : Bool) → (dx dy : Int) → Nat
/-- Whether a vector in quarter samples lies in VP8's vector range (R349), which its standard gives by its coding alone. -/
opaque Config.vp8VectorInRange : (dx dy : Int) → Bool
/-- The vector in quarter samples with which a codec skips a block of an exhausted row (R354). -/
opaque Config.skipVector : (n layer col row : Nat) → Int × Int
/-- An estimate the spec computes from a report that reports no packet at all (division by zero in R230). -/
opaque Config.estimateOfEmptyReport : Nat → Nat

/-- The certificate: that of the device has at most 2,048 bytes (chapter 18); one that IDENTITY_READ can write to a region
has at most 2^40 (R148). -/
def Config.cert (intermediate : Bool) : List Byte :=
  (List.range (min (Config.certLength intermediate) (if intermediate then 2 ^ 40 else 2048))).map (Config.certByte intermediate)

end Sys2Proof
end

