-- ==== Sys2Proof/Machine/Crypto.lean ====
section
/-! DEFINITION. The algorithms that the module's ciphers and hashes are: AES (FIPS 197) and its modes, GHASH and GCM, SHA-1,
SHA-256, HMAC-SHA-1, the key derivation of RFC 3711, and the key unwrap of RFC 5649 (R250 to R264, R272, R273, R536). -/

namespace Sys2Proof.Machine

-- ## Byte strings

/-- A byte string of `n` zeros. -/
def zeros (n : Nat) : List Byte := List.replicate n 0

/-- One step of CRC-32 over a bit, least significant first. -/
def crcBit (c : BitVec 32) : BitVec 32 := if c.getLsbD 0 then (c >>> 1) ^^^ 0xEDB88320#32 else c >>> 1

/-- CRC-32 of IEEE 802.3 over bytes. -/
def crcBytes (c : BitVec 32) (bs : List Byte) : BitVec 32 :=
  bs.foldl (fun c b => crcBit (crcBit (crcBit (crcBit (crcBit (crcBit (crcBit (crcBit (c ^^^ b.setWidth 32))))))))) c
def crc32 (bs : List Byte) : BitVec 32 := ~~~(crcBytes 0xFFFFFFFF#32 bs)

def xorBytes (a b : List Byte) : List Byte := List.zipWith (fun x y => x ^^^ y) a b

/-- The `n` bytes of a number, the most significant first. -/
def beBytes (n v : Nat) : List Byte :=
  match n with
  | 0 => []
  | n + 1 => BitVec.ofNat 8 (v / 2 ^ (8 * n)) :: beBytes n v

/-- The number that some bytes are, the most significant first. -/
def beNat (bs : List Byte) : Nat := bs.foldl (fun n b => 256 * n + b.toNat) 0

/-- A byte string cut into pieces of `k` bytes, the last of which may be shorter; `n` bounds their number. -/
def chunksN (k n : Nat) (bs : List Byte) : List (List Byte) :=
  match n with
  | 0 => []
  | n + 1 => if bs.isEmpty then [] else bs.take k :: chunksN k n (bs.drop k)
def chunks (k : Nat) (bs : List Byte) : List (List Byte) := chunksN k bs.length bs

-- ## AES

/-- FIPS 197's S-box, byte x at bits 8x + 7 to 8x. -/
def sboxTable : Nat :=
  0xc072a49cafa2d4adf04759fa7dc982ca76abd7fe2b670130c56f6bf27b777c63
  + 0x75b227ebe28012079a059618c323c7041531d871f1e5a534ccf73f362693fdb7 * 2 ^ 256
  + 0xcf584c4a39becb6a5bb1fc20ed00d153842fe329b3d63b52a05a6e1b1a2c8309 * 2 ^ 512
  + 0xd2f3ff1021dab6bcf5389d928f40a351a89f3c507f02f94585334d43fbaaefd0 * 2 ^ 768
  + 0xdb0b5ede14b8ee4688902a22dc4f816073195d643d7ea7c41744975fec130ccd * 2 ^ 1024
  + 0x08ae7a65eaf4566ca94ed58d6d37c8e779e4959162acd3c25c2406490a3a32e0 * 2 ^ 1280
  + 0x9e1dc186b95735610ef6034866b53e708a8bbd4b1f74dde8c6b4a61c2e2578ba * 2 ^ 1536
  + 0x16bb54b00f2d99416842e6bf0d89a18cdf2855cee9871e9b948ed9691198f8e1 * 2 ^ 1792
/-- Its inverse. -/
def invSboxTable : Nat :=
  0xcbe9dec444438e3487ff2f9b8239e37cfbd7f3819ea340bf38a53630d56a0952
  + 0x25d18b6d49a25b76b224d92866a12e084ec3fa420b954cee3d23c2a632947b54 * 2 ^ 256
  + 0x849d8da75746155edab9edfd5048706c92b6655dcc5ca4d41698688664f6f872 * 2 ^ 512
  + 0x6b8a130103bdafc1020f3fca8f1e2cd00645b3b80558e4f70ad3bc8c00abd890 * 2 ^ 768
  + 0x6edf751ce837f9e28535ade72274ac9673e6b4f0cecff297eadc674f4111913a * 2 ^ 1024
  + 0xf45acd78fec0db9a2079d2c64b3e56fc1bbe18aa0e62b76f89c5291d711af147 * 2 ^ 1280
  + 0xef9cc9939f7ae52d0d4ab519a97f51605fec8027591012b131c7078833a8dd1f * 2 ^ 1536
  + 0x7d0c2155631469e126d677ba7e042b17619953833cbbebc8b0f52aae4d3be0a0 * 2 ^ 1792

def sbox (x : Byte) : Byte := BitVec.ofNat 8 (sboxTable / 2 ^ (8 * x.toNat))
def invSbox (x : Byte) : Byte := BitVec.ofNat 8 (invSboxTable / 2 ^ (8 * x.toNat))

/-- Multiplication by x in GF(2^8), and by any element; `n` counts the bits of the second factor. -/
def xtime (a : Byte) : Byte := (a <<< 1) ^^^ (if a.getLsbD 7 then 0x1B else 0)
def gmulN (n : Nat) (a b : Byte) : Byte :=
  match n with
  | 0 => 0
  | n + 1 => (if b.getLsbD 0 then a else 0) ^^^ gmulN n (xtime a) (b >>> 1)
def gmul (a b : Byte) : Byte := gmulN 8 a b

/-- The round constant of round `i`, from 1. -/
def rcon (i : Nat) : Byte :=
  match i with
  | 0 => 0
  | 1 => 1
  | i + 2 => xtime (rcon (i + 1))

/-- The key schedule's words after those held, for a key of `nk` words; `n` counts those to make. -/
def keyWords (nk n : Nat) (ws : List (List Byte)) : List (List Byte) :=
  match n with
  | 0 => ws
  | n + 1 =>
    let i := ws.length
    let last := ws.getD (i - 1) []
    let t :=
      if i % nk = 0 then xorBytes ((last.drop 1 ++ last.take 1).map sbox) [rcon (i / nk), 0, 0, 0]
      else if nk > 6 ∧ i % nk = 4 then last.map sbox
      else last
    keyWords nk n (ws ++ [xorBytes (ws.getD (i - nk) []) t])

/-- The round keys of a key of 16 or 32 bytes. -/
def roundKeys (key : List Byte) : List (List Byte) :=
  let nk := key.length / 4
  chunks 16 (keyWords nk (4 * (nk + 7) - nk) (chunks 4 key)).flatten

/-- The bytes of a block, column by column, with row r moved by r columns. -/
def shiftRows (b : List Byte) : List Byte :=
  (List.range 16).map (fun i => b.getD ((i + 4 * (i % 4)) % 16) 0)
def invShiftRows (b : List Byte) : List Byte :=
  (List.range 16).map (fun i => b.getD ((i + 12 * (i % 4)) % 16) 0)

/-- A column times a circulant matrix, given by its first row. -/
def mixWith (row : List Byte) (c : List Byte) : List Byte :=
  (List.range 4).map (fun r => (List.range 4).foldl (fun a k => a ^^^ gmul (row.getD ((k + 4 - r) % 4) 0) (c.getD k 0)) 0)
def mixColumns (row b : List Byte) : List Byte := ((chunks 4 b).map (mixWith row)).flatten

/-- AES encryption of one block under round keys. -/
def aesRounds (ks : List (List Byte)) (b : List Byte) : List Byte :=
  match ks with
  | [] => b
  | [k] => xorBytes (shiftRows (b.map sbox)) k
  | k :: rest => aesRounds rest (xorBytes (mixColumns [2, 3, 1, 1] (shiftRows (b.map sbox))) k)
def aesWith (ks : List (List Byte)) (b : List Byte) : List Byte := aesRounds (ks.drop 1) (xorBytes b (ks.headD []))
def aes (key b : List Byte) : List Byte := aesWith (roundKeys key) b

/-- AES decryption of one block, with the round keys from the last to the first. -/
def aesBack (ks : List (List Byte)) (b : List Byte) : List Byte :=
  match ks with
  | [] => b
  | [k] => xorBytes ((invShiftRows b).map invSbox) k
  | k :: rest => aesBack rest (mixColumns [14, 11, 13, 9] (xorBytes ((invShiftRows b).map invSbox) k))
def aesInv (key b : List Byte) : List Byte :=
  let ks := (roundKeys key).reverse
  aesBack (ks.drop 1) (xorBytes b (ks.headD []))

-- ## Modes

/-- Keystream blocks of a counter that starts at `c` and counts modulo 2^w in its low `w` bits; `n` counts the blocks. -/
def ctrStream (ks : List (List Byte)) (w n c : Nat) : List Byte :=
  match n with
  | 0 => []
  | n + 1 => aesWith ks (beBytes 16 c) ++ ctrStream ks w n (c / 2 ^ w * 2 ^ w + (c + 1) % 2 ^ w)

/-- Counter mode: the block cipher's counter mode, and AES-CM of RFC 3711. -/
def ctrMode (key iv data : List Byte) (w : Nat := 128) : List Byte :=
  xorBytes data (ctrStream (roundKeys key) w (data.length / 16 + 1) (beNat iv))

def cbcEnc (ks : List (List Byte)) (iv : List Byte) (bs : List (List Byte)) : List Byte :=
  match bs with
  | [] => []
  | b :: rest =>
    let c := aesWith ks (xorBytes b iv)
    c ++ cbcEnc ks c rest
def cbcDec (key iv : List Byte) (bs : List (List Byte)) : List Byte :=
  match bs with
  | [] => []
  | b :: rest => xorBytes (aesInv key b) iv ++ cbcDec key b rest

/-- CFB-128: the last block may be short. -/
def cfbMode (ks : List (List Byte)) (decrypt : Bool) (iv : List Byte) (bs : List (List Byte)) : List Byte :=
  match bs with
  | [] => []
  | b :: rest =>
    let o := xorBytes b (aesWith ks iv)
    o ++ cfbMode ks decrypt (if decrypt then b else o) rest

/-- OFB keystream. -/
def ofbStream (ks : List (List Byte)) (n : Nat) (iv : List Byte) : List Byte :=
  match n with
  | 0 => []
  | n + 1 =>
    let o := aesWith ks iv
    o ++ ofbStream ks n o

/-- f8 keystream from IV', block `j` on (RFC 3711, 4.1.2). -/
def f8Stream (ks : List (List Byte)) (iv : List Byte) (n j : Nat) (prev : List Byte) : List Byte :=
  match n with
  | 0 => []
  | n + 1 =>
    let o := aesWith ks (xorBytes (xorBytes iv (beBytes 16 j)) prev)
    o ++ f8Stream ks iv n (j + 1) o

/-- f8-mode with a salt key: IV' is the IV under the key masked with the salt, filled up with 0x55. -/
def f8Mode (key salt iv data : List Byte) : List Byte :=
  let m := (salt ++ List.replicate (key.length - salt.length) 0x55).take key.length
  xorBytes data (f8Stream (roundKeys key) (aes (xorBytes key m) iv) (data.length / 16 + 1) 0 (zeros 16))

-- ## GCM

/-- Multiplication in GF(2^128) as GHASH has it; `n` counts the bits of the first factor still to take. -/
def ghashMul (n : Nat) (x v z : BitVec 128) : BitVec 128 :=
  match n with
  | 0 => z
  | n + 1 =>
    ghashMul n x ((v >>> 1) ^^^ (if v.getLsbD 0 then BitVec.ofNat 128 (0xE1 * 2 ^ 120) else 0))
      (if x.getLsbD n then z ^^^ v else z)

def ghash (h : BitVec 128) (bs : List (List Byte)) : BitVec 128 :=
  bs.foldl (fun y b => ghashMul 128 (y ^^^ BitVec.ofNat 128 (beNat (b ++ zeros (16 - b.length)))) h 0) 0

/-- GCM's tag over AAD and ciphertext, for a 12-byte IV. -/
def gcmTag (key iv aad ct : List Byte) : List Byte :=
  let h := BitVec.ofNat 128 (beNat (aes key (zeros 16)))
  let s := ghash h (chunks 16 aad ++ chunks 16 ct ++ [beBytes 8 (8 * aad.length) ++ beBytes 8 (8 * ct.length)])
  xorBytes (beBytes 16 s.toNat) (aes key (iv ++ beBytes 4 1))

/-- GCM's encryption, which is also its decryption. -/
def gcmCrypt (key iv data : List Byte) : List Byte := ctrMode key (iv ++ beBytes 4 2) data 32

-- ## Hashes

/-- A message padded to whole blocks of 64 bytes, as SHA-1 and SHA-256 have it, in words of 32 bits by block. -/
def shaBlocks (m : List Byte) : List (List (BitVec 32)) :=
  let p := m ++ [0x80] ++ zeros ((119 - m.length % 64) % 64) ++ beBytes 8 (8 * m.length)
  (chunks 64 p).map (fun b => (chunks 4 b).map (fun w => BitVec.ofNat 32 (beNat w)))

def rotl (x : BitVec 32) (n : Nat) : BitVec 32 := (x <<< n) ||| (x >>> (32 - n))

/-- The message schedule, newest word first; `n` counts the words to make. -/
def sha1Words (n : Nat) (ws : List (BitVec 32)) : List (BitVec 32) :=
  match n with
  | 0 => ws
  | n + 1 => sha1Words n (rotl (ws.getD 2 0 ^^^ ws.getD 7 0 ^^^ ws.getD 13 0 ^^^ ws.getD 15 0) 1 :: ws)

def sha1Step (v : List (BitVec 32)) (t : Nat) (w : BitVec 32) : List (BitVec 32) :=
  let a := v.getD 0 0
  let b := v.getD 1 0
  let c := v.getD 2 0
  let d := v.getD 3 0
  let fk : BitVec 32 × BitVec 32 :=
    if t < 20 then ((b &&& c) ||| (~~~b &&& d), 0x5a827999)
    else if t < 40 then (b ^^^ c ^^^ d, 0x6ed9eba1)
    else if t < 60 then ((b &&& c) ||| (b &&& d) ||| (c &&& d), 0x8f1bbcdc)
    else (b ^^^ c ^^^ d, 0xca62c1d6)
  [rotl a 5 + fk.1 + v.getD 4 0 + w + fk.2, a, rotl b 30, c, d]

def sha1Block (h ws : List (BitVec 32)) : List (BitVec 32) :=
  let all := (sha1Words 64 ws.reverse).reverse
  List.zipWith (fun x y => x + y) h (all.zipIdx.foldl (fun v p => sha1Step v p.2 p.1) h)

def sha1 (m : List Byte) : List Byte :=
  ((shaBlocks m).foldl sha1Block [0x67452301, 0xefcdab89, 0x98badcfe, 0x10325476, 0xc3d2e1f0]).flatMap (fun w => beBytes 4 w.toNat)

/-- HMAC-SHA-1 (RFC 2104), for keys of at most 64 bytes. -/
def hmacSha1 (key m : List Byte) : List Byte :=
  let k := key ++ zeros (64 - key.length)
  sha1 (k.map (fun b => b ^^^ 0x5c) ++ sha1 (k.map (fun b => b ^^^ 0x36) ++ m))

def rotr (x : BitVec 32) (n : Nat) : BitVec 32 := (x >>> n) ||| (x <<< (32 - n))

/-- SHA-256's constants. -/
def sha256K : List (BitVec 32) :=
  [0x428a2f98, 0x71374491, 0xb5c0fbcf, 0xe9b5dba5, 0x3956c25b, 0x59f111f1, 0x923f82a4, 0xab1c5ed5]
  ++ [0xd807aa98, 0x12835b01, 0x243185be, 0x550c7dc3, 0x72be5d74, 0x80deb1fe, 0x9bdc06a7, 0xc19bf174]
  ++ [0xe49b69c1, 0xefbe4786, 0x0fc19dc6, 0x240ca1cc, 0x2de92c6f, 0x4a7484aa, 0x5cb0a9dc, 0x76f988da]
  ++ [0x983e5152, 0xa831c66d, 0xb00327c8, 0xbf597fc7, 0xc6e00bf3, 0xd5a79147, 0x06ca6351, 0x14292967]
  ++ [0x27b70a85, 0x2e1b2138, 0x4d2c6dfc, 0x53380d13, 0x650a7354, 0x766a0abb, 0x81c2c92e, 0x92722c85]
  ++ [0xa2bfe8a1, 0xa81a664b, 0xc24b8b70, 0xc76c51a3, 0xd192e819, 0xd6990624, 0xf40e3585, 0x106aa070]
  ++ [0x19a4c116, 0x1e376c08, 0x2748774c, 0x34b0bcb5, 0x391c0cb3, 0x4ed8aa4a, 0x5b9cca4f, 0x682e6ff3]
  ++ [0x748f82ee, 0x78a5636f, 0x84c87814, 0x8cc70208, 0x90befffa, 0xa4506ceb, 0xbef9a3f7, 0xc67178f2]

def sha256Words (n : Nat) (ws : List (BitVec 32)) : List (BitVec 32) :=
  match n with
  | 0 => ws
  | n + 1 =>
    let x := ws.getD 14 0
    let y := ws.getD 1 0
    let s0 := rotr x 7 ^^^ rotr x 18 ^^^ (x >>> 3)
    let s1 := rotr y 17 ^^^ rotr y 19 ^^^ (y >>> 10)
    sha256Words n ((ws.getD 15 0 + s0 + ws.getD 6 0 + s1) :: ws)

def sha256Step (v : List (BitVec 32)) (k w : BitVec 32) : List (BitVec 32) :=
  let a := v.getD 0 0
  let e := v.getD 4 0
  let ch := (e &&& v.getD 5 0) ^^^ (~~~e &&& v.getD 6 0)
  let maj := (a &&& v.getD 1 0) ^^^ (a &&& v.getD 2 0) ^^^ (v.getD 1 0 &&& v.getD 2 0)
  let t1 := v.getD 7 0 + (rotr e 6 ^^^ rotr e 11 ^^^ rotr e 25) + ch + k + w
  [t1 + (rotr a 2 ^^^ rotr a 13 ^^^ rotr a 22) + maj, a, v.getD 1 0, v.getD 2 0, v.getD 3 0 + t1, e, v.getD 5 0, v.getD 6 0]

def sha256Block (h ws : List (BitVec 32)) : List (BitVec 32) :=
  let all := (sha256Words 48 ws.reverse).reverse
  List.zipWith (fun x y => x + y) h ((all.zip sha256K).foldl (fun v p => sha256Step v p.2 p.1) h)

def sha256 (m : List Byte) : List Byte :=
  ((shaBlocks m).foldl sha256Block
    [0x6a09e667, 0xbb67ae85, 0x3c6ef372, 0xa54ff53a, 0x510e527f, 0x9b05688c, 0x1f83d9ab, 0x5be0cd19]).flatMap
    (fun w => beBytes 4 w.toNat)

-- ## Key unwrap (RFC 5649)

/-- RFC 3394's unwrapping steps from step `n` down: the integrity value and the 64-bit blocks. -/
def unwrapSteps (kek : List Byte) (n : Nat) (a : List Byte) (rs : List (List Byte)) : List Byte × List (List Byte) :=
  match n with
  | 0 => (a, rs)
  | n + 1 =>
    let i := n % rs.length
    let b := aesInv kek (xorBytes a (beBytes 8 (n + 1)) ++ rs.getD i [])
    unwrapSteps kek n (b.take 8) (rs.set i (b.drop 8))

/-- RFC 5649: the material of a wrap with padding, or none when its integrity check fails. -/
def unwrap (kek wrapped : List Byte) : Option (List Byte) :=
  let r :=
    if wrapped.length = 16 then
      let b := aesInv kek wrapped
      (b.take 8, [b.drop 8])
    else
      let rs := chunks 8 (wrapped.drop 8)
      unwrapSteps kek (6 * rs.length) (wrapped.take 8) rs
  let all := r.2.flatten
  let len := beNat (r.1.drop 4)
  if r.1.take 4 = [0xA6, 0x59, 0x59, 0xA6] ∧ all.length < len + 8 ∧ len ≤ all.length ∧ (all.drop len).all (fun b => b == 0) then
    some (all.take len)
  else none

-- ## SRTP (RFC 3711, RFC 6188, RFC 7714)

/-- R255: a session key of `n` bytes from a master key and salt, with a key derivation rate of 0. A 12-byte salt is filled up
with zeros (RFC 7714). -/
def deriveKey (key salt : List Byte) (label : Byte) (n : Nat) : List Byte :=
  let x := xorBytes (salt ++ zeros (14 - salt.length)) (zeros 7 ++ [label] ++ zeros 6)
  (ctrStream (roundKeys key) 128 (n / 16 + 1) (beNat (x ++ [0, 0]))).take n

/-- The session keys of one direction: cipher key, authentication key and salt. -/
structure SrtpKeys where
  cipher : List Byte
  auth : List Byte
  salt : List Byte
  deriving DecidableEq, Repr

/-- R255: the session keys for SRTP, labels 0 to 2, or for SRTCP, labels 3 to 5. -/
def session (keyLen saltLen : Nat) (mat : List Byte) (rtcp : Bool) : SrtpKeys :=
  let key := mat.take keyLen
  let salt := (mat.drop keyLen).take saltLen
  let label := fun (k : Byte) => if rtcp then k + 3 else k
  { cipher := deriveKey key salt (label 0) keyLen
    auth := deriveKey key salt (label 1) 20
    salt := deriveKey key salt (label 2) saltLen }

/-- AES-CM's IV: the salt, the SSRC and the packet index (RFC 3711, 4.1.1). -/
def cmIv (k : SrtpKeys) (ssrc index : Nat) : List Byte :=
  beBytes 16 ((beNat k.salt * 2 ^ 16) ^^^ (ssrc * 2 ^ 64) ^^^ (index * 2 ^ 16))

/-- The 12-byte IV of RFC 7714 for SRTP, and for SRTCP. -/
def gcmIv (k : SrtpKeys) (ssrc index : Nat) (rtcp : Bool) : List Byte :=
  xorBytes k.salt (zeros 2 ++ beBytes 4 ssrc ++ (if rtcp then beBytes 6 index else beBytes 4 (index / 65536) ++ beBytes 2 index))

end Sys2Proof.Machine
end

