-- ==== Sys2Proof/Machine/Table.lean ====
section
/-! DEFINITION. Sparse tables as plain data: a list of (key, value) pairs with strictly rising keys. Registers, objects
and memory are held in this one form. -/

namespace Sys2Proof.Machine

/-- A sparse table: keys strictly rising. -/
abbrev Tbl (α : Type) := List (Nat × α)

/-- The value at a key, if the table lists one. -/
def Tbl.get? {α : Type} (t : Tbl α) (k : Nat) : Option α :=
  match t with
  | [] => none
  | (k', v) :: rest => if k' = k then some v else Tbl.get? rest k

/-- Put a value at a key, keeping the keys rising. -/
def Tbl.put {α : Type} (t : Tbl α) (k : Nat) (v : α) : Tbl α :=
  match t with
  | [] => [(k, v)]
  | (k', v') :: rest =>
    if k < k' then (k, v) :: (k', v') :: rest
    else if k = k' then (k, v) :: rest
    else (k', v') :: Tbl.put rest k v

/-- Remove a key. -/
def Tbl.del {α : Type} (t : Tbl α) (k : Nat) : Tbl α := t.filter (fun p => p.1 != k)

/-- Change the value at a key, if there is one. -/
def Tbl.upd {α : Type} (t : Tbl α) (k : Nat) (f : α → α) : Tbl α :=
  t.map (fun p => if p.1 = k then (p.1, f p.2) else p)

/-- Whether the table lists a key. -/
def Tbl.has {α : Type} (t : Tbl α) (k : Nat) : Bool := (t.get? k).isSome

/-- The lowest number from `k` on that is no key, below `fuel` steps (R148: the lowest free index). -/
def Tbl.freeFrom {α : Type} (t : Tbl α) (k fuel : Nat) : Nat :=
  match fuel with
  | 0 => k
  | fuel + 1 => if t.has k then Tbl.freeFrom t (k + 1) fuel else k

/-- The lowest free index (R148). -/
def Tbl.lowestFree {α : Type} (t : Tbl α) : Nat := t.freeFrom 0 t.length

/-- Keys strictly rising. -/
def Tbl.sorted {α : Type} (t : Tbl α) : Bool :=
  match t with
  | [] => true
  | [_] => true
  | a :: b :: rest => decide (a.1 < b.1) && Tbl.sorted (b :: rest)

/-- The counter at a key; an unlisted counter reads 0. -/
def Tbl.count (t : Tbl Nat) (k : Nat) : Nat := (t.get? k).getD 0

end Sys2Proof.Machine
end

