-- ==== Sys2Proof/Machine/State.lean ====
section
/-! DEFINITION. The state of the module as plain data: every register, queue, object, timer and pin the spec gives it,
and the queue of commands that wait. Instants are bridge times in units of 2^-76 s (R45) unless a field says otherwise. -/

namespace Sys2Proof.Machine

/-- Where a step of this model stops with a fault. No command of this block ends in one; the constructor is here
because the interface asks for a type. It is raised by nobody, so it is safe. -/
inductive Fault where
  | none
  deriving DecidableEq, Repr

/-- Why a command has no meaning here. `notModelled` is raised only by an arm of exec that has no meaning yet; it is
safe, since the run stops. -/
inductive Refusal where
  | notModelled (mnemonic : String)
  deriving DecidableEq, Repr

-- ## Records and emissions

/-- A completion or event record of four words (R132). -/
structure CRec where
  w0 : Word
  w1 : Word := 0
  w2 : Word := 0
  w3 : Word := 0
  deriving DecidableEq, Repr

/-- An error record of eight words (R494). -/
structure ERec where
  w0 : Word
  w1 : Word := 0
  w2 : Word := 0
  w3 : Word := 0
  w4 : Word := 0
  w5 : Word := 0
  w6 : Word := 0
  w7 : Word := 0
  deriving DecidableEq, Repr

/-- Item statuses of R168. -/
inductive IStatus where
  | ok | unmapped | align | refused | state | notRun | opInvalid
  deriving DecidableEq, Repr

/-- Message statuses of R167. -/
inductive MStatus where
  | ok | busy | noSession | sequence | format | itemFailed
  deriving DecidableEq, Repr

/-- One Oxvan item (R165). -/
structure OxItem where
  op : BitVec 8
  offset : BitVec 24
  value : Word
  deriving DecidableEq, Repr

/-- A reply of Oxvan (R164 to R168): its items with their statuses. -/
structure OxReply where
  type : BitVec 8
  session : BitVec 32
  seq : BitVec 32
  status : MStatus
  items : List (OxItem × IStatus) := []
  deriving DecidableEq, Repr

/-- What MGMT sends (R163, R208). -/
inductive MgmtSend where
  | udp (src dst : Addr) (sport dport : BitVec 16) (payload : List Byte)
  | arpReply (target : Addr)
  | echoReply (src dst : Addr) (data : List Byte)
  deriving DecidableEq, Repr

/-- A frame that MGMT sends, with its Ethernet destination (R208). -/
structure MgmtOut where
  dst : Word
  body : MgmtSend
  deriving DecidableEq, Repr

/-- The MGMT address on which a datagram arrives (R209). -/
inductive MgmtVia where
  | v4
  | global6
  | linkLocal
  deriving DecidableEq, Repr

/-- A reception report of one INBOUND_MEDIA context (R227, RFC 3550). -/
structure Report where
  ssrc : Nat
  /-- fraction lost in 1/256, and cumulative number lost -/
  fraction : Nat := 0
  lost : Int := 0
  highest : Nat := 0
  jitter : Nat := 0
  /-- the middle of the last SR's NTP time, and the time since it in 2^-16 s -/
  lsr : Nat := 0
  dlsr : Nat := 0
  deriving DecidableEq, Repr

/-- An RTCP packet that the module sends to a leg (R227, R228). -/
inductive RtcpOut where
  /-- sender SSRC, NTP time, RTP timestamp, packets and octets sent, reports -/
  | sr (ssrc ntpSeconds ntpFraction rtp packets octets : Nat) (reports : List Report)
  | rr (ssrc : Nat) (reports : List Report)
  /-- sender and media SSRC, and the number asked for -/
  | nack (ssrc media seq : Nat)
  | pli (ssrc media : Nat)
  | fir (ssrc media seq : Nat)
  /-- sender SSRC; for each SSRC its first number and, for each number from there on, how long ago it came in 1/1024 s; and the
  report's time -/
  | ccfb (ssrc : Nat) (blocks : List (Nat × Nat × List (Option Nat))) (time : Nat)
  deriving DecidableEq, Repr

/-- A media packet on its way out: its leg, its outbound context, and the RTP or RTCP packet that it is. -/
structure OutPkt where
  /-- order of entry into the lane group queues (R252) -/
  no : Nat := 0
  leg : Nat
  ctx : Nat
  rtcp : List RtcpOut := []
  /-- the packet before encryption -/
  bytes : List Byte
  /-- the packet that the lane makes of it (R261) -/
  wire : List Byte := []
  /-- the content's record position in the Preserve -/
  pos : Option Nat := none
  /-- SRTP or SRTCP index (R261); taken when the packet enters its lane group -/
  index : Nat := 0
  /-- sent on the RTX SSRC, with the original sequence number (R239) -/
  rtx : Option Nat := none
  /-- second sending of an index under R262 -/
  again : Bool := false
  seq : Nat := 0
  ts : Nat := 0
  marker : Bool := false
  /-- frame length from destination address through FCS -/
  len : Nat := 0
  /-- number of the key it was given in a lane -/
  key : Nat := 0
  conceded : Bool := false
  deriving DecidableEq, Repr

/-- A time in the PTP format of R67: seconds, nanoseconds, and 2^-16 ns. -/
abbrev PtpTime := Nat × Nat × Nat

/-- The PTP messages that the module sends, with their sequenceId and the values it writes (R65, R66). A time that a
message carries of its own sending is written when the MAC sends it. -/
inductive PtpOut where
  /-- a one-step Sync carries its own time of sending -/
  | sync (seq : Nat) (oneStep : Bool) (sent : Option PtpTime)
  | followUp (seq : Nat) (sent : PtpTime)
  | delayReq (seq : Nat)
  | pdelayReq (seq : Nat)
  /-- TB_PTP_CLOCK's priorities and clock quality -/
  | announce (seq : Nat) (clock : Word)
  | delayResp (seq : Nat) (received : PtpTime)
  /-- the bridge time of the request's receipt; in one-step operation the correctionField, in 2^-16 ns, that the MAC adds -/
  | pdelayResp (seq : Nat) (oneStep : Bool) (rx : Nat) (correction : Option Nat)
  | pdelayRespFollowUp (seq : Nat) (sent : PtpTime)
  deriving DecidableEq, Repr

/-- What one RoCEv2 packet that the module sends carries (R117 to R145). -/
inductive RoceMsg where
  /-- the first 13 bytes of a REP's own data (R120) -/
  | cmRep (data : List Byte)
  | cmRej (reason : Nat)
  /-- the service timeout in ms (R121) -/
  | cmMra (serviceMs : Nat)
  | cmDreq
  | cmDrep
  | cnp
  /-- RDMA WRITE: host address, rkey, whether this is the first packet of the WRITE, bytes, immediate of the last one -/
  | write (addr : Word) (rkey : BitVec 32) (first : Bool) (data : List Byte) (imm : Option (BitVec 32))
  | readReq (addr : Word) (len : Nat) (rkey : BitVec 32)
  | readResp (data : List Byte)
  | nakRemoteAccess
  | nakInvalidRequest
  deriving DecidableEq, Repr

/-- A RoCEv2 packet on its way out: its slot when it has one, port, Ethernet and IP destination, UDP source port, DSCP and
traffic class (R117, R189, R198). -/
structure RocePkt where
  slot : Option Nat
  port : Nat
  dst : Word
  dip : Addr
  sport : Nat
  dscp : Nat
  cls : Nat
  m : RoceMsg
  deriving DecidableEq, Repr

/-- What kind of frame waits in a transmit queue (R198). -/
inductive TxKind where
  | roce (p : RocePkt)
  | ptp (m : PtpOut)
  | reply
  | media (p : OutPkt)
  deriving DecidableEq, Repr

/-- A frame in a transmit queue: its length, destination address, and the VID and PCP of its tag (R198). -/
structure TxFrame where
  len : Nat
  kind : TxKind
  dst : Word := 0
  tag : Option (Nat × Nat) := none
  held : Bool := false
  deriving DecidableEq, Repr

/-- Everything the module sends or drives at a connector, in order. -/
inductive Emission where
  -- MGMT
  | mgmt (f : MgmtOut)
  | mgmtJam
  | itemStatus (st : IStatus)
  | mgmtRestart
  -- data-port MACs
  | frame (port : Nat) (f : TxFrame)
  | pause (port : Nat) (classes : Nat) (quanta : Nat)
  | linkLevel (port : Nat) (up : Bool)
  /-- remote-fault ordered sets, on local fault (R186) -/
  | remoteFaultSets (port : Nat)
  /-- a frame being sent when LINK falls is cut off (R186) -/
  | cutOff (port : Nat) (f : TxFrame)
  -- Grinal ports
  /-- a frame out of GRINAL-E or GRINAL-W (R461) -/
  | grinal (west : Bool) (bytes : List Byte)
  -- pins and indicators
  | ppsOut (level : Bool)
  | lamps (testing : Bool)
  | statusBlink (amber : Bool) (steady : Bool)
  deriving DecidableEq, Repr

-- ## Time base (chapter 02)

/-- REF10_STATE of TB_STATUS. -/
inductive Ref10 where
  | off | acquiring | locked | frozen
  deriving DecidableEq, Repr

/-- The PTP state of one data port: R71's variables and the protocol facts of R65 to R73. Delays are in 2^-76 s. -/
structure PtpPort where
  /-- R79 -/
  state : BitVec 4 := 3
  refValid : Bool := false
  ref : Int := 0
  pending : Bool := false
  prev : Int := 0
  /-- most recently measured mean path delay (R69) -/
  delay : Int := 0
  /-- two-step Syncs that wait for their Follow_Up: sequenceId, receive time and correction (R69) -/
  syncWaiting : List (BitVec 16 × Int × Int) := []
  /-- receive time less origin and correction of the latest Sync: offset plus delay (R69) -/
  syncDiff : Option Int := none
  /-- sequenceIds of the next Sync, Announce and request sent -/
  syncSeq : Nat := 0
  announceSeq : Nat := 0
  reqSeq : Nat := 0
  /-- the request that waits for its response: sequenceId and time of sending, once sent -/
  reqSent : Option (Nat × Nat) := none
  /-- clockIdentity of the master that the port follows (R73) -/
  master : Option (BitVec 64) := none
  /-- last Announce from the master (R73) -/
  lastAnnounce : Nat := 0
  /-- when each message kind was last sent -/
  lastSync : Nat := 0
  lastDelayReq : Nat := 0
  lastAnnounceSent : Nat := 0
  /-- messages dropped: another domain, or management (R65) -/
  dropped : Nat := 0
  deriving DecidableEq, Repr

/-- The time base (R45 to R76). -/
structure TimeBase where
  released : Bool := false
  /-- RAW in TIME cycles -/
  raw : Nat := 0
  anchor : Nat := 0
  offset : Int := 0
  incr : Nat := 94447329657393
  isSet : Bool := false
  incrFromMram : Bool := false
  holdover : Bool := true
  ref10 : Ref10 := .off
  /-- R76: the oscillator's control value in ppm, the signal's deviation that it is steered to, and since when -/
  oscPpm : Rat := 0
  refPpm : Rat := 0
  slewFrom : Nat := 0
  /-- the instant from which 10 MHz IN is watched for its 10 ms -/
  refFrom : Nat := 0
  /-- PTP frames that wait for room in their transmit queue, with their port (R557) -/
  ptpOut : List (Nat × PtpOut) := []
  ptp0 : PtpPort := {}
  ptp1 : PtpPort := {}
  lastPpsIn : Option Nat := none
  ppsHigh : Bool := false
  /-- the last whole second at which PPS OUT rose -/
  ppsSecond : Option Nat := none
  deriving DecidableEq, Repr

/-- What one TIME cycle has seen (R11, R48, R52, R57, R174): it holds for the cycle whose number it bears. -/
structure Cycle where
  /-- the always-on controller's count in that cycle -/
  no : Nat := 0
  /-- OFFSET, ANCHOR and INCR as the cycle before left them, once the cycle has changed one of them -/
  before : Option (Int × Nat × Nat) := none
  /-- a TIME_SET_INCR command has taken effect in it -/
  incrCmd : Bool := false
  /-- the steps that commands have made in it, in 2^-76 s -/
  cmdStep : Int := 0
  /-- W1C bits that the module has set in it: register offset and bit -/
  raised : List (Nat × Nat) := []
  deriving DecidableEq, Repr

-- ## Ripeness (chapter 03)

/-- The source classes of R112 that take table entries, and join entries. -/
inductive SpecClass where
  | concealment | speaker | prefetch | join
  deriving DecidableEq, Repr

/-- One open entry of the speculation table (R90, R95). -/
structure Entry where
  cls : SpecClass
  /-- the decode context, group or outbound context that opened it -/
  owner : Nat := 0
  deadline : Option Nat := none
  /-- the number of its arming, for equal deadlines (R56) -/
  armNo : Nat := 0
  /-- its deadline has moved earlier under R91, which R113 counts once an entry -/
  pulled : Bool := false
  /-- entries that a join entry stands for -/
  joins : List Nat := []
  /-- a join whose inputs so far include a conceded one -/
  flag : Bool := false
  deriving DecidableEq, Repr

/-- The ripeness a result carries (R80, R92): an open entry, or final with a conceded flag. -/
structure Ripe where
  entry : Option Nat := none
  flag : Bool := false
  discarded : Bool := false
  deriving DecidableEq, Repr

/-- A consumer that waits for a join entry (R108). -/
structure JoinWait where
  /-- the consumer, by the affinity key of its tasks -/
  consumer : Nat
  /-- the open entries it would join; one more, of its own, is opened when it goes on (R297) -/
  opens : List Nat
  own : Bool := false
  emission : Option Nat := none
  deriving DecidableEq, Repr

/-- The speculation table and STAT_RIPENESS counters (R106, R111). -/
structure Spec where
  table : List (Nat × Entry) := []
  nextEntry : Nat := 0
  nextArm : Nat := 0
  /-- key 16 × class + counter (R112, R113) -/
  counters : List (Nat × Nat) := []
  /-- consumers waiting for a join entry (R108) -/
  joinWaiters : List JoinWait := []
  /-- concealment entries whose commit deadline has come: what is still open at the end of the TIME cycle is conceded (R82) -/
  conceding : List Nat := []
  deriving DecidableEq, Repr

-- ## Host control (chapter 04)

/-- An arm word in force (R141). -/
structure Arm where
  delayUs : Nat
  count : Nat
  armedAt : Nat
  deriving DecidableEq, Repr

/-- A 0x209 notice owed by a queue (R140). -/
structure Notice where
  lost : Nat
  tag : BitVec 24
  ring : Nat
  deriving DecidableEq, Repr

/-- A completion queue (R129 to R141). `recs` are the records from the consumer to the producer index. -/
structure Queue where
  addr : Word := 0
  log2 : Nat := 6
  rkey : BitVec 32 := 0
  pi : BitVec 32 := 0
  ci : BitVec 32 := 0
  reserved : Nat := 0
  recs : List CRec := []
  arm : Option Arm := none
  owed : Option Notice := none
  deriving DecidableEq, Repr

/-- The error queue of a connection (R129, R499). -/
structure ErrQueue where
  addr : Word := 0
  log2 : Nat := 6
  rkey : BitVec 32 := 0
  pi : BitVec 32 := 0
  ci : BitVec 32 := 0
  recs : List ERec := []
  arm : Option Arm := none
  deriving DecidableEq, Repr

/-- A command ring (R127, R128): `fc` is F, the number of descriptors fetched. -/
structure Ring where
  addr : Word := 0
  log2 : Nat := 6
  rkey : BitVec 32 := 0
  cq : Nat := 0
  pi : BitVec 32 := 0
  fc : BitVec 32 := 0
  /-- a RING_DESTROY has stopped fetching -/
  stopped : Bool := false
  deriving DecidableEq, Repr

/-- A host region (R147). -/
structure Region where
  addr : Word := 0
  len : Nat := 0
  moduleRead : Bool := false
  moduleWrite : Bool := false
  rkey : BitVec 32 := 0
  /-- a REGION_REMOVE has been processed and has not completed (R419) -/
  removing : Bool := false
  deriving DecidableEq, Repr

/-- A module window (R148). -/
structure Window where
  slot : Nat
  addr : Nat
  len : Nat
  hostRead : Bool
  hostWrite : Bool
  rkey : BitVec 32
  deriving DecidableEq, Repr

/-- A REQ answered with MRA (R121): its port, the Ethernet source and IP addresses of its sender, and when the MRA is
repeated. -/
structure Mra where
  port : Nat
  mac : Word
  peer : Addr
  again : Nat
  deriving DecidableEq, Repr

/-- The phase of a connection slot (R119 to R145, R556). -/
inductive Phase where
  | free
  /-- REP sent; RTU awaited until the instant -/
  | awaitRtu (resume : Bool) (deadline : Nat)
  | unbound
  | bound
  /-- held until the instant; none when HOLD_MS is not running -/
  | suspended (deadline : Option Nat)
  /-- closing under R145 while fetched commands still run, with the REQ that was answered with MRA -/
  | closing (mra : Option Mra)
  deriving DecidableEq, Repr

/-- A subscription to time or bramble events (R78, R488). -/
structure EventSub where
  queue : Nat
  mask : Nat
  tag : BitVec 24
  ring : Nat
  deriving DecidableEq, Repr

/-- One connection slot. -/
structure Slot where
  phase : Phase := .free
  port : Nat := 0
  /-- HCI_SLOTn_CFG as it stood when the connection was made -/
  cfg : Word := 0
  boot : List (BitVec 64) := [0, 0, 0, 0, 0, 0]
  rings : List (Nat × Ring) := []
  cqs : List (Nat × Queue) := []
  eq : Option ErrQueue := none
  regions : List (Nat × Region) := []
  /-- regions removed and not added again (R148) -/
  regionsGone : List Nat := []
  /-- event records that wait, with their queue (R140) -/
  backlog : List (Nat × CRec) := []
  /-- error records held while suspended (R498) -/
  errBacklog : List ERec := []
  /-- SEQ of the first error record dropped since the last QUEUE_OVERFLOW (R499) -/
  firstDrop : Option Nat := none
  timeSub : Option EventSub := none
  brambleSub : Option EventSub := none
  /-- R118, in bit/s -/
  rate : Rat := 0
  alpha : Rat := 1
  cnpInPeriod : Bool := false
  /-- start of the recovery period in progress -/
  periodFrom : Nat := 0
  /-- when the module last sent a CNP on the connection (R117) -/
  lastCnp : Option Nat := none
  /-- packets sent and not acknowledged, oldest first; since when the oldest waits, and the retries it has used (R117) -/
  unacked : List RoceMsg := []
  ackFrom : Option Nat := none
  retries : Nat := 0
  /-- the peer's IP address and the Ethernet source address of the latest frame on the queue pair (R189) -/
  peer : Addr := { bits := 0 }
  peerMac : Word := 0
  /-- the local queue pair number and the doorbell page's rkey -/
  qpn : BitVec 24 := 0
  dbKey : BitVec 32 := 0
  /-- the instant from which pacing lets the next packet go (R118) -/
  nextSend : Nat := 0
  /-- round-robin position: the ring visited last (R135) -/
  lastRing : Nat := 63
  deriving DecidableEq, Repr

/-- A descriptor fetched and not yet begun (R135, R146). `no` is the module-wide fetch order. -/
structure Fetched where
  no : Nat
  slot : Nat
  ring : Nat
  d : Desc
  deriving DecidableEq, Repr

/-- What a command that has begun waits for. -/
inductive Wait where
  | ringDestroy (ring : Nat)
  | barrier
  | regionRemove (region : Nat)
  | legDestroy (leg : Nat)
  /-- packets still held by lanes under keys being erased (R267); final word 1 and word 3 -/
  | keyErase (ctx : Nat) (keys : List Nat) (w1 w3 : Word)
  | dma (id : Nat)
  | layers (canvas : Nat)
  | canvasDestroy (canvas : Nat)
  | decDestroy (dec : Nat)
  | encDestroy (ch : Nat)
  | audioLeg (leg : Nat)
  | mixDestroy (group : Nat)
  | selfTest (u : TestUnit) (ret : Bool)
  | cipherJob (id : Nat)
  /-- a peer message awaiting its ACK (R467, R476) -/
  | peer (seq : Nat) (d : Desc) (block : List Word := [])
  deriving DecidableEq, Repr

/-- A command that has begun and has not completed. -/
structure Inflight where
  no : Nat
  slot : Nat
  ring : Nat
  /-- the queue its reserved entry lies in (R138, R148) -/
  cq : Nat
  tag : BitVec 24
  quiet : Bool
  wait : Wait
  /-- the descriptor that was fetched (R136) -/
  d : Desc := { w0 := 0 }
  deriving DecidableEq, Repr

/-- A host READ of a window that waits on a held page (R89). -/
structure WaitingRead where
  slot : Nat
  addr : Nat
  len : Nat
  deriving DecidableEq, Repr

/-- The host control interface. -/
structure Hci where
  slots : List Slot := List.replicate 8 {}
  fetched : List Fetched := []
  inflight : List Inflight := []
  nextNo : Nat := 0
  windows : List (Nat × Window) := []
  waitingReads : List WaitingRead := []
  /-- fetching is held back for want of a CTL task slot (R408) -/
  fetchHeld : Bool := false
  /-- round-robin position: the slot visited last (R135) -/
  lastVisit : Nat := 7
  /-- RoCEv2 packets that wait for pacing and for room in their transmit queue, in order (R118, R557) -/
  sendQ : List RocePkt := []
  deriving DecidableEq, Repr

-- ## Oxvan (chapter 05)

/-- An open session (R170, R171). -/
structure Session where
  id : BitVec 32
  station : Station
  via : MgmtVia
  last : BitVec 32
  stored : Option OxReply
  /-- the last restart of the idle time, by the clock of MGMT -/
  idleFrom : Nat
  deriving DecidableEq, Repr

/-- The Oxvan responder and GLB set-up state. -/
structure Oxvan where
  session : Option Session := none
  /-- UDP port in effect (R163) -/
  port : Nat := 7610
  /-- the session's MGMT address was changed; the session ends after the reply (R212) -/
  addressChanged : Bool := false
  /-- GLB_PROFILE.BUSY: a save in progress with what it captured, or a clear in progress -/
  saving : Option (Option (List (Nat × Word))) := none
  /-- GLB_PROFILE.APPLIED -/
  profileApplied : Bool := false
  partResult : Nat := 0
  /-- an accepted partition commit is being applied (R446); a second commit meanwhile sets RESULT to 0x6 (R179) -/
  partApplying : Bool := false
  deriving DecidableEq, Repr

-- ## Ports (chapter 06)

/-- A frame accepted by a MAC, with its receive timestamp (R24, R195). -/
structure RxItem where
  frame : Frame
  time : Nat
  deriving DecidableEq, Repr

/-- One gate entry (R204). -/
structure Gate where
  gates : Nat
  intervalNs : Nat
  deriving DecidableEq, Repr

/-- A gate list (R201 to R206); `start` is the change time. -/
structure GateList where
  entries : List Gate
  cycleNs : Nat
  extNs : Nat
  start : Nat
  deriving DecidableEq, Repr

/-- A data-port MAC. -/
structure Mac where
  plug : Nat := 6
  /-- the cycle in which the last CMIS initialisation began (R185) -/
  plugAt : Nat := 0
  /-- a CMIS error is waiting for its retry until the instant (R185) -/
  cmisRetryAt : Option Nat := none
  /-- the plug-in in the cage -/
  module_ : Option Plug := none
  link : Bool := false
  localFault : Bool := false
  remoteFault : Bool := false
  /-- class to the end of its pause (R194) -/
  paused : List (Nat × Nat) := []
  /-- class to the instant from which it has been stopped without a break (R197) -/
  stoppedSince : List (Nat × Nat) := []
  /-- class to the end of the 1 s in which PAUSE and PFC are ignored (R197) -/
  ignoreUntil : List (Nat × Nat) := []
  /-- class to the end of the 1 s in which no XOFF is sent (R197) -/
  xoffUntil : List (Nat × Nat) := []
  /-- the instant from which the module has held its partner's class stopped -/
  xoffSince : List (Nat × Nat) := []
  ctrlQ : List RxItem := []
  mediaQ : List RxItem := []
  ctrlXoff : Bool := false
  mediaXoff : Bool := false
  /-- last XOFF frame sent (R196) -/
  xoffSentAt : Nat := 0
  /-- the eight transmit queues, class 0 first (R198) -/
  txq : List (List TxFrame) := List.replicate 8 []
  /-- ARP and neighbour replies that the packet engine holds until there is room (R557) -/
  replies : List TxFrame := []
  /-- the frame sent last, and when its last bit leaves (R186) -/
  sending : Option (TxFrame × Nat) := none
  /-- the operational list, when gating is in effect -/
  oper : Option GateList := none
  /-- the committed list that awaits its change time -/
  admin : Option GateList := none
  /-- the register values committed with it -/
  adminRegs : List (Nat × Word) := []
  /-- gate states now, one bit a class -/
  gates : Nat := 255
  /-- where the entry in effect begins, in ns after the list's start (R203), and its index in the cycle (R204) -/
  entryNs : Nat := 0
  entryIndex : Nat := 0
  /-- classes whose never-fits error has been posted under this list (R206) -/
  neverFits : List Nat := []
  deriving DecidableEq, Repr

/-- The management port (R208 to R212). -/
structure Mgmt where
  link : Bool := false
  speed : BitVec 2 := 0
  half : Bool := false
  /-- frames that wait to be sent, oldest first, and the attempts made at the first (R211) -/
  queue : List MgmtOut := []
  attempt : Nat := 0
  /-- end of the backoff in progress -/
  backoffUntil : Option Nat := none
  deriving DecidableEq, Repr

-- ## Packets inside the module (chapters 01, 07, 08)

/-- Meter colours (R219). -/
inductive Colour where
  | green | yellow | red | uncoloured
  deriving DecidableEq, Repr

/-- A media packet on the inbound path. -/
structure Pkt where
  /-- order of entry into the lane group queues (R252) -/
  no : Nat := 0
  port : Nat
  time : Nat
  /-- frame length from destination address through FCS -/
  len : Nat
  leg : Nat
  ctx : Nat
  media : Media
  rtx : Bool := false
  colour : Colour := .uncoloured
  ticket : Nat := 0
  /-- estimated index (R257) and the key chosen for it -/
  index : Nat := 0
  key : Nat := 0
  deriving DecidableEq, Repr

/-- A frame in an engine's input FIFO: the port it arrived on, and the media packet its lookup made of it. -/
structure EngItem where
  port : Nat
  item : RxItem
  pkt : Option Pkt := none
  /-- the leg whose flow it matched with an unknown SSRC (R216, R218) -/
  unknown : Option Nat := none
  deriving DecidableEq, Repr

/-- A packet engine. -/
structure Engine where
  out : Bool := false
  /-- the input FIFO: packets whose outputs have not compared equal (R97) -/
  fifo : List EngItem := []
  /-- compared packets at the gate (R558) -/
  passed : List Pkt := []
  replay : Bool := false
  /-- bridge times of mismatches in the last second (R98) -/
  mismatches : List Nat := []
  /-- the port served next in degraded mode (R34) -/
  turn : Nat := 0
  /-- the port whose handover error is in handling (R500) -/
  handover : Option Nat := none
  deriving DecidableEq, Repr

/-- What a lane runs. -/
inductive LaneWork where
  | inbound (p : Pkt)
  | outbound (p : OutPkt)
  /-- a bulk job and the offset of this packet in its output (R274) -/
  | job (id offset : Nat)
  deriving DecidableEq, Repr

/-- STATE of a packing FIFO header row (R278). -/
inductive FifoState where
  | pending | published | void
  deriving DecidableEq, Repr

/-- A packet in a packing FIFO (R277, R278): its header row and its data rows. -/
structure FifoPkt where
  work : LaneWork
  state : FifoState := .pending
  /-- its length in bytes, and the bytes that the lane makes -/
  len : Nat
  bytes : List Byte := []
  /-- bytes before the first one that the cipher mode covers, and how many it covers (R250) -/
  clear : Nat := 0
  enc : Nat := 0
  /-- CORE cycles for one byte, and those for the block ahead of the first one (R250) -/
  perByte : Nat := 11
  extra : Nat := 0
  /-- rows pushed so far, rows popped, and rows in the FIFO -/
  pushed : Nat := 0
  popped : Nat := 0
  rowsHeld : Nat := 0
  /-- its remainder goes to the sink (R281) -/
  dropping : Bool := false
  /-- the tag check has passed and the ticket has not been taken (R259) -/
  tagDone : Bool := false
  deriving DecidableEq, Repr

/-- A cipher lane and its packing FIFO. -/
structure Lane where
  failed : Bool := false
  fifo : List FifoPkt := []
  /-- the lane has the last packet of its FIFO in work -/
  busy : Bool := false
  /-- the start of that packet, later by every stall since (R280) -/
  startAt : Nat := 0
  flushing : Bool := false
  /-- that flush was started through CIP_FLUSH -/
  cipFlush : Bool := false
  deriving DecidableEq, Repr

/-- The queues of a lane group (R251). -/
structure LaneGroup where
  inQ : List Pkt := []
  outQ : List OutPkt := []
  jobQ : List Nat := []
  /-- the next turn is the outbound queue's -/
  turnOut : Bool := false
  deriving DecidableEq, Repr

/-- A bulk cipher job (R272 to R274). -/
structure Job where
  block : List Byte
  source : List Byte
  decrypt : Bool
  aadLen : Nat
  length : Nat
  dstSlot : Nat
  dstRegion : Option Nat
  dstAddr : Nat
  srcRegion : Option Nat
  srcAddr : Nat := 0
  mode : Nat := 1
  aes256 : Bool := false
  /-- bytes it writes, bytes made so far, and bytes written so far -/
  total : Nat := 0
  made : Nat := 0
  written : Nat := 0
  deriving DecidableEq, Repr

-- ## Streams (chapter 07) and keys (chapter 08)

/-- An installed key (R263, R266). -/
structure Key where
  /-- unique number of the installation -/
  id : Nat
  suite : Nat
  start : Nat
  startRtx : Nat := 0
  session : SrtpKeys := { cipher := [], auth := [], salt := [] }
  persist : Option Nat := none
  /-- for events (R271) -/
  slot : Nat := 0
  queue : Nat := 0
  ring : Nat := 0
  tag : BitVec 24 := 0
  deriving DecidableEq, Repr

/-- Replay state of one index (R257). -/
structure Replay where
  valid : Bool := false
  highest : Nat := 0
  /-- bit k: index highest − k has been accepted -/
  window : Nat := 0
  nextTicket : Nat := 0
  /-- lowest ticket whose steps are not finished (R259) -/
  doneTicket : Nat := 0
  /-- tickets given up ahead of their turn -/
  givenUp : List Nat := []
  deriving DecidableEq, Repr

/-- State of one outbound index (R268, R269). -/
structure OutIndex where
  next : Nat := 0
  hwm : Nat := 0
  /-- the key of the last assignment, and the first index assigned under it -/
  first : Option (Nat × Nat) := none
  exhaustedPosted : Bool := false
  deriving DecidableEq, Repr

/-- A packet record held in the Preserve (R451). -/
structure PRec where
  pos : Nat
  ctx : Nat
  len : Nat
  seq : Nat
  ts : Nat
  time : Nat
  s : Nat := 0
  t : Nat := 0
  refresh : Bool := false
  switch : Bool := false
  repair : Bool := false
  marker : Bool := false
  prevPos : Nat
  endOfFrame : Bool := false
  /-- the packet's recognised extensions: RFC 6464 level and V bit, and dependency descriptor (R224) -/
  level : Option (Nat × Bool) := none
  dd : List Byte := []
  /-- what the record's readers know of it: the conceded flag (R83), and a picture that no later one uses (R285) -/
  conceded : Bool := false
  disposable : Bool := false
  deriving DecidableEq, Repr

/-- A layer prefetch (R104, R235). -/
structure Prefetch where
  /-- none: no entry was free, and nothing is staged (R107) -/
  entry : Option Nat
  /-- position of the staged switch point -/
  point : Nat
  target : Nat × Nat
  instant : Nat
  /-- copies in packet buffers (R105): record and packet -/
  staged : List (PRec × List Byte)
  deriving DecidableEq, Repr

/-- A switch decided and not yet in effect (R234, R235). -/
structure Switch where
  target : Nat × Nat
  /-- waits for the target's next switch point (else the next picture) -/
  atSwitchPoint : Bool
  /-- until then only temporal layer 0 is forwarded (R234) -/
  baseOnly : Bool := false
  deriving DecidableEq, Repr

/-- The subscription of an OUTBOUND_MEDIA context (R233). -/
structure Sub where
  source : Nat
  maxS : Nat
  maxT : Nat
  priority : Nat
  cur : Option (Nat × Nat) := none
  switch : Option Switch := none
  prefetch : Option Prefetch := none
  /-- the slot starts from the source's last switch point (R236) -/
  lateJoin : Bool := true
  /-- an up-switch was refused while the leg's prefetch is open (R107) -/
  refused : Bool := false
  deriving DecidableEq, Repr

/-- A packet in the outbound map (R238). -/
structure Sent where
  seq : Nat
  index : Nat
  pos : Nat
  ts : Nat
  marker : Bool := false
  lastRtx : Option Nat := none
  deriving DecidableEq, Repr

/-- An operating point for which a picture is a switch point: for every switch, or for a temporal up-switch only (R225). -/
structure Switchable where
  point : Nat × Nat
  upOnly : Bool := false
  deriving DecidableEq, Repr

/-- A picture in a video jitter buffer (R229). -/
structure JbPic where
  ts : Nat
  firstAt : Nat
  seqs : List Nat
  /-- sequence number of the marker packet, when held -/
  marker : Option Nat := none
  /-- operating points for which it is a switch point (R225, R290) -/
  switches : List Switchable := []
  disposable : Bool := false
  /-- a packet of it is final with the conceded flag (R83) -/
  conceded : Bool := false
  deriving DecidableEq, Repr

/-- A missing sequence number (R227). -/
structure Missing where
  seq : Nat
  seenAt : Nat
  nacks : Nat := 0
  lastNack : Nat := 0
  deriving DecidableEq, Repr

/-- One refresh point (R452). -/
structure Refresh where
  pos : Nat
  time : Nat
  deriving DecidableEq, Repr

/-- The last switch point of an operating point (R452). -/
structure SwitchPt where
  at_ : Switchable
  pos : Nat
  time : Nat
  deriving DecidableEq, Repr

/-- A sender's audio jitter buffer (R375, R376). -/
structure AudioJb where
  anchored : Bool := false
  ref : Int := 0
  tsRef : Nat := 0
  /-- (RTP timestamp, 48 kHz samples, in-band FEC) of packets held -/
  held : List (Nat × Nat) := []
  lateRun : Nat := 0
  lateNow : Bool := false
  deepSince : Option Nat := none
  lastPacket : Option Nat := none
  /-- smallest level received in the current period and whether every V bit was 0 (R378) -/
  level : Option Nat := none
  vadAllZero : Bool := true
  deriving DecidableEq, Repr

/-- A stream context (R213, R245). -/
structure Stream where
  kind : Nat
  codec : Nat := 0
  pt : Nat := 0
  ssrc : Nat := 0
  sCount : Nat := 1
  tCount : Nat := 1
  simIndex : Nat := 0
  clock : Nat := 0
  levelId : Nat := 0
  ddId : Nat := 0
  jbTarget : Nat := 0
  meter : Option Nat := none
  group : Option Nat := none
  reorderMs : Nat := 0
  nackEn : Bool := false
  pliEn : Bool := false
  ccfbEn : Bool := false
  rtxEn : Bool := false
  rtxPt : Nat := 0
  rtxSsrc : Nat := 0
  /-- owning leg (kinds 1 to 4) or conference (kind 5) -/
  owner : Nat := 0
  /-- a seat context or a mirror, which the host does not name (R370, R478) -/
  hidden : Bool := false
  /-- handle of the source that a mirror follows (R478) -/
  mirrorOf : Option Word := none
  /-- members subscribed to this source, with their operating point (R478) -/
  remote : List (Nat × Nat × Nat) := []
  -- keys and indices
  cur : Option Key := none
  next : Option Key := none
  drain : Option Key := none
  /-- packets sent under CURRENT since it replaced a key (R266) -/
  sentUnderCur : Nat := 0
  replay : Replay := {}
  replayRtx : Replay := {}
  out : OutIndex := {}
  outRtx : OutIndex := {}
  -- counters of R248 and of R276
  counters : List (Nat × Nat) := []
  keyCounters : List (Nat × Nat) := []
  -- receive state (R223)
  highestSeq : Option Nat := none
  /-- extended sequence numbers held lately -/
  heldSeqs : List Nat := []
  missing : List Missing := []
  /-- RFC 3550 interarrival jitter and the last transit, in clock units -/
  jitter : Nat := 0
  lastTransit : Option Int := none
  srMap : Option (BitVec 64 × BitVec 32) := none
  /-- when the last SR came, and what the reports of RFC 3550 count: first number, packets received, and both at the last
  report -/
  srAt : Nat := 0
  baseSeq : Option Nat := none
  received : Nat := 0
  expectedPrior : Nat := 0
  receivedPrior : Nat := 0
  /-- packets and payload octets sent (RFC 3550) -/
  sentPackets : Nat := 0
  sentOctets : Nat := 0
  lastSr : Option Nat := none
  /-- packets accepted since the last RFC 8888 report: SSRC, sequence number and receive time (R227) -/
  ccfbLog : List (Nat × Nat × Nat) := []
  /-- frame bits of source packets in the last second: time, s, t, bits (R232) -/
  rateLog : List (Nat × Nat × Nat × Nat) := []
  /-- measured point rates, bit/s (R232) -/
  pointRates : List ((Nat × Nat) × Nat) := []
  /-- picture starts: last receive time and mean interval (R235) -/
  lastPicture : Option (Nat × Nat) := none
  picInterval : Nat := 0
  refreshes : List Refresh := []
  switchPts : List SwitchPt := []
  lastPos : Option Nat := none
  /-- the position of its first record -/
  firstPos : Option Nat := none
  -- video jitter buffer
  jb : List JbPic := []
  /-- extended sequence number of the last released picture's last packet -/
  jbReleased : Option Nat := none
  /-- its timestamp -/
  jbTs : Option Nat := none
  -- audio jitter buffer
  ajb : AudioJb := {}
  -- outbound
  sub : Option Sub := none
  tsOffset : Nat := 0
  lastTs : Option Nat := none
  /-- receive time of the last picture sent, and the source context it came from -/
  lastTsTime : Nat := 0
  lastSrc : Option Nat := none
  sentMap : List Sent := []
  lastPli : Option Nat := none
  /-- command sequence number of the next FIR to its sender -/
  firSeq : Nat := 0
  /-- packets were sent since the last SR (R227) -/
  sentSinceSr : Bool := false
  /-- bound to a mix group as a receiver (R373) -/
  audioOut : Bool := false
  quarantined : Bool := false
  deriving DecidableEq, Repr

/-- A leg (R246, R247). Rates are in bit/s. -/
structure Leg where
  conf : Nat
  nextHop : Word := 0
  localPort : Nat := 1
  remotePort : Nat := 1
  dscp : Nat := 0
  cls : Nat := 0
  v6 : Bool := false
  ccfb : Bool := false
  port : Nat := 0
  addr : BitVec 128 := 0
  startRate : Nat := 1
  shaper : Option Nat := none
  staleMs : Nat := 500
  delayThreshMs : Nat := 20
  catchupMs : Nat := 200
  minRate : Nat := 1
  prefetchLeadMs : Nat := 20
  rtxPct : Nat := 25
  upMarginPct : Nat := 10
  /-- the line estimate, bit/s (R230) -/
  est : Rat := 0
  /-- the estimate before the reports accepted at the instant of the last one (R235) -/
  estBefore : Rat := 0
  lastReport : Option Nat := none
  createdAt : Nat := 0
  stale : Bool := false
  /-- the instant from which the next STALE_MS counts (R231) -/
  staleFrom : Nat := 0
  /-- delays of reported packets in the last 10 s: report time and delay in 2^-76 s (R230) -/
  delays : List (Nat × Int) := []
  /-- packets released by the shaper: ssrc, sequence number, send time, frame bits (R230) -/
  sends : List (Nat × Nat × Nat × Nat) := []
  /-- retransmitted bits of the last second (R238) -/
  rtxLog : List (Nat × Nat) := []
  rtt : Option Nat := none
  counters : List (Nat × Nat) := []
  lastUnknown : Option Nat := none
  lastCcfb : Nat := 0
  nextReport : Nat := 0
  destroying : Bool := false
  /-- packets the forwarder holds for a full lane group or transmit queue -/
  held : List OutPkt := []
  deriving DecidableEq, Repr

/-- A conference (R244). -/
structure Conf where
  eventsEn : Bool := false
  queue : Nat := 0
  slot : Nat := 0
  ring : Nat := 0
  tag : BitVec 24 := 0
  span : Bool := false
  /-- members attached to a home conference (R476) -/
  attached : List Nat := []
  /-- the spanning conference that a shadow follows -/
  shadowOf : Option Word := none
  /-- parameters fixed by the first MIX_JOIN: w2 [47:8] and ORIGIN -/
  mixParams : Option (Word × Word) := none
  /-- mix groups joined, by member -/
  joined : List Nat := []
  deriving DecidableEq, Repr

/-- A meter (R219, R220): rates in bit/s, sizes in bytes. -/
structure Meter where
  en : Bool := false
  cir : Nat := 0
  pir : Nat := 0
  cbs : Nat := 0
  pbs : Nat := 0
  yellowDrop : Bool := false
  redPass : Bool := false
  tc : Rat := 0
  tp : Rat := 0
  last : Nat := 0
  deriving DecidableEq, Repr

/-- The fall-back policer of a port (R222). -/
structure Fallback where
  tokens : Rat := 9216
  last : Nat := 0
  deriving DecidableEq, Repr

/-- A leg shaper (R240 to R243). -/
structure Shaper where
  en : Bool := false
  follow : Bool := false
  rate : Nat := 0
  burst : Nat := 0
  pacePct : Nat := 100
  qlimit : Nat := 0
  credit : Rat := 0
  last : Nat := 0
  queue : List OutPkt := []
  deriving DecidableEq, Repr

/-- Packet path, streams and lanes. -/
structure Media_ where
  engine0 : Engine := {}
  engine1 : Engine := { turn := 1 }
  /-- the engine whose turn it is at the gate and the next admission instant (R558) -/
  gateTurn : Nat := 0
  gateNext : Nat := 0
  confs : List (Nat × Conf) := []
  streams : List (Nat × Stream) := []
  legs : List (Nat × Leg) := []
  meters : List (Nat × Meter) := []
  shapers : List (Nat × Shaper) := []
  fb0 : Fallback := {}
  fb1 : Fallback := {}
  groups : List (Nat × LaneGroup) := []
  lanes : List (Nat × Lane) := []
  jobs : List (Nat × Job) := []
  nextJob : Nat := 0
  nextKey : Nat := 1
  /-- number of packets that have entered lane group queues -/
  nextNo : Nat := 0
  /-- decrypted packets popped from the packing FIFOs, for the stream engine -/
  engineIn : List Pkt := []
  lastRateUpdate : Nat := 0
  /-- lane of the last flush started through CIP_FLUSH -/
  flushLane : Nat := 0
  deriving DecidableEq, Repr

-- ## Video decode (chapter 09)

/-- A released picture waiting for a core (R285): timestamp, packets held, packets missing. -/
structure WaitPic where
  ts : Nat
  releasedAt : Nat
  missing : List Nat := []
  catchup : Bool := false
  /-- marked by the bitstream as used by no later picture -/
  disposable : Bool := false
  /-- the target in effect at its release (R290) -/
  target : Nat × Nat := (0, 0)
  /-- its end is not known yet: highest sequence number held -/
  openEnd : Bool := false
  last : Nat := 0
  /-- a packet of it is final with the conceded flag (R83) -/
  conceded : Bool := false
  /-- a lower frame of it has been decoded (R289), under this concealment entry -/
  begun : Bool := false
  entry : Option Nat := none
  deriving DecidableEq, Repr

/-- A decoded picture in the pool (R293). -/
structure Pic where
  no : Nat
  slotNo : Nat
  ts : Nat
  width : Nat
  height : Nat
  s : Nat := 0
  t : Nat := 0
  concealed : Bool := false
  greyRef : Bool := false
  redecoded : Bool := false
  monochrome : Bool := false
  colour : Nat × Nat × Nat × Bool := (1, 1, 1, false)
  ripe : Ripe := {}
  releasedAt : Nat := 0
  finalAt : Option Nat := none
  /-- tainted areas (R302) -/
  taint : List Nat := []
  missing : List Nat := []
  /-- pictures it was predicted from -/
  reads : List Nat := []
  /-- the concealment entry that it opened -/
  own : Option Nat := none
  /-- a packet of it was final with the conceded flag (R83) -/
  conceded : Bool := false
  /-- every repair so far carried nothing that this decode needs (R298) -/
  exact : Bool := true
  openEnd : Bool := false
  last : Nat := 0
  /-- the codec shows it (R295) -/
  shown : Bool := true
  output : Bool := false
  /-- display order number (R295) -/
  outNo : Nat := 0
  deriving DecidableEq, Repr

/-- A decode context (R306). -/
structure Dec where
  source : Nat
  profile : Nat := 0
  level : Nat := 0
  targetS : Nat := 0
  targetT : Nat := 0
  /-- a higher target that waits for its switch point (R290) -/
  pendingTarget : Option (Nat × Nat) := none
  depth10 : Bool := false
  taintReq : Bool := false
  missingReq : Bool := false
  taintReqMs : Nat := 100
  repairWaitMs : Nat := 60
  eventsEn : Bool := false
  queue : Nat := 0
  slot : Nat := 0
  ring : Nat := 0
  tag : BitVec 24 := 0
  maxW : Nat := 16
  maxH : Nat := 16
  fps : Nat := 1
  poolSlots : Nat := 5
  base : Nat := 0
  /-- pool bytes (R292) and reservation in Mpixel/s (R284) -/
  bytes : Nat := 0
  reserved : Nat := 0
  waiting : List WaitPic := []
  pics : List Pic := []
  /-- the codec's reference slots: slot to picture number -/
  refs : List (Nat × Nat) := []
  /-- reference slots that hold a substituted grey picture (R301) -/
  grey : List Nat := []
  newest : Option Nat := none
  /-- the newest output before this TIME cycle, once the cycle has output a picture: what is read in the cycle (R314, R336) -/
  before : Option (Option Nat) := none
  nextPic : Nat := 0
  outputs : Nat := 0
  /-- decoding is stopped until a random access point (R285, R288) -/
  stopped : Bool := false
  unsupported : Bool := false
  taintedSince : Option Nat := none
  /-- SEQ of the last task whose picture was decoded -/
  served : Option Nat := none
  destroying : Bool := false
  /-- the last request that a tainted output has caused (R304) -/
  lastTaintReq : Option Nat := none
  /-- picture number and tainted areas of the newest final output (R310) -/
  gauge : Nat × Nat := (0, 0)
  /-- concealment entries, oldest first (R100) -/
  entries : List Nat := []
  /-- replacements made by re-decode runs: entry, original picture number, replacement (R299) -/
  replacements : List (Nat × Nat × Pic) := []
  /-- runs in progress: entry and pictures still to decode again -/
  runs : List (Nat × List Nat) := []
  /-- completed runs whose replacements are not all final: the pictures decoded again (R87) -/
  redecoded : List (List Nat) := []
  counters : List (Nat × Nat) := []
  /-- event kind to the time it was last posted (R309) -/
  events : List (Nat × Nat) := []
  deriving DecidableEq, Repr

-- ## Composition (chapter 10)

/-- A layer record (R316). -/
structure Layer where
  source : Word
  stillAddr : Word := 0
  stillW : Nat := 0
  stillH : Nat := 0
  stillStride : Nat := 0
  x : Nat
  y : Nat
  alpha : Nat
  policy : Nat
  pxf : Nat := 0
  cropX : Nat
  cropY : Nat
  cropW : Nat
  cropH : Nat
  pixelAlpha : Bool := false
  fill : Nat := 0
  deriving DecidableEq, Repr

/-- A hold image of a HOLD layer (R323): where it lies and which source areas have been clean. -/
structure HoldImage where
  record : Nat
  base : Nat
  bytes : Nat
  clean : List Nat := []
  /-- open entries of the unripe sources that areas were copied from, and whether a conceded one was among them -/
  opens : List Nat := []
  flag : Bool := false
  /-- clean areas and bytes as they stood before the first of those copies -/
  saved : Option (List Nat × List Host.Cell) := none
  deriving DecidableEq, Repr

/-- R330: a hint: a layer record, a 16 × 16 block by column and row, and its vector in samples. -/
structure Hint where
  record : Nat
  col : Nat
  row : Nat
  dx : Int
  dy : Int
  deriving DecidableEq, Repr

/-- R89: the place in DRAM of a result that is not final, and its entry. -/
structure Held where
  base : Nat
  len : Nat
  entry : Nat
  deriving DecidableEq, Repr

/-- A canvas picture in progress or complete. -/
structure CanvasPic where
  no : Nat
  start : Nat
  row : Nat := 0
  late : Nat := 0
  ripe : Ripe := {}
  /-- source pictures read at the start (R314): record to (object number, picture number) -/
  sources : List (Nat × Nat × Nat) := []
  taint : List Nat := []
  recomposed : Bool := false
  finalAt : Option Nat := none
  buffer : Nat := 0
  /-- blocks hinted for it (R330) -/
  hints : List Hint := []
  /-- layer reads with a matrix treated as 1 (R320) -/
  matrixAs1 : Nat := 0
  /-- the composed lines in internal words (R319 to R321) -/
  lines : List (List Word) := []
  /-- tasks below this SEQ belong to an earlier attempt -/
  minSeq : Nat := 0
  /-- an input was discarded: to be composed again (R326) -/
  redo : Bool := false
  /-- it waits for a join entry (R108) -/
  joinWait : Bool := false
  deriving DecidableEq, Repr

/-- A layout that waits for a picture start (R329). -/
structure PendingLayers where
  layers : List Layer
  notBefore : Nat
  holds : List HoldImage
  deriving DecidableEq, Repr

/-- A canvas (R312). `first` is the start of picture 0. -/
structure Canvas where
  width : Nat
  height : Nat
  matrix : Nat := 1
  fullRange : Bool := false
  fpsNum : Nat := 30
  fpsDen : Nat := 1
  primaries : Nat := 1
  transfer : Nat := 1
  origin : Int := 0
  /-- R313's k of picture 0 -/
  k0 : Int := 0
  windowUs : Nat := 100
  memBufs : Nat := 0
  pxf : Nat := 0
  eventsEn : Bool := false
  queue : Nat := 0
  slot : Nat := 0
  ring : Nat := 0
  tag : BitVec 24 := 0
  background : Nat := 0
  base : Nat := 0
  bufBytes : Nat := 0
  layers : List Layer := []
  holds : List HoldImage := []
  waiting : Option PendingLayers := none
  /-- number of the next picture to start -/
  nextNo : Nat := 0
  cur : Option CanvasPic := none
  newest : Option CanvasPic := none
  /-- the number of the newest complete picture before this TIME cycle, once the cycle has completed one (R314) -/
  before : Option (Option Nat) := none
  /-- pictures complete and still unripe -/
  unripe : List CanvasPic := []
  counters : List (Nat × Nat) := []
  events : List (Nat × Nat) := []
  destroying : Bool := false
  deriving DecidableEq, Repr

-- ## Encode (chapter 11)

/-- A debt of R352. -/
structure Debt where
  layer : Nat
  amount : Nat
  left : Nat
  deriving DecidableEq, Repr

/-- What R352 and R353 keep of a coded picture. -/
structure LastPic where
  layer : Nat
  temporal : Nat
  key : Bool
  bits : Nat
  qp : Nat
  rows : List Nat
  deriving DecidableEq, Repr

/-- A segment in work (R353). -/
structure Segment where
  layer : Nat
  seg : Nat
  share : Nat
  qg : Nat
  spent : Nat := 0
  exhausted : Bool := false
  rowsDone : List Nat := []
  rows : List Nat
  /-- rows that the last row deadline has turned into skip rows (R355) -/
  skips : List Nat := []
  /-- bits of each coded row -/
  rowBits : List (Nat × Nat) := []
  deriving DecidableEq, Repr

/-- R349: the final vector of a 16 × 16 block of a layer, in quarter samples; `lower` says that it predicts from the layer below
of the same picture, and `back` how many coded pictures back its reference lies otherwise. -/
structure MotionVec where
  layer : Nat
  col : Nat
  row : Nat
  lower : Bool
  back : Nat
  dx : Int
  dy : Int
  deriving DecidableEq, Repr

/-- R339, R341, R346: a reconstructed picture that later pictures may predict from: its index, its slot, its temporal layer,
and the stripes of its clean region. -/
structure RefPic where
  index : Nat
  slot : Nat
  temporal : Nat
  clean : Nat
  deriving DecidableEq, Repr

/-- The picture a channel codes. -/
structure CodedPic where
  /-- the number of coded pictures before it -/
  index : Nat := 0
  /-- the reference slot of each layer that its reconstruction fills (R339) -/
  slot : Nat := 0
  /-- the picture that its blocks predict from (R341): its index -/
  refNo : Option Nat := none
  /-- the samples to be coded, line by line, of each layer, as internal words of codes of the channel's depth (R336, R340) -/
  input : List (List (List Word)) := []
  /-- final vectors of its inter blocks (R349) -/
  vecs : List MotionVec := []
  /-- hints for the picture, by layer (R330) -/
  hints : List (Nat × Hint) := []
  start : Nat
  key : Bool
  temporal : Nat
  stripe : Option Nat := none
  budgets : List Nat := []
  qps : List Nat := []
  segments : List Segment := []
  late : Nat := 0
  exhausted : Nat := 0
  hinted : Nat := 0
  writtenOff : Nat := 0
  ripe : Ripe := {}
  /-- credit and debts as they stood at the start (R357) -/
  credit0 : List Nat := []
  debts0 : List Debt := []
  skippedStripe : Bool := false
  recoded : Bool := false
  /-- pictures read: object and picture number, by layer -/
  sources : List (Option (Nat × Nat)) := []
  minSeq : Nat := 0
  redo : Bool := false
  joinWait : Bool := false
  /-- RTP timestamp (R358) -/
  ts : Nat := 0
  /-- it starts a refresh cycle or is a key picture (R348) -/
  refreshStart : Bool := false
  deriving DecidableEq, Repr

/-- An encode channel (R360). -/
structure Enc where
  srcs : List Word
  output : Nat
  codec : Nat
  profile : Nat := 0
  sLayers : Nat := 1
  tLayers : Nat := 1
  depth10 : Bool := false
  rowRc : Bool := false
  reqMode : Nat := 0
  segments : Nat := 1
  refreshP : Nat := 2
  search : Nat := 0
  eventsEn : Bool := false
  queue : Nat := 0
  slot : Nat := 0
  ring : Nat := 0
  tag : BitVec 24 := 0
  qpTarget : Nat := 0
  qpMax : Nat := 0
  payloadMax : Nat := 256
  fastP : Nat := 0
  caps : List Nat := []
  sizes : List (Nat × Nat) := []
  fpsNum : Nat := 30
  fpsDen : Nat := 1
  origin : Int := 0
  k0 : Int := 0
  windowUs : Nat := 100
  fill : Nat := 0
  base : Nat := 0
  bytes : Nat := 0
  reserved : Nat := 0
  -- rate control
  credit : List Nat := []
  debts : List Debt := []
  lasts : List LastPic := []
  -- refresh
  started : Bool := false
  /-- index in the temporal pattern (R341) -/
  phase : Nat := 0
  /-- stripes coded in the cycle and the cycle's period (R345) -/
  stripe : Nat := 0
  period : Nat := 2
  restartCycle : Bool := false
  restartPending : Bool := false
  keyPending : Bool := false
  /-- requests processed in this cycle, which act from the next one on (R363) -/
  restartNew : Bool := false
  keyNew : Bool := false
  /-- PRIMARIES, TRANSFER, MATRIX and FULL_RANGE of the sequence header, from the first picture read (R340) -/
  colour : Option (Nat × Nat × Nat × Bool) := none
  lastKey : Option Nat := none
  /-- parameters that wait for the next picture start or cycle (R361) -/
  pendingQp : Option (Nat × Nat × List Nat) := none
  pendingRefresh : Option (Nat × Nat) := none
  pendingSrcs : Option (List Word) := none
  pendingSearch : Option (Nat × Nat) := none
  nextNo : Nat := 0
  cur : Option CodedPic := none
  /-- pictures coded, the reconstructed references (R339), and the vectors of the picture before (R349) -/
  coded : Nat := 0
  refs : List RefPic := []
  prevVecs : List MotionVec := []
  counters : List (Nat × Nat) := []
  events : List (Nat × Nat) := []
  stopping : Bool := false
  /-- QP of the last layer-0 picture's first row (R366) -/
  firstQp : Nat := 0
  /-- the next picture after Quiet starts a new cycle (R364) -/
  resumed : Bool := false
  deriving DecidableEq, Repr

-- ## Audio (chapter 12)

/-- A format of a mix group (R390). -/
structure Format where
  shared : Nat
  codec : Nat
  kbps : Nat := 0
  fec : Bool := false
  dtx : Bool := false
  bw : Nat := 0
  lossPct : Nat := 0
  deriving DecidableEq, Repr

/-- A seat (R370, R379). -/
structure Seat where
  ctx : Nat
  speaker : Option Nat := none
  /-- period at which the speaker was seated -/
  since : Nat := 0
  /-- seated speaker's member, in a spanning group -/
  member : Nat := 0
  /-- the seat was taken under a conceded prediction (R380) -/
  conceded : Bool := false
  deriving DecidableEq, Repr

/-- A speaker prediction (R379, R380). -/
structure Prediction where
  entry : Nat
  newcomer : Nat
  leaver : Nat
  boundary : Nat
  deriving DecidableEq, Repr

/-- A frame that a stream of a group owes (R372): context, period, its start, the receivers that take it, its conceded
flag, its level (R386), and whether its stream's format has Opus DTX. -/
structure Owed where
  ctx : Nat
  m : Nat
  start : Nat
  legs : List Nat
  conceded : Bool := false
  level : Nat := 127
  /-- the format that it is encoded in (R385) -/
  format : Format
  deriving DecidableEq, Repr

/-- A mix group (R389, R390). -/
structure Mix where
  conf : Nat
  period20 : Bool := true
  k : Nat := 4
  hold : Nat := 4
  hyst : Nat := 6
  floor : Nat := 0
  limitDb : Nat := 0
  vadUse : Bool := false
  eventsEn : Bool := false
  queue : Nat := 0
  slot : Nat := 0
  ring : Nat := 0
  tag : BitVec 24 := 0
  origin : Int := 0
  /-- the next period to start, R371's m -/
  m : Nat := 0
  formats : List Format := []
  seats : List Seat := []
  /-- challengers: leg and run (R379) -/
  challengers : List (Nat × Nat) := []
  prediction : Option Prediction := none
  scores : List (Nat × Int) := []
  /-- limiter gains by mix: seat number, or 100 + format for the shared mix's one limiter (R384) -/
  gains : List (Nat × Nat) := []
  /-- last period's measured levels of decoded senders, by leg -/
  measured : List (Nat × Nat) := []
  /-- legs decoded this period -/
  decoded : List Nat := []
  /-- frames that are owed, oldest first (R372) -/
  owed : List Owed := []
  /-- the last block of each mix, which its limiter holds back (R384) -/
  carry : List (Nat × List Int) := []
  /-- limited mixes of the current period, by seat context or SHARED context -/
  mixes : List (Nat × List Int) := []
  /-- streams whose last frame was a DTX gap (R386) -/
  gaps : List Nat := []
  counters : List (Nat × Nat) := []
  events : List (Nat × Nat) := []
  /-- parameters that wait for the next period start (R391) -/
  pendingW2 : Option Word := none
  /-- the event selection that waits for the next period start (R391): on, queue, slot, ring, tag -/
  pendingEvents : Option (Bool × Nat × Nat × Nat × BitVec 24) := none
  pendingFormat : List (Nat × Format) := []
  ending : Bool := false
  /-- spanning group: conference handle, and partial sums by member and period with their conceded flag -/
  span : Option Word := none
  decision : Option (Nat × List Word) := none
  partials : List (Nat × Nat × Bool × List Int) := []
  /-- own seats' contributions: period, seat, samples (R484) -/
  own : List (Nat × Nat × List Int) := []
  /-- periods whose mixes are still to be built: period, its start, and its seats (R484) -/
  building : List (Nat × Nat × List Seat) := []
  deriving DecidableEq, Repr

/-- The binding of a leg (R373, R392). -/
structure Binding where
  group : Nat
  inbound : Option Nat := none
  outbound : Option Nat := none
  gain : Nat := 0x1000
  format : Nat := 0
  always : Bool := false
  mute : Bool := false
  deriving DecidableEq, Repr

/-- The media units: decode, compose, encode and audio. -/
structure Units where
  decs : List (Nat × Dec) := []
  canvases : List (Nat × Canvas) := []
  encs : List (Nat × Enc) := []
  mixes : List (Nat × Mix) := []
  bindings : List (Nat × Binding) := []
  /-- bindings that wait for a period start: leg, new binding or none, group -/
  pendingBindings : List (Nat × Option Binding × Nat) := []
  /-- what holds 64 KiB pages: the place and the entry of each unripe result in DRAM (R89) -/
  held : List Held := []
  deriving DecidableEq, Repr

-- ## Task scheduler (chapter 13)

/-- STATE of a task (R399). -/
inductive TaskState where
  | delayed | waitingSerial | ready | running | yielded
  deriving DecidableEq, Repr

/-- A task (R399). -/
structure Task where
  cls : Nat
  band : Nat
  deadline : Option Nat := none
  notBefore : Option Nat := none
  affinity : Nat
  serial : Option Nat := none
  seq : Nat
  entry : Option Nat := none
  state : TaskState := .ready
  core : Option Nat := none
  late : Bool := false
  readyAt : Nat := 0
  why : Option YieldReason := none
  /-- a core has started it (R410) -/
  started : Bool := false
  /-- the faulted core on which it ran last (R411, R500) -/
  fault : Option Nat := none
  deriving DecidableEq, Repr

/-- A refused slot request that waits (R409). -/
structure SlotRequest where
  cls : Nat
  band : Nat
  task : Task
  deriving DecidableEq, Repr

/-- Window statistics of a core or class: started, total wait, greatest wait, in 2^-76 s (TSK registers). -/
structure Stats where
  started : Nat := 0
  sum : Nat := 0
  max : Nat := 0
  busyFrom : Option Nat := none
  busy : Nat := 0
  deriving DecidableEq, Repr

/-- A core. -/
structure Core where
  out : Bool := false
  stopped : Bool := false
  running : Option Nat := none
  list : List Nat := []
  stats : Stats := {}
  made : Nat := 0
  stolen : Nat := 0
  deriving DecidableEq, Repr

/-- The hardware task scheduler. -/
structure Sched where
  tasks : List (Nat × Task) := []
  nextSeq : Nat := 0
  cores : List (Nat × Core) := []
  /-- class lists, class 0 first -/
  classLists : List (List Nat) := List.replicate 5 []
  lastCore : List (Nat × Nat) := []
  waiting : List SlotRequest := []
  classStats : List (Nat × Stats) := []
  /-- the cores that the scheduler has woken and that have not asked yet (R403) -/
  woken : List Nat := []
  lastTick : Nat := 0
  lastWindow : Nat := 0
  deriving DecidableEq, Repr

-- ## DMA (chapter 14)

/-- One endpoint of a transfer (R418). -/
structure Endpoint where
  kind : Nat
  sel : Nat
  addr : Nat
  stride : Nat
  deriving DecidableEq, Repr

/-- The shape of a transfer (R416). -/
structure Shape where
  op : Nat
  elem : Nat := 0
  planes : Nat := 0
  src : Endpoint
  dst : Endpoint
  length : Nat
  lines : Nat
  planeStride : Nat := 0
  deriving DecidableEq, Repr

/-- Where a transfer is (R422, R423). -/
inductive XferState where
  | queued | moving | waitingPage
  deriving DecidableEq, Repr

/-- A transfer. -/
structure Xfer where
  ch : Nat
  shape : Shape
  slot : Nat
  /-- command number for a submitted transfer; none for a PROGRAMMED channel -/
  cmd : Option Nat := none
  armAt : Option Nat := none
  /-- it has reached the head of its channel, so that its arming time is armed (R423) -/
  armed : Bool := false
  fence : Bool := false
  generation : Nat := 0
  /-- lines per request of the set that it started with (R433) -/
  burst : Nat := 0
  state : XferState := .queued
  written : Nat := 0
  /-- lines that it may move so far: all, or those that requests have granted (R429) -/
  granted : Nat := 0
  linesDone : Nat := 0
  /-- the line that it is moving, as the destination takes it, and how many of its bytes have been written (R435) -/
  line : Option (List Byte) := none
  off : Nat := 0
  /-- bytes that the host has brought for it and that no line has taken yet -/
  hostBytes : List Byte := []
  conceded : Bool := false
  /-- bytes that a peer has sent for it, by the peer's address, and their number (R486) -/
  got : List Host.Cell := []
  gotBytes : Nat := 0
  deriving DecidableEq, Repr

/-- A peer's read that waits on a held page (R486): member, module address, length and transfer number. -/
structure PeerRead where
  member : Nat
  addr : Nat
  len : Nat
  number : Nat
  deriving DecidableEq, Repr

/-- A channel's dynamic state (R421 to R434). -/
structure Chan where
  /-- transfers of the channel in order: queued and in flight -/
  xfers : List Nat := []
  generation : Nat := 0
  pendingTrig : Nat := 0
  /-- ARM_AT as an instant (R18), and the number of the next instant of an ARM schedule (R428) -/
  armOrigin : Int := 0
  armK : Option Nat := none
  /-- the channel's REQUEST window is open (R430); the number of its next edge, while the channel has one -/
  windowOpen : Bool := false
  windowK : Option Nat := none
  heldReq : Nat := 0
  bytes : Nat := 0
  /-- the channel's set lies in a poisoned unit: its next trigger fails (R504) -/
  setLost : Bool := false
  deriving DecidableEq, Repr

/-- The DMA engine. -/
structure Dma where
  xfers : List (Nat × Xfer) := []
  nextId : Nat := 0
  chans : List (Nat × Chan) := []
  /-- the channel served last at each PRIO level, 0 first (R435) -/
  turns : List Nat := [0, 0, 0, 0]
  /-- peers' reads that wait on held pages, oldest first -/
  peerReads : List PeerRead := []
  deriving DecidableEq, Repr

-- ## Memory and the Preserve (chapter 15)

/-- SPARE_STATE of MEM_STATUS. -/
inductive SpareState where
  | idle | copying | inUse | unusable
  deriving DecidableEq, Repr

/-- Module memory, its error state, and the Preserve. -/
structure Memory_ where
  /-- DRAM: sparse bytes by module address -/
  dram : List Host.Cell := []
  /-- units found uncorrectable, by physical stack (R459); corrected errors and failed dies stand in MEM_CORRk -/
  uncorrectable : List (Nat × Nat) := []
  /-- corrected units of the last second: time, stack, die, unit (R441) -/
  dieErrors : List (Nat × Nat × Nat × Nat) := []
  /-- poisoned 64-byte units (R440) -/
  poison : List Nat := []
  spare : SpareState := .idle
  spared : Nat := 0
  copyPct : Nat := 0
  copyStart : Nat := 0
  /-- address of the next unit the patrol reads (R442) -/
  patrol : Nat := 0
  writePos : Nat := 0
  /-- records held, oldest first -/
  recs : List PRec := []
  deriving DecidableEq, Repr

-- ## Bramble (chapter 16)

/-- STATE of GRN_STATUS. -/
inductive GrnState where
  | disabled | joining | member | master | conflict | detached
  deriving DecidableEq, Repr

/-- A Grinal port. -/
structure GrnPort where
  plug : Nat := 6
  /-- the cycle in which the last CMIS initialisation began (R185) -/
  plugAt : Nat := 0
  module_ : Option Plug := none
  cmisRetryAt : Option Nat := none
  link : Bool := false
  linkUpAt : Nat := 0
  wrapped : Bool := false
  /-- the link has been present again without a break since the instant (R466) -/
  presentSince : Option Nat := none
  neighbour : Nat := 0
  neighbourValid : Bool := false
  neighbourMac : Word := 0
  lastHello : Nat := 0
  lastHelloSent : Nat := 0
  /-- t2 and the SEQ of the last HELLO received -/
  helloRx : Word := 0
  helloSeq : Nat := 0
  /-- transmission fraction and SEQ of the last HELLO sent -/
  helloTx : Word := 0
  helloTxSeq : Nat := 0
  /-- the last exchanges' delays in 2^-48 s (R464) -/
  delays : List Nat := []
  deriving DecidableEq, Repr

/-- An acked frame without its ACK (R467). -/
structure Unacked where
  seq : Nat
  kind : Nat
  dst : Nat
  a : Word := 0
  b : Word := 0
  payload : List Byte := []
  conceded : Bool := false
  due : Nat
  resends : Nat := 0
  /-- the inflight command or DMA transfer it serves -/
  cmd : Option Nat := none
  xfer : Option Nat := none
  deriving DecidableEq, Repr

/-- What the master merges for a spanning conference (R480 to R482). A speaker is member × 2^17 + leg. -/
structure Merge where
  k : Nat := 4
  hold : Nat := 4
  hyst : Nat := 6
  floor : Nat := 0
  /-- the period whose reports are being taken -/
  m : Nat := 0
  /-- it has been evaluated -/
  merged : Bool := false
  /-- when its first report came -/
  since : Nat := 0
  /-- last report of each member: its period, and leg, score and missing -/
  reports : List (Nat × Nat × List (Nat × Int × Bool)) := []
  seats : List Seat := []
  challengers : List (Nat × Nat) := []
  /-- evaluations in a row for which a seated speaker has been missing (R379) -/
  silent : List (Nat × Nat) := []
  /-- newcomer, leaver and boundary of the open prediction -/
  prediction : Option (Nat × Nat × Nat) := none
  deriving DecidableEq, Repr

/-- Membership of a bramble. -/
structure Grn where
  state : GrnState := .disabled
  roster : Nat := 0
  master : Nat := 0
  backup : Option Nat := none
  epoch : Nat := 0
  /-- ring order of the last beacon -/
  order : List Nat := []
  /-- a backup or returned master acts as master -/
  acting : Bool := false
  /-- the module stepped down and joins as backup (R473) -/
  asBackup : Bool := false
  lastBeacon : Nat := 0
  lastBeaconSent : Nat := 0
  lastJoin : Nat := 0
  /-- members heard: member to the instant of its last JOIN -/
  heard : List (Nat × Nat) := []
  macs : List (Nat × Word) := []
  roles : List (Nat × Nat) := []
  beacons : Nat := 0
  east : GrnPort := {}
  west : GrnPort := {}
  /-- next SEQ by kind -/
  seqs : List (Nat × Nat) := []
  unacked : List Unacked := []
  /-- frames taken lately, newest first, by 16 × source + kind: SEQ, and the status and record of the ACK given (R465) -/
  seen : List (Nat × List (Nat × Nat × List Byte)) := []
  /-- the operator has written RECLAIM (R473) -/
  reclaiming : Bool := false
  /-- the roster at this module's takeover but for the lost master: none of it acts as backup (R473) -/
  barred : List Nat := []
  /-- what the master merges, by conference code -/
  merges : List (Nat × Merge) := []
  deriving DecidableEq, Repr

-- ## Errors (chapter 17)

/-- An error in handling (R500, R501). -/
structure Handling where
  seq : Nat
  code : Nat
  inst : Nat
  cls : Nat
  /-- the TIME cycle of its detection, in the always-on controller's count (R496) -/
  cycle : Nat
  deriving DecidableEq, Repr

/-- The error unit. -/
structure Err where
  handling : List Handling := []
  /-- ERR_LAST_W0 to W7 -/
  last : Option ERec := none
  nextSeq : Nat := 1
  /-- self-tests in progress: unit and end -/
  tests : List (TestUnit × Nat) := []
  deriving DecidableEq, Repr

-- ## Power, start-up and security (chapters 18, 19)

/-- The power states (R176). -/
inductive PState where
  | off | starting | active | quiet | dormant | windfall
  deriving DecidableEq, Repr

/-- A hot-swap supply. -/
structure Supply where
  present : Bool := true
  inOk : Bool := false
  outOk : Bool := false
  codeOk : Bool := true
  inputW : Nat := 0
  inputDv : Nat := 0
  tempC : Nat := 0
  /-- failed or replaced: working since, for REDUNDANCY_RESTORED -/
  failed : Bool := false
  workingSince : Option Nat := none
  deriving DecidableEq, Repr

/-- A fan module. -/
structure Fan where
  present : Bool := true
  ok : Bool := false
  codeOk : Bool := true
  rpm : Nat := 0
  failed : Bool := false
  workingSince : Option Nat := none
  deriving DecidableEq, Repr

/-- Power states, supplies, fans, button, start-up. -/
structure Power where
  st : PState := .off
  /-- the state being entered and what the transition is bounded by -/
  target : Option PState := none
  pwrOk : Bool := false
  /-- the rails have been valid since mains came; a restart keeps them up (R515) -/
  railsUp : Bool := false
  /-- POWER_FAIL, ready, and PWR_OK or the restart instant, by elapsed cycles of the always-on controller -/
  powerFailAt : Option Nat := none
  readyAt : Option Nat := none
  startAt : Nat := 0
  confirmed : Bool := false
  runningB : Bool := false
  runningSvn : Nat := 0
  bodyHash : Nat := 0
  /-- SEC_SECURITY.IDENTITY_OK: the identity key passed its check at this start (R521) -/
  identityOk : Bool := false
  /-- a MODULE-class error was raised since ready (R524) -/
  moduleErr : Bool := false
  /-- THERMAL_CRITICAL was raised since PWR_OK or the restart instant (R516) -/
  critical : Bool := false
  /-- entered Dormant after THERMAL_CRITICAL (R508) -/
  hotDormant : Bool := false
  procDc : Nat := 0
  inletDc : Nat := 0
  psu0 : Supply := {}
  psu1 : Supply := {}
  fans : List Fan := List.replicate 6 {}
  /-- the fans have been commanded to a higher speed (R508) -/
  fansRaised : Bool := false
  buttonAt : Option Nat := none
  buttonArmed : Bool := false
  lampFrom : Option Nat := none
  /-- elapsed cycles of the always-on controller: the button, supplies and fans are timed by it -/
  aon : Nat := 0
  deriving DecidableEq, Repr

/-- The firmware update state (R530). -/
inductive FwState where
  | idle | receiving | verifying | verified | failed | activated
  deriving DecidableEq, Repr

/-- An image slot (SEC_SLOT_A, SEC_SLOT_B). -/
structure ImageSlot where
  valid : Bool := true
  empty : Bool := false
  major : Nat := 1
  minor : Nat := 3
  patch : Nat := 0
  /-- none: of the image that the module came with -/
  build : Option (BitVec 24) := none
  svn : Nat := 0
  /-- what an update has programmed, from byte 0 on; none: the image that the module came with -/
  bytes : Option (List Byte) := none
  deriving DecidableEq, Repr

/-- The boot and security processor. -/
structure Sec where
  fw : FwState := .idle
  reason : Nat := 0
  slotB : Bool := false
  received : Nat := 0
  length : Nat := 0
  /-- the bytes in the staging buffer -/
  staged : List Byte := []
  reverify : Bool := false
  kekWords : List Word := [0, 0, 0, 0, 0, 0]
  keks : List (Nat × List Byte) := []
  deriving DecidableEq, Repr

/-- A persistent key record (R270). -/
structure KeyRec where
  keyId : Nat
  media : Nat
  rtx : Nat
  /-- the record belongs to an installed key -/
  installed : Bool := true
  /-- order of retirement -/
  retired : Nat := 0
  /-- a reserved value requested and not yet written -/
  writing : Option (Nat × Nat) := none
  deriving DecidableEq, Repr

/-- MRAM (R511): what a start finds. -/
structure Mram where
  historyValid : Bool := true
  failCount : Nat := 0
  preferredB : Bool := false
  /-- none, or armed: true by the button, false by request 0x7 -/
  armed : Option Bool := none
  startCount : Nat := 0
  minSvn : Nat := 0
  lastFail : Nat := 0
  windfallReason : Nat := 0
  incr : Option Nat := none
  profile : Option (List (Nat × Word)) := none
  saveCount : Nat := 0
  keyRecs : List KeyRec := []
  retirements : Nat := 0
  /-- event log, newest first -/
  log : List ERec := []
  spared : Option Nat := none
  slotA : ImageSlot := {}
  slotB : ImageSlot := {}
  deriving DecidableEq, Repr

/-- The module. -/
structure State where
  /-- commands that wait, first in, first out -/
  pending : List Instr := []
  /-- everything the module has sent or driven, oldest first -/
  out : List Emission := []
  /-- counter of the free values used (the model's own field) -/
  fresh : Nat := 0
  /-- register values that differ from reset, by window offset -/
  regs : List (Nat × Word) := []
  /-- pending values of RWC registers, by window offset (R12) -/
  shadow : List (Nat × Word) := []
  time : TimeBase := {}
  /-- what the present TIME cycle has seen -/
  cyc : Cycle := {}
  spec : Spec := {}
  hci : Hci := {}
  oxvan : Oxvan := {}
  mac0 : Mac := {}
  mac1 : Mac := {}
  mgmt : Mgmt := {}
  media : Media_ := {}
  units : Units := {}
  sched : Sched := {}
  dma : Dma := {}
  memory : Memory_ := {}
  grn : Grn := {}
  err : Err := {}
  power : Power := {}
  sec : Sec := {}
  mram : Mram := {}
  deriving DecidableEq, Repr

/-- The module right after reset: without mains, every register at its reset value, MRAM as from the factory. -/
def State.reset : State := {}

end Sys2Proof.Machine
end

