-- ==== Sys2Proof/Machine/Regs.lean ====
section
/-! DEFINITION. The register window (R154, R155): every register of the manual's tables with its offset, its instances,
its fields, their access codes (R10) and their reset values, and the storage of written values. -/

namespace Sys2Proof.Machine

/-- The registers, by name; instance numbers stand beside the name. -/
inductive Reg where
  /-- SEED_ID -/
  | seedId
  /-- SEED_MEMBER -/
  | seedMember
  /-- SEED_RELEASE -/
  | seedRelease
  /-- SEED_SERIAL -/
  | seedSerial
  /-- SEED_FORMATS -/
  | seedFormats
  /-- GLB_IDENT -/
  | glbIdent
  /-- GLB_STATE -/
  | glbState
  /-- GLB_STATE_REQ -/
  | glbStateReq
  /-- GLB_PROFILE -/
  | glbProfile
  /-- GLB_PART_A -/
  | glbPartA
  /-- GLB_PART_B -/
  | glbPartB
  /-- GLB_PART_C -/
  | glbPartC
  /-- GLB_PART_COMMIT -/
  | glbPartCommit
  /-- GLB_PART_STATUS -/
  | glbPartStatus
  /-- GLB_OXVAN_CFG -/
  | glbOxvanCfg
  /-- GLB_OXVAN_COUNT -/
  | glbOxvanCount
  /-- TB_CTRL -/
  | tbCtrl
  /-- TB_STATUS -/
  | tbStatus
  /-- TB_INCR -/
  | tbIncr
  /-- TB_STEP_SEC -/
  | tbStepSec
  /-- TB_STEP_FRAC -/
  | tbStepFrac
  /-- TB_SNAP_SEC -/
  | tbSnapSec
  /-- TB_SNAP_FRAC -/
  | tbSnapFrac
  /-- TB_STEP_THRESH -/
  | tbStepThresh
  /-- TB_STEP_MAX -/
  | tbStepMax
  /-- TB_EVENT_COUNT -/
  | tbEventCount
  /-- TB_PPS_OUT -/
  | tbPpsOut
  /-- TB_PTP_CLOCK -/
  | tbPtpClock
  /-- TB_PTP_P0 and P1 -/
  | tbPtpPort
  /-- TB_LAT_DATA0 and DATA1 -/
  | tbLat
  /-- TB_LAT_GRINAL_E and W -/
  | tbLatGrinal
  /-- HCI_CTRL -/
  | hciCtrl
  /-- HCI_STATUS -/
  | hciStatus
  /-- HCI_COUNT -/
  | hciCount
  /-- HCI_CNP -/
  | hciCnp
  /-- HCI_SLOTn_CFG -/
  | hciSlotCfg
  /-- HCI_SLOTn_PEER_A -/
  | hciPeerA
  /-- HCI_SLOTn_PEER_B -/
  | hciPeerB
  /-- HCI_SLOTn_PEER_C -/
  | hciPeerC
  /-- MACn_CTRL -/
  | macCtrl
  /-- MACn_STATUS -/
  | macStatus
  /-- MACn_VLAN -/
  | macVlan
  /-- MACn_UC_VALID -/
  | macUcValid
  /-- MACn_UCk -/
  | macUc
  /-- MACn_IP4 -/
  | macIp4
  /-- MACn_IP6_A -/
  | macIp6A
  /-- MACn_IP6_B -/
  | macIp6B
  /-- MACn_IP6_C -/
  | macIp6C
  /-- MACn_FC -/
  | macFc
  /-- MACn_TC_MAP -/
  | macTcMap
  /-- MACn_GROUP_HASHk -/
  | macGroupHash
  /-- MACn_GATE_CTRL -/
  | macGateCtrl
  /-- MACn_GATE_BASE -/
  | macGateBase
  /-- MACn_GATE_BASE_FRAC -/
  | macGateBaseFrac
  /-- MACn_GATE_CYCLE -/
  | macGateCycle
  /-- MACn_GATE_COMMIT -/
  | macGateCommit
  /-- MACn_GATE_STATUS -/
  | macGateStatus
  /-- MACn_GATE_ENTRYk -/
  | macGateEntry
  /-- MAC counters -/
  | macCounter
  /-- MGT_CTRL -/
  | mgtCtrl
  /-- MGT_STATUS -/
  | mgtStatus
  /-- MGT_IP4 -/
  | mgtIp4
  /-- MGT_IP6_A -/
  | mgtIp6A
  /-- MGT_IP6_B -/
  | mgtIp6B
  /-- MGT_IP6_C -/
  | mgtIp6C
  /-- MGT_COUNT -/
  | mgtCount
  /-- STR_FALLBACK -/
  | strFallback
  /-- STR_RTCP -/
  | strRtcp
  /-- STR_FEEDBACK -/
  | strFeedback
  /-- STR_ENGINE -/
  | strEngine
  /-- STR_CONTEXTS -/
  | strContexts
  /-- STR counters -/
  | strCounter
  /-- CIP_CTRL -/
  | cipCtrl
  /-- CIP_WARN_SRTP -/
  | cipWarnSrtp
  /-- CIP_WARN_SRTCP -/
  | cipWarnSrtcp
  /-- CIP_KEYS -/
  | cipKeys
  /-- CIP_PERSIST -/
  | cipPersist
  /-- CIP_FLUSH -/
  | cipFlush
  /-- CIP_FLUSH_STATUS -/
  | cipFlushStatus
  /-- CIP_LANE_FAILk -/
  | cipLaneFail
  /-- CIP counters -/
  | cipCounter
  /-- DEC_ADMIT -/
  | decAdmit
  /-- DEC_LOAD -/
  | decLoad
  /-- DEC_CONTEXTS -/
  | decContexts
  /-- DEC counters -/
  | decCounter
  /-- CMP_LOAD -/
  | cmpLoad
  /-- CMP_CANVASES -/
  | cmpCanvases
  /-- CMP counters -/
  | cmpCounter
  /-- ENC_ADMIT -/
  | encAdmit
  /-- ENC_LOAD -/
  | encLoad
  /-- ENC_CHANNELS -/
  | encChannels
  /-- ENC counters -/
  | encCounter
  /-- AUD_LOAD -/
  | audLoad
  /-- AUD counters -/
  | audCounter
  /-- TSK_CTRL -/
  | tskCtrl
  /-- TSK_STATUS -/
  | tskStatus
  /-- TSK_COUNT -/
  | tskCount
  /-- TSK_CLASSc_CFG -/
  | tskClassCfg
  /-- TSK_CLASSc_STATUS -/
  | tskClassStatus
  /-- TSK_CLASSc_DEPTHS -/
  | tskClassDepths
  /-- TSK_CLASSc_WAIT -/
  | tskClassWait
  /-- TSK_COREk_STATE -/
  | tskCoreState
  /-- TSK_COREk_WAIT -/
  | tskCoreWait
  /-- TSK_COREk_LOAD -/
  | tskCoreLoad
  /-- TSK_COREk_STEALS -/
  | tskCoreSteals
  /-- DMA_CH_COMMIT -/
  | dmaChCommit
  /-- DMA_CH_COMMIT_STATUS -/
  | dmaChCommitStatus
  /-- DMA_BYTES -/
  | dmaBytes
  /-- DMA_TRANSFERS -/
  | dmaTransfers
  /-- DMA_EVENTS -/
  | dmaEvents
  /-- DMA_CHn_CFG -/
  | dmaChCfg
  /-- DMA_CHn_STATUS -/
  | dmaChStatus
  /-- DMA_CHn_OP -/
  | dmaChOp
  /-- DMA_CHn_SRC -/
  | dmaChSrc
  /-- DMA_CHn_DST -/
  | dmaChDst
  /-- DMA_CHn_SIZE -/
  | dmaChSize
  /-- DMA_CHn_STRIDE -/
  | dmaChStride
  /-- DMA_CHn_PLANE -/
  | dmaChPlane
  /-- DMA_CHn_ARM -/
  | dmaChArm
  /-- DMA_CHn_TRIG -/
  | dmaChTrig
  /-- DMA_CHn_PERIOD -/
  | dmaChPeriod
  /-- DMA_CHn_WINDOW -/
  | dmaChWindow
  /-- MEM_CTRL -/
  | memCtrl
  /-- MEM_STATUS -/
  | memStatus
  /-- MEM_COUNT -/
  | memCount
  /-- MEM_CORRk -/
  | memCorr
  /-- PRS_CTRL -/
  | prsCtrl
  /-- PRS_STATUS -/
  | prsStatus
  /-- PRS_SPAN -/
  | prsSpan
  /-- PRS_BLOCKS -/
  | prsBlocks
  /-- PRS counters -/
  | prsCounter
  /-- GRN_CFG -/
  | grnCfg
  /-- GRN_STATUS -/
  | grnStatus
  /-- GRN_EPOCH -/
  | grnEpoch
  /-- GRN_TIMERS -/
  | grnTimers
  /-- GRN_PORTp -/
  | grnPort
  /-- GRN_PORTp counters -/
  | grnPortCounter
  /-- GRN counters -/
  | grnCounter
  /-- ERR_CTRL -/
  | errCtrl
  /-- ERR_STATUS -/
  | errStatus
  /-- ERR_SEQ -/
  | errSeq
  /-- ERR_COUNT -/
  | errCount
  /-- ERR_DEG_P0 and P1 -/
  | errDeg
  /-- ERR_MLOG_COUNT -/
  | errMlogCount
  /-- ERR_MLOG_INDEX -/
  | errMlogIndex
  /-- ERR_MLOG_Ww -/
  | errMlogW
  /-- ERR_DROP_SLOTn -/
  | errDropSlot
  /-- ERR_LAST_Ww -/
  | errLastW
  /-- PWR_CTRL -/
  | pwrCtrl
  /-- PWR_STATUS -/
  | pwrStatus
  /-- PWR_SUPPLYk -/
  | pwrSupply
  /-- PWR_FANk -/
  | pwrFan
  /-- PWR_TEMP -/
  | pwrTemp
  /-- PWR_LED -/
  | pwrLed
  /-- SEC_BOOT -/
  | secBoot
  /-- SEC_SECURITY -/
  | secSecurity
  /-- SEC_SLOT_A and B -/
  | secSlot
  /-- SEC_FW_CTRL -/
  | secFwCtrl
  /-- SEC_FW_DATA -/
  | secFwData
  /-- SEC_FW_STATUS -/
  | secFwStatus
  /-- SEC_FW_SPACE -/
  | secFwSpace
  /-- SEC_KEK_CTRL -/
  | secKekCtrl
  /-- SEC_KEK_Ww -/
  | secKekW
  /-- SEC_KEK_STATUS -/
  | secKekStatus
  /-- SEC_ID_FPw -/
  | secIdFp
  /-- a register of the four that make up Seed table entry i (R158) -/
  | seedEntry
  deriving DecidableEq, Repr

/-- Access codes of R10. -/
inductive Acc where
  | ro | rw | wo | w1c | rwc
  deriving DecidableEq, Repr

/-- A field: its range, access code and reset value. -/
structure Field where
  hi : Nat
  lo : Nat
  acc : Acc
  reset : Nat
  deriving DecidableEq, Repr

/-- A register or an array of registers: `n1` instances `s1` bytes apart, of `n2` registers `s2` bytes apart. `i0` is the
number of the first instance. Bits outside the fields are reserved (R9). -/
structure RegDef where
  reg : Reg
  base : Nat
  n1 : Nat := 1
  s1 : Nat := 0
  n2 : Nat := 1
  s2 : Nat := 0
  i0 : Nat := 0
  fields : List Field
  deriving DecidableEq, Repr

/-- Registers of the SEED block. -/
def regsSeed : List RegDef :=
  [
    -- SEED_ID: SIGNATURE, TABLE_VERSION, HEADER_REGS, ENTRY_COUNT
    { reg := .seedId, base := 0x0,
      fields := [⟨47, 32, .ro, 0x5EED⟩, ⟨31, 24, .ro, 1⟩, ⟨23, 16, .ro, 8⟩, ⟨15, 0, .ro, 0x23⟩] },
    -- SEED_MEMBER: MEMBER, STEPPING, DATA_PORTS, GRINAL_PORTS
    { reg := .seedMember, base := 0x8,
      fields := [⟨47, 32, .ro, 9⟩, ⟨31, 24, .ro, 1⟩, ⟨23, 16, .ro, 2⟩, ⟨15, 8, .ro, 2⟩] },
    -- SEED_RELEASE: MAJOR, MINOR, PATCH, BUILD
    { reg := .seedRelease, base := 0x10,
      fields := [⟨47, 40, .ro, 1⟩, ⟨39, 32, .ro, 3⟩, ⟨31, 24, .ro, 0⟩, ⟨23, 0, .ro, 0⟩] },
    -- SEED_SERIAL: SERIAL
    { reg := .seedSerial, base := 0x18,
      fields := [⟨47, 0, .ro, 0⟩] },
    -- SEED_FORMATS: DESCRIPTOR, COMPLETION, ERROR_RECORD, HANDLE, OXVAN, PROFILE
    { reg := .seedFormats, base := 0x20,
      fields := [⟨47, 40, .ro, 1⟩, ⟨39, 32, .ro, 1⟩, ⟨31, 24, .ro, 1⟩, ⟨23, 16, .ro, 1⟩, ⟨15, 8, .ro, 1⟩, ⟨7, 0, .ro, 1⟩] },
    -- E0 to E3 of the 35 entries (R158 to R160)
    { reg := .seedEntry, base := 0x40, n1 := 35, s1 := 0x20, n2 := 4, s2 := 8, fields := [⟨47, 0, .ro, 0⟩] }
  ]

/-- Registers of the GLB block. -/
def regsGlb : List RegDef :=
  [
    -- GLB_IDENT: BASE_MAC
    { reg := .glbIdent, base := 0x10000,
      fields := [⟨47, 0, .ro, 0⟩] },
    -- GLB_STATE: TARGET, TRANSITION, STATE
    { reg := .glbState, base := 0x10008,
      fields := [⟨11, 8, .ro, 0⟩, ⟨7, 7, .ro, 0⟩, ⟨3, 0, .ro, 0⟩] },
    -- GLB_STATE_REQ: REQUEST
    { reg := .glbStateReq, base := 0x10010,
      fields := [⟨3, 0, .wo, 0⟩] },
    -- GLB_PROFILE: SAVE_COUNT, VALID, APPLIED, BUSY, CLEAR, SAVE
    { reg := .glbProfile, base := 0x10018,
      fields := [⟨47, 32, .ro, 0⟩, ⟨7, 7, .ro, 0⟩, ⟨6, 6, .ro, 0⟩, ⟨5, 5, .ro, 0⟩, ⟨1, 1, .wo, 0⟩, ⟨0, 0, .wo, 0⟩] },
    -- GLB_PART_A: CONTEXTS, KEYS, PACKET
    { reg := .glbPartA, base := 0x10020,
      fields := [⟨47, 32, .rwc, 0xA⟩, ⟨31, 16, .rwc, 4⟩, ⟨15, 0, .rwc, 0x100⟩] },
    -- GLB_PART_B: DECODE, ENCODE, AUDIO
    { reg := .glbPartB, base := 0x10028,
      fields := [⟨47, 32, .rwc, 0x600⟩, ⟨31, 16, .rwc, 0x300⟩, ⟨15, 0, .rwc, 0x40⟩] },
    -- GLB_PART_C: FIRMWARE, TASK_DMA, PRESERVE
    { reg := .glbPartC, base := 0x10030,
      fields := [⟨47, 32, .ro, 0x20⟩, ⟨31, 16, .rwc, 0x10⟩, ⟨5, 0, .rwc, 0x28⟩] },
    -- GLB_PART_COMMIT: GO
    { reg := .glbPartCommit, base := 0x10038,
      fields := [⟨0, 0, .wo, 0⟩] },
    -- GLB_PART_STATUS: PENDING, RESULT
    { reg := .glbPartStatus, base := 0x10040,
      fields := [⟨8, 8, .ro, 0⟩, ⟨3, 0, .ro, 0⟩] },
    -- GLB_OXVAN_CFG: UDP_PORT, IDLE_S, SESSION
    { reg := .glbOxvanCfg, base := 0x10048,
      fields := [⟨31, 16, .rw, 0x1DBA⟩, ⟨15, 8, .rw, 0x1E⟩, ⟨0, 0, .ro, 0⟩] },
    -- GLB_OXVAN_COUNT: DROPPED, SEQUENCE, BUSY, EXPIRED
    { reg := .glbOxvanCount, base := 0x10050,
      fields := [⟨47, 36, .rw, 0⟩, ⟨35, 24, .rw, 0⟩, ⟨23, 12, .rw, 0⟩, ⟨11, 0, .rw, 0⟩] }
  ]

/-- Registers of the TB block. -/
def regsTb : List RegDef :=
  [
    -- TB_CTRL: SLAVE_ONLY, DOMAIN, FORCE, STEP_GO, SNAP, PPS_IN_EDGE, PPS_IN_EN, REF10_EN
    { reg := .tbCtrl, base := 0x20000,
      fields := [⟨14, 14, .rw, 1⟩, ⟨13, 6, .rw, 0⟩, ⟨5, 5, .wo, 0⟩, ⟨4, 4, .wo, 0⟩, ⟨3, 3, .wo, 0⟩, ⟨2, 2, .rw, 0⟩, ⟨1, 1, .rw, 0⟩, ⟨0, 0, .rw, 0⟩] },
    -- TB_STATUS: P1_STATE, P0_STATE, PATH_STEP_P1, PATH_STEP_P0, HOLDOVER, REF10_STATE, PPS_IN_SEEN, LATE, INCR_FROM_MRAM, SET
    { reg := .tbStatus, base := 0x20008,
      fields := [⟨19, 16, .ro, 3⟩, ⟨15, 12, .ro, 3⟩, ⟨11, 11, .w1c, 0⟩, ⟨10, 10, .w1c, 0⟩, ⟨9, 9, .ro, 1⟩, ⟨8, 7, .ro, 0⟩, ⟨6, 6, .w1c, 0⟩, ⟨5, 5, .w1c, 0⟩, ⟨4, 4, .ro, 0⟩, ⟨3, 3, .ro, 0⟩] },
    -- TB_INCR: INCR
    { reg := .tbIncr, base := 0x20010,
      fields := [⟨47, 0, .rw, 0x55E63B88C231⟩] },
    -- TB_STEP_SEC: SEC
    { reg := .tbStepSec, base := 0x20018,
      fields := [⟨47, 0, .rw, 0⟩] },
    -- TB_STEP_FRAC: FRAC
    { reg := .tbStepFrac, base := 0x20020,
      fields := [⟨47, 0, .rw, 0⟩] },
    -- TB_SNAP_SEC: SEC
    { reg := .tbSnapSec, base := 0x20028,
      fields := [⟨47, 0, .ro, 0⟩] },
    -- TB_SNAP_FRAC: FRAC
    { reg := .tbSnapFrac, base := 0x20030,
      fields := [⟨47, 0, .ro, 0⟩] },
    -- TB_STEP_THRESH: THRESH_NS
    { reg := .tbStepThresh, base := 0x20038,
      fields := [⟨23, 0, .rw, 0x7D0⟩] },
    -- TB_STEP_MAX: MAX_US
    { reg := .tbStepMax, base := 0x20040,
      fields := [⟨23, 0, .rw, 0x3E8⟩] },
    -- TB_EVENT_COUNT: LATE, SKIPPED, DROPPED
    { reg := .tbEventCount, base := 0x20048,
      fields := [⟨47, 32, .rw, 0⟩, ⟨31, 16, .rw, 0⟩, ⟨15, 0, .rw, 0⟩] },
    -- TB_PPS_OUT: EN, WIDTH_US
    { reg := .tbPpsOut, base := 0x20050,
      fields := [⟨20, 20, .rw, 0⟩, ⟨19, 0, .rw, 0x186A0⟩] },
    -- TB_PTP_CLOCK: PRIORITY1, PRIORITY2, CLOCK_CLASS, CLOCK_ACCURACY, LOG_VARIANCE
    { reg := .tbPtpClock, base := 0x20058,
      fields := [⟨47, 40, .rw, 0x80⟩, ⟨39, 32, .rw, 0x80⟩, ⟨31, 24, .rw, 0xF8⟩, ⟨23, 16, .rw, 0xFE⟩, ⟨15, 0, .rw, 0xFFFF⟩] },
    -- TB_PTP_P0 and P1: ANNOUNCE_TIMEOUT, LOG_ANNOUNCE, LOG_SYNC, LOG_DELAY_REQ, TRANSPORT, ONE_STEP, P2P, EN
    { reg := .tbPtpPort, base := 0x20060, n1 := 2, s1 := 0x8,
      fields := [⟨23, 20, .rw, 3⟩, ⟨19, 16, .rw, 1⟩, ⟨15, 12, .rw, 0⟩, ⟨11, 8, .rw, 0⟩, ⟨4, 3, .rw, 0⟩, ⟨2, 2, .rw, 0⟩, ⟨1, 1, .rw, 0⟩, ⟨0, 0, .rw, 0⟩] },
    -- TB_LAT_DATA0 and DATA1: TX_PS, RX_PS
    { reg := .tbLat, base := 0x20070, n1 := 2, s1 := 0x8,
      fields := [⟨47, 24, .rw, 0x2580⟩, ⟨23, 0, .rw, 0x30C0⟩] },
    -- TB_LAT_GRINAL_E and W: TX_PS, RX_PS
    { reg := .tbLatGrinal, base := 0x20080, n1 := 2, s1 := 0x8,
      fields := [⟨47, 24, .rw, 0x1900⟩, ⟨23, 0, .rw, 0x2080⟩] }
  ]

/-- Registers of the HCI block. -/
def regsHci : List RegDef :=
  [
    -- HCI_CTRL: CNP_RP_EN, ECN_NP_EN, EN
    { reg := .hciCtrl, base := 0x30000,
      fields := [⟨2, 2, .rw, 1⟩, ⟨1, 1, .rw, 1⟩, ⟨0, 0, .rw, 1⟩] },
    -- HCI_STATUS: BOUND, SUSPENDED, CONNECTED
    { reg := .hciStatus, base := 0x30008,
      fields := [⟨23, 16, .ro, 0⟩, ⟨15, 8, .ro, 0⟩, ⟨7, 0, .ro, 0⟩] },
    -- HCI_COUNT: REJECTED, DB_ERR, DROPPED, EVENT_DROPPED
    { reg := .hciCount, base := 0x30010,
      fields := [⟨47, 36, .rw, 0⟩, ⟨35, 24, .rw, 0⟩, ⟨23, 12, .rw, 0⟩, ⟨11, 0, .rw, 0⟩] },
    -- HCI_CNP: RECOVERY_US, MIN_RATE_MBPS, CNP_GAP_US
    { reg := .hciCnp, base := 0x30018,
      fields := [⟨47, 32, .rw, 0x37⟩, ⟨31, 16, .rw, 0x3E8⟩, ⟨15, 0, .rw, 0x32⟩] },
    -- HCI_SLOTn_CFG: HOLD_MS, DSCP, PRIORITY, SWAP, IPV6, DATA1_OK, DATA0_OK, EN
    { reg := .hciSlotCfg, base := 0x30100, n1 := 8, s1 := 0x20,
      fields := [⟨47, 32, .rw, 0x1388⟩, ⟨31, 26, .rw, 0x1A⟩, ⟨25, 23, .rw, 3⟩, ⟨22, 22, .rw, 0⟩, ⟨21, 21, .rw, 0⟩, ⟨20, 20, .rw, 1⟩, ⟨19, 19, .rw, 1⟩, ⟨0, 0, .rw, 0⟩] },
    -- HCI_SLOTn_PEER_A: ADDR_LO
    { reg := .hciPeerA, base := 0x30108, n1 := 8, s1 := 0x20,
      fields := [⟨47, 0, .rw, 0⟩] },
    -- HCI_SLOTn_PEER_B: ADDR_MID
    { reg := .hciPeerB, base := 0x30110, n1 := 8, s1 := 0x20,
      fields := [⟨47, 0, .rw, 0⟩] },
    -- HCI_SLOTn_PEER_C: ADDR_HI
    { reg := .hciPeerC, base := 0x30118, n1 := 8, s1 := 0x20,
      fields := [⟨31, 0, .rw, 0⟩] }
  ]

/-- Registers of the MAC block. -/
def regsMac : List RegDef :=
  [
    -- MACn_CTRL: MAX_LEN, LOOPBACK, CAGE_EN, EN
    { reg := .macCtrl, base := 0x40000, n1 := 2, s1 := 0x10000,
      fields := [⟨45, 32, .rw, 0x2400⟩, ⟨3, 2, .rw, 0⟩, ⟨1, 1, .rw, 1⟩, ⟨0, 0, .rw, 1⟩] },
    -- MACn_STATUS: LINK_CHANGED, PLUG, LINK, LOCAL_FAULT, REMOTE_FAULT, PAUSED
    { reg := .macStatus, base := 0x40008, n1 := 2, s1 := 0x10000,
      fields := [⟨16, 16, .w1c, 0⟩, ⟨15, 12, .ro, 0⟩, ⟨11, 11, .ro, 0⟩, ⟨10, 10, .ro, 0⟩, ⟨9, 9, .ro, 0⟩, ⟨7, 0, .ro, 0⟩] },
    -- MACn_VLAN: TX_TAG, VID
    { reg := .macVlan, base := 0x40010, n1 := 2, s1 := 0x10000,
      fields := [⟨12, 12, .rw, 0⟩, ⟨11, 0, .rw, 0⟩] },
    -- MACn_UC_VALID: VALID
    { reg := .macUcValid, base := 0x40018, n1 := 2, s1 := 0x10000,
      fields := [⟨7, 0, .rw, 1⟩] },
    -- MACn_UCk: ADDR
    { reg := .macUc, base := 0x40020, n1 := 2, s1 := 0x10000, n2 := 8, s2 := 0x8,
      fields := [⟨47, 0, .rw, 0⟩] },
    -- MACn_IP4: EN, ADDR
    { reg := .macIp4, base := 0x40060, n1 := 2, s1 := 0x10000,
      fields := [⟨32, 32, .rw, 0⟩, ⟨31, 0, .rw, 0⟩] },
    -- MACn_IP6_A: ADDR_LO
    { reg := .macIp6A, base := 0x40068, n1 := 2, s1 := 0x10000,
      fields := [⟨47, 0, .rw, 0⟩] },
    -- MACn_IP6_B: ADDR_MID
    { reg := .macIp6B, base := 0x40070, n1 := 2, s1 := 0x10000,
      fields := [⟨47, 0, .rw, 0⟩] },
    -- MACn_IP6_C: EN, ADDR_HI
    { reg := .macIp6C, base := 0x40078, n1 := 2, s1 := 0x10000,
      fields := [⟨32, 32, .rw, 0⟩, ⟨31, 0, .rw, 0⟩] },
    -- MACn_FC: WDOG_MS, MEDIA_MASK, CTRL_MASK, RX_MODE, TX_MODE
    { reg := .macFc, base := 0x40080, n1 := 2, s1 := 0x10000,
      fields := [⟨47, 32, .rw, 0x64⟩, ⟨31, 24, .rw, 0⟩, ⟨23, 16, .rw, 0⟩, ⟨3, 2, .rw, 0⟩, ⟨1, 0, .rw, 0⟩] },
    -- MACn_TC_MAP: CTRL_TC, PTP_TC
    { reg := .macTcMap, base := 0x40088, n1 := 2, s1 := 0x10000,
      fields := [⟨5, 3, .rw, 6⟩, ⟨2, 0, .rw, 7⟩] },
    -- MACn_GROUP_HASHk: BINS
    { reg := .macGroupHash, base := 0x40100, n1 := 2, s1 := 0x10000, n2 := 32, s2 := 0x8,
      fields := [⟨31, 0, .rw, 0⟩] },
    -- MACn_GATE_CTRL: EN, LIST_LEN
    { reg := .macGateCtrl, base := 0x40200, n1 := 2, s1 := 0x10000,
      fields := [⟨9, 9, .rwc, 0⟩, ⟨8, 0, .rwc, 1⟩] },
    -- MACn_GATE_BASE: SEC
    { reg := .macGateBase, base := 0x40208, n1 := 2, s1 := 0x10000,
      fields := [⟨47, 0, .rwc, 0⟩] },
    -- MACn_GATE_BASE_FRAC: FRAC
    { reg := .macGateBaseFrac, base := 0x40210, n1 := 2, s1 := 0x10000,
      fields := [⟨47, 0, .rwc, 0⟩] },
    -- MACn_GATE_CYCLE: EXT_NS, CYCLE_NS
    { reg := .macGateCycle, base := 0x40218, n1 := 2, s1 := 0x10000,
      fields := [⟨47, 32, .rwc, 0⟩, ⟨31, 0, .rwc, 0x1E848⟩] },
    -- MACn_GATE_COMMIT: GO
    { reg := .macGateCommit, base := 0x40220, n1 := 2, s1 := 0x10000,
      fields := [⟨0, 0, .wo, 0⟩] },
    -- MACn_GATE_STATUS: SKIPPED, NEVER_OPEN, RESULT, PENDING, OPER
    { reg := .macGateStatus, base := 0x40228, n1 := 2, s1 := 0x10000,
      fields := [⟨47, 32, .ro, 0⟩, ⟨23, 16, .ro, 0⟩, ⟨7, 4, .ro, 0⟩, ⟨1, 1, .ro, 0⟩, ⟨0, 0, .ro, 0⟩] },
    -- MACn_GATE_ENTRYk: GATES, INTERVAL_NS
    { reg := .macGateEntry, base := 0x40800, n1 := 2, s1 := 0x10000, n2 := 256, s2 := 0x8,
      fields := [⟨39, 32, .rwc, 0xFF⟩, ⟨31, 0, .rwc, 0⟩] },
    -- MAC counters: COUNT
    { reg := .macCounter, base := 0x40400, n1 := 2, s1 := 0x10000, n2 := 19, s2 := 0x8,
      fields := [⟨47, 0, .ro, 0⟩] }
  ]

/-- Registers of the MGT block. -/
def regsMgt : List RegDef :=
  [
    -- MGT_CTRL: ECHO, ADVERTISE, FORCED_HALF, FORCED_SPEED, AUTONEG
    { reg := .mgtCtrl, base := 0x60000,
      fields := [⟨9, 9, .rw, 1⟩, ⟨8, 4, .rw, 0x1F⟩, ⟨3, 3, .rw, 0⟩, ⟨2, 1, .rw, 2⟩, ⟨0, 0, .rw, 1⟩] },
    -- MGT_STATUS: LINK, SPEED, HALF
    { reg := .mgtStatus, base := 0x60008,
      fields := [⟨3, 3, .ro, 0⟩, ⟨2, 1, .ro, 0⟩, ⟨0, 0, .ro, 0⟩] },
    -- MGT_IP4: EN, ADDR
    { reg := .mgtIp4, base := 0x60010,
      fields := [⟨32, 32, .rw, 1⟩, ⟨31, 0, .rw, 0xC0A80164⟩] },
    -- MGT_IP6_A: ADDR_LO
    { reg := .mgtIp6A, base := 0x60018,
      fields := [⟨47, 0, .rw, 0⟩] },
    -- MGT_IP6_B: ADDR_MID
    { reg := .mgtIp6B, base := 0x60020,
      fields := [⟨47, 0, .rw, 0⟩] },
    -- MGT_IP6_C: EN, ADDR_HI
    { reg := .mgtIp6C, base := 0x60028,
      fields := [⟨32, 32, .rw, 0⟩, ⟨31, 0, .rw, 0⟩] },
    -- MGT_COUNT: FCS_ERR, DROPPED, LATE_COLL, EXCESS_COLL
    { reg := .mgtCount, base := 0x60030,
      fields := [⟨47, 36, .rw, 0⟩, ⟨35, 24, .rw, 0⟩, ⟨23, 12, .rw, 0⟩, ⟨11, 0, .rw, 0⟩] }
  ]

/-- Registers of the STR block. -/
def regsStr : List RegDef :=
  [
    -- STR_FALLBACK: RATE_P1_MBPS, RATE_P0_MBPS
    { reg := .strFallback, base := 0x80000,
      fields := [⟨47, 24, .rw, 0⟩, ⟨23, 0, .rw, 0⟩] },
    -- STR_RTCP: NTP_OFFSET_S, SR_INTERVAL_MS
    { reg := .strRtcp, base := 0x80008,
      fields := [⟨47, 16, .rw, 0x83AA7E5B⟩, ⟨15, 0, .rw, 0x3E8⟩] },
    -- STR_FEEDBACK: CCFB_INTERVAL_MS, PLI_GAP_MS, RTX_HOLDOFF_MS
    { reg := .strFeedback, base := 0x80010,
      fields := [⟨47, 32, .rw, 0x32⟩, ⟨31, 16, .rw, 0x12C⟩, ⟨15, 0, .rw, 0xA⟩] },
    -- STR_ENGINE: E1_P1, E1_P0, E0_P1, E0_P0
    { reg := .strEngine, base := 0x80018,
      fields := [⟨3, 3, .ro, 1⟩, ⟨2, 2, .ro, 0⟩, ⟨1, 1, .ro, 0⟩, ⟨0, 0, .ro, 1⟩] },
    -- STR_CONTEXTS: CAPACITY, IN_USE
    { reg := .strContexts, base := 0x80020,
      fields := [⟨45, 23, .ro, 0x500000⟩, ⟨22, 0, .ro, 0⟩] },
    -- STR counters: COUNT
    { reg := .strCounter, base := 0x80028, n1 := 4, s1 := 0x8,
      fields := [⟨47, 0, .ro, 0⟩] }
  ]

/-- Registers of the CIP block. -/
def regsCip : List RegDef :=
  [
    -- CIP_CTRL: JOB_LANES, WRAP_REQUIRED
    { reg := .cipCtrl, base := 0xA0000,
      fields := [⟨14, 8, .rw, 4⟩, ⟨1, 1, .rw, 1⟩] },
    -- CIP_WARN_SRTP: THRESH
    { reg := .cipWarnSrtp, base := 0xA0008,
      fields := [⟨47, 0, .rw, 0x800000000000⟩] },
    -- CIP_WARN_SRTCP: THRESH
    { reg := .cipWarnSrtcp, base := 0xA0010,
      fields := [⟨30, 0, .rw, 0x40000000⟩] },
    -- CIP_KEYS: CAPACITY, IN_USE
    { reg := .cipKeys, base := 0xA0018,
      fields := [⟨47, 24, .ro, 0x7A0000⟩, ⟨23, 0, .ro, 0⟩] },
    -- CIP_PERSIST: IN_USE
    { reg := .cipPersist, base := 0xA0020,
      fields := [⟨16, 0, .ro, 0⟩] },
    -- CIP_FLUSH: GO, LANE
    { reg := .cipFlush, base := 0xA0028,
      fields := [⟨10, 10, .wo, 0⟩, ⟨9, 0, .wo, 0⟩] },
    -- CIP_FLUSH_STATUS: FLUSH_DONE, BUSY, LANE
    { reg := .cipFlushStatus, base := 0xA0030,
      fields := [⟨11, 11, .w1c, 0⟩, ⟨10, 10, .ro, 0⟩, ⟨9, 0, .ro, 0⟩] },
    -- CIP_LANE_FAILk: FAILED
    { reg := .cipLaneFail, base := 0xA0100, n1 := 32, s1 := 0x8,
      fields := [⟨31, 0, .ro, 0⟩] },
    -- CIP counters: COUNT
    { reg := .cipCounter, base := 0xA0200, n1 := 9, s1 := 0x8,
      fields := [⟨47, 0, .ro, 0⟩] }
  ]

/-- Registers of the DEC block. -/
def regsDec : List RegDef :=
  [
    -- DEC_ADMIT: PCT
    { reg := .decAdmit, base := 0xC0000,
      fields := [⟨6, 0, .rw, 0x5A⟩] },
    -- DEC_LOAD: LIMIT_MPPS, RESERVED_MPPS
    { reg := .decLoad, base := 0xC0008,
      fields := [⟨47, 24, .ro, 0x7080⟩, ⟨23, 0, .ro, 0⟩] },
    -- DEC_CONTEXTS: IN_USE
    { reg := .decContexts, base := 0xC0010,
      fields := [⟨14, 0, .ro, 0⟩] },
    -- DEC counters: COUNT
    { reg := .decCounter, base := 0xC0100, n1 := 7, s1 := 0x8,
      fields := [⟨47, 0, .ro, 0⟩] }
  ]

/-- Registers of the CMP block. -/
def regsCmp : List RegDef :=
  [
    -- CMP_LOAD: COMMITTED_MPPS
    { reg := .cmpLoad, base := 0xD0000,
      fields := [⟨23, 0, .ro, 0⟩] },
    -- CMP_CANVASES: IN_USE
    { reg := .cmpCanvases, base := 0xD0008,
      fields := [⟨12, 0, .ro, 0⟩] },
    -- CMP counters: COUNT
    { reg := .cmpCounter, base := 0xD0100, n1 := 5, s1 := 0x8,
      fields := [⟨47, 0, .ro, 0⟩] }
  ]

/-- Registers of the ENC block. -/
def regsEnc : List RegDef :=
  [
    -- ENC_ADMIT: PCT
    { reg := .encAdmit, base := 0xE0000,
      fields := [⟨6, 0, .rw, 0x5A⟩] },
    -- ENC_LOAD: LIMIT_MPPS, RESERVED_MPPS
    { reg := .encLoad, base := 0xE0008,
      fields := [⟨47, 24, .ro, 0x32A0⟩, ⟨23, 0, .ro, 0⟩] },
    -- ENC_CHANNELS: ROW_RC, IN_USE
    { reg := .encChannels, base := 0xE0010,
      fields := [⟨22, 13, .ro, 0⟩, ⟨12, 0, .ro, 0⟩] },
    -- ENC counters: COUNT
    { reg := .encCounter, base := 0xE0100, n1 := 7, s1 := 0x8,
      fields := [⟨47, 0, .ro, 0⟩] }
  ]

/-- Registers of the AUD block. -/
def regsAud : List RegDef :=
  [
    -- AUD_LOAD: DECODES, ENCODES, GROUPS
    { reg := .audLoad, base := 0xF0000,
      fields := [⟨46, 32, .ro, 0⟩, ⟨30, 16, .ro, 0⟩, ⟨13, 0, .ro, 0⟩] },
    -- AUD counters: COUNT
    { reg := .audCounter, base := 0xF0100, n1 := 7, s1 := 0x8,
      fields := [⟨47, 0, .ro, 0⟩] }
  ]

/-- Registers of the TSK block. -/
def regsTsk : List RegDef :=
  [
    -- TSK_CTRL: TICK_NS, AFFINITY_DEPTH, STEAL_MIN, HOLD_MARK
    { reg := .tskCtrl, base := 0x100000,
      fields := [⟨47, 32, .rw, 0x3E8⟩, ⟨31, 28, .rw, 4⟩, ⟨27, 24, .rw, 2⟩, ⟨17, 0, .rw, 0x2000⟩] },
    -- TSK_STATUS: PEAK, IN_USE
    { reg := .tskStatus, base := 0x100008,
      fields := [⟨37, 19, .rw, 0⟩, ⟨18, 0, .ro, 0⟩] },
    -- TSK_COUNT: LATE, REFUSED, CANCELLED
    { reg := .tskCount, base := 0x100010,
      fields := [⟨47, 32, .rw, 0⟩, ⟨31, 16, .rw, 0⟩, ⟨15, 0, .rw, 0⟩] },
    -- TSK_CLASS0_CFG: RESERVE
    { reg := .tskClassCfg, base := 0x100100,
      fields := [⟨18, 0, .rw, 0x8000⟩] },
    -- TSK_CLASS1_CFG: RESERVE
    { reg := .tskClassCfg, base := 0x100120, i0 := 1,
      fields := [⟨18, 0, .rw, 0x2000⟩] },
    -- TSK_CLASS2_CFG: RESERVE
    { reg := .tskClassCfg, base := 0x100140, i0 := 2,
      fields := [⟨18, 0, .rw, 0x6000⟩] },
    -- TSK_CLASS3_CFG: RESERVE
    { reg := .tskClassCfg, base := 0x100160, i0 := 3,
      fields := [⟨18, 0, .rw, 0x10000⟩] },
    -- TSK_CLASS4_CFG: RESERVE
    { reg := .tskClassCfg, base := 0x100180, i0 := 4,
      fields := [⟨18, 0, .rw, 0x4000⟩] },
    -- TSK_CLASSc_STATUS: IN_USE, READY
    { reg := .tskClassStatus, base := 0x100108, n1 := 5, s1 := 0x20,
      fields := [⟨37, 19, .ro, 0⟩, ⟨18, 0, .ro, 0⟩] },
    -- TSK_CLASSc_DEPTHS: DELAYED, WAITING
    { reg := .tskClassDepths, base := 0x100110, n1 := 5, s1 := 0x20,
      fields := [⟨37, 19, .ro, 0⟩, ⟨18, 0, .ro, 0⟩] },
    -- TSK_CLASSc_WAIT: MEAN_NS, MAX_NS
    { reg := .tskClassWait, base := 0x100118, n1 := 5, s1 := 0x20,
      fields := [⟨47, 24, .ro, 0⟩, ⟨23, 0, .ro, 0⟩] },
    -- TSK_COREk_STATE: STATE, DEPTH
    { reg := .tskCoreState, base := 0x101000, n1 := 152, s1 := 0x20,
      fields := [⟨9, 8, .ro, 0⟩, ⟨3, 0, .ro, 0⟩] },
    -- TSK_COREk_WAIT: MEAN_NS, MAX_NS
    { reg := .tskCoreWait, base := 0x101008, n1 := 152, s1 := 0x20,
      fields := [⟨47, 24, .ro, 0⟩, ⟨23, 0, .ro, 0⟩] },
    -- TSK_COREk_LOAD: STARTED, BUSY
    { reg := .tskCoreLoad, base := 0x101010, n1 := 152, s1 := 0x20,
      fields := [⟨41, 16, .ro, 0⟩, ⟨9, 0, .ro, 0⟩] },
    -- TSK_COREk_STEALS: MADE, STOLEN
    { reg := .tskCoreSteals, base := 0x101018, n1 := 152, s1 := 0x20,
      fields := [⟨47, 24, .rw, 0⟩, ⟨23, 0, .rw, 0⟩] }
  ]

/-- Registers of the DMA block. -/
def regsDma : List RegDef :=
  [
    -- DMA_CH_COMMIT: GO, CHANNEL
    { reg := .dmaChCommit, base := 0x110000,
      fields := [⟨8, 8, .wo, 0⟩, ⟨7, 0, .wo, 0⟩] },
    -- DMA_CH_COMMIT_STATUS: RESULT, CHANNEL
    { reg := .dmaChCommitStatus, base := 0x110008,
      fields := [⟨11, 8, .ro, 0⟩, ⟨7, 0, .ro, 0⟩] },
    -- DMA_BYTES: COUNT
    { reg := .dmaBytes, base := 0x110010,
      fields := [⟨47, 0, .ro, 0⟩] },
    -- DMA_TRANSFERS: COUNT
    { reg := .dmaTransfers, base := 0x110018,
      fields := [⟨47, 0, .ro, 0⟩] },
    -- DMA_EVENTS: LATE, OVERRUN, REFUSED
    { reg := .dmaEvents, base := 0x110020,
      fields := [⟨47, 32, .rw, 0⟩, ⟨31, 16, .rw, 0⟩, ⟨15, 0, .rw, 0⟩] },
    -- DMA_CHn_CFG, n = 0 to 7: PRIO, CLASS, EN, QUIET, SLOTS, QUEUE
    { reg := .dmaChCfg, base := 0x111000, n1 := 8, s1 := 0x80,
      fields := [⟨21, 20, .rw, 0⟩, ⟨19, 18, .rw, 3⟩, ⟨17, 17, .rw, 0⟩, ⟨16, 16, .rw, 0⟩, ⟨15, 8, .rw, 0⟩, ⟨5, 0, .rw, 0⟩] },
    -- DMA_CHn_CFG, n = 8 to 255: PRIO, CLASS, EN, QUIET, SLOTS, QUEUE
    { reg := .dmaChCfg, base := 0x111400, n1 := 248, s1 := 0x80, i0 := 8,
      fields := [⟨21, 20, .rw, 0⟩, ⟨19, 18, .rw, 0⟩, ⟨17, 17, .rw, 0⟩, ⟨16, 16, .rw, 0⟩, ⟨15, 8, .rw, 0⟩, ⟨5, 0, .rw, 0⟩] },
    -- DMA_CHn_STATUS: GENERATION, STATE, IN_FLIGHT, PENDING_SET, PENDING_TRIG, QUEUED
    { reg := .dmaChStatus, base := 0x111008, n1 := 256, s1 := 0x80,
      fields := [⟨47, 24, .ro, 0⟩, ⟨23, 22, .ro, 0⟩, ⟨21, 19, .ro, 0⟩, ⟨18, 18, .ro, 0⟩, ⟨13, 7, .ro, 0⟩, ⟨6, 0, .ro, 0⟩] },
    -- DMA_CHn_OP: OP ELEM PLANES SRC_KIND DST_KIND SRC_SEL DST_SEL
    { reg := .dmaChOp, base := 0x111010, n1 := 256, s1 := 0x80,
      fields := [⟨47, 12, .rwc, 0⟩] },
    -- DMA_CHn_SRC: ADDR
    { reg := .dmaChSrc, base := 0x111018, n1 := 256, s1 := 0x80,
      fields := [⟨47, 0, .rwc, 0⟩] },
    -- DMA_CHn_DST: ADDR
    { reg := .dmaChDst, base := 0x111020, n1 := 256, s1 := 0x80,
      fields := [⟨47, 0, .rwc, 0⟩] },
    -- DMA_CHn_SIZE: LENGTH, LINES
    { reg := .dmaChSize, base := 0x111028, n1 := 256, s1 := 0x80,
      fields := [⟨47, 16, .rwc, 0⟩, ⟨15, 0, .rwc, 1⟩] },
    -- DMA_CHn_STRIDE: SRC_STRIDE, DST_STRIDE
    { reg := .dmaChStride, base := 0x111030, n1 := 256, s1 := 0x80,
      fields := [⟨47, 24, .rwc, 0⟩, ⟨23, 0, .rwc, 0⟩] },
    -- DMA_CHn_PLANE: PLANE_STRIDE
    { reg := .dmaChPlane, base := 0x111038, n1 := 256, s1 := 0x80,
      fields := [⟨47, 0, .rwc, 0⟩] },
    -- DMA_CHn_ARM: ARM_AT
    { reg := .dmaChArm, base := 0x111040, n1 := 256, s1 := 0x80,
      fields := [⟨47, 0, .rwc, 0⟩] },
    -- DMA_CHn_TRIG: KIND, REQ_SRC, REQ_OBJ, CHAIN_SRC, BURST
    { reg := .dmaChTrig, base := 0x111048, n1 := 256, s1 := 0x80,
      fields := [⟨47, 46, .rwc, 0⟩, ⟨45, 43, .rwc, 0⟩, ⟨39, 24, .rwc, 0⟩, ⟨23, 16, .rwc, 0⟩, ⟨15, 0, .rwc, 1⟩] },
    -- DMA_CHn_PERIOD: PERIOD_US, WIN_DROP
    { reg := .dmaChPeriod, base := 0x111050, n1 := 256, s1 := 0x80,
      fields := [⟨47, 16, .rwc, 0⟩, ⟨0, 0, .rwc, 0⟩] },
    -- DMA_CHn_WINDOW: OPEN_US, CLOSE_US
    { reg := .dmaChWindow, base := 0x111058, n1 := 256, s1 := 0x80,
      fields := [⟨47, 24, .rwc, 0⟩, ⟨23, 0, .rwc, 0⟩] }
  ]

/-- Registers of the MEM block. -/
def regsMem : List RegDef :=
  [
    -- MEM_CTRL: SCRUB_HOURS, DIE_THRESH, SPARE_AUTO, SPARE_GO, SPARE_STACK
    { reg := .memCtrl, base := 0x120000,
      fields := [⟨31, 24, .rw, 0x18⟩, ⟨23, 16, .rw, 0x40⟩, ⟨9, 9, .rw, 1⟩, ⟨8, 8, .wo, 0⟩, ⟨4, 0, .wo, 0⟩] },
    -- MEM_STATUS: COPY_PCT, SPARE_STATE, SPARED
    { reg := .memStatus, base := 0x120008,
      fields := [⟨23, 16, .ro, 0⟩, ⟨15, 14, .ro, 0⟩, ⟨7, 4, .ro, 0⟩] },
    -- MEM_COUNT: UNCORR, DIE_FAIL, SCRUB_PASSES
    { reg := .memCount, base := 0x120010,
      fields := [⟨47, 32, .rw, 0⟩, ⟨31, 16, .rw, 0⟩, ⟨15, 0, .rw, 0⟩] },
    -- MEM_CORRk: CORRECTED, FAILED_DIES
    { reg := .memCorr, base := 0x120100, n1 := 17, s1 := 0x8,
      fields := [⟨47, 16, .ro, 0⟩, ⟨15, 0, .ro, 0⟩] }
  ]

/-- Registers of the PRS block. -/
def regsPrs : List RegDef :=
  [
    -- PRS_CTRL: RTX_EN
    { reg := .prsCtrl, base := 0x130000,
      fields := [⟨0, 0, .rw, 1⟩] },
    -- PRS_STATUS: WRITE_POS
    { reg := .prsStatus, base := 0x130008,
      fields := [⟨47, 0, .ro, 0⟩] },
    -- PRS_SPAN: SPAN_MS
    { reg := .prsSpan, base := 0x130010,
      fields := [⟨23, 0, .ro, 0⟩] },
    -- PRS_BLOCKS: NB
    { reg := .prsBlocks, base := 0x130018,
      fields := [⟨24, 0, .ro, 0x1AAAAAA⟩] },
    -- PRS counters: COUNT
    { reg := .prsCounter, base := 0x130100, n1 := 6, s1 := 0x8,
      fields := [⟨47, 0, .ro, 0⟩] }
  ]

/-- Registers of the GRN block. -/
def regsGrn : List RegDef :=
  [
    -- GRN_CFG: RECLAIM, EN, ROLE, MEMBER_ID
    { reg := .grnCfg, base := 0x140000,
      fields := [⟨7, 7, .wo, 0⟩, ⟨6, 6, .rw, 0⟩, ⟨5, 4, .rw, 0⟩, ⟨3, 0, .rw, 0⟩] },
    -- GRN_STATUS: ROSTER, MASTER, BACKUP, BACKUP_VALID, ACTING, STATE, WRAP_E, WRAP_W, LINK_E, LINK_W
    { reg := .grnStatus, base := 0x140008,
      fields := [⟨47, 32, .ro, 0⟩, ⟨31, 28, .ro, 0⟩, ⟨27, 24, .ro, 0⟩, ⟨23, 23, .ro, 0⟩, ⟨22, 22, .ro, 0⟩, ⟨18, 16, .ro, 0⟩, ⟨3, 3, .ro, 0⟩, ⟨2, 2, .ro, 0⟩, ⟨1, 1, .ro, 0⟩, ⟨0, 0, .ro, 0⟩] },
    -- GRN_EPOCH: EPOCH
    { reg := .grnEpoch, base := 0x140010,
      fields := [⟨23, 0, .ro, 0⟩] },
    -- GRN_TIMERS: BEACON_US, LOSS_MS, ACK_US, RETRIES
    { reg := .grnTimers, base := 0x140018,
      fields := [⟨47, 32, .rw, 0x3E8⟩, ⟨31, 16, .rw, 0x32⟩, ⟨15, 4, .rw, 0xC8⟩, ⟨3, 0, .rw, 7⟩] },
    -- GRN_PORTp: LINK_DELAY_PS, NEIGHBOUR, NEIGHBOUR_VALID, PLUG, LINK, LINK_CHANGED, CAGE_EN, EN
    { reg := .grnPort, base := 0x140100, n1 := 2, s1 := 0x80,
      fields := [⟨47, 24, .ro, 0⟩, ⟨23, 20, .ro, 0⟩, ⟨19, 19, .ro, 0⟩, ⟨18, 15, .ro, 0⟩, ⟨14, 14, .ro, 0⟩, ⟨13, 13, .w1c, 0⟩, ⟨1, 1, .rw, 1⟩, ⟨0, 0, .rw, 1⟩] },
    -- GRN_PORTp counters: COUNT
    { reg := .grnPortCounter, base := 0x140108, n1 := 2, s1 := 0x80, n2 := 5, s2 := 0x8,
      fields := [⟨47, 0, .ro, 0⟩] },
    -- GRN counters: COUNT
    { reg := .grnCounter, base := 0x140200, n1 := 5, s1 := 0x8,
      fields := [⟨47, 0, .ro, 0⟩] }
  ]

/-- Registers of the ERR block. -/
def regsErr : List RegDef :=
  [
    -- ERR_CTRL: SLOTS, HOST_CLASS, LOG_CLASS
    { reg := .errCtrl, base := 0x150000,
      fields := [⟨15, 8, .rw, 0xFF⟩, ⟨6, 4, .rw, 1⟩, ⟨2, 0, .rw, 2⟩] },
    -- ERR_STATUS: SEEN, ENGINE1_OUT, ENGINE0_OUT
    { reg := .errStatus, base := 0x150008,
      fields := [⟨7, 4, .w1c, 0⟩, ⟨1, 1, .ro, 0⟩, ⟨0, 0, .ro, 0⟩] },
    -- ERR_SEQ: NEXT
    { reg := .errSeq, base := 0x150010,
      fields := [⟨47, 0, .ro, 0⟩] },
    -- ERR_COUNT: C4, C3, C2, C1
    { reg := .errCount, base := 0x150018,
      fields := [⟨47, 36, .rw, 0⟩, ⟨35, 24, .rw, 0⟩, ⟨23, 12, .rw, 0⟩, ⟨11, 0, .rw, 0⟩] },
    -- ERR_DEG_P0 and P1: COUNT
    { reg := .errDeg, base := 0x150020, n1 := 2, s1 := 0x8,
      fields := [⟨47, 0, .ro, 0⟩] },
    -- ERR_MLOG_COUNT: CAPACITY, HELD
    { reg := .errMlogCount, base := 0x150030,
      fields := [⟨31, 16, .ro, 0x1000⟩, ⟨15, 0, .ro, 0⟩] },
    -- ERR_MLOG_INDEX: INDEX
    { reg := .errMlogIndex, base := 0x150038,
      fields := [⟨11, 0, .rw, 0⟩] },
    -- ERR_MLOG_Ww: WORD
    { reg := .errMlogW, base := 0x150040, n1 := 8, s1 := 0x8,
      fields := [⟨47, 0, .ro, 0⟩] },
    -- ERR_DROP_SLOTn: C4, C3, C2, C1
    { reg := .errDropSlot, base := 0x150100, n1 := 8, s1 := 0x8,
      fields := [⟨47, 36, .ro, 0⟩, ⟨35, 24, .ro, 0⟩, ⟨23, 12, .ro, 0⟩, ⟨11, 0, .ro, 0⟩] },
    -- ERR_LAST_Ww: WORD
    { reg := .errLastW, base := 0x150200, n1 := 8, s1 := 0x8,
      fields := [⟨47, 0, .ro, 0⟩] }
  ]

/-- Registers of the PWR block. -/
def regsPwr : List RegDef :=
  [
    -- PWR_CTRL: START_QUIET, FAN_FULL
    { reg := .pwrCtrl, base := 0x160000,
      fields := [⟨1, 1, .rw, 0⟩, ⟨0, 0, .rw, 0⟩] },
    -- PWR_STATUS: FAN_OK, PSU1_PRESENT, PSU1_IN_OK, PSU1_OUT_OK, PSU0_PRESENT, PSU0_IN_OK, PSU0_OUT_OK
    { reg := .pwrStatus, base := 0x160008,
      fields := [⟨11, 6, .ro, 0⟩, ⟨5, 5, .ro, 0⟩, ⟨4, 4, .ro, 0⟩, ⟨3, 3, .ro, 0⟩, ⟨2, 2, .ro, 0⟩, ⟨1, 1, .ro, 0⟩, ⟨0, 0, .ro, 0⟩] },
    -- PWR_SUPPLYk: INPUT_W, INPUT_DV, TEMP_C
    { reg := .pwrSupply, base := 0x160010, n1 := 2, s1 := 0x8,
      fields := [⟨47, 32, .ro, 0⟩, ⟨31, 16, .ro, 0⟩, ⟨15, 8, .ro, 0⟩] },
    -- PWR_FANk: RPM
    { reg := .pwrFan, base := 0x160020, n1 := 6, s1 := 0x8,
      fields := [⟨15, 0, .ro, 0⟩] },
    -- PWR_TEMP: PROC_DC, INLET_DC
    { reg := .pwrTemp, base := 0x160050,
      fields := [⟨31, 16, .ro, 0⟩, ⟨15, 0, .ro, 0⟩] },
    -- PWR_LED: LAMP_TEST, LOCATE, ERR_EN
    { reg := .pwrLed, base := 0x160058,
      fields := [⟨2, 2, .wo, 0⟩, ⟨1, 1, .rw, 0⟩, ⟨0, 0, .rw, 1⟩] }
  ]

/-- Registers of the SEC block. -/
def regsSec : List RegDef :=
  [
    -- SEC_BOOT: WINDFALL_REASON, LAST_FAIL, FAIL_COUNT, RUNNING_SLOT, PREFERRED_SLOT, WINDFALL_ARMED, CONFIRMED, START_COUNT
    { reg := .secBoot, base := 0x170000,
      fields := [⟨47, 40, .ro, 0⟩, ⟨39, 32, .ro, 0⟩, ⟨31, 28, .ro, 0⟩, ⟨27, 27, .ro, 0⟩, ⟨26, 26, .ro, 0⟩, ⟨25, 25, .ro, 0⟩, ⟨24, 24, .ro, 0⟩, ⟨23, 0, .ro, 0⟩] },
    -- SEC_SECURITY: MIN_SVN, SVN_A, SVN_B, IDENTITY_OK
    { reg := .secSecurity, base := 0x170008,
      fields := [⟨47, 36, .ro, 0⟩, ⟨35, 24, .ro, 0⟩, ⟨23, 12, .ro, 0⟩, ⟨0, 0, .ro, 0⟩] },
    -- SEC_SLOT_A and B: VALID, MAJOR, MINOR, PATCH
    { reg := .secSlot, base := 0x170010, n1 := 2, s1 := 0x8,
      fields := [⟨47, 47, .ro, 0⟩, ⟨23, 16, .ro, 0⟩, ⟨15, 8, .ro, 0⟩, ⟨7, 0, .ro, 0⟩] },
    -- SEC_FW_CTRL: OP, SLOT, LENGTH
    { reg := .secFwCtrl, base := 0x170020,
      fields := [⟨47, 44, .wo, 0⟩, ⟨40, 40, .wo, 0⟩, ⟨31, 0, .wo, 0⟩] },
    -- SEC_FW_DATA: DATA
    { reg := .secFwData, base := 0x170028,
      fields := [⟨47, 0, .wo, 0⟩] },
    -- SEC_FW_STATUS: STATE, REASON, SLOT, RECEIVED
    { reg := .secFwStatus, base := 0x170030,
      fields := [⟨47, 44, .ro, 0⟩, ⟨43, 40, .ro, 0⟩, ⟨39, 39, .ro, 0⟩, ⟨31, 0, .ro, 0⟩] },
    -- SEC_FW_SPACE: SPACE
    { reg := .secFwSpace, base := 0x170038,
      fields := [⟨22, 0, .ro, 0x400000⟩] },
    -- SEC_KEK_CTRL: LOAD, CLEAR, LEN256, SLOT
    { reg := .secKekCtrl, base := 0x170040,
      fields := [⟨47, 47, .wo, 0⟩, ⟨46, 46, .wo, 0⟩, ⟨45, 45, .wo, 0⟩, ⟨2, 0, .wo, 0⟩] },
    -- SEC_KEK_Ww: BYTES
    { reg := .secKekW, base := 0x170048, n1 := 6, s1 := 0x8,
      fields := [⟨47, 0, .wo, 0⟩] },
    -- SEC_KEK_STATUS: HELD
    { reg := .secKekStatus, base := 0x170078,
      fields := [⟨7, 0, .ro, 0⟩] },
    -- SEC_ID_FPw: FP
    { reg := .secIdFp, base := 0x170080, n1 := 6, s1 := 0x8,
      fields := [⟨47, 0, .ro, 0⟩] }
  ]

/-- Every mapped register. -/
def regTable : List RegDef :=
  regsSeed ++ regsGlb ++ regsTb ++ regsHci ++ regsMac ++ regsMgt ++ regsStr ++ regsCip ++ regsDec ++ regsCmp ++ regsEnc ++ regsAud ++ regsTsk ++ regsDma ++ regsMem ++ regsPrs ++ regsGrn ++ regsErr ++ regsPwr ++ regsSec

-- Offsets by name and instance.

def oSeedId : Nat := 0x0
def oSeedMember : Nat := 0x8
def oSeedRelease : Nat := 0x10
def oSeedSerial : Nat := 0x18
def oSeedFormats : Nat := 0x20
def oGlbIdent : Nat := 0x10000
def oGlbState : Nat := 0x10008
def oGlbStateReq : Nat := 0x10010
def oGlbProfile : Nat := 0x10018
def oGlbPartA : Nat := 0x10020
def oGlbPartB : Nat := 0x10028
def oGlbPartC : Nat := 0x10030
def oGlbPartCommit : Nat := 0x10038
def oGlbPartStatus : Nat := 0x10040
def oGlbOxvanCfg : Nat := 0x10048
def oGlbOxvanCount : Nat := 0x10050
def oTbCtrl : Nat := 0x20000
def oTbStatus : Nat := 0x20008
def oTbIncr : Nat := 0x20010
def oTbStepSec : Nat := 0x20018
def oTbStepFrac : Nat := 0x20020
def oTbSnapSec : Nat := 0x20028
def oTbSnapFrac : Nat := 0x20030
def oTbStepThresh : Nat := 0x20038
def oTbStepMax : Nat := 0x20040
def oTbEventCount : Nat := 0x20048
def oTbPpsOut : Nat := 0x20050
def oTbPtpClock : Nat := 0x20058
def oTbPtpPort (n : Nat) : Nat := 0x20060 + 0x8 * n
def oTbLat (n : Nat) : Nat := 0x20070 + 0x8 * n
def oTbLatGrinal (n : Nat) : Nat := 0x20080 + 0x8 * n
def oHciCtrl : Nat := 0x30000
def oHciStatus : Nat := 0x30008
def oHciCount : Nat := 0x30010
def oHciCnp : Nat := 0x30018
def oHciSlotCfg (n : Nat) : Nat := 0x30100 + 0x20 * n
def oHciPeerA (n : Nat) : Nat := 0x30108 + 0x20 * n
def oHciPeerB (n : Nat) : Nat := 0x30110 + 0x20 * n
def oHciPeerC (n : Nat) : Nat := 0x30118 + 0x20 * n
def oMacCtrl (n : Nat) : Nat := 0x40000 + 0x10000 * n
def oMacStatus (n : Nat) : Nat := 0x40008 + 0x10000 * n
def oMacVlan (n : Nat) : Nat := 0x40010 + 0x10000 * n
def oMacUcValid (n : Nat) : Nat := 0x40018 + 0x10000 * n
def oMacUc (n k : Nat) : Nat := 0x40020 + 0x10000 * n + 8 * k
def oMacIp4 (n : Nat) : Nat := 0x40060 + 0x10000 * n
def oMacIp6A (n : Nat) : Nat := 0x40068 + 0x10000 * n
def oMacIp6B (n : Nat) : Nat := 0x40070 + 0x10000 * n
def oMacIp6C (n : Nat) : Nat := 0x40078 + 0x10000 * n
def oMacFc (n : Nat) : Nat := 0x40080 + 0x10000 * n
def oMacTcMap (n : Nat) : Nat := 0x40088 + 0x10000 * n
def oMacGroupHash (n k : Nat) : Nat := 0x40100 + 0x10000 * n + 8 * k
def oMacGateCtrl (n : Nat) : Nat := 0x40200 + 0x10000 * n
def oMacGateBase (n : Nat) : Nat := 0x40208 + 0x10000 * n
def oMacGateBaseFrac (n : Nat) : Nat := 0x40210 + 0x10000 * n
def oMacGateCycle (n : Nat) : Nat := 0x40218 + 0x10000 * n
def oMacGateCommit (n : Nat) : Nat := 0x40220 + 0x10000 * n
def oMacGateStatus (n : Nat) : Nat := 0x40228 + 0x10000 * n
def oMacGateEntry (n k : Nat) : Nat := 0x40800 + 0x10000 * n + 8 * k
def oMacCounter (n k : Nat) : Nat := 0x40400 + 0x10000 * n + 8 * k
def oMgtCtrl : Nat := 0x60000
def oMgtStatus : Nat := 0x60008
def oMgtIp4 : Nat := 0x60010
def oMgtIp6A : Nat := 0x60018
def oMgtIp6B : Nat := 0x60020
def oMgtIp6C : Nat := 0x60028
def oMgtCount : Nat := 0x60030
def oStrFallback : Nat := 0x80000
def oStrRtcp : Nat := 0x80008
def oStrFeedback : Nat := 0x80010
def oStrEngine : Nat := 0x80018
def oStrContexts : Nat := 0x80020
def oStrCounter (n : Nat) : Nat := 0x80028 + 0x8 * n
def oCipCtrl : Nat := 0xA0000
def oCipWarnSrtp : Nat := 0xA0008
def oCipWarnSrtcp : Nat := 0xA0010
def oCipKeys : Nat := 0xA0018
def oCipPersist : Nat := 0xA0020
def oCipFlush : Nat := 0xA0028
def oCipFlushStatus : Nat := 0xA0030
def oCipLaneFail (n : Nat) : Nat := 0xA0100 + 0x8 * n
def oCipCounter (n : Nat) : Nat := 0xA0200 + 0x8 * n
def oDecAdmit : Nat := 0xC0000
def oDecLoad : Nat := 0xC0008
def oDecContexts : Nat := 0xC0010
def oDecCounter (n : Nat) : Nat := 0xC0100 + 0x8 * n
def oCmpLoad : Nat := 0xD0000
def oCmpCanvases : Nat := 0xD0008
def oCmpCounter (n : Nat) : Nat := 0xD0100 + 0x8 * n
def oEncAdmit : Nat := 0xE0000
def oEncLoad : Nat := 0xE0008
def oEncChannels : Nat := 0xE0010
def oEncCounter (n : Nat) : Nat := 0xE0100 + 0x8 * n
def oAudLoad : Nat := 0xF0000
def oAudCounter (n : Nat) : Nat := 0xF0100 + 0x8 * n
def oTskCtrl : Nat := 0x100000
def oTskStatus : Nat := 0x100008
def oTskCount : Nat := 0x100010
def oTskClassCfg (n : Nat) : Nat := 0x100100 + 0x20 * n
def oTskClassStatus (n : Nat) : Nat := 0x100108 + 0x20 * n
def oTskClassDepths (n : Nat) : Nat := 0x100110 + 0x20 * n
def oTskClassWait (n : Nat) : Nat := 0x100118 + 0x20 * n
def oTskCoreState (n : Nat) : Nat := 0x101000 + 0x20 * n
def oTskCoreWait (n : Nat) : Nat := 0x101008 + 0x20 * n
def oTskCoreLoad (n : Nat) : Nat := 0x101010 + 0x20 * n
def oTskCoreSteals (n : Nat) : Nat := 0x101018 + 0x20 * n
def oDmaChCommit : Nat := 0x110000
def oDmaChCommitStatus : Nat := 0x110008
def oDmaBytes : Nat := 0x110010
def oDmaTransfers : Nat := 0x110018
def oDmaEvents : Nat := 0x110020
def oDmaChCfg (n : Nat) : Nat := 0x111000 + 0x80 * n
def oDmaChStatus (n : Nat) : Nat := 0x111008 + 0x80 * n
def oDmaChOp (n : Nat) : Nat := 0x111010 + 0x80 * n
def oDmaChSrc (n : Nat) : Nat := 0x111018 + 0x80 * n
def oDmaChDst (n : Nat) : Nat := 0x111020 + 0x80 * n
def oDmaChSize (n : Nat) : Nat := 0x111028 + 0x80 * n
def oDmaChStride (n : Nat) : Nat := 0x111030 + 0x80 * n
def oDmaChPlane (n : Nat) : Nat := 0x111038 + 0x80 * n
def oDmaChArm (n : Nat) : Nat := 0x111040 + 0x80 * n
def oDmaChTrig (n : Nat) : Nat := 0x111048 + 0x80 * n
def oDmaChPeriod (n : Nat) : Nat := 0x111050 + 0x80 * n
def oDmaChWindow (n : Nat) : Nat := 0x111058 + 0x80 * n
def oMemCtrl : Nat := 0x120000
def oMemStatus : Nat := 0x120008
def oMemCount : Nat := 0x120010
def oMemCorr (n : Nat) : Nat := 0x120100 + 0x8 * n
def oPrsCtrl : Nat := 0x130000
def oPrsStatus : Nat := 0x130008
def oPrsSpan : Nat := 0x130010
def oPrsBlocks : Nat := 0x130018
def oPrsCounter (n : Nat) : Nat := 0x130100 + 0x8 * n
def oGrnCfg : Nat := 0x140000
def oGrnStatus : Nat := 0x140008
def oGrnEpoch : Nat := 0x140010
def oGrnTimers : Nat := 0x140018
def oGrnPort (n : Nat) : Nat := 0x140100 + 0x80 * n
def oGrnPortCounter (n k : Nat) : Nat := 0x140108 + 0x80 * n + 8 * k
def oGrnCounter (n : Nat) : Nat := 0x140200 + 0x8 * n
def oErrCtrl : Nat := 0x150000
def oErrStatus : Nat := 0x150008
def oErrSeq : Nat := 0x150010
def oErrCount : Nat := 0x150018
def oErrDeg (n : Nat) : Nat := 0x150020 + 0x8 * n
def oErrMlogCount : Nat := 0x150030
def oErrMlogIndex : Nat := 0x150038
def oErrMlogW (n : Nat) : Nat := 0x150040 + 0x8 * n
def oErrDropSlot (n : Nat) : Nat := 0x150100 + 0x8 * n
def oErrLastW (n : Nat) : Nat := 0x150200 + 0x8 * n
def oPwrCtrl : Nat := 0x160000
def oPwrStatus : Nat := 0x160008
def oPwrSupply (n : Nat) : Nat := 0x160010 + 0x8 * n
def oPwrFan (n : Nat) : Nat := 0x160020 + 0x8 * n
def oPwrTemp : Nat := 0x160050
def oPwrLed : Nat := 0x160058
def oSecBoot : Nat := 0x170000
def oSecSecurity : Nat := 0x170008
def oSecSlot (n : Nat) : Nat := 0x170010 + 0x8 * n
def oSecFwCtrl : Nat := 0x170020
def oSecFwData : Nat := 0x170028
def oSecFwStatus : Nat := 0x170030
def oSecFwSpace : Nat := 0x170038
def oSecKekCtrl : Nat := 0x170040
def oSecKekW (n : Nat) : Nat := 0x170048 + 0x8 * n
def oSecKekStatus : Nat := 0x170078
def oSecIdFp (n : Nat) : Nat := 0x170080 + 0x8 * n

/-- The instance of a register definition at an offset: outer and inner instance numbers. -/
def RegDef.at? (d : RegDef) (o : Nat) : Option (Nat × Nat) :=
  if o < d.base then none
  else
    let r := o - d.base
    let i := if d.s1 = 0 then 0 else r / d.s1
    let j := if d.s2 = 0 then 0 else (r - i * d.s1) / d.s2
    if i < d.n1 ∧ j < d.n2 ∧ i * d.s1 + j * d.s2 = r then some (d.i0 + i, j) else none

/-- The register mapped at an offset (R155), with its instance numbers. -/
def regAt (o : Nat) : Option (RegDef × Nat × Nat) :=
  regTable.findSome? (fun d => (d.at? o).map (fun ij => (d, ij.1, ij.2)))

/-- The value the fields' reset values give. -/
def fieldsReset (fs : List Field) : Word := fs.foldl (fun w f => putBits w f.hi f.lo f.reset) 0

/-- The reset value of a register. UC0 of port n is the module's base address plus 1 + n (R188). -/
def regReset (d : RegDef) (i j : Nat) : Word :=
  if d.reg = .macUc ∧ j = 0 then Config.baseMac + word (1 + i) else fieldsReset d.fields

/-- The reset value at an offset; an unmapped offset holds no state. -/
def resetAt (o : Nat) : Word :=
  match regAt o with
  | some (d, i, j) => regReset d i j
  | none => 0

/-- The stored value of a register: what was last written to it, else its reset value. -/
def regRaw (s : State) (o : Nat) : Word := (Tbl.get? s.regs o).getD (resetAt o)

/-- Store a register's value; a value equal to the reset value is not listed. -/
def setRaw (s : State) (o : Nat) (v : Word) : State :=
  { s with regs := if v = resetAt o then Tbl.del s.regs o else Tbl.put s.regs o v }

/-- A field of a stored register. -/
def getF (s : State) (o hi lo : Nat) : Nat := bits (regRaw s o) hi lo

/-- Set a field of a stored register. -/
def setF (s : State) (o hi lo v : Nat) : State := setRaw s o (putBits (regRaw s o) hi lo v)

/-- Add to a saturating counter field. -/
def bumpF (s : State) (o hi lo n : Nat) : State :=
  setF s o hi lo (min (getF s o hi lo + n) (2 ^ (hi + 1 - lo) - 1))

/-- Add to a 48-bit counter, modulo 2^48. -/
def bumpC (s : State) (o n : Nat) : State := setRaw s o (regRaw s o + word n)

/-- A flag of a stored register. -/
def getB (s : State) (o i : Nat) : Bool := getF s o i i = 1

end Sys2Proof.Machine
end

