-- ==== Sys2Proof/Machine/Ops.lean ====
section
/-! DEFINITION. Operations that every unit shares: time, emissions, free values, memory bytes, connection slots,
completion and event records, wakes, error records. -/

namespace Sys2Proof.Machine

-- ## Time

/-- 2^76: one second in the unit of instants (R45). -/
def second : Nat := 2 ^ 76

/-- R45: bridge time at a RAW value under OFFSET, ANCHOR and INCR, an instant in 2^-76 s, modulo 2^124. -/
def bridgeTime (offset : Int) (anchor incr : Nat) (raw : Int) : Nat :=
  ((offset + (raw - (anchor : Int)) * (incr : Int)) % (2 ^ 124 : Int)).toNat

/-- Bridge time as the time base stands. -/
def TimeBase.now (t : TimeBase) : Nat := bridgeTime t.offset t.anchor t.incr t.raw

/-- Bridge time of the module. -/
def now (s : State) : Nat := s.time.now

/-- Durations as instants' differences, rounded up to the unit. -/
def durNs (n : Nat) : Nat := ceilDiv (n * second) 1000000000
def durUs (n : Nat) : Nat := ceilDiv (n * second) 1000000
def durMs (n : Nat) : Nat := ceilDiv (n * second) 1000
def durS (n : Nat) : Nat := n * second
/-- `n` microseconds of the always-on controller, in cycles of 1.25 ns (800 MHz). -/
def aonUs (n : Nat) : Nat := n * 800
/-- `n` picoseconds, in whole units of 2^-76 s. -/
def durPs (n : Nat) : Nat := n * second / 1000000000000

/-- R16: the seconds and the fraction of BT96. -/
def bt96Sec (t : Nat) : Word := word (t / second)
def bt96Frac (t : Nat) : Word := word (t / 2 ^ 28)
/-- R17: BT48 is bits [71:24] of BT96. -/
def bt48 (t : Nat) : Word := word (t / 2 ^ 52)

/-- R18: the instant nearest to `t` whose BT48 value is `v`; it may lie before bridge time 0. -/
def nearest (t : Nat) (v : Word) : Int :=
  let cur : Nat := t / 2 ^ 52
  ((cur : Int) + (v - word cur).toInt) * 2 ^ 52

/-- A deadline at an instant; one before bridge time 0 has passed already. -/
def deadlineAt (x : Int) : Nat := x.toNat

/-- The record of the present TIME cycle. -/
def thisCycle (s : State) : Cycle := if s.cyc.no = s.power.aon then s.cyc else { no := s.power.aon }

/-- OFFSET, ANCHOR or INCR is about to change: the cycle keeps the values that it began with (R48, R57). -/
def noteTime (s : State) : State :=
  let c := thisCycle s
  { s with cyc := { c with before := some (c.before.getD (s.time.offset, s.time.anchor, s.time.incr)) } }

/-- The bridge time of the TIME cycle before this one, under the values in force in that cycle (R48). -/
def lastCycle (s : State) : Nat :=
  if s.time.raw = 0 then 0
  else
    let b := (thisCycle s).before.getD (s.time.offset, s.time.anchor, s.time.incr)
    bridgeTime b.1 b.2.1 b.2.2 ((s.time.raw : Int) - 1)

/-- R11: the module sets a W1C bit; a write of 1 in the same cycle does not clear it. -/
def raiseBit (s : State) (o i : Nat) : State :=
  let c := thisCycle s
  { setF s o i i 1 with cyc := { c with raised := (o, i) :: c.raised } }

/-- The W1C bits of a register that the module has set in this cycle. -/
def raisedNow (s : State) (o : Nat) : Word :=
  (((thisCycle s).raised.filter (fun p => p.1 == o)).map (fun p => word (2 ^ p.2))).foldl (· ||| ·) 0

/-- R57, R61: events have fired late; TB_EVENT_COUNT.LATE counts them and TB_STATUS.LATE is set. -/
def lateEvents (s : State) (n : Nat) : State :=
  if n = 0 then s else raiseBit (bumpF s oTbEventCount 47 32 n) oTbStatus 5

/-- R57: an event armed with a deadline: it is late when the cycle before this one had reached it. -/
def armEvent (s : State) (deadline : Nat) : State := lateEvents s (b2n (decide (deadline ≤ lastCycle s)))

/-- One TIME cycle passes (assumption 2): RAW counts while the time base runs, and the always-on controller counts. -/
def idle (s : State) : State :=
  { s with
    time := if s.time.released then { s.time with raw := s.time.raw + 1 } else s.time
    power := { s.power with aon := s.power.aon + 1 } }

/-- R67: bridge time in the PTP format: seconds, nanoseconds and 2^-16 ns. -/
def btToPtp (t : Nat) : PtpTime :=
  let scaled := (bt96Frac t).toNat * 1000000000 / 2 ^ 32
  ((bt96Sec t).toNat, scaled / 65536, scaled % 65536)

/-- R63, R64: the timestamps of a frame at a data port, in BT96: RX_PS is subtracted on receive, TX_PS added on transmit. -/
def cutBt96 (t : Nat) : Nat := t / 2 ^ 28 * 2 ^ 28
def rxStamp (s : State) (port : Nat) : Nat := cutBt96 (now s - durPs (getF s (oTbLat port) 23 0))
def txStamp (s : State) (port : Nat) : Nat := cutBt96 (now s + durPs (getF s (oTbLat port) 47 24))

/-- R63, R64: the same at a Grinal port, where the reference plane is the cage (R62); the frame's start lies `age` TIME cycles
back when it is taken in. -/
def grnRxStamp (s : State) (p age : Nat) : Nat := cutBt96 (now s - age * s.time.incr - durPs (getF s (oTbLatGrinal p) 23 0))
def grnTxStamp (s : State) (p : Nat) : Nat := cutBt96 (now s + durPs (getF s (oTbLatGrinal p) 47 24))

/-- The PTP state of a data port. -/
def getPtp (s : State) (port : Nat) : PtpPort := if port = 0 then s.time.ptp0 else s.time.ptp1
def setPtp (s : State) (port : Nat) (p : PtpPort) : State :=
  if port = 0 then { s with time := { s.time with ptp0 := p } } else { s with time := { s.time with ptp1 := p } }

-- ## Emissions and free values

/-- The module sends or drives something. -/
def emit (s : State) (e : Emission) : State := { s with out := s.out ++ [e] }

/-- Several emissions in order. -/
def emits (s : State) (es : List Emission) : State := { s with out := s.out ++ es }

/-- A fresh free value of `w` bits (assumption 3). -/
def freeVal (s : State) (w : Nat) : BitVec w := Config.free w s.fresh

/-- The next free value is a fresh one. -/
def nextFree (s : State) : State := { s with fresh := s.fresh + 1 }

-- ## Memory

/-- The byte at a module address; an address that nothing has written reads 0 (assumption 4). -/
def readByte (m : List Host.Cell) (a : Nat) : Byte :=
  match m with
  | [] => 0
  | (k, b) :: rest => if k = a then b else readByte rest a

/-- Write one byte, keeping the canonical form: addresses strictly rising, no entry equal to 0. -/
def writeByte (m : List Host.Cell) (a : Nat) (b : Byte) : List Host.Cell :=
  match m with
  | [] => if b = 0 then [] else [(a, b)]
  | (k, v) :: rest =>
    if a < k then (if b = 0 then (k, v) :: rest else (a, b) :: (k, v) :: rest)
    else if a = k then (if b = 0 then rest else (a, b) :: rest)
    else (k, v) :: writeByte rest a b

/-- Write bytes at rising addresses. -/
def writeBytes (m : List Host.Cell) (a : Nat) (bs : List Byte) : List Host.Cell :=
  match bs with
  | [] => m
  | b :: rest => writeBytes (writeByte m a b) (a + 1) rest

/-- Read `n` bytes from `a` on. -/
def readBytes (m : List Host.Cell) (a n : Nat) : List Byte :=
  match n with
  | 0 => []
  | n + 1 => readByte m a :: readBytes m (a + 1) n

/-- The canonical form of memory: addresses strictly rising and no zero byte listed. -/
def memWf (m : List Host.Cell) : Bool :=
  match m with
  | [] => true
  | [p] => p.2 != 0
  | p :: q :: rest => p.2 != 0 && decide (p.1 < q.1) && memWf (q :: rest)

/-- Bytes written to DRAM at a module address. A write of a whole 64-byte unit clears its poison (R440). -/
def dramWrite (s : State) (a : Nat) (bs : List Byte) : State :=
  { s with memory := { s.memory with
    dram := writeBytes s.memory.dram a bs
    poison := s.memory.poison.filter (fun u => !(decide (a ≤ u) && decide (u + 64 ≤ a + bs.length))) } }

/-- Bytes of DRAM. -/
def dramRead (s : State) (a n : Nat) : List Byte := readBytes s.memory.dram a n

/-- The number that bytes spell, least significant byte first (R7). -/
def leNat (bs : List Byte) : Nat :=
  match bs with
  | [] => 0
  | b :: rest => b.toNat + 256 * leNat rest

/-- `n` bytes of a number, least significant first. -/
def leBytes (n v : Nat) : List Byte :=
  match n with
  | 0 => []
  | n + 1 => BitVec.ofNat 8 v :: leBytes n (v / 256)

/-- R134: a word with its 6 bytes in the other order. -/
def swapWord (w : Word) : Word := word (leNat (leBytes 6 w.toNat).reverse)

/-- Word `i` of a block of 6-byte words (R7). -/
def wordAt (bs : List Byte) (i : Nat) : Word := word (leNat ((bs.drop (6 * i)).take 6))

-- ## Power state

/-- GLB_STATE.STATE (R176). -/
def PState.code (p : PState) : Nat :=
  match p with
  | .off => 0
  | .starting => 1
  | .active => 2
  | .quiet => 3
  | .dormant => 4
  | .windfall => 5

/-- The module is in service: Active or Quiet. -/
def running (s : State) : Bool := s.power.st = .active || s.power.st = .quiet

/-- R146: a transition to Dormant, or to a restart, has begun: no ring is fetched any more. -/
def leaving (s : State) : Bool := s.power.target == some .dormant || s.power.target == some .starting

/-- R175: Oxvan is answered: the module is ready, or in Windfall mode. -/
def setupOpen (s : State) : Bool := s.power.st != .off && s.power.st != .starting

/-- A set-up write that a row stands for, as an item of a batch: nothing happens while Oxvan is not answered, and in
Windfall mode the item fails with STATE (R529). -/
def setupItem (s : State) (r : State × IStatus) : State :=
  if !(setupOpen s) then s
  else if s.power.st = .windfall then emit s (.itemStatus .state)
  else emit r.1 (.itemStatus r.2)

/-- R513: whether a write to MRAM requested now is made. -/
def mramWritable (s : State) : Bool :=
  match s.power.powerFailAt with
  | none => true
  | some t => s.power.aon ≤ t + aonUs 5000

/-- The module is a member of a bramble (R15, R469). -/
def inBramble (s : State) : Bool := s.grn.state = .member || s.grn.state = .master

/-- The member number by which the module owns objects (R15). A DETACHED member keeps its objects and so their handles
(R471, assumption 44). -/
def ownMember (s : State) : Nat := if inBramble s || s.grn.state = .detached then getF s oGrnCfg 3 0 else 0

/-- R13: a handle. -/
def handle (ty member index : Nat) : Word := word (ty * 2 ^ 40 + member * 2 ^ 36 + index)

/-- The handle of an own object. -/
def ownHandle (s : State) (ty index : Nat) : Word := handle ty (ownMember s) index

-- ## Connection slots

/-- A connection slot. -/
def getSlot (s : State) (n : Nat) : Slot := s.hci.slots.getD n {}

/-- Replace a connection slot. -/
def setSlot (s : State) (n : Nat) (sl : Slot) : State :=
  { s with hci := { s.hci with slots := s.hci.slots.set n sl } }

/-- A slot with a live queue pair (HCI_STATUS.CONNECTED). -/
def Slot.connected (sl : Slot) : Bool := sl.phase = .bound || sl.phase = .unbound

/-- A slot whose rings and queues are kept: bound, suspended, resuming, or closing with commands still running. -/
def Slot.held (sl : Slot) : Bool :=
  match sl.phase with
  | .bound => true
  | .suspended _ => true
  | .awaitRtu r _ => r
  | .closing _ => true
  | .unbound => false
  | .free => false

/-- R117, R198: a packet of a slot joins those that wait to be sent; connection management goes over QP1. -/
def RoceMsg.overQp1 (m : RoceMsg) : Bool :=
  match m with
  | .cmRep _ => true
  | .cmRej _ => true
  | .cmMra _ => true
  | .cmDreq => true
  | .cmDrep => true
  | .cnp => false
  | .write _ _ _ _ _ => false
  | .readReq _ _ _ => false
  | .readResp _ => false
  | .nakRemoteAccess => false
  | .nakInvalidRequest => false

/-- The packet that carries a message of a slot. -/
def slotPkt (sl : Slot) (n : Nat) (m : RoceMsg) : RocePkt :=
  { slot := some n, port := sl.port, dst := sl.peerMac, dip := sl.peer
    sport := 0xC000 + (if m.overQp1 then 1 else sl.qpn.toNat) % 16384
    dscp := bits sl.cfg 31 26, cls := bits sl.cfg 25 23, m := m }

/-- Packets join those that wait to be sent (R118, R557). -/
def sendPkts (s : State) (ps : List RocePkt) : State := { s with hci := { s.hci with sendQ := s.hci.sendQ ++ ps } }
def sendRoce (s : State) (n : Nat) (m : RoceMsg) : State := sendPkts s [slotPkt (getSlot s n) n m]

/-- The pieces of at most 4,096 bytes that a message of some bytes takes (R117), with their offsets. -/
def mtuPieces (bs : List Byte) : List (Nat × List Byte) :=
  (List.range (max 1 (ceilDiv bs.length 4096))).map (fun k => (4096 * k, (bs.drop (4096 * k)).take 4096))

/-- An RDMA WRITE of a slot, with an immediate when one is given (R117). -/
def sendWrite (s : State) (n : Nat) (addr : Word) (rkey : BitVec 32) (data : List Byte) (imm : Option (BitVec 32)) : State :=
  let ps := mtuPieces data
  sendPkts s (ps.map (fun p => slotPkt (getSlot s n) n
    (.write (addr + word p.1) rkey (p.1 == 0) p.2 (if p.1 + p.2.length = data.length then imm else none))))

/-- The answer to a host's RDMA READ. -/
def sendData_ (s : State) (n : Nat) (data : List Byte) : State :=
  sendPkts s ((mtuPieces data).map (fun p => slotPkt (getSlot s n) n (.readResp p.2)))

/-- A write to a host region of a slot, `off` bytes into it. -/
def regionWrite (s : State) (n region off : Nat) (data : List Byte) : State :=
  match Tbl.get? (getSlot s n).regions region with
  | none => s
  | some r => sendWrite s n (r.addr + word off) r.rkey data none

/-- R134: the words of a record as they stand on the wire. -/
def wireRec (sl : Slot) (r : CRec) : CRec :=
  if bitAt sl.cfg 22 then ⟨swapWord r.w0, swapWord r.w1, swapWord r.w2, swapWord r.w3⟩ else r

/-- R134 for an error record. -/
def wireErr (sl : Slot) (r : ERec) : ERec :=
  if bitAt sl.cfg 22 then
    ⟨swapWord r.w0, swapWord r.w1, swapWord r.w2, swapWord r.w3, swapWord r.w4, swapWord r.w5, swapWord r.w6, swapWord r.w7⟩
  else r

/-- The bytes of a word, and of a record, in host memory (R7, R129). -/
def wordLe (w : Word) : List Byte := leBytes 6 w.toNat
def recBytes (r : CRec) : List Byte := wordLe r.w0 ++ wordLe r.w1 ++ wordLe r.w2 ++ wordLe r.w3
def errBytes (r : ERec) : List Byte :=
  wordLe r.w0 ++ wordLe r.w1 ++ wordLe r.w2 ++ wordLe r.w3 ++ wordLe r.w4 ++ wordLe r.w5 ++ wordLe r.w6 ++ wordLe r.w7

/-- R129: the status block: the producer index, then four zero bytes. -/
def statusBlock (pi : BitVec 32) : List Byte := leBytes 4 pi.toNat ++ [0, 0, 0, 0]

/-- R129: the host address of record `i` of a queue of 2^n records of `size` bytes, and of the status block behind them. -/
def recAddr (base : Word) (n size : Nat) (i : BitVec 32) : Word := base + word (size * (i.toNat % 2 ^ n))
def statusAddr (base : Word) (n size : Nat) : Word := base + word (size * 2 ^ n)

/-- Write a queue's status block, as a wake when an immediate is given (R129, R142). -/
def writeCqStatus (s : State) (slot : Nat) (cq : Queue) (imm : Option (BitVec 32)) : State :=
  sendWrite s slot (statusAddr cq.addr cq.log2 24) cq.rkey (statusBlock cq.pi) imm
def writeEqStatus (s : State) (slot : Nat) (eq : ErrQueue) (imm : Option (BitVec 32)) : State :=
  sendWrite s slot (statusAddr eq.addr eq.log2 48) eq.rkey (statusBlock eq.pi) imm

/-- Write record `i` of a queue, with the swap of R134. -/
def writeCqRec (s : State) (slot : Nat) (cq : Queue) (i : BitVec 32) (r : CRec) : State :=
  sendWrite s slot (recAddr cq.addr cq.log2 24 i) cq.rkey (recBytes (wireRec (getSlot s slot) r)) none
def writeEqRec (s : State) (slot : Nat) (eq : ErrQueue) (i : BitVec 32) (r : ERec) : State :=
  sendWrite s slot (recAddr eq.addr eq.log2 48 i) eq.rkey (errBytes (wireErr (getSlot s slot) r)) none

/-- R142: the immediate value of a wake. -/
def wakeImm (errorQueue : Bool) (q : Nat) (pi : BitVec 32) : BitVec 32 :=
  BitVec.ofNat 32 ((if errorQueue then 2 ^ 30 else 0) + q * 2 ^ 24 + pi.toNat % 2 ^ 24)

/-- R141: whether an armed queue wakes its host at instant `t`. -/
def Arm.due (a : Arm) (unread : Nat) (t : Nat) : Bool :=
  decide (unread ≥ max a.count 1) || (decide (unread ≥ 1) && decide (t ≥ a.armedAt + durUs a.delayUs))

/-- Records between consumer and producer index. -/
def Queue.unread (q : Queue) : Nat := (q.pi - q.ci).toNat
def ErrQueue.unread (q : ErrQueue) : Nat := (q.pi - q.ci).toNat

/-- Entries neither used nor reserved. -/
def Queue.spare (q : Queue) : Nat := 2 ^ q.log2 - (q.unread + q.reserved)
def ErrQueue.spare (q : ErrQueue) : Nat := 2 ^ q.log2 - q.unread

/-- Replace a completion queue of a slot. -/
def setCq (s : State) (slot q : Nat) (cq : Queue) : State :=
  let sl := getSlot s slot
  setSlot s slot { sl with cqs := Tbl.put sl.cqs q cq }

/-- R141: wake the host for a completion queue when a condition holds, then disarm. Only a bound slot can be woken. -/
def wakeCq (s : State) (slot q : Nat) : State :=
  match Tbl.get? (getSlot s slot).cqs q with
  | none => s
  | some cq =>
    match cq.arm with
    | none => s
    | some a =>
      if (getSlot s slot).phase = .bound && a.due cq.unread (now s) then
        writeCqStatus (setCq s slot q { cq with arm := none }) slot cq (some (wakeImm false q cq.pi))
      else s

/-- R141 for the error queue. It has no number: the wake names queue 0 (DESIGN CHOICE, assumption 86). -/
def wakeEq (s : State) (slot : Nat) : State :=
  let sl := getSlot s slot
  match sl.eq with
  | none => s
  | some eq =>
    match eq.arm with
    | none => s
    | some a =>
      if sl.phase = .bound && a.due eq.unread (now s) then
        writeEqStatus (setSlot s slot { sl with eq := some { eq with arm := none } }) slot eq (some (wakeImm true 0 eq.pi))
      else s

/-- Write a record at a completion queue's producer index (R138, R139): the queue has an entry for it. On a bound slot
the record and the status block go to the host; otherwise the record is held. -/
def pushRec (s : State) (slot q : Nat) (r : CRec) : State :=
  let sl := getSlot s slot
  match Tbl.get? sl.cqs q with
  | none => s
  | some cq =>
    let s1 := setCq s slot q { cq with pi := cq.pi + 1, recs := cq.recs ++ [r] }
    let s2 :=
      if sl.phase = .bound then
        writeCqStatus (writeCqRec s1 slot cq cq.pi r) slot { cq with pi := cq.pi + 1 } none
      else s1
    wakeCq s2 slot q

/-- R132: a completion or event record final now. -/
def mkRec (s : State) (tag : BitVec 24) (ring status : Nat) (w1 w3 : Word) : CRec :=
  { w0 := word (tag.toNat * 2 ^ 24 + status * 2 ^ 12 + ring * 2 ^ 6), w1 := w1, w2 := bt48 (now s), w3 := w3 }

/-- R138, R139: complete a command whose entry in queue `q` is reserved. A QUIET command with 0x000 posts nothing; a
closing slot's records are discarded (R145). -/
def complete (s : State) (slot ring q : Nat) (tag : BitVec 24) (quiet : Bool) (status : Nat) (w1 w3 : Word) : State :=
  let sl := getSlot s slot
  match Tbl.get? sl.cqs q with
  | none => s
  | some cq =>
    let s1 := setCq s slot q { cq with reserved := cq.reserved - 1 }
    match sl.phase with
    | .closing _ => s1
    | .free => s1
    | _ => if quiet && status == 0 then s1 else pushRec s1 slot q (mkRec s tag ring status w1 w3)

-- ## Event records (R133, R140)

/-- Count an event record lost for a queue, and owe its notice. -/
def loseEvent (s : State) (slot q : Nat) (cq : Queue) (tag : BitVec 24) (ring : Nat) : State :=
  let n : Notice :=
    match cq.owed with
    | none => { lost := 1, tag := tag, ring := ring }
    | some o => { o with lost := o.lost + 1 }
  bumpF (setCq s slot q { cq with owed := some n }) oHciCount 11 0 1

/-- R140: post an event record to a queue, or hold it in the connection's backlog, or drop it. -/
def postRec (s : State) (slot q : Nat) (tag : BitVec 24) (ring : Nat) (r : CRec) : State :=
  let sl := getSlot s slot
  match sl.phase with
  | .closing _ => s
  | _ =>
    match Tbl.get? sl.cqs q with
    | none => s
    | some cq =>
      if cq.owed.isNone && cq.spare > 0 && !(sl.backlog.any (fun p => p.1 == q)) then pushRec s slot q r
      else if sl.backlog.length < 1024 then setSlot s slot { sl with backlog := sl.backlog ++ [(q, r)] }
      else loseEvent s slot q cq tag ring

/-- An event record made now. -/
def postEvent (s : State) (slot q : Nat) (tag : BitVec 24) (ring status : Nat) (w1 w3 : Word) : State :=
  postRec s slot q tag ring (mkRec s tag ring status w1 w3)

/-- R70: an event record that is dropped at once when its queue has no free, unreserved entry; counted in
TB_EVENT_COUNT.DROPPED. With room it keeps its place behind the records that wait (R140). -/
def postOrDrop (s : State) (slot q : Nat) (tag : BitVec 24) (ring : Nat) (r : CRec) : State :=
  match Tbl.get? (getSlot s slot).cqs q with
  | none => s
  | some cq => if cq.spare = 0 then bumpF s oTbEventCount 15 0 1 else postRec s slot q tag ring r

/-- R140: post what a queue's space allows: first the notice, then waiting records in order. `n` bounds the records. -/
def drainBacklog (s : State) (slot q n : Nat) : State :=
  match n with
  | 0 => s
  | n + 1 =>
    let sl := getSlot s slot
    match Tbl.get? sl.cqs q with
    | none => s
    | some cq =>
      if cq.spare = 0 then s
      else
        match cq.owed with
        | some o =>
          let s1 := setCq s slot q { cq with owed := none }
          drainBacklog (pushRec s1 slot q (mkRec s o.tag o.ring 0x209 (word o.lost) 0)) slot q n
        | none =>
          match sl.backlog.find? (fun p => p.1 == q) with
          | none => s
          | some p =>
            let s1 := setSlot s slot { sl with backlog := sl.backlog.erase p }
            drainBacklog (pushRec s1 slot q p.2) slot q n

-- ## Errors (R494 to R501)

/-- R496: add a record to the event log in MRAM, the newest first, 4,096 at most (R511). -/
def logError (s : State) (r : ERec) : State :=
  if mramWritable s then { s with mram := { s.mram with log := (r :: s.mram.log).take 4096 } } else s

/-- Range of ERR_COUNT and ERR_DROP_SLOTn that counts a class. -/
def classLo (cls : Nat) : Nat := 12 * (cls - 1)

/-- Write a record at an error queue's producer index. -/
def pushErr (s : State) (slot : Nat) (r : ERec) : State :=
  let sl := getSlot s slot
  match sl.eq with
  | none => s
  | some eq =>
    let s1 := setSlot s slot { sl with eq := some { eq with pi := eq.pi + 1, recs := eq.recs ++ [r] } }
    let s2 :=
      if sl.phase = .bound then
        writeEqStatus (writeEqRec s1 slot eq eq.pi r) slot { eq with pi := eq.pi + 1 } none
      else s1
    wakeEq s2 slot

/-- The class and SEQ of an error record. -/
def ERec.cls (r : ERec) : Nat := bits r.w0 47 44
def ERec.seq (r : ERec) : Nat := r.w1.toNat

/-- R498, R499: an error record for one slot. A suspended slot holds it; a full error queue drops and counts it. -/
def errToSlot (s : State) (slot : Nat) (r : ERec) : State :=
  let sl := getSlot s slot
  match sl.phase with
  | .suspended _ => setSlot s slot { sl with errBacklog := sl.errBacklog ++ [r] }
  | .awaitRtu true _ => setSlot s slot { sl with errBacklog := sl.errBacklog ++ [r] }
  | .bound =>
    match sl.eq with
    | none => s
    | some eq =>
      if sl.firstDrop.isNone && eq.spare > 0 then pushErr s slot r
      else
        let s1 := setSlot s slot { sl with firstDrop := some (sl.firstDrop.getD r.seq) }
        bumpF s1 (oErrDropSlot slot) (classLo r.cls + 11) (classLo r.cls) 1
  | _ => s

/-- R498: an error record for every slot that takes records. -/
def errToSlots (s : State) (r : ERec) (n : Nat) : State :=
  match n with
  | 0 => s
  | n + 1 =>
    let s1 := errToSlots s r n
    if bitAt (regRaw s1 oErrCtrl) (8 + n) then errToSlot s1 n r else s1

/-- What an error is (R494, R495). `free` says that the error takes its instance out of service at no cost of a later
class: handling that ends in the cycle of detection. -/
structure ErrSpec where
  code : Nat
  cls : Nat
  inst : Nat := 0
  obj : Word := 0
  a : Word := 0
  b : Word := 0
  conceded : Bool := false
  /-- handling lasts beyond the cycle of detection (R500) -/
  lasts : Bool := false
  /-- the class was raised under R493 -/
  last : Bool := false
  /-- the source is out of service already: no further action (R501) -/
  gone : Bool := false
  deriving DecidableEq, Repr

/-- R496: the errors in handling that were detected before this TIME cycle, the oldest first. -/
def handledBefore (s : State) : List Handling := s.err.handling.filter (fun h => h.cycle != s.power.aon)

/-- R501: the class of an error whose source has an error in handling. -/
def raisedClass (s : State) (e : ErrSpec) : Nat :=
  match (handledBefore s).reverse.find? (fun h => h.code / 256 == e.code / 256 && h.inst == e.inst) with
  | none => e.cls
  | some h => min 4 (h.cls + 1)

/-- Whether the source has an error in handling (R501). -/
def escalates (s : State) (e : ErrSpec) : Bool :=
  (handledBefore s).any (fun h => h.code / 256 == e.code / 256 && h.inst == e.inst)

/-- SEED_RELEASE of what runs (R157, R528). -/
def releaseWord (s : State) : Word :=
  if s.power.st = .windfall then word Config.romBuild.toNat
  else
    let img := if s.power.runningB then s.mram.slotB else s.mram.slotA
    word (img.major * 2 ^ 40 + img.minor * 2 ^ 32 + img.patch * 2 ^ 24 + (img.build.getD Config.build).toNat)

/-- R494: the record of an error. -/
def mkErr (s : State) (e : ErrSpec) (cls : Nat) (escalated : Bool) : ERec :=
  let prev := (handledBefore s).getLast?
  { w0 := word (cls * 2 ^ 44 + b2n prev.isSome * 2 ^ 43 + b2n (escalated || e.last) * 2 ^ 42 + b2n e.conceded * 2 ^ 41
      + e.inst * 2 ^ 16 + e.code)
    w1 := word s.err.nextSeq
    w2 := bt48 (now s)
    w3 := match prev with
      | some h => word h.seq
      | none => 0
    w4 := e.obj
    w5 := e.a
    w6 := e.b
    w7 := word ((releaseWord s).toNat / 2 ^ 24 * 2 ^ 24 + s.power.st.code) }

/-- R496, R498, R501: an error takes its SEQ, is counted, copied to ERR_LAST and logged as its class says; an error
that stays in handling is listed. -/
def recordErr (s : State) (e : ErrSpec) : State × ERec :=
  let esc := escalates s e
  let cls := if esc then raisedClass s e else e.cls
  let r := mkErr s e cls esc
  let lasts := e.lasts && !(esc && e.gone)
  let s1 : State := { s with
    err := { s.err with
      nextSeq := s.err.nextSeq + 1
      last := some r
      handling := if lasts then s.err.handling ++ [⟨s.err.nextSeq, e.code, e.inst, cls, s.power.aon⟩] else s.err.handling }
    power := { s.power with
      moduleErr := s.power.moduleErr || (cls == 4 && e.code != 0x1210) } }
  let s2 := raiseBit (bumpF s1 oErrCount (classLo cls + 11) (classLo cls) 1) oErrStatus (3 + cls)
  (if cls ≥ getF s2 oErrCtrl 2 0 then logError s2 r else s2, r)

/-- R498: raise an error: record it and post it to the slots when its class is at least HOST_CLASS. -/
def raiseErr (s : State) (e : ErrSpec) : State :=
  let sr := recordErr s e
  if sr.2.cls ≥ getF sr.1 oErrCtrl 6 4 then errToSlots sr.1 sr.2 8 else sr.1

/-- R500: the handling of an error of a code and instance ends. -/
def endHandling (s : State) (code inst : Nat) : State :=
  { s with err := { s.err with handling := s.err.handling.filter (fun h => !(h.code == code && h.inst == inst)) } }

-- ## Small table helpers

/-- The number of objects in a table. -/
def Tbl.size {α : Type} (t : Tbl α) : Nat := t.length

/-- Add to a counter of a counter table. -/
def bumpT (t : Tbl Nat) (k n : Nat) : Tbl Nat := Tbl.put t k (Tbl.count t k + n)

/-- The first violated check of a list, in order (R555). -/
def firstFail (cs : List (Bool × Nat)) : Option Nat :=
  match cs with
  | [] => none
  | (bad, code) :: rest => if bad then some code else firstFail rest

end Sys2Proof.Machine
end

