-- ==== Sys2Proof/Machine/Sched.lean ====
section
/-! DEFINITION. The hardware task scheduler (R397 to R413): slots, order, placement, delay lists, cancellation. -/

namespace Sys2Proof.Machine

-- ## Classes and keys (R398, R401)

def clsDec : Nat := 0
def clsCmp : Nat := 1
def clsEnc : Nat := 2
def clsAud : Nat := 3
def clsCtl : Nat := 4

/-- R398: the first core of a class and the number of its cores. -/
def classCores (c : Nat) : Nat × Nat := [(0, 32), (32, 16), (48, 24), (72, 64), (136, 16)].getD c (0, 0)

/-- The class of a core. -/
def coreClass (k : Nat) : Nat := if k < 32 then 0 else if k < 48 then 1 else if k < 72 then 2 else if k < 136 then 3 else 4

/-- The cores of a class, ascending. -/
def coresOf (c : Nat) : List Nat := (List.range (classCores c).2).map (· + (classCores c).1)

/-- R401: AFFINITY and SERIAL keys, by owner. -/
def keyDec (d : Nat) : Nat := 6 * 2 ^ 60 + d
def keyCanvas (c : Nat) : Nat := 7 * 2 ^ 60 + c
def keyEnc (ch layer seg : Nat) : Nat := 8 * 2 ^ 60 + ch * 256 + layer * 16 + seg
def keySender (c : Nat) : Nat := 1 * 2 ^ 60 + c
def keyMix (g : Nat) : Nat := 10 * 2 ^ 60 + g
def keyMixPeriod (g m : Nat) : Nat := 11 * 2 ^ 60 + g * 2 ^ 40 + m % 2 ^ 40
def keyStream (c : Nat) : Nat := 2 * 2 ^ 60 + c

-- ## Slots (R406)

def slotsTotal : Nat := 262144
def clsInUse (s : State) (c : Nat) : Nat := (s.sched.tasks.filter (fun p => p.2.cls == c)).length
def reserveOf (s : State) (c : Nat) : Nat := getF s (oTskClassCfg c) 18 0

/-- R406: whether a request for a slot is granted. -/
def slotGranted (s : State) (c band : Nat) : Bool :=
  let used := ((List.range 5).map (fun k => max (clsInUse s k) (reserveOf s k))).sum
  decide (clsInUse s c < reserveOf s c)
    || (decide (used < slotsTotal) && (decide (band ≤ 1) || decide (slotsTotal - used > getF s oTskCtrl 17 0)))

/-- R408: count a refusal. -/
def slotRefused (s : State) : State := bumpF s oTskCount 31 16 1

-- ## Order (R400)

/-- Deadlines in order, none last. -/
def deadlineLt (a b : Option Nat) : Bool :=
  match a, b with
  | some x, some y => decide (x < y)
  | some _, none => true
  | _, _ => false

/-- R400: "in order". -/
def taskLt (a b : Task) : Bool :=
  decide (a.band < b.band)
    || (a.band == b.band && (deadlineLt a.deadline b.deadline
      || (!(deadlineLt b.deadline a.deadline) && decide (a.seq < b.seq))))

def getTask (s : State) (id : Nat) : Option Task := Tbl.get? s.sched.tasks id
def putTask (s : State) (id : Nat) (t : Task) : State :=
  { s with sched := { s.sched with tasks := Tbl.put s.sched.tasks id t } }

/-- Insert a task into a list, in order. -/
def insertId (s : State) (id : Nat) (t : Task) (xs : List Nat) : List Nat :=
  match xs with
  | [] => [id]
  | y :: rest =>
    match getTask s y with
    | some u => if taskLt t u then id :: y :: rest else y :: insertId s id t rest
    | none => y :: insertId s id t rest

-- ## Cores

def getCore (s : State) (k : Nat) : Core := (Tbl.get? s.sched.cores k).getD {}
def putCore (s : State) (k : Nat) (c : Core) : State :=
  { s with sched := { s.sched with cores := Tbl.put s.sched.cores k c } }
def coreBlocked (s : State) (k : Nat) : Bool :=
  let c := getCore s k
  !c.out && !c.stopped && c.running.isNone
def classList (s : State) (c : Nat) : List Nat := s.sched.classLists.getD c []
def putClassList (s : State) (c : Nat) (xs : List Nat) : State :=
  { s with sched := { s.sched with classLists := s.sched.classLists.set c xs } }

/-- Add a wait to the statistics of a window. -/
def Stats.add (x : Stats) (w : Nat) : Stats := { x with started := x.started + 1, sum := x.sum + w, max := Nat.max x.max w }

/-- R402: core `k` runs a task. The handling of a fault that it outlived ends here (R500). -/
def runTask (s : State) (k id : Nat) : State :=
  match getTask s id with
  | none => s
  | some t =>
    let c := getCore s k
    let w := now s - t.readyAt
    let s1 := putTask s id { t with state := .running, started := true, core := some k, why := none, fault := none }
    let s2 := putCore s1 k { c with running := some id, stats := { c.stats.add w with busyFrom := some (now s) } }
    let st := (Tbl.get? s2.sched.classStats t.cls).getD {}
    let s3 := { s2 with sched := { s2.sched with
      lastCore := Tbl.put s2.sched.lastCore t.affinity k
      classStats := Tbl.put s2.sched.classStats t.cls (st.add w) } }
    match t.fault with
    | some f => endHandling s3 (256 * (9 + t.cls) + 1) f
    | none => s3

/-- R402: the core with the deepest list that core `k` may steal from. -/
def victim (s : State) (k : Nat) : Option Nat :=
  ((coresOf (coreClass k)).filter (fun v => v != k && !(getCore s v).out)).foldl (fun (m : Option Nat) v =>
    match m with
    | none => if (getCore s v).list.isEmpty then none else some v
    | some a => if (getCore s v).list.length > (getCore s a).list.length then some v else some a) none

/-- R402: core `k` asks for work. -/
def ask (s : State) (k : Nat) : State :=
  if !(coreBlocked s k) then s
  else
    let c := getCore s k
    let cls := coreClass k
    let fromClass := fun (id : Nat) => runTask (putClassList s cls ((classList s cls).erase id)) k id
    let fromOwn := fun (id : Nat) => runTask (putCore s k { c with list := c.list.erase id }) k id
    match c.list.head?, (classList s cls).head? with
    | some a, some b =>
      (match getTask s a, getTask s b with
       | some x, some y => if taskLt y x then fromClass b else fromOwn a
       | _, _ => fromOwn a)
    | some a, none => fromOwn a
    | none, some b => fromClass b
    | none, none =>
      let least := getF s oTskCtrl 27 24
      match victim s k with
      | none => s
      | some v =>
        let cv := getCore s v
        if least = 0 || decide (cv.list.length < least) then s
        else
          match cv.list with
          | [] => s
          | x :: rest =>
            let s1 := putCore s v { cv with list := rest, stolen := satAdd 24 cv.stolen 1 }
            let ck := getCore s1 k
            runTask (putCore s1 k { ck with made := satAdd 24 ck.made 1 }) k x

/-- R404: every blocked core of a class asks, the lowest number first. -/
def wakeClass (s : State) (cls : Nat) : State := (coresOf cls).foldl ask s

/-- R403: the scheduler wakes core `k`. -/
def wakeCore (s : State) (k : Nat) : State := { s with sched := { s.sched with woken := k :: s.sched.woken.erase k } }

/-- R403: the scheduler wakes the lowest-numbered blocked core of a class; one that it has woken already is none. -/
def wakeOne (s : State) (cls : Nat) : State :=
  match (coresOf cls).find? (fun k => coreBlocked s k && !(s.sched.woken.contains k)) with
  | some k => wakeCore s k
  | none => s

/-- R404: after the insertions of a cycle, the woken cores ask, the lowest number first. -/
def askWoken (s : State) : State :=
  ((List.range 152).filter (fun k => s.sched.woken.contains k)).foldl ask { s with sched := { s.sched with woken := [] } }

-- ## Creating and readying tasks (R399, R402, R406, R407)

/-- A serial predecessor of a task has not ended (R401). -/
def serialWaits (s : State) (id : Nat) (t : Task) : Bool :=
  match t.serial with
  | none => false
  | some k => s.sched.tasks.any (fun p => p.1 != id && p.2.serial == some k && decide (p.2.seq < t.seq))

/-- R402, R403: insert a task into its class list, which wakes a core of the class. -/
def toClass (s : State) (id : Nat) (t : Task) : State :=
  wakeOne (putClassList s t.cls (insertId s id t (classList s t.cls))) t.cls

/-- R402, R403: insert a task into a core's own list, which wakes that core, and a further one of the class when the list
reaches STEAL_MIN. -/
def toCore (s : State) (c id : Nat) (t : Task) : State :=
  let k := getCore s c
  let s1 := putCore s c { k with list := insertId s id t k.list }
  let s2 := if coreBlocked s1 c then wakeCore s1 c else s1
  if k.list.length + 1 = getF s oTskCtrl 27 24 then wakeOne s2 t.cls else s2

/-- R402: place a ready task. The cores that it wakes ask after the cycle's insertions (`askWoken`). -/
def place (s : State) (id : Nat) (t0 : Task) : State :=
  let t := { t0 with state := .ready, readyAt := now s }
  let s1 := putTask s id t
  match Tbl.get? s.sched.lastCore t.affinity with
  | some c =>
    if !(getCore s c).out && coreClass c == t.cls && decide ((getCore s c).list.length < getF s oTskCtrl 31 28) then
      toCore s1 c id t
    else toClass s1 id t
  | none => toClass s1 id t

/-- Make a task ready unless its serial predecessor runs on. -/
def tryReady (s : State) (id : Nat) : State :=
  match getTask s id with
  | none => s
  | some t => if serialWaits s id t then putTask s id { t with state := .waitingSerial } else place s id t

/-- R399, R407: create a task whose slot has been granted; no core is woken yet. -/
def createTask (s : State) (t0 : Task) : State :=
  let id := s.sched.nextSeq
  let t := { t0 with seq := id }
  let s1 := putTask { s with sched := { s.sched with nextSeq := id + 1 } } id t
  let used := s1.sched.tasks.length
  let s2 := setF s1 oTskStatus 37 19 (max used (getF s1 oTskStatus 37 19))
  match t.notBefore with
  | some nb =>
    if nb > now s then putTask s2 id { t with state := .delayed }
    else tryReady (if nb ≤ lastCycle s then lateEvents (bumpF s2 oTskCount 47 32 1) 1 else s2) id
  | none => tryReady s2 id

/-- Create several granted tasks in one cycle; then the cores that they wake ask (R404). -/
def createTasks (s : State) (ts : List Task) : State := askWoken (ts.foldl createTask s)

/-- R409: offer freed slots to waiting requests in order of refusal; a class whose oldest request is refused waits on. -/
def offerSlots (s : State) (n : Nat) (blocked : List Nat) : State :=
  match n with
  | 0 => s
  | n + 1 =>
    match s.sched.waiting.find? (fun r => !(blocked.contains r.cls)) with
    | none => s
    | some r =>
      if slotGranted s r.cls r.band then
        offerSlots (createTasks { s with sched := { s.sched with waiting := s.sched.waiting.erase r } } [r.task]) n blocked
      else offerSlots s n (r.cls :: blocked)

/-- A slot has become free: waiting requests, then fetching (R408). -/
def slotFreed (s : State) : State :=
  let s1 := offerSlots s (2 * s.sched.waiting.length + 5) []
  if s1.hci.fetchHeld && slotGranted s1 clsCtl 2 then { s1 with hci := { s1.hci with fetchHeld := false } } else s1

/-- R408, R409: ask for a task's slot; a refused request waits. The answer is whether the task was created. -/
def requestTask (s : State) (t : Task) : State × Bool :=
  if slotGranted s t.cls t.band then (createTasks s [t], true)
  else (slotRefused { s with sched := { s.sched with waiting := s.sched.waiting ++ [⟨t.cls, t.band, t⟩] } }, false)

/-- R408: ask for the slots of several tasks together: all are created, or none, and then no request waits. -/
def requestAll (s : State) (ts : List Task) : State × Bool :=
  let grants := ts.foldl (fun (a : State × Bool) t =>
    if a.2 && slotGranted a.1 t.cls t.band then (createTask a.1 t, true) else (a.1, false)) (s, true)
  if grants.2 then (askWoken grants.1, true) else (slotRefused s, false)

-- ## Ends, yields and cancellation (R402, R405, R410)

/-- Take a task out of every list. -/
def unlist (s : State) (id : Nat) : State :=
  { s with sched := { s.sched with
    cores := s.sched.cores.map (fun p => (p.1, { p.2 with list := p.2.list.erase id }))
    classLists := s.sched.classLists.map (fun l => l.erase id) } }

/-- Serial successors of an ended task that now wait for no other become ready. -/
def releaseSerial (s : State) (key : Option Nat) : State :=
  match key with
  | none => s
  | some k =>
    (s.sched.tasks.filter (fun p => p.2.serial == some k && decide (p.2.state = .waitingSerial))).foldl
      (fun s p => tryReady s p.1) s

/-- The time for which a core has run is added to its window. -/
def stopBusy (s : State) (k : Nat) : State :=
  let c := getCore s k
  match c.stats.busyFrom with
  | none => s
  | some t => putCore s k { c with stats := { c.stats with busyFrom := none, busy := c.stats.busy + (now s - t) } }

/-- A task ends, or is cancelled: its slot is freed. -/
def removeTask (s : State) (id : Nat) : State :=
  match getTask s id with
  | none => s
  | some t =>
    let s1 := unlist { s with sched := { s.sched with tasks := Tbl.del s.sched.tasks id } } id
    slotFreed (askWoken (releaseSerial s1 t.serial))

/-- The task that a core runs ends, and the core asks again. -/
def endOn (s : State) (k : Nat) : State :=
  match (getCore s k).running with
  | none => s
  | some id =>
    let s1 := stopBusy s k
    ask (removeTask (putCore s1 k { getCore s1 k with running := none }) id) k

/-- R405: the task that a core runs yields. -/
def yieldOn (s : State) (k : Nat) (why : YieldReason) : State :=
  match (getCore s k).running with
  | none => s
  | some id =>
    match getTask s id with
    | none => s
    | some t =>
      let s1 := stopBusy s k
      let s2 := putCore s1 k { getCore s1 k with running := none }
      ask (putTask s2 id { t with state := .yielded, core := none, why := some why }) k

/-- R405: what yielded tasks waited for has come about: they become ready again. -/
def resumeTasks (s : State) (why : YieldReason) (p : Nat → Bool) : State :=
  let ids := s.sched.tasks.filter (fun x => decide (x.2.state = .yielded) && x.2.why == some why && p x.2.affinity)
  askWoken (ids.foldl (fun s x => place s x.1 x.2) s)

/-- R410: cancel the tasks that satisfy a test and do not run. Waiting requests that satisfy it are void (R409). -/
def cancelTasks (s : State) (p : Task → Bool) : State :=
  let s0 := { s with sched := { s.sched with waiting := s.sched.waiting.filter (fun r => !(p r.task)) } }
  (s0.sched.tasks.filter (fun x => p x.2 && decide (x.2.state ≠ .running))).foldl
    (fun s x => removeTask (bumpF s oTskCount 15 0 1) x.1) s0

/-- The running task with an affinity key, if there is one. -/
def runningWith (s : State) (key : Nat) : Option (Nat × Task) :=
  s.sched.tasks.find? (fun p => p.2.affinity == key && decide (p.2.state = .running))

/-- Whether a task with an affinity key exists. -/
def hasTask (s : State) (key : Nat) : Bool := s.sched.tasks.any (fun p => p.2.affinity == key)

/-- A task's core: the task ends there. -/
def endWith (s : State) (key : Nat) : State :=
  match (runningWith s key).bind (fun p => p.2.core) with
  | some k => endOn s k
  | none => s

-- ## Quiet (R412)

/-- R412: the media cores stop. -/
def stopCores (s : State) : State := (List.range 136).foldl (fun s k => putCore s k { getCore s k with stopped := true }) s

/-- The media cores start again. -/
def startCores (s : State) : State :=
  (List.range 5).foldl wakeClass
    ((List.range 136).foldl (fun s k => putCore s k { getCore s k with stopped := false }) s)

-- ## The tick (R406, R407)

/-- The number of ticks of TICK_NS up to an instant. -/
def tickNo (s : State) (t : Nat) : Nat := t * 1000000000 / (getF s oTskCtrl 47 32 * second)

/-- Insert into a delay list: NOT_BEFORE, then SEQ. -/
def insertDelayed (x : Nat × Task) (xs : List (Nat × Task)) : List (Nat × Task) :=
  match xs with
  | [] => [x]
  | y :: rest =>
    if x.2.notBefore.getD 0 < y.2.notBefore.getD 0 || (x.2.notBefore == y.2.notBefore && decide (x.2.seq < y.2.seq)) then
      x :: y :: rest
    else y :: insertDelayed x rest

/-- The delayed tasks due at an instant, in list order. -/
def dueTasks (s : State) (t : Nat) : List (Nat × Task) :=
  ((s.sched.tasks.filter (fun p => decide (p.2.state = .delayed) && decide (p.2.notBefore.getD 0 ≤ t))).foldl
    (fun acc x => insertDelayed x acc) [])

/-- R407: a tick: due tasks leave the delay lists. After a backward step the ticks wait until bridge time passes the last
one (R60). -/
def execSchedTick (s : State) : Host.Outcome State Fault Refusal :=
  .next (
    if tickNo s (now s) ≤ tickNo s s.sched.lastTick then s
    else
      let t := tickNo s (now s) * getF s oTskCtrl 47 32 * second / 1000000000
      let s1 := (dueTasks s t).foldl (fun s p => tryReady s p.1) s
      askWoken { s1 with sched := { s1.sched with lastTick := now s } })

-- ## Windows

/-- A duration in ns, saturating at 24 bits. -/
def nsSat (d : Nat) : Nat := min (d * 1000000000 / second) 0xFFFFFF

/-- The WAIT register of a window. -/
def Stats.wait (x : Stats) : Word := word (nsSat (if x.started = 0 then 0 else x.sum / x.started) * 2 ^ 24 + nsSat x.max)

/-- The LOAD register of a core's window; a core that still runs has been busy up to now. -/
def Stats.load (x : Stats) (t : Nat) : Word :=
  let busy := x.busy + (match x.busyFrom with
    | some b => t - b
    | none => 0)
  word (x.started % 2 ^ 26 * 2 ^ 16 + min 1000 (busy * 10000 / second))

/-- A core's window ends at an instant: its registers take the window's values, and a new window begins. -/
def closeCore (t : Nat) (s : State) (p : Nat × Core) : State :=
  putCore (setRaw (setRaw s (oTskCoreWait p.1) p.2.stats.wait) (oTskCoreLoad p.1) (p.2.stats.load t)) p.1
    { p.2 with stats := { busyFrom := p.2.stats.busyFrom.map (fun _ => t) } }

/-- A class's window ends. -/
def closeClass (s : State) (c : Nat) : State :=
  setRaw s (oTskClassWait c) ((Tbl.get? s.sched.classStats c).getD {}).wait

/-- The number of the 100 ms window that an instant lies in. -/
def windowNo (t : Nat) : Nat := t * 10 / second

/-- TSK: every 100 ms the window's values replace the last window's. -/
def execTskWindowEnd (s : State) : Host.Outcome State Fault Refusal :=
  .next (
    if windowNo (now s) ≤ windowNo s.sched.lastWindow then s
    else
      let s2 := (List.range 5).foldl closeClass (s.sched.cores.foldl (closeCore (now s)) s)
      { s2 with sched := { s2.sched with classStats := [], lastWindow := now s } })

end Sys2Proof.Machine
end

