-- ==== Sys2Proof/Machine/Operands.lean ====
section
/-! DEFINITION. The operand forms of ring commands: descriptors, handles and the check stages of R555, and how a
command is begun, completed and kept waiting (R135 to R140, R148). -/

namespace Sys2Proof.Machine

/-- What a meaning answers. -/
abbrev Out := Host.Outcome State Fault Refusal

-- ## Descriptors

/-- The descriptor of a command: its opcode, flags and tag in word 0 (R131), then its operand words. -/
def cmdDesc (op : Nat) (c : Cmd) : Desc :=
  { w0 := word (op * 2 ^ 36 + c.flags.toNat * 2 ^ 24 + c.tag.toNat)
    w1 := c.w1, w2 := c.w2, w3 := c.w3, w4 := c.w4, w5 := c.w5, w6 := c.w6, w7 := c.w7 }

/-- Fields of a descriptor's word 0 (R131). -/
def descOpcode (d : Desc) : Nat := bits d.w0 47 36
def descFence (d : Desc) : Bool := bitAt d.w0 35
def descQuiet (d : Desc) : Bool := bitAt d.w0 34
def descTag (d : Desc) : BitVec 24 := d.w0.setWidth 24

/-- The operand words 1 to 7. -/
def descWords (d : Desc) : List Word := [d.w1, d.w2, d.w3, d.w4, d.w5, d.w6, d.w7]
def cmdWords (c : Cmd) : List Word := [c.w1, c.w2, c.w3, c.w4, c.w5, c.w6, c.w7]

/-- FENCE and QUIET of a command (R131), and its command-specific flag [24 + i]. -/
def cmdFence (c : Cmd) : Bool := c.flags.getLsbD 11
def cmdQuiet (c : Cmd) : Bool := c.flags.getLsbD 10
def cmdFlag (c : Cmd) (i : Nat) : Bool := c.flags.getLsbD i

/-- R151: the opcodes of operating authority. -/
def operatingOpcode (op : Nat) : Bool :=
  op ≤ 0x00A || (0x100 ≤ op && op ≤ 0x104) || op == 0x200 || op == 0x201 || (0x210 ≤ op && op ≤ 0x213)
    || (0x220 ≤ op && op ≤ 0x223) || op == 0x230 || op == 0x231 || (0x300 ≤ op && op ≤ 0x302) || op == 0x310
    || (0x400 ≤ op && op ≤ 0x403) || (0x500 ≤ op && op ≤ 0x502) || (0x600 ≤ op && op ≤ 0x603)
    || (0x700 ≤ op && op ≤ 0x703) || (0x800 ≤ op && op ≤ 0x802) || (0x900 ≤ op && op ≤ 0x902) || op == 0xA00
    || op == 0xB00 || op == 0xB10 || op == 0xB20 || op == 0xC00 || op == 0xC01

/-- R151: the opcodes of bramble authority. -/
def peerOpcode (op : Nat) : Bool := 0xA80 ≤ op && op ≤ 0xAFF

/-- The operand words of an opcode that hold handles, numbered from 1; of a command with a selector, under that selector. -/
def handleWords (op sel : Nat) : List Nat :=
  if op = 0x002 || op = 0x004 || op = 0x006 || op = 0x008 then [1]
  else if op = 0x210 then [1, 4, 5]
  else if op = 0x211 then (if sel = 0 then [1, 2] else [1])
  else if op = 0x220 then [1, 7]
  else if op = 0x221 then (if sel = 2 then [1, 2] else [1])
  else if op = 0x223 then [1, 2, 3]
  else if op = 0x300 then [1, 3]
  else if op = 0x310 then [1, 3, 5]
  else if op = 0x500 then []
  else if op = 0x501 then [1, 2]
  else if op = 0x601 then (if sel = 2 then [1, 2, 3, 4] else [1])
  else if op = 0x700 then [1, 4]
  else if op = 0x703 then [1, 2, 3, 4]
  else if op = 0x900 then [1, 4]
  else if (0x201 ≤ op && op ≤ 0x7FF) || op = 0x901 || op = 0xB00 || op = 0xC00 || op = 0xC01 then [1]
  else []

/-- The handles that a descriptor names. -/
def descHandles (d : Desc) : List Word :=
  (handleWords (descOpcode d) (bits d.w0 27 24)).filterMap (fun i =>
    let w := (descWords d).getD (i - 1) 0
    if bits w 47 40 = 0 then none else some w)

/-- R136: two commands of one ring that take effect in ring order for their opcode block or a common handle. -/
def related (a b : Desc) : Bool :=
  (descOpcode a) / 256 == (descOpcode b) / 256 || (descHandles a).any (fun h => (descHandles b).contains h)

-- ## Fetched and waiting commands

/-- The fetched descriptor that a command row stands for: the oldest one equal to it. -/
def findFetched (s : State) (op : Nat) (c : Cmd) : Option Fetched :=
  s.hci.fetched.find? (fun f => f.slot == c.slot.val && f.ring == c.ring.val && decide (f.d = cmdDesc op c))

/-- Whether a command that has begun still holds back a FENCE or BARRIER behind it. A RING_DESTROY does not hold back a
command of its own ring, which it waits for (assumption 12). -/
def Inflight.holds (i : Inflight) (ring : Nat) : Bool :=
  match i.wait with
  | .ringDestroy r => !(r == ring)
  | _ => true

/-- R136: whether a command that has begun takes its effect only when its wait ends. A RING_DESTROY has stopped its ring,
a transfer is queued (R422), and a layout or an audio binding waits for its boundary, where a later one replaces it (R329,
R392): these do not hold back a later command of their ring that is related to them (assumption 12). -/
def Inflight.late (i : Inflight) : Bool :=
  match i.wait with
  | .ringDestroy _ => false
  | .dma _ => false
  | .layers _ => false
  | .audioLeg _ => false
  | _ => true

/-- R131, R136: a fetched command may begin when no earlier one of its ring must take effect first. -/
def eligible (s : State) (f : Fetched) : Bool :=
  s.hci.fetched.all (fun g =>
    !(g.slot == f.slot && g.ring == f.ring && decide (g.no < f.no)) || !((descFence f.d) || related f.d g.d))
  && s.hci.inflight.all (fun i =>
    !(i.slot == f.slot && i.ring == f.ring && decide (i.no < f.no))
      || !(((descFence f.d) && i.holds f.ring) || (i.late && related f.d i.d)))

/-- Remove a fetched descriptor. -/
def dropFetched (s : State) (no : Nat) : State :=
  { s with hci := { s.hci with fetched := s.hci.fetched.filter (fun f => f.no != no) } }

/-- The completion queue to which a ring is bound. -/
def ringCq (s : State) (slot ring : Nat) : Nat :=
  match Tbl.get? (getSlot s slot).rings ring with
  | some r => r.cq
  | none => 0

/-- What carrying out a command gives: a completion at once, or a wait. -/
inductive Body where
  | reply (s : State) (status : Nat) (w1 w3 : Word)
  | waits (s : State) (w : Wait)

/-- A command that fails with a status and changes nothing (R555). -/
def Body.fail (s : State) (status : Nat) : Body := .reply s status 0 0

/-- The first violated check ends the command; otherwise it goes on (R555). -/
def guarded (s : State) (cs : List (Bool × Nat)) (k : Body) : Body :=
  match firstFail cs with
  | some st => .fail s st
  | none => k

-- ## Handles (R13, R14, R149, R150)

/-- R149: index width of an object type. -/
def typeWidth (ty : Nat) : Nat :=
  [0, 23, 17, 14, 20, 18, 14, 12, 12, 4, 13, 9, 9, 13, 8, 8].getD ty 0

/-- R149: greatest number of objects of a type. -/
def typeMax (ty : Nat) : Nat :=
  [0, 5242880, 131072, 16384, 1048576, 262144, 16384, 4096, 4096, 16, 8192, 512, 512, 8192, 256, 256].getD ty 0

/-- The fields of a handle. -/
def hType (w : Word) : Nat := bits w 47 40
def hMember (w : Word) : Nat := bits w 39 36
def hIndex (w : Word) : Nat := bits w 35 0

/-- R14, R149, R150, R555 stage 5: the first failing check of a handle that must be of one of the types and belong to
this module. In a bramble a roster member's handle is refused with 0x108 and any other with 0x107 (R476). -/
def handleErr (s : State) (tys : List Nat) (w : Word) : Option Nat :=
  if !(tys.contains (hType w)) then some 0x102
  else if hMember w ≠ ownMember s then
    (if inBramble s && (s.grn.roster / 2 ^ hMember w) % 2 == 1 then some 0x108 else some 0x107)
  else if hIndex w ≥ typeMax (hType w) then some 0x103
  else none

/-- A handle operand as one check of a list: whether it fails, and the status. -/
def hCheck (s : State) (tys : List Nat) (w : Word) : Bool × Nat :=
  match handleErr s tys w with
  | some e => (true, e)
  | none => (false, 0)

/-- The same for an optional handle, where 0 names nothing. -/
def hCheck0 (s : State) (tys : List Nat) (w : Word) : Bool × Nat := if w = 0 then (false, 0) else hCheck s tys w

/-- R150: a host region of the issuing connection. A region being removed or already removed gives 0x104, one that was
never added 0x114 (R148, R152). -/
def regionCheck (s : State) (slot : Nat) (w : Word) : Bool × Nat :=
  match handleErr s [0x0D] w with
  | some e => (true, e)
  | none =>
    let g := hIndex w % 1024
    if hIndex w / 1024 ≠ slot then (true, 0x114)
    else
      match Tbl.get? (getSlot s slot).regions g with
      | none => (true, if (getSlot s slot).regionsGone.contains g then 0x104 else 0x114)
      | some r => (r.removing, 0x104)

/-- The region of the issuing connection that a handle names. -/
def regionOf (s : State) (slot : Nat) (w : Word) : Option Region :=
  Tbl.get? (getSlot s slot).regions (hIndex w % 1024)

/-- R555 stage 6, 0x115: an access of `n` bytes at `off` runs outside a region or against its permission. -/
def regionBounds (s : State) (slot : Nat) (w : Word) (off n : Nat) (modWrite : Bool) : Bool :=
  match regionOf s slot w with
  | none => true
  | some r => decide (off + n > r.len) || !(if modWrite then r.moduleWrite else r.moduleRead)

/-- Whether a completion queue of the issuing connection does not exist (0x112). -/
def noQueue (s : State) (slot q : Nat) : Bool := !(Tbl.has (getSlot s slot).cqs q)

/-- R555 stage 4: a reserved flag, reserved bit or operand word that must be zero is not. `fl` are the command's own
flags [27:24]; `masks` give the operand bits in use of words 1 to 7. -/
def reservedBad (c : Cmd) (fl : Nat) (masks : List Nat) : Bool :=
  (c.flags &&& ~~~(BitVec.ofNat 12 (0xC00 + fl))) != 0
    || ((cmdWords c).zip (masks ++ List.replicate 7 0)).any (fun p => (p.1 &&& ~~~(word p.2)) != 0)

/-- All 48 bits of a word. -/
def full : Nat := 2 ^ 48 - 1

-- ## Freeing and waiting

/-- R133: a destroyed completion queue takes its event records with it: whatever posts to it posts nowhere afterwards
(slot 8 is no slot). With no queue named, every queue of the slot is meant. -/
def gone (n : Nat) (q : Option Nat) (slot queue : Nat) : Bool :=
  slot == n && (match q with
    | none => true
    | some k => queue == k)
def forgetKey (n : Nat) (q : Option Nat) (k : Key) : Key := if gone n q k.slot k.queue then { k with slot := 8 } else k
def forgetQueue (s : State) (n : Nat) (q : Option Nat) : State :=
  { s with
    media := { s.media with
      confs := s.media.confs.map (fun p => (p.1, if gone n q p.2.slot p.2.queue then { p.2 with slot := 8 } else p.2))
      streams := s.media.streams.map (fun p => (p.1, { p.2 with
        cur := p.2.cur.map (forgetKey n q)
        next := p.2.next.map (forgetKey n q)
        drain := p.2.drain.map (forgetKey n q) })) }
    units := { s.units with
      decs := s.units.decs.map (fun p => (p.1, if gone n q p.2.slot p.2.queue then { p.2 with slot := 8 } else p.2))
      canvases := s.units.canvases.map (fun p =>
        (p.1, if gone n q p.2.slot p.2.queue then { p.2 with slot := 8 } else p.2))
      encs := s.units.encs.map (fun p => (p.1, if gone n q p.2.slot p.2.queue then { p.2 with slot := 8 } else p.2))
      mixes := s.units.mixes.map (fun p =>
        (p.1, if gone n q p.2.slot p.2.queue then { p.2 with slot := 8 } else p.2)) } }

/-- R145: destroy a slot's rings, queues, regions and windows and return it to FREE. -/
def freeSlot (s : State) (n : Nat) : State :=
  let s1 := setSlot (forgetQueue s n none) n {}
  { s1 with hci := { s1.hci with
    windows := s1.hci.windows.filter (fun p => p.2.slot != n)
    waitingReads := s1.hci.waitingReads.filter (fun r => r.slot != n)
    fetched := s1.hci.fetched.filter (fun f => f.slot != n)
    inflight := s1.hci.inflight.filter (fun i => i.slot != n) } }

/-- R120: the doorbell page of a slot. -/
def doorbellPage (slot : Nat) : Nat := 0xFE0000000000 + 0x1000 * slot

/-- R120: the first 13 bytes of a REP's own data. -/
def repData (slot member : Nat) (rkey : BitVec 32) (resumed : Bool) : List Byte :=
  leBytes 6 (doorbellPage slot) ++ leBytes 4 rkey.toNat
    ++ [BitVec.ofNat 8 slot, BitVec.ofNat 8 member, BitVec.ofNat 8 (b2n resumed)]

/-- R120, R121, R556: answer REP to a REQ from a peer. A slot that was not kept starts afresh with its registers as they
stand. The queue pair number and the doorbell page's rkey are free values. -/
def sendRep (s : State) (slot port : Nat) (peer : Addr) (mac : Word) (resumed : Bool) : State :=
  let old := getSlot s slot
  let rkey := freeVal s 32
  let s1 := nextFree s
  let cfg := regRaw s (oHciSlotCfg slot)
  let sl : Slot := if resumed then { old with cfg := cfg } else { cfg := cfg }
  let s2 := setSlot (nextFree s1) slot { sl with
    phase := .awaitRtu resumed (now s + durS 1)
    port := port
    peer := peer
    peerMac := mac
    qpn := freeVal s1 24
    dbKey := rkey
    unacked := []
    ackFrom := none
    retries := 0 }
  sendRoce s2 slot (.cmRep (repData slot (ownMember s) rkey resumed))

/-- R121, R198: REJ to a REQ, counted. It goes out as its slot's register says, or as the reset values say when the REQ
names no slot. -/
def sendRej (s : State) (slot port : Nat) (peer : Addr) (mac : Word) (reason : Nat) : State :=
  let cfg := if slot ≤ 7 then regRaw s (oHciSlotCfg slot) else resetAt (oHciSlotCfg 0)
  bumpF (sendPkts s [{ slot := none, port := port, dst := mac, dip := peer, sport := 0xC001
                       dscp := bits cfg 31 26, cls := bits cfg 25 23, m := .cmRej reason }]) oHciCount 47 36 1

/-- Whether a command of a connection has been fetched and has not completed. -/
def slotBusy (s : State) (n : Nat) : Bool :=
  s.hci.fetched.any (fun f => f.slot == n) || s.hci.inflight.any (fun i => i.slot == n)

/-- R121, R145: a closing slot whose commands have completed becomes FREE; a REQ that was answered with MRA is then
answered with REP, or with REJ where the slot is no longer enabled (R119). -/
def closeDone (s : State) (n : Nat) : State :=
  match (getSlot s n).phase with
  | .closing mra =>
    if slotBusy s n then s
    else
      match mra with
      | none => freeSlot s n
      | some m =>
        if getB s (oHciSlotCfg n) 0 then sendRep (freeSlot s n) n m.port m.peer m.mac false
        else sendRej (freeSlot s n) n m.port m.peer m.mac 28
  | _ => s

/-- R145: close a slot. Fetched commands still run, and their records are discarded. -/
def closeSlot (s : State) (n : Nat) (mra : Option Mra) : State :=
  closeDone (setSlot s n { getSlot s n with phase := .closing mra }) n

/-- Packets that wait to be sent are given up. -/
def dropPkts (s : State) (f : RocePkt → Bool) : State :=
  { s with hci := { s.hci with sendQ := s.hci.sendQ.filter (fun p => !(f p)) } }

/-- R143: a connection is lost; what its queue pair still had to send is not sent. Its slot is suspended for HOLD_MS, or closed at once when that is 0 (R145). -/
def loseConn (s : State) (n : Nat) : State :=
  let sl := getSlot s n
  let hold := bits sl.cfg 47 32
  if sl.connected then
    let s1 := dropPkts s (fun p => p.slot == some n && !p.m.overQp1)
    if hold = 0 then closeSlot s1 n none
    else setSlot s1 n { sl with phase := .suspended (some (now s + durMs hold)), unacked := [], ackFrom := none }
  else s

/-- Whether an access that names region `r` of slot `n` is still to be made (R148): transfers and jobs. -/
def regionBusy (s : State) (n r : Nat) : Bool :=
  s.dma.xfers.any (fun p => p.2.slot == n &&
    ((p.2.shape.src.kind == 1 && p.2.shape.src.sel == r) || (p.2.shape.dst.kind == 1 && p.2.shape.dst.sel == r)))
  || s.media.jobs.any (fun p => p.2.dstSlot == n && (p.2.dstRegion == some r || p.2.srcRegion == some r))

/-- The context and leg of a packet that a lane works on. -/
def LaneWork.ctx (w : LaneWork) : Option Nat :=
  match w with
  | .inbound p => some p.ctx
  | .outbound p => some p.ctx
  | .job _ _ => none
def LaneWork.leg (w : LaneWork) : Option Nat :=
  match w with
  | .inbound _ => none
  | .outbound p => some p.leg
  | .job _ _ => none
def LaneWork.key (w : LaneWork) : Option Nat :=
  match w with
  | .inbound p => some p.key
  | .outbound p => some p.key
  | .job _ _ => none

/-- R267: whether a lane holds a packet that is neither published nor voided under one of some keys. -/
def laneHolds (s : State) (keys : List Nat) : Bool :=
  s.media.lanes.any (fun l => l.2.fifo.any (fun p => p.state = .pending && (p.work.key.map keys.contains).getD false))

/-- Whether a packet of a leg waits on its way to the MAC (R246). -/
def legBusy (s : State) (leg : Nat) : Bool :=
  s.media.shapers.any (fun p => p.2.queue.any (fun o => o.leg == leg))
  || s.media.groups.any (fun p => p.2.outQ.any (fun o => o.leg == leg))
  || s.media.lanes.any (fun l => l.2.fifo.any (fun p => p.work.leg == some leg))
  || (match Tbl.get? s.media.legs leg with
      | some l => !l.held.isEmpty
      | none => false)

/-- The keys a context holds. -/
def keysOf (x : Stream) : List Key := x.cur.toList ++ x.next.toList ++ x.drain.toList

/-- A key that some context holds is kept under this KEY_ID. -/
def keyIdHeld (s : State) (id : Nat) : Bool :=
  s.media.streams.any (fun p => (keysOf p.2).any (fun k => k.persist == some id))

/-- R270: keys have been erased: a record that no installed key uses any more is retired; retirements are counted in
order. -/
def retireRecs (s : State) (ks : List Key) : State :=
  let ids := (ks.filterMap (fun k => k.persist)).filter (fun id => !(keyIdHeld s id))
  if ids.isEmpty then s
  else { s with mram := { s.mram with
    keyRecs := s.mram.keyRecs.map (fun r =>
      if ids.contains r.keyId && r.installed then { r with installed := false, retired := s.mram.retirements } else r)
    retirements := s.mram.retirements + 1 } }

/-- R246: remove a leg with its contexts and their keys. -/
def freeLeg (s : State) (leg : Nat) : State :=
  let owned := fun (p : Nat × Stream) => p.2.owner == leg && p.2.kind != 5
  retireRecs { s with media := { s.media with
    legs := Tbl.del s.media.legs leg
    streams := s.media.streams.filter (fun p => !(owned p)) } }
    ((s.media.streams.filter owned).flatMap (fun p => keysOf p.2))

/-- Whether what a waiting command waits for has come about. The other waits end in the events that bring them. -/
def waitDone (s : State) (i : Inflight) : Bool :=
  match i.wait with
  | .ringDestroy r =>
    !(s.hci.fetched.any (fun f => f.slot == i.slot && f.ring == r))
      && !(s.hci.inflight.any (fun j => j.slot == i.slot && j.ring == r && j.no != i.no))
  | .barrier =>
    !(s.hci.fetched.any (fun f => f.slot == i.slot && decide (f.no < i.no)))
      && !(s.hci.inflight.any (fun j => j.slot == i.slot && decide (j.no < i.no) && j.holds i.ring))
  | .regionRemove r => !(regionBusy s i.slot r)
  | .legDestroy leg => !(legBusy s leg)
  | .keyErase _ keys _ _ => !(laneHolds s keys)
  | .decDestroy d => (runningWith s (keyDec d)).isNone
  | .canvasDestroy c => ((Tbl.get? s.units.canvases c).bind (fun x => x.cur)).isNone
  | .encDestroy ch => ((Tbl.get? s.units.encs ch).bind (fun x => x.cur)).isNone
  | _ => false

/-- Complete a command that has begun. -/
def completeInflight (s : State) (i : Inflight) (status : Nat) (w1 w3 : Word) : State :=
  let s1 := { s with hci := { s.hci with inflight := s.hci.inflight.filter (fun j => j.no != i.no) } }
  complete s1 i.slot i.ring i.cq i.tag i.quiet status w1 w3

/-- End a wait whose condition holds: the last effect of the command, then its completion. -/
def finishWait (s : State) (i : Inflight) : State :=
  match i.wait with
  | .ringDestroy r =>
    let sl := getSlot s i.slot
    completeInflight (setSlot s i.slot { sl with rings := Tbl.del sl.rings r }) i 0 0 0
  | .regionRemove r =>
    let sl := getSlot s i.slot
    completeInflight (setSlot s i.slot { sl with regions := Tbl.del sl.regions r, regionsGone := r :: sl.regionsGone })
      i 0 0 0
  | .legDestroy leg => completeInflight (freeLeg s leg) i 0 0 0
  | .keyErase _ _ w1 w3 => completeInflight s i 0 w1 w3
  | .decDestroy d => completeInflight { s with units := { s.units with decs := Tbl.del s.units.decs d } } i 0 0 0
  | .canvasDestroy c =>
    completeInflight { s with units := { s.units with canvases := Tbl.del s.units.canvases c } } i 0 0 0
  | .encDestroy ch => completeInflight { s with units := { s.units with encs := Tbl.del s.units.encs ch } } i 0 0 0
  | _ => completeInflight s i 0 0 0

/-- R151: a fetched descriptor whose opcode is no ring command's, when its turn comes. -/
def badOpcode (s : State) (f : Fetched) : Bool := !(operatingOpcode (descOpcode f.d)) && eligible s f

/-- One thing that can end now: a descriptor with an unknown opcode, or a satisfied wait. -/
def settleOne (s : State) : Option State :=
  match s.hci.fetched.find? (badOpcode s) with
  | some f =>
    some (complete (dropFetched s f.no) f.slot f.ring (ringCq s f.slot f.ring) (descTag f.d) (descQuiet f.d)
      (if peerOpcode (descOpcode f.d) then 0x300 else 0x100) 0 0)
  | none =>
    match s.hci.inflight.find? (waitDone s) with
    | some i => some (finishWait s i)
    | none => none

/-- End everything that can end now, in at most `n` steps. -/
def settleN (s : State) (n : Nat) : State :=
  match n with
  | 0 => s
  | n + 1 =>
    match settleOne s with
    | some s1 => settleN s1 n
    | none => s

/-- Close the closing slots below `n` that have no command left. -/
def closeAll (s : State) (n : Nat) : State :=
  match n with
  | 0 => s
  | n + 1 => closeDone (closeAll s n) n

/-- What follows from a command's end: waits that are now satisfied, and closing slots that are now idle. -/
def settle (s : State) : State := closeAll (settleN s (s.hci.fetched.length + s.hci.inflight.length)) 8

/-- R135 to R139: carry out a ring command. The row runs the oldest equal descriptor that has been fetched, when R136
lets it begin; otherwise nothing happens (assumption 5). Stages 1 and 2 of R555 hold for a row's opcode; stage 3 is
checked here. -/
def runRing (s : State) (op : Nat) (c : Cmd) (body : State → Body) : State :=
  match findFetched s op c with
  | none => s
  | some f =>
    if eligible s f then
      let cq := ringCq s c.slot c.ring
      match (if running s then body (dropFetched s f.no) else .fail (dropFetched s f.no) 0x106) with
      | .reply s1 st w1 w3 => settle (complete s1 c.slot c.ring cq c.tag (cmdQuiet c) st w1 w3)
      | .waits s1 w =>
        settle { s1 with hci := { s1.hci with inflight := s1.hci.inflight ++
          [{ no := f.no, slot := c.slot, ring := c.ring, cq := cq, tag := c.tag, quiet := cmdQuiet c, wait := w
             d := f.d }] } }
    else s

/-- Complete the first waiting command that satisfies a test, then settle. -/
def completeWhere (s : State) (p : Inflight → Bool) (status : Nat) (w1 w3 : Word) : State :=
  match s.hci.inflight.find? p with
  | none => s
  | some i => settle (completeInflight s i status w1 w3)

/-- A command whose read of host memory was refused or timed out: the connection is lost (R143). -/
def hostFailure (s : State) (c : Cmd) (d : HostData) : Body :=
  match d with
  | .timeout => .fail (loseConn s c.slot) 0x404
  | _ => .fail (loseConn s c.slot) 0x301

end Sys2Proof.Machine
end

