-- ==== Sys2Proof/Machine/Partition.lean ====
section
/-! DEFINITION. The memory partition (R42 to R44, R179) and room within its regions (R445). -/

namespace Sys2Proof.Machine

/-- 256 MiB, the unit of GLB_PART sizes, and GiB. -/
def partUnit : Nat := 2 ^ 28
def gib : Nat := 2 ^ 30

/-- The three partition words as sizes in bytes, in the order of R42: contexts, keys, packet buffers, decode, encode,
audio, firmware, task and DMA tables. -/
def partSizes (a b c : Word) : List Nat :=
  [bits a 47 32, bits a 31 16, bits a 15 0, bits b 47 32, bits b 31 16, bits b 15 0, bits c 47 32, bits c 31 16].map
    (· * partUnit)

/-- R44: size and base of the Preserve. -/
def preserveSize (c : Word) : Nat := bits c 5 0 * 32 * gib
def preserveBase (c : Word) : Nat := 2016 * gib - preserveSize c

/-- Sizes laid one after the other from a base. -/
def layFrom (base : Nat) (sizes : List Nat) : List (Nat × Nat) :=
  match sizes with
  | [] => []
  | n :: rest => (base, n) :: layFrom (base + n) rest

/-- R179: the regions 0 to 10 of R42 in order, as base and size. -/
def partRegions (a b c : Word) : List (Nat × Nat) :=
  let used := (partSizes a b c).sum
  layFrom 0 (partSizes a b c) ++
    [(used, preserveBase c - used), (preserveBase c, preserveSize c), (2016 * gib, 32 * gib)]

/-- The partition in effect. -/
def partition (s : State) : List (Nat × Nat) :=
  partRegions (regRaw s oGlbPartA) (regRaw s oGlbPartB) (regRaw s oGlbPartC)

/-- Base and size of region `r`. -/
def regionAt (s : State) (r : Nat) : Nat × Nat := (partition s).getD r (0, 0)

/-- Whether a range lies wholly in a region given by base and size. -/
def inside (rg : Nat × Nat) (a n : Nat) : Bool := decide (rg.1 ≤ a) && decide (a + n ≤ rg.1 + rg.2)

/-- Whether a range lies wholly in one of some regions. -/
def insideAny (s : State) (rs : List Nat) (a n : Nat) : Bool := rs.any (fun r => inside (regionAt s r) a n)

/-- The region that holds an address. -/
def regionOfAddr (s : State) (a : Nat) : Nat := (partition s).findIdx (fun rg => inside rg a 1)

/-- Bytes rounded up to whole 64 KiB pages. -/
def pageUp (n : Nat) : Nat := ceilDiv n 65536 * 65536

/-- The ranges that objects hold in DRAM: decode pools; canvas buffers and hold images; encode references. -/
def allocations (s : State) : List (Nat × Nat) :=
  s.units.decs.map (fun p => (p.2.base, p.2.bytes))
  ++ s.units.canvases.flatMap (fun p =>
    (p.2.base, p.2.memBufs * p.2.bufBytes)
      :: (p.2.holds ++ (match p.2.waiting with
        | some w => w.holds
        | none => [])).map (fun h => (h.base, h.bytes)))
  ++ s.units.encs.map (fun p => (p.2.base, p.2.bytes))

/-- Whether a range overlaps another. -/
def overlaps (a b : Nat × Nat) : Bool :=
  decide (0 < a.2) && decide (0 < b.2) && decide (a.1 < b.1 + b.2) && decide (b.1 < a.1 + a.2)

/-- The lowest place in a region for `n` bytes clear of some ranges: the region's base or the end of a range
(assumption 13). -/
def placeIn (rg : Nat × Nat) (taken : List (Nat × Nat)) (n : Nat) : Option Nat :=
  let starts := rg.1 :: taken.map (fun t => pageUp (t.1 + t.2))
  let good := starts.filter (fun a => inside rg a n && taken.all (fun t => !(overlaps t (a, n))))
  good.foldl (fun m a =>
    match m with
    | none => some a
    | some b => some (min a b)) none

/-- Room for `n` bytes in region `r`, or none (0x201). -/
def allocate (s : State) (r n : Nat) : Option Nat :=
  if n = 0 then some (regionAt s r).1 else placeIn (regionAt s r) (allocations s) n

/-- R214: the stream contexts that the contexts region can hold, and R263: the key entries. -/
def contextCapacity (s : State) : Nat := min 5242880 ((regionAt s 0).2 / 512)

end Sys2Proof.Machine
end

