-- ==== Sys2Proof/Machine/Ripeness.lean ====
section
/-! DEFINITION. The speculation table (R90 to R92, R106 to R113): opening, joining and pulling forward entries, and the
held pages of R89. -/

namespace Sys2Proof.Machine

/-- R112: the code of a source class. -/
def SpecClass.code (c : SpecClass) : Nat :=
  match c with
  | .concealment => 2
  | .speaker => 3
  | .prefetch => 4
  | .join => 5

/-- R111: add to a counter of the table; counters saturate at 2^48 − 1. -/
def specCount (s : State) (cls ctr n : Nat) : State :=
  let k := 16 * cls + ctr
  { s with spec := { s.spec with counters := Tbl.put s.spec.counters k (satAdd 48 (Tbl.count s.spec.counters k) n) } }

/-- Open source entries and open join entries (R106). -/
def openOf (s : State) (p : SpecClass → Bool) : Nat := (s.spec.table.filter (fun e => p e.2.cls)).length
def openSources (s : State) : Nat := openOf s (fun c => c != .join)
def openJoins (s : State) : Nat := openOf s (fun c => c == .join)

/-- Add an entry to the table and count it as started. -/
def addEntry (s : State) (e : Entry) : State :=
  specCount { s with spec := { s.spec with
    table := Tbl.put s.spec.table s.spec.nextEntry { e with armNo := s.spec.nextArm }
    nextEntry := s.spec.nextEntry + 1
    nextArm := s.spec.nextArm + 1 } } e.cls.code 0 1

/-- R107: open a source entry. Without a free one the case is counted as refused. -/
def openEntry (s : State) (cls : SpecClass) (owner deadline : Nat) : State × Option Nat :=
  if openSources s ≥ 229376 then (specCount s cls.code 5 1, none)
  else (armEvent (addEntry s { cls := cls, owner := owner, deadline := some deadline }) deadline, some s.spec.nextEntry)

/-- R91: pull an entry's deadline forward, through join entries; `n` bounds their nesting. An entry is counted as pulled
forward once (R113), and the new deadline is armed under R57 (R92). -/
def pullN (s : State) (n e d : Nat) : State :=
  match n with
  | 0 => s
  | n + 1 =>
    match Tbl.get? s.spec.table e with
    | none => s
    | some en =>
      if en.cls = .join then en.joins.foldl (fun s p => pullN s n p d) s
      else
        match en.deadline with
        | none => s
        | some d0 =>
          if d < d0 then
            armEvent (specCount { s with spec := { s.spec with
              table := Tbl.put s.spec.table e { en with deadline := some d, armNo := s.spec.nextArm, pulled := true }
              nextArm := s.spec.nextArm + 1 } }
              en.cls.code 4 (b2n !en.pulled)) d
          else s

/-- R91, R92: pull forward. -/
def pullForward (s : State) (e d : Nat) : State := pullN s (s.spec.table.length + 1) e d

/-- Numbers without repeats, in order of first appearance. -/
def distinct (xs : List Nat) : List Nat := xs.foldl (fun acc x => if acc.contains x then acc else acc ++ [x]) []

/-- R108: a consumer begins to wait for a join entry, and the wait is counted as refused once. -/
def joinWaits (s : State) (w : JoinWait) : State :=
  if s.spec.joinWaiters.contains w then s
  else specCount { s with spec := { s.spec with joinWaiters := s.spec.joinWaiters ++ [w] } } 5 5 1

/-- A consumer waits no longer. -/
def joinServed (s : State) (consumer : Nat) : State :=
  { s with spec := { s.spec with joinWaiters := s.spec.joinWaiters.filter (fun w => w.consumer != consumer) } }

/-- The ripeness a result takes from its inputs (R83, R92), or none when a join entry is needed and none is free: the
consumer then waits under R108, is listed with its emission deadline, and the wait is counted as refused. -/
def joinOf (s : State) (consumer : Nat) (inputs : List Ripe) (emission : Option Nat) : State × Option Ripe :=
  let opens := distinct (inputs.filterMap (fun r => r.entry))
  let flag := inputs.any (fun r => r.flag)
  match opens with
  | [] => (s, some { entry := none, flag := flag })
  | [e] => (s, some { entry := some e, flag := flag })
  | _ =>
    if openJoins s ≥ 32768 then
      (joinWaits s { consumer := consumer, opens := opens, emission := emission }, none)
    else
      (addEntry (joinServed s consumer) { cls := .join, joins := opens }, some { entry := some s.spec.nextEntry, flag := flag })

/-- R92: the ripeness of a port-bound result, whose entry is pulled forward to its emission deadline. -/
def joinBound (s : State) (consumer : Nat) (inputs : List Ripe) (emission : Nat) : State × Option Ripe :=
  let r := joinOf s consumer inputs (some emission)
  match r.2 with
  | some { entry := some e, flag := f, discarded := d } =>
    (pullForward r.1 e emission, some { entry := some e, flag := f, discarded := d })
  | _ => r

/-- A result that is final (R80). -/
def Ripe.final (r : Ripe) : Bool := r.entry.isNone && !r.discarded

-- ## Held pages (R89)

/-- Whether two ranges touch a common 64 KiB page. -/
def samePage (a n b m : Nat) : Bool :=
  decide (0 < n) && decide (0 < m) && decide (a / 65536 ≤ (b + m - 1) / 65536) && decide (b / 65536 ≤ (a + n - 1) / 65536)

/-- A new result is written over a range: what lay wholly in it holds its pages no longer. -/
def overwritten (s : State) (a n : Nat) : State :=
  { s with units := { s.units with held := s.units.held.filter (fun h => !(decide (a ≤ h.base) && decide (h.base + h.len ≤ a + n))) } }

/-- The pages of a range are held for an entry. -/
def holdPages (s : State) (a n e : Nat) : State :=
  { s with units := { s.units with
    held := s.units.held.filter (fun h => h != { base := a, len := n, entry := e }) ++ [{ base := a, len := n, entry := e }] } }

/-- Release the pages that an entry holds. -/
def releasePages (s : State) (e : Nat) : State :=
  { s with units := { s.units with held := s.units.held.filter (fun h => h.entry != e) } }

/-- R89: a discarded result's bytes are never read again: its range reads as memory that nothing has written (DESIGN
CHOICE, assumption 105). -/
def eraseHeld (s : State) (e : Nat) : State :=
  let mine := s.units.held.filter (fun h => h.entry == e)
  { s with memory := { s.memory with
    dram := s.memory.dram.filter (fun c => !(mine.any (fun h => decide (h.base ≤ c.1) && decide (c.1 < h.base + h.len)))) } }

/-- The entries whose held pages a range touches. -/
def heldBy (s : State) (a n : Nat) : List Nat :=
  distinct ((s.units.held.filter (fun h => samePage h.base h.len a n)).map (fun h => h.entry))

/-- Pull every entry whose held pages a range touches forward to an emission deadline. -/
def pullHeld (s : State) (a n d : Nat) : State := (heldBy s a n).foldl (fun s e => pullForward s e d) s

/-- R81, R111: an entry is resolved: it leaves the table, is counted under its outcome (1 ripe, 2 conceded, 3
discarded), the pages it held are released, a discarded result's bytes are gone (R89), tasks that wait for pages go on (R405), and tasks that carry a discarded
entry and have not started are cancelled (R410). What its results become is its unit's. -/
def closeEntry (s : State) (e outcome : Nat) : State :=
  match Tbl.get? s.spec.table e with
  | none => s
  | some en =>
    let s0 := specCount { s with spec := { s.spec with table := Tbl.del s.spec.table e } } en.cls.code outcome 1
    let s1 := releasePages (if outcome = 3 then eraseHeld s0 e else s0) e
    let s2 := if outcome = 3 then cancelTasks s1 (fun t => t.entry == some e && !t.started) else s1
    resumeTasks s2 .heldPage (fun _ => true)

/-- Entries in the order of their commit deadlines, those armed first before the others (R56). -/
def insertEntry (x : Nat × Entry) (xs : List (Nat × Entry)) : List (Nat × Entry) :=
  match xs with
  | [] => [x]
  | y :: rest =>
    if x.2.deadline.getD 0 < y.2.deadline.getD 0
        || (x.2.deadline.getD 0 == y.2.deadline.getD 0 && decide (x.2.armNo < y.2.armNo)) then x :: y :: rest
    else y :: insertEntry x rest

/-- The open source entries in that order. -/
def entriesDue (s : State) : List (Nat × Entry) :=
  (s.spec.table.filter (fun p => p.2.deadline.isSome)).foldl (fun acc x => insertEntry x acc) []

/-- R82: the commit deadline of a concealment has come. It is conceded at the end of the TIME cycle, unless an event of the
cycle confirms it. -/
def concedeLater (s : State) (e : Nat) : State :=
  if s.spec.conceding.contains e then s else { s with spec := { s.spec with conceding := s.spec.conceding ++ [e] } }

/-- Host reads of windows whose pages are no longer held are answered, in order (R89). -/
def releaseReads (s : State) : State :=
  let ready := s.hci.waitingReads.filter (fun r => (heldBy s r.addr r.len).isEmpty)
  ready.foldl (fun s r => sendData_ s r.slot (dramRead s r.addr r.len))
    { s with hci := { s.hci with waitingReads := s.hci.waitingReads.filter (fun r => !(heldBy s r.addr r.len).isEmpty) } }

end Sys2Proof.Machine
end

