-- ==== Sys2Proof/Machine/Host.lean ====
section
/-! DEFINITION. Host control over RDMA (chapter 04): connections, doorbells, fetching, and the commands of block
0x0xx. -/

namespace Sys2Proof.Machine

-- ## Ring commands (R147, R148)

def execNop (c : Cmd) (s : State) : Out :=
  .next (runRing s 0x000 c fun s => guarded s [(reservedBad c 0 [], 0x101)] (.reply s 0 0 0))

/-- RING_CREATE: the queue must exist, the size be 2^6 to 2^16 and the address aligned to 64 bytes (R127). -/
def execRingCreate (c : Cmd) (s : State) : Out :=
  .next (runRing s 0x001 c fun s =>
    let sl := getSlot s c.slot
    let log2 := bits c.w2 37 32
    let q := bits c.w3 5 0
    let n := Tbl.lowestFree sl.rings
    let r : Ring := { addr := c.w1, log2 := log2, rkey := c.w2.setWidth 32, cq := q }
    guarded s [(reservedBad c 0 [full, 2 ^ 38 - 1, 0x3F], 0x101), (noQueue s c.slot q, 0x112),
        (decide (log2 < 6) || decide (16 < log2), 0x111), (c.w1.toNat % 64 != 0, 0x118),
        (decide (sl.rings.length ≥ 64), 0x207)]
      (.reply (setSlot s c.slot { sl with rings := Tbl.put sl.rings n r }) 0 (ownHandle s 0x0B (c.slot * 64 + n)) 0))

/-- A ring handle of the issuing connection: the stage 5 checks of R555 and R150. A ring that another RING_DESTROY is
destroying gives 0x104 (R137). -/
def ringCheck (s : State) (slot : Nat) (w : Word) : Bool × Nat :=
  match handleErr s [0x0B] w with
  | some e => (true, e)
  | none =>
    if hIndex w / 64 ≠ slot || hIndex w % 64 = 0 then (true, 0x110)
    else
      match Tbl.get? (getSlot s slot).rings (hIndex w % 64) with
      | none => (true, 0x104)
      | some r => (r.stopped, 0x104)

def execRingDestroy (c : Cmd) (s : State) : Out :=
  .next (runRing s 0x002 c fun s =>
    let sl := getSlot s c.slot
    let r := hIndex c.w1 % 64
    guarded s [(reservedBad c 0 [full], 0x101), ringCheck s c.slot c.w1]
      (.waits (setSlot s c.slot { sl with rings := Tbl.upd sl.rings r (fun x => { x with stopped := true }) })
        (.ringDestroy r)))

def execCqCreate (c : Cmd) (s : State) : Out :=
  .next (runRing s 0x003 c fun s =>
    let sl := getSlot s c.slot
    let log2 := bits c.w2 37 32
    let n := Tbl.lowestFree sl.cqs
    let q : Queue := { addr := c.w1, log2 := log2, rkey := c.w2.setWidth 32 }
    guarded s [(reservedBad c 0 [full, 2 ^ 38 - 1], 0x101), (decide (log2 < 6) || decide (18 < log2), 0x111),
        (c.w1.toNat % 64 != 0, 0x118), (decide (sl.cqs.length ≥ 64), 0x207)]
      (.reply (setSlot s c.slot { sl with cqs := Tbl.put sl.cqs n q }) 0 (ownHandle s 0x0C (c.slot * 64 + n)) 0))

/-- A queue handle of the issuing connection: R150 and R152's 0x112. -/
def cqCheck (s : State) (slot : Nat) (w : Word) : Bool × Nat :=
  match handleErr s [0x0C] w with
  | some e => (true, e)
  | none => (hIndex w / 64 != slot || hIndex w % 64 == 0 || noQueue s slot (hIndex w % 64), 0x112)

def execCqDestroy (c : Cmd) (s : State) : Out :=
  .next (runRing s 0x004 c fun s =>
    let sl := getSlot s c.slot
    let q := hIndex c.w1 % 64
    guarded s [(reservedBad c 0 [full], 0x101), cqCheck s c.slot c.w1, (sl.rings.any (fun r => r.2.cq == q), 0x113)]
      (.reply (setSlot (forgetQueue s c.slot (some q)) c.slot { sl with
          cqs := Tbl.del sl.cqs q
          backlog := sl.backlog.filter (fun p => p.1 != q)
          timeSub := sl.timeSub.filter (fun e => e.queue != q)
          brambleSub := sl.brambleSub.filter (fun e => e.queue != q) }) 0 0 0))

def execRegionAdd (c : Cmd) (s : State) : Out :=
  .next (runRing s 0x005 c fun s =>
    let sl := getSlot s c.slot
    let n := Tbl.lowestFree sl.regions
    let r : Region := {
      addr := c.w1, len := c.w3.toNat, moduleRead := bitAt c.w2 32, moduleWrite := bitAt c.w2 33
      rkey := c.w2.setWidth 32 }
    guarded s [(reservedBad c 0 [full, 2 ^ 34 - 1, full], 0x101),
        (c.w3 == 0 || decide (c.w3.toNat > 2 ^ 40), 0x108), (decide (sl.regions.length ≥ 1024), 0x207)]
      (.reply (setSlot s c.slot { sl with
          regions := Tbl.put sl.regions n r
          regionsGone := sl.regionsGone.filter (· != n) })
        0 (ownHandle s 0x0D (c.slot * 1024 + n)) 0))

def execRegionRemove (c : Cmd) (s : State) : Out :=
  .next (runRing s 0x006 c fun s =>
    let sl := getSlot s c.slot
    let n := hIndex c.w1 % 1024
    guarded s [(reservedBad c 0 [full], 0x101), regionCheck s c.slot c.w1]
      (.waits (setSlot s c.slot { sl with regions := Tbl.upd sl.regions n (fun r => { r with removing := true }) })
        (.regionRemove n)))

/-- WINDOW_OPEN: packet buffers, decode pools, encode and canvases, audio, or the Preserve (R148), where the host may not
write (R453). -/
def execWindowOpen (c : Cmd) (s : State) : Out :=
  .next (runRing s 0x007 c fun s =>
    let n := Tbl.lowestFree s.hci.windows
    let rkey := freeVal s 32
    let w : Window := {
      slot := c.slot, addr := c.w1.toNat, len := c.w2.toNat, hostRead := bitAt c.w3 0, hostWrite := bitAt c.w3 1
      rkey := rkey }
    guarded s [(reservedBad c 0 [full, full, 3], 0x101),
        (c.w2 == 0, 0x108),
        (!(insideAny s [2, 3, 4, 5] c.w1.toNat c.w2.toNat)
          && (bitAt c.w3 1 || !(insideAny s [9] c.w1.toNat c.w2.toNat)), 0x117),
        (c.w1.toNat % 4096 != 0 || c.w2.toNat % 4096 != 0, 0x118), (decide (s.hci.windows.length ≥ 256), 0x207)]
      (.reply (nextFree { s with hci := { s.hci with windows := Tbl.put s.hci.windows n w } })
        0 (ownHandle s 0x0E n) (rkey.setWidth 48)))

/-- A window handle (R152's 0x117). -/
def windowCheck (s : State) (w : Word) : Bool × Nat :=
  match handleErr s [0x0E] w with
  | some e => (true, e)
  | none => (!(Tbl.has s.hci.windows (hIndex w)), 0x117)

def execWindowClose (c : Cmd) (s : State) : Out :=
  .next (runRing s 0x008 c fun s =>
    guarded s [(reservedBad c 0 [full], 0x101), windowCheck s c.w1]
      (.reply { s with hci := { s.hci with windows := Tbl.del s.hci.windows (hIndex c.w1) } } 0 0 0))

def execBarrier (c : Cmd) (s : State) : Out :=
  .next (runRing s 0x009 c fun s => guarded s [(reservedBad c 0 [], 0x101)] (.waits s .barrier))

def execConnInfo (c : Cmd) (s : State) : Out :=
  .next (runRing s 0x00A c fun s =>
    let sl := getSlot s c.slot
    guarded s [(reservedBad c 0 [], 0x101)]
      (.reply s 0 (word (sl.port * 8 + c.slot)) (word (sl.cqs.length * 128 + sl.rings.length))))

-- ## Connection management (R119 to R123, R556)

/-- R189: whether a port answers for an address. -/
def ownsAddr (s : State) (port : Nat) (a : Addr) : Bool :=
  if a.v6 then
    getB s (oMacIp6C port) 32 && a.bits.toNat == getF s (oMacIp6C port) 31 0 * 2 ^ 96
      + (regRaw s (oMacIp6B port)).toNat * 2 ^ 48 + (regRaw s (oMacIp6A port)).toNat
  else getB s (oMacIp4 port) 32 && a.bits.toNat == getF s (oMacIp4 port) 31 0

/-- R119, R121 row 2: the REQ does not fit the slot that it names. -/
def reqUnfit (s : State) (port : Nat) (r : CmReq) : Bool :=
  let slot := (r.priv.getD 0 0).toNat
  let cfg := regRaw s (oHciSlotCfg slot)
  let a := regRaw s (oHciPeerA slot)
  let b := regRaw s (oHciPeerB slot)
  let hi := bits (regRaw s (oHciPeerC slot)) 31 0
  let v6 := bitAt cfg 21
  let addr := if v6 then hi * 2 ^ 96 + b.toNat * 2 ^ 48 + a.toNat else bits a 31 0
  decide (slot > 7) || !(bitAt cfg 0) || !(ownsAddr s port r.dst) || r.src.v6 != v6 || r.src.bits.toNat != addr || !(bitAt cfg (19 + port))
    || r.mtu != 4096 || !r.rc || (r.priv.getD 1 0).toNat > 1 || (r.priv.drop 2).any (fun x => x != 0)

/-- R121: MRA with a service timeout of 1 s. -/
def sendMra (s : State) (slot : Nat) (m : Mra) : State :=
  sendPkts s [{ slotPkt { getSlot s slot with port := m.port, peer := m.peer, peerMac := m.mac } slot (.cmMra 1000) with
    slot := none }]

/-- R121: the answer to a CM REQ, row by row. A slot that waits for its RTU answers as an UNBOUND one (R556); a slot
that is still closing answers as a SUSPENDED one whose hold has passed. -/
def execCmReq (port : Fin 2) (r : CmReq) (s : State) : Out :=
  .next (
    let slot := (r.priv.getD 0 0).toNat
    let resume := (r.priv.getD 1 0) == 1
    let rej := sendRej s slot port r.src r.mac
    let rep := fun s => sendRep s slot port r.src r.mac
    let wait : Mra := { port := port, mac := r.mac, peer := r.src, again := now s + durS 1 }
    if !(running s) || leaving s || !(getB s oHciCtrl 0) then rej 28
    else if reqUnfit s port r then rej 28
    else
      match (getSlot s slot).phase with
      | .free => rep s false
      | .unbound => rej 1
      | .awaitRtu _ _ => rej 1
      | .bound => if resume then rep (dropPkts s (fun p => p.slot == some slot && !p.m.overQp1)) true else rej 1
      | .suspended _ =>
        if resume then rep s true else closeSlot (sendMra s slot wait) slot (some wait)
      | .closing _ => closeSlot (sendMra s slot wait) slot (some wait))

/-- The records of a queue from the consumer index on, written again, followed by the status block (R144). -/
def rewriteCq (s : State) (slot : Nat) (cq : Queue) : State :=
  writeCqStatus ((cq.recs.zipIdx).foldl (fun s p => writeCqRec s slot cq (cq.ci + BitVec.ofNat 32 p.2) p.1) s) slot cq none

def rewriteEq (s : State) (slot : Nat) (eq : ErrQueue) : State :=
  writeEqStatus ((eq.recs.zipIdx).foldl (fun s p => writeEqRec s slot eq (eq.ci + BitVec.ofNat 32 p.2) p.1) s) slot eq none

/-- R144, R498: a resumed slot runs on: every unread record is written again, then the error records held for it are
posted, and armed queues are looked at again. -/
def resumeSlot (s : State) (slot : Nat) : State :=
  let sl := getSlot s slot
  let s1 := setSlot s slot { sl with
    phase := if sl.eq.isSome then .bound else .unbound
    rate := 400000000000
    alpha := 1
    cnpInPeriod := false
    periodFrom := now s
    nextSend := now s
    errBacklog := [] }
  let again := sl.cqs.foldl (fun s p => rewriteCq s slot p.2) s1
  let s2 := sl.errBacklog.foldl (fun s r => errToSlot s slot r) (match sl.eq with
    | some eq => rewriteEq again slot eq
    | none => again)
  wakeEq (sl.cqs.foldl (fun s p => wakeCq s slot p.1) s2) slot

/-- R556: the RTU, in time, establishes the connection. -/
def execRtu (slot : Fin 8) (s : State) : Out :=
  .next (
    match (getSlot s slot).phase with
    | .awaitRtu resume deadline =>
      if now s > deadline then s
      else if resume then resumeSlot s slot
      else setSlot s slot { getSlot s slot with
        phase := .unbound, rate := 400000000000, alpha := 1, periodFrom := now s, nextSend := now s }
    | _ => s)

def execRtuTimeout (slot : Fin 8) (s : State) : Out :=
  .next (
    match (getSlot s slot).phase with
    | .awaitRtu _ deadline => if now s ≥ deadline then closeSlot s slot none else s
    | _ => s)

/-- R121: MRA again after each second, until the slot is FREE and the REQ is answered with REP. -/
def execMraRepeat (slot : Fin 8) (s : State) : Out :=
  .next (
    match (getSlot s slot).phase with
    | .closing (some m) =>
      if !(slotBusy s slot) then closeDone s slot
      else if now s < m.again then s
      else
        let w := { m with again := now s + durS 1 }
        sendMra (setSlot s slot { getSlot s slot with phase := .closing (some w) }) slot w
    | _ => s)

-- ## Losing a connection (R143, R145)

def execDreq (slot : Fin 8) (s : State) : Out :=
  .next (if (getSlot s slot).connected then loseConn (sendRoce s slot .cmDrep) slot else s)

def execRdmaErrorNak (slot : Fin 8) (s : State) : Out := .next (loseConn s slot)

def execRdmaRetryExhausted (slot : Fin 8) (s : State) : Out := .next (loseConn s slot)

def execHoldExpiry (slot : Fin 8) (s : State) : Out :=
  .next (
    match (getSlot s slot).phase with
    | .suspended (some t) => if now s ≥ t then closeSlot s slot none else s
    | _ => s)

/-- R117: 67.1 ms, that is 4.096 µs × 2^14. -/
def ackTime : Nat := durNs (4096 * 2 ^ 14)

/-- R117: every packet that is not acknowledged is sent again, ahead of what waits. -/
def resend (s : State) (slot : Nat) : State :=
  let sl := getSlot s slot
  { s with hci := { s.hci with
    slots := s.hci.slots.set slot { sl with unacked := [], ackFrom := some (now s) }
    sendQ := sl.unacked.map (slotPkt sl slot) ++ s.hci.sendQ } }

/-- R117: the local ACK timeout, 67.1 ms after the oldest packet that waits was sent, resends while fewer than 7 retries
have been made. -/
def execLocalAckTimeout (slot : Fin 8) (s : State) : Out :=
  .next (
    let sl := getSlot s slot
    match sl.ackFrom with
    | none => s
    | some t =>
      if sl.connected && decide (sl.retries < 7) && decide (t + ackTime ≤ now s) then
        resend (setSlot s slot { sl with retries := sl.retries + 1 }) slot
      else s)

/-- R142: an RNR NAK is retried without limit. -/
def execRnrNak (slot : Fin 8) (s : State) : Out :=
  .next (if (getSlot s slot).connected then resend s slot else s)

/-- R117: the host acknowledges `n` packets: the retries begin anew. -/
def takeAck (s : State) (slot n : Nat) : State :=
  let sl := getSlot s slot
  if n = 0 then s
  else
    let left := sl.unacked.drop n
    setSlot s slot { sl with unacked := left, retries := 0, ackFrom := if left.isEmpty then none else some (now s) }

-- ## Congestion (R117, R118)

/-- HCI_CNP.MIN_RATE_MBPS in bit/s. -/
def minRate (s : State) : Rat := getF s oHciCnp 31 16 * 1000000

def execCnpReceived (slot : Fin 8) (s : State) : Out :=
  .next (
    let sl := getSlot s slot
    if sl.connected && getB s oHciCtrl 2 then
      setSlot s slot { sl with
        rate := max (sl.rate * (1 - sl.alpha / 2)) (minRate s)
        alpha := sl.alpha * 15 / 16 + 1 / 16
        cnpInPeriod := true }
    else s)

def execRecoveryPeriodEnd (slot : Fin 8) (s : State) : Out :=
  .next (
    let sl := getSlot s slot
    if sl.connected && getB s oHciCtrl 2 && decide (now s ≥ sl.periodFrom + durUs (getF s oHciCnp 47 32)) then
      setSlot s slot { sl with
        rate := if sl.cnpInPeriod then sl.rate else (sl.rate + 400000000000) / 2
        alpha := if sl.cnpInPeriod then sl.alpha else sl.alpha * 15 / 16
        cnpInPeriod := false
        periodFrom := now s }
    else s)

def execEcnCePacket (slot : Fin 8) (s : State) : Out :=
  .next (
    let sl := getSlot s slot
    let ready := match sl.lastCnp with
      | none => true
      | some t => decide (now s ≥ t + durUs (getF s oHciCnp 15 0))
    if sl.connected && getB s oHciCtrl 1 && ready then
      sendRoce (setSlot s slot { sl with lastCnp := some (now s) }) slot .cnp
    else s)

-- ## The doorbell page (R122 to R130)

/-- Count an ignored doorbell. -/
def dbErr (s : State) : State := bumpF s oHciCount 35 24 1

/-- R125, R126: a bootstrap value; a BOUND slot ignores it, which DB_ERR counts. -/
def bootSlotSet (s : State) (slot : Nat) (index : Nat) (value : BitVec 64) : State :=
  let sl := getSlot s slot
  match sl.phase with
  | .unbound => setSlot s slot { sl with boot := sl.boot.set index value }
  | .bound => dbErr s
  | _ => s

def execBootSlotWrite (slot : Fin 8) (index : Fin 6) (value : BitVec 64) (s : State) : Out := .next (bootSlotSet s slot index value)

/-- R127, R129: address alignment and size of a bootstrap pair. -/
def bootBad (va key : BitVec 64) (maxLog : Nat) : Bool :=
  bits va 47 0 % 64 != 0 || decide (bits key 37 32 < 6) || decide (maxLog < bits key 37 32)

/-- R122, R123. -/
def bootGo (s : State) (slot : Nat) : State :=
  let sl := getSlot s slot
  let b := fun i => sl.boot.getD i 0
  match sl.phase with
  | .unbound =>
    if bootBad (b 0) (b 1) 16 || bootBad (b 2) (b 3) 18 || bootBad (b 4) (b 5) 16 then
      dbErr (freeSlot (sendRoce s slot .cmDreq) slot)
    else
      setSlot s slot { sl with
        phase := .bound
        rings := [(0, { addr := word (bits (b 0) 47 0), log2 := bits (b 1) 37 32, rkey := (b 1).setWidth 32 })]
        cqs := [(0, { addr := word (bits (b 2) 47 0), log2 := bits (b 3) 37 32, rkey := (b 3).setWidth 32 })]
        eq := some { addr := word (bits (b 4) 47 0), log2 := bits (b 5) 37 32, rkey := (b 5).setWidth 32 } }
  | .bound => dbErr s
  | _ => s

def execBootGo (slot : Fin 8) (s : State) : Out := .next (bootGo s slot)

/-- R128. -/
def ringPiSet (s : State) (slot : Nat) (ring : Nat) (value : BitVec 32) : State :=
  let sl := getSlot s slot
  if !sl.connected then s
  else
    match Tbl.get? sl.rings ring with
    | none => dbErr s
    | some r =>
      if (value - r.fc).toNat > 2 ^ r.log2 then
        raiseErr (dbErr s)
          { code := 0x0401, cls := 2, inst := slot, a := word ring, b := word value.toNat }
      else setSlot s slot { sl with rings := Tbl.put sl.rings ring { r with pi := value } }

def execRingPi (slot : Fin 8) (ring : Fin 64) (value : BitVec 32) (s : State) : Out := .next (ringPiSet s slot ring value)

/-- R130: whether a new consumer index lies between the old one and the producer index. -/
def ciOk (ci pi value : BitVec 32) : Bool := decide ((value - ci).toNat ≤ (pi - ci).toNat)

def cqCiSet (s : State) (slot : Nat) (queue : Nat) (value : BitVec 32) : State :=
  let sl := getSlot s slot
  if !sl.connected then s
  else
    match Tbl.get? sl.cqs queue with
    | none => dbErr s
    | some q =>
      if ciOk q.ci q.pi value then setCq s slot queue { q with ci := value, recs := q.recs.drop (value - q.ci).toNat }
      else dbErr s

def execCqCi (slot : Fin 8) (queue : Fin 64) (value : BitVec 32) (s : State) : Out := .next (cqCiSet s slot queue value)

def eqCiSet (s : State) (slot : Nat) (value : BitVec 32) : State :=
  let sl := getSlot s slot
  if !sl.connected then s
  else
    match sl.eq with
    | none => dbErr s
    | some q =>
      if ciOk q.ci q.pi value then
        setSlot s slot { sl with eq := some { q with ci := value, recs := q.recs.drop (value - q.ci).toNat } }
      else dbErr s

def execEqCi (slot : Fin 8) (value : BitVec 32) (s : State) : Out := .next (eqCiSet s slot value)

/-- R141: an arm word. -/
def armOf (s : State) (v : BitVec 64) : Option Arm :=
  if bitAt v 32 then some { delayUs := bits v 31 16, count := bits v 15 0, armedAt := now s } else none

def cqArmSet (s : State) (slot : Nat) (queue : Nat) (value : BitVec 64) : State :=
  let sl := getSlot s slot
  if !sl.connected then s
  else
    match Tbl.get? sl.cqs queue with
    | none => dbErr s
    | some q => wakeCq (setCq s slot queue { q with arm := armOf s value }) slot queue

def execCqArm (slot : Fin 8) (queue : Fin 64) (value : BitVec 64) (s : State) : Out := .next (cqArmSet s slot queue value)

def eqArmSet (s : State) (slot : Nat) (value : BitVec 64) : State :=
  let sl := getSlot s slot
  if !sl.connected then s
  else
    match sl.eq with
    | none => dbErr s
    | some q => wakeEq (setSlot s slot { sl with eq := some { q with arm := armOf s value } }) slot

def execEqArm (slot : Fin 8) (value : BitVec 64) (s : State) : Out := .next (eqArmSet s slot value)

/-- R126: an unused offset, a partly covered slot, or a ring or queue that does not exist. -/
def doorbellLost (s : State) (slot : Nat) : State :=
  if (getSlot s slot).connected then dbErr s else s

def execDoorbellIgnored (slot : Fin 8) (s : State) : Out := .next (doorbellLost s slot)

/-- R125: one 8-byte slot of the doorbell page is written. -/
def doorbell (s : State) (slot off : Nat) (v : BitVec 64) : State :=
  let n := (off / 8) % 64
  if off < 0x30 then bootSlotSet s slot (off / 8) v
  else if off = 0x30 then bootGo s slot
  else if 0x100 ≤ off ∧ off < 0x300 then ringPiSet s slot ((off - 0x100) / 8) (v.setWidth 32)
  else if 0x300 ≤ off ∧ off < 0x500 then cqCiSet s slot ((off - 0x300) / 8) (v.setWidth 32)
  else if off = 0x500 then eqCiSet s slot (v.setWidth 32)
  else if 0x600 ≤ off ∧ off < 0x800 then cqArmSet s slot n v
  else if off = 0x800 then eqArmSet s slot v
  else doorbellLost s slot

/-- R126: the slots of the page that one write touches, in ascending order: a whole one is applied, a partly covered one is
ignored and counted. -/
def ringDoorbells (s : State) (slot off : Nat) (data : List Byte) : State :=
  ((List.range 512).filter (fun k => decide (off < 8 * k + 8) && decide (8 * k < off + data.length))).foldl (fun s k =>
    if off ≤ 8 * k ∧ 8 * k + 8 ≤ off + data.length then
      doorbell s slot (8 * k) (BitVec.ofNat 64 (leNat ((data.drop (8 * k - off)).take 8)))
    else doorbellLost s slot) s

/-- R125: a write to the connection's doorbell page, under its rkey. -/
def onDoorbellPage (s : State) (slot a n : Nat) (rkey : BitVec 32) : Bool :=
  rkey == (getSlot s slot).dbKey && inside (doorbellPage slot, 4096) a n

-- ## Module windows (R148, R89)

/-- The connection's window that an access names by rkey and address. -/
def windowFor (s : State) (slot a n : Nat) (rkey : BitVec 32) : Option Window :=
  (s.hci.windows.find? (fun p => p.2.slot == slot && p.2.rkey == rkey && inside (p.2.addr, p.2.len) a n)).map (·.2)

/-- A read outside a readable window is refused; one that meets a held page waits and pulls its entries forward to now
(R93); any other is answered. A seventeenth read that would wait exceeds R117's 16: NAK Invalid Request (PRESUMED,
assumption 87). -/
def execWindowRdmaRead (slot : Fin 8) (addr : Word) (len : Nat) (rkey : BitVec 32) (s : State) : Out :=
  .next (
    if !(getSlot s slot).connected then s
    else
      match windowFor s slot addr.toNat len rkey with
      | none => sendRoce s slot .nakRemoteAccess
      | some w =>
        if !w.hostRead then sendRoce s slot .nakRemoteAccess
        else if (heldBy s addr.toNat len).isEmpty then sendData_ s slot (dramRead s addr.toNat len)
        else if 16 ≤ (s.hci.waitingReads.filter (fun r => r.slot == slot.val)).length then sendRoce s slot .nakInvalidRequest
        else
          let s1 := pullHeld s addr.toNat len (now s)
          { s1 with hci := { s1.hci with waitingReads := s1.hci.waitingReads ++ [⟨slot, addr.toNat, len⟩] } })

/-- R125, R126, R148: a write to the doorbell page rings its doorbells; any other goes to a writable window. -/
def execWindowRdmaWrite (slot : Fin 8) (addr : Word) (data : List Byte) (rkey : BitVec 32) (s : State) : Out :=
  .next (
    if !(getSlot s slot).connected then s
    else if onDoorbellPage s slot addr.toNat data.length rkey then ringDoorbells s slot (addr.toNat % 4096) data
    else
      match windowFor s slot addr.toNat data.length rkey with
      | none => sendRoce s slot .nakRemoteAccess
      | some w => if w.hostWrite then dramWrite s addr.toNat data else sendRoce s slot .nakRemoteAccess)

def execWakeDelayExpiry (slot : Fin 8) (queue : Option (Fin 64)) (s : State) : Out :=
  .next (
    match queue with
    | some q => wakeCq s slot q
    | none => wakeEq s slot)

-- ## Fetching (R135, R138, R143)

/-- R134: a descriptor as the module takes it. -/
def takeDesc (sl : Slot) (d : Desc) : Desc :=
  if bitAt sl.cfg 22 then
    ⟨swapWord d.w0, swapWord d.w1, swapWord d.w2, swapWord d.w3, swapWord d.w4, swapWord d.w5, swapWord d.w6, swapWord d.w7⟩
  else d

/-- How many descriptors a visit of a ring may fetch: those pending, 85 at most, each with an entry reserved, and none
beyond the end of the ring, since one RDMA READ reads one stretch of host memory (R127, R135). -/
def fetchLimit (r : Ring) (cq : Queue) : Nat :=
  min (min (min (r.pi - r.fc).toNat 85) cq.spare) (2 ^ r.log2 - r.fc.toNat % 2 ^ r.log2)

/-- R135: a ring from which a visit would fetch: on a bound slot, not being destroyed, with descriptors pending and an entry
to reserve. -/
def fetchable (sl : Slot) (ring : Nat) : Bool :=
  match Tbl.get? sl.rings ring with
  | none => false
  | some r => match Tbl.get? sl.cqs r.cq with
    | none => false
    | some cq => sl.phase = .bound && !r.stopped && decide (0 < fetchLimit r cq)

/-- The first of the numbers below `n`, from the one after `last` round, that satisfies a test. -/
def roundRobin (n last : Nat) (p : Nat → Bool) : Option Nat :=
  ((List.range n).map (fun k => (last + 1 + k) % n)).find? p

/-- R135: the next visit: connections in turn, and within each its rings in turn. -/
def nextVisit (s : State) : Option (Nat × Nat) :=
  (roundRobin 8 s.hci.lastVisit (fun n => (List.range 64).any (fetchable (getSlot s n)))).bind (fun n =>
    (roundRobin 64 (getSlot s n).lastRing (fetchable (getSlot s n))).map (fun r => (n, r)))

/-- R127, R135: the one RDMA READ of a visit. -/
def readDescs (s : State) (slot : Nat) (r : Ring) (n : Nat) : State :=
  sendRoce s slot (.readReq (r.addr + word (48 * (r.fc.toNat % 2 ^ r.log2))) (48 * n) r.rkey)

/-- One visit of a ring, in its turn (R135): one RDMA READ and its answer. Nothing is fetched while fetching is held back
(R408). A refused or timed-out fetch loses the connection and fetches nothing. -/
def execDescriptorFetch (slot : Fin 8) (ring : Fin 64) (r : FetchResult) (s : State) : Out :=
  .next (
    let sl := getSlot s slot
    match Tbl.get? sl.rings ring with
    | none => s
    | some rg =>
      match Tbl.get? sl.cqs rg.cq with
      | none => s
      | some cq =>
        let n := fetchLimit rg cq
        if nextVisit s != some (slot.val, ring.val) || s.hci.fetchHeld || !(running s) || leaving s then s
        else
          if !(slotGranted s clsCtl 2) then slotRefused { s with hci := { s.hci with fetchHeld := true } }
          else
            let s0 := readDescs s slot rg n
            match r with
            | .denied => loseConn s0 slot
            | .timeout => loseConn s0 slot
            | .descs ds =>
              let got := ds.take n
              let s1 := setSlot s0 slot { sl with
                lastRing := ring
                rings := Tbl.put sl.rings ring { rg with fc := rg.fc + BitVec.ofNat 32 got.length }
                cqs := Tbl.put sl.cqs rg.cq { cq with reserved := cq.reserved + got.length } }
              settle { s1 with hci := { s1.hci with
                fetched := s1.hci.fetched ++ (got.zipIdx).map (fun p => ⟨s.hci.nextNo + p.2, slot, ring, takeDesc sl p.1⟩)
                nextNo := s.hci.nextNo + got.length
                lastVisit := slot } })

def execEventBacklogPost (slot : Fin 8) (queue : Fin 64) (s : State) : Out :=
  .next (if (getSlot s slot).connected then drainBacklog s slot queue 1025 else s)

/-- R499: the QUEUE_OVERFLOW record of a slot whose error queue has space again, posted to it alone. The drop counts it
carries are set to 0. -/
def execQueueOverflow (slot : Fin 8) (s : State) : Out :=
  .next (
    let sl := getSlot s slot
    match sl.phase, sl.eq, sl.firstDrop with
    | .bound, some eq, some first =>
      if eq.spare = 0 then s
      else
        let sr := recordErr s
          { code := 0x1201, cls := 1, inst := slot, a := regRaw s (oErrDropSlot slot), b := word first }
        let s1 := setSlot sr.1 slot { getSlot sr.1 slot with firstDrop := none }
        pushErr (setRaw s1 (oErrDropSlot slot) 0) slot sr.2
    | _, _, _ => s)

end Sys2Proof.Machine
end

