-- ==== Sys2Proof/Machine/Ports.lean ====
section
/-! DEFINITION. The data ports (chapter 06): plug-ins and links, receive filtering, PAUSE and PFC, transmit queues and
gate lists. -/

namespace Sys2Proof.Machine

/-- A data-port MAC. -/
def getMac (s : State) (port : Nat) : Mac := if port = 0 then s.mac0 else s.mac1
def setMac (s : State) (port : Nat) (m : Mac) : State := if port = 0 then { s with mac0 := m } else { s with mac1 := m }

-- MAC counters of R207, by their place in the table.
def cRxFrames : Nat := 0
def cRxBytes : Nat := 1
def cRunt : Nat := 2
def cOversize : Nat := 3
def cFcsErr : Nat := 4
def cVlanDrop : Nat := 5
def cAddrDrop : Nat := 6
def cRxMacctl : Nat := 7
def cOverrun : Nat := 8
def cTxFrames : Nat := 9
def cTxBytes : Nat := 10
def cTxPause : Nat := 11
def cTxHeld : Nat := 12
def cTxNeverFits : Nat := 13
def cTxDiscard : Nat := 14
def cPauseWdog : Nat := 15
def cFecCorr : Nat := 16
def cFecUncorr : Nat := 17
def cLinkDown : Nat := 18

/-- Add to a MAC counter. -/
def macCount (s : State) (port c n : Nat) : State := bumpC s (oMacCounter port c) n

-- ## Cages and links (R183 to R187)

/-- R185: whether the module's state powers the cages: Active and Quiet, and a start that has reached phase 5, which the
sound initialisation of phases 1 to 4 at PWR_OK's row has brought about. -/
def cagesOn (s : State) : Bool := running s || (s.power.st = .starting && s.power.pwrOk)

/-- Cage power of a data port (MACn_CTRL.CAGE_EN and EN). -/
def cagePowered (s : State) (port : Nat) : Bool := cagesOn s && getB s (oMacCtrl port) 1 && getB s (oMacCtrl port) 0

/-- Cage power of a Grinal port (GRN_PORTp). -/
def grnPowered (s : State) (p : Nat) : Bool := running s && getB s (oGrnPort p) 1 && getB s (oGrnPort p) 0

/-- R182, R183, R185, R460: what PLUG reads once a powered cage's plug-in has been read: 16 W at most. -/
def plugValue (p : Option Plug) : Nat :=
  match p with
  | none => 0
  | some p =>
    if !p.answers then 5
    else if !p.cmis5 || !p.application then 3
    else if p.watts > 16 then 4
    else 2

/-- Initialise a data cage: what PLUG reads once CMIS initialisation has ended, and after a CMIS error the time of the next
try (R185). -/
def plugInit (s : State) (port : Nat) : State :=
  let m := getMac s port
  let v := if cagePowered s port then plugValue m.module_ else 6
  setMac s port { m with plug := v, plugAt := s.power.aon, cmisRetryAt := if v = 5 then some (now s + durS 5) else none }

/-- R185: PLUG as it reads: 0x1 in the TIME cycle in which the initialisation of a plug-in begins. Initialisation ends with
that cycle (DESIGN CHOICE, assumption 88). -/
def plugShown (s : State) (plug plugAt : Nat) : Nat :=
  if plugAt = s.power.aon && [2, 3, 4, 5].contains plug then 1 else plug

/-- A Grinal port by number: 0 GRINAL-E, 1 GRINAL-W. -/
def getGrnPort (s : State) (p : Nat) : GrnPort := if p = 0 then s.grn.east else s.grn.west
def setGrnPort (s : State) (p : Nat) (g : GrnPort) : State :=
  if p = 0 then { s with grn := { s.grn with east := g } } else { s with grn := { s.grn with west := g } }

/-- R460: a Grinal cage. -/
def grnPlugInit (s : State) (p : Nat) : State :=
  let g := getGrnPort s p
  let v := if grnPowered s p then plugValue g.module_ else 6
  setGrnPort s p { g with plug := v, plugAt := s.power.aon, cmisRetryAt := if v = 5 then some (now s + durS 5) else none }

/-- Frames waiting in a port's transmit queues. -/
def txWaiting (m : Mac) : Nat := (m.txq.map List.length).sum

/-- Every connection on a port is lost (R143, R186); `n` counts slots down. -/
def loseOnPort (s : State) (port n : Nat) : State :=
  match n with
  | 0 => s
  | n + 1 =>
    let s1 := loseOnPort s port n
    if (getSlot s1 n).connected && (getSlot s1 n).port == port then loseConn s1 n else s1

/-- PTP frames of a port that wait for room are given up. -/
def dropPtp (s : State) (port : Nat) : State :=
  { s with time := { s.time with ptpOut := s.time.ptpOut.filter (fun p => p.1 != port) } }

/-- R186: the frame being sent at a fall of LINK is cut off: it counts as discarded and not as sent. -/
def cutFrame (s : State) (port : Nat) : State :=
  let m := getMac s port
  let s0 := setMac s port { m with sending := none }
  match m.sending with
  | none => s0
  | some (f, t) =>
    if now s < t then
      let s1 := setRaw s0 (oMacCounter port cTxFrames) (regRaw s (oMacCounter port cTxFrames) - 1)
      let s2 := setRaw s1 (oMacCounter port cTxBytes) (regRaw s (oMacCounter port cTxBytes) - word f.len)
      macCount (emit s2 (.cutOff port f)) port cTxDiscard 1
    else s0

/-- R186: LINK falls from 1 to 0: queued frames are discarded, the frame being sent is cut off, the fall is counted and
shown, and the port's host connections are lost. Received pause ends with the link (DESIGN CHOICE, assumption 89). -/
def linkFalls (s : State) (port : Nat) (lf rf : Bool) : State :=
  let m := getMac s port
  let s1 := setMac s port { m with
    link := false
    localFault := lf
    remoteFault := rf
    txq := List.replicate 8 []
    replies := []
    paused := []
    stoppedSince := [] }
  if m.link then
    let s2 := cutFrame (macCount (macCount s1 port cTxDiscard (txWaiting m)) port cLinkDown 1) port
    let s3 := dropPkts (dropPtp s2 port) (fun p => p.port == port)
    let s4 := loseOnPort (raiseBit s3 (oMacStatus port) 16) port 8
    if lf then emit s4 (.remoteFaultSets port) else s4
  else s1

def execPlugInsert (cage : Fin 4) (p : Plug) (s : State) : Out :=
  .next (
    if cage.val < 2 then plugInit (setMac s cage { getMac s cage with module_ := some p }) cage
    else grnPlugInit (setGrnPort s (cage - 2) { getGrnPort s (cage - 2) with module_ := some p }) (cage - 2))

/-- A Grinal port's link is gone (R460, R466). -/
def grnLinkOff (s : State) (p : Nat) : State :=
  let g := getGrnPort s p
  let s1 := setGrnPort s p { g with link := false, neighbourValid := false, presentSince := none, delays := [] }
  if g.link then raiseBit s1 (oGrnPort p) 13 else s1

/-- A port's link is gone for another cause than a received fault (R186, R539). -/
def linkDrop (s : State) (port : Nat) : State :=
  let s1 := linkFalls s port true false
  if (getMac s port).link then emit s1 (.linkLevel port false) else s1

def execPlugRemove (cage : Fin 4) (s : State) : Out :=
  .next (
    if cage.val < 2 then
      plugInit (setMac (linkDrop s cage) cage { getMac (linkDrop s cage) cage with module_ := none }) cage
    else
      grnPlugInit (setGrnPort (grnLinkOff s (cage - 2)) (cage - 2)
        { getGrnPort (grnLinkOff s (cage - 2)) (cage - 2) with module_ := none }) (cage - 2))

/-- R185: 5 s after a CMIS error the cage is tried again. -/
def execCmisRetry (cage : Fin 4) (s : State) : Out :=
  .next (
    if cage.val < 2 then
      match (getMac s cage).cmisRetryAt with
      | some t => if now s ≥ t then plugInit s cage else s
      | none => s
    else
      match (getGrnPort s (cage - 2)).cmisRetryAt with
      | some t => if now s ≥ t then grnPlugInit s (cage - 2) else s
      | none => s)

/-- R539: a plug-in in service that raises an alarm or stops answering loses its power: PLUG 0x5, tried again after 5 s
(R185). -/
def execCmisError (cage : Fin 4) (s : State) : Out :=
  .next (
    if cage.val < 2 then
      if (getMac s cage).plug = 2 then
        let s1 := linkDrop s cage
        setMac s1 cage { getMac s1 cage with plug := 5, cmisRetryAt := some (now s + durS 5) }
      else s
    else if (getGrnPort s (cage - 2)).plug = 2 then
      let s1 := grnLinkOff s (cage - 2)
      setGrnPort s1 (cage - 2) { getGrnPort s1 (cage - 2) with plug := 5, cmisRetryAt := some (now s + durS 5) }
    else s)

/-- R187: a port whose plug-in is ready reaches LINK 1. -/
def execDataLinkUp (port : Fin 2) (s : State) : Out :=
  .next (
    let m := getMac s port
    if cagePowered s port && plugShown s m.plug m.plugAt = 2 then
      emit (setMac s port { m with link := true, localFault := false, remoteFault := false }) (.linkLevel port true)
    else s)

def execDataLinkDown (port : Fin 2) (remoteFault : Bool) (s : State) : Out :=
  .next (if (getMac s port).link then
      emit (linkFalls s port (!remoteFault) remoteFault) (.linkLevel port false)
    else
      let s1 := setMac s port { getMac s port with localFault := !remoteFault, remoteFault := remoteFault }
      if !remoteFault && cagePowered s port then emit s1 (.remoteFaultSets port) else s1)

-- ## Receive filtering (R190 to R193)

/-- An address's six bytes, first byte sent in [47:40]. -/
def addrBytes (a : Word) : List Byte := (leBytes 6 a.toNat).reverse

/-- R192: the hash bin of a group address. -/
def hashBin (a : Word) : Nat := (crc32 (addrBytes a)).toNat % 1024

/-- A group address. -/
def isGroup (a : Word) : Bool := bitAt a 40

/-- The multicast addresses of PTP for a transport (IEEE 1588-2019; PRESUMED, assumption 20). -/
def ptpGroups (transport : Nat) : List Word :=
  if transport = 0 then [0x011B19000000, 0x0180C200000E]
  else if transport = 1 then [0x01005E000181, 0x01005E00006B]
  else [0x333300000181, 0x33330000006B]

/-- The solicited-node multicast address of an IPv6 address's low 24 bits. -/
def solicited (lo : Word) : Word := word (0x3333FF000000 + lo.toNat % 2 ^ 24)

/-- R191: whether a port accepts a destination address. -/
def acceptsAddr (s : State) (port : Nat) (a : Word) : Bool :=
  if isGroup a then
    a == 0xFFFFFFFFFFFF || a == 0x0180C2000001
      || (getB s (oTbPtpPort port) 0 && (ptpGroups (getF s (oTbPtpPort port) 4 3)).contains a)
      || (getB s (oMacIp6C port) 32 && a == solicited (regRaw s (oMacIp6A port)))
      || bitAt (regRaw s (oMacGroupHash port (hashBin a / 32))) (hashBin a % 32)
  else (List.range 8).any (fun k => (getB s (oMacUcValid port) k || k == 0) && regRaw s (oMacUc port k) == a)

/-- R193: tags a port accepts. A TPID other than 0x8100 and 0x88A8 is no tag. -/
def tagsOk (s : State) (port : Nat) (tags : List VTag) : Bool :=
  match tags with
  | [] => true
  | t :: rest =>
    if t.tpid = 0x88A8 then false
    else if t.tpid = 0x8100 then
      (t.vid == 0 || t.vid.toNat == getF s (oMacVlan port) 11 0)
        && !(rest.any (fun u => u.tpid == 0x8100 || u.tpid == 0x88A8))
    else true

/-- R190: the counter of the first check that a frame fails. -/
def frameCheck (s : State) (port : Nat) (f : Frame) : Option Nat :=
  firstFail [(decide (f.len < 64), cRunt), (decide (f.len > getF s (oMacCtrl port) 45 32), cOversize),
    (!f.fcsOk || f.fecUncorr != 0, cFcsErr), (!(tagsOk s port f.tags), cVlanDrop), (!(acceptsAddr s port f.da), cAddrDrop)]

-- ## PAUSE and PFC (R194 to R197)

/-- Bytes in an input queue. -/
def rxBytes (q : List RxItem) : Nat := (q.map (fun i => i.frame.len)).sum

/-- R195: sizes of the control and media queues. -/
def ctrlCap : Nat := 512 * 1024
def mediaCap : Nat := 16 * 1024 * 1024

/-- The classes whose watchdog has stopped XOFF. -/
def xoffAllowed (m : Mac) (mask : Nat) : List Nat :=
  (List.range 8).filter (fun c => (mask / 2 ^ c) % 2 == 1 && !(Tbl.has m.xoffUntil c))

/-- The classes that the port's queues above XON hold stopped (R196): none while TX_MODE sends nothing or LINK is 0. -/
def heldClasses (s : State) (port : Nat) (m : Mac) : List Nat :=
  if getF s (oMacFc port) 1 0 = 0 || !m.link then [] else
  let cm := if m.ctrlXoff then xoffAllowed m (getF s (oMacFc port) 23 16) else []
  let mm := if m.mediaXoff then xoffAllowed m (getF s (oMacFc port) 31 24) else []
  distinct (cm ++ mm)

/-- A bit mask of classes. -/
def classMask (cs : List Nat) : Nat := (cs.map (fun c => 2 ^ c)).sum

/-- Send a PAUSE or PFC frame for classes with a quanta value, as TX_MODE allows (R196). -/
def sendPause (s : State) (port : Nat) (cs : List Nat) (quanta : Nat) : State :=
  let mode := getF s (oMacFc port) 1 0
  if cs.isEmpty || !(running s) || mode = 0 || !(getMac s port).link then s
  else macCount (emit s (.pause port (if mode = 1 then 0 else classMask cs) quanta)) port cTxPause 1

/-- R195, R196: XOFF and XON after an input queue has grown or shrunk. In PAUSE mode quanta 0 is sent for the classes of a queue
that falls to XON, even while the other queue holds other classes (DESIGN CHOICE, assumption 90). -/
def flowCheck (s : State) (port : Nat) : State :=
  let m := getMac s port
  let c := rxBytes m.ctrlQ
  let d := rxBytes m.mediaQ
  let cx := if m.ctrlXoff then decide (c * 2 > ctrlCap) else decide (c * 4 ≥ ctrlCap * 3)
  let mx := if m.mediaXoff then decide (d * 2 > mediaCap) else decide (d * 4 ≥ mediaCap * 3)
  let before := heldClasses s port m
  let m1 := { m with ctrlXoff := cx, mediaXoff := mx }
  let after := heldClasses s port m1
  let started := after.filter (fun k => !(before.contains k))
  let ended := before.filter (fun k => !(after.contains k))
  let m2 := { m1 with
    xoffSince := (started.foldl (fun t k => Tbl.put t k (now s)) m1.xoffSince).filter (fun p => !(ended.contains p.1))
    xoffSentAt := if started.isEmpty then m1.xoffSentAt else now s }
  sendPause (sendPause (setMac s port m2) port started 65535) port ended 0

/-- R196: every 40 µs above XON the XOFF frame is sent again. -/
def execPfcRepeat (port : Fin 2) (s : State) : Out :=
  .next (
    let m := getMac s port
    let held := heldClasses s port m
    if held.isEmpty || decide (now s < m.xoffSentAt + durUs 40) then s
    else sendPause (setMac s port { m with xoffSentAt := now s }) port held 65535)

/-- `q` pause quanta of 1.28 ns (R194). -/
def quantaDur (q : Nat) : Nat := ceilDiv (q * 128 * second) 100000000000

/-- Stop or restart one class (R194), unless the watchdog makes the port ignore it (R197). -/
def pauseClass (t : Nat) (m : Mac) (cls quanta : Nat) : Mac :=
  if Tbl.has m.ignoreUntil cls then m
  else if quanta = 0 then { m with paused := Tbl.del m.paused cls, stoppedSince := Tbl.del m.stoppedSince cls }
  else { m with
    paused := Tbl.put m.paused cls (t + quantaDur quanta)
    stoppedSince := if Tbl.has m.stoppedSince cls then m.stoppedSince else Tbl.put m.stoppedSince cls t }

/-- R194: a MAC control frame. One that does not match RX_MODE, or of another opcode, only counts. -/
def takePause (s : State) (port : Nat) (opcode : BitVec 16) (enables : BitVec 8) (quanta : List (BitVec 16)) : State :=
  let mode := getF s (oMacFc port) 3 2
  let m := getMac s port
  if opcode = 0x0001 && mode = 1 then
    setMac s port ((List.range 8).foldl (fun m c => pauseClass (now s) m c (quanta.getD 0 0).toNat) m)
  else if opcode = 0x0101 && mode = 2 then
    setMac s port ((List.range 8).foldl
      (fun m c => if enables.getLsbD c then pauseClass (now s) m c (quanta.getD c 0).toNat else m) m)
  else macCount s port cRxMacctl 1

/-- R190: an accepted frame is counted. -/
def countRx (s : State) (port len : Nat) : State := macCount (macCount s port cRxFrames 1) port cRxBytes len

/-- A valid MAC control frame of 64 bytes, which passes the checks of R190: counted as accepted, then R194. -/
def execPauseFrame (port : Fin 2) (opcode : BitVec 16) (enables : BitVec 8) (quanta : List (BitVec 16)) (s : State) : Out :=
  .next (if (getMac s port).link then takePause (countRx s port 64) port opcode enables quanta else s)

def execPauseQuantaExpiry (port : Fin 2) (cls : Fin 8) (s : State) : Out :=
  .next (
    let m := getMac s port
    match Tbl.get? m.paused cls with
    | some t =>
      if now s ≥ t then
        setMac s port { m with paused := Tbl.del m.paused cls, stoppedSince := Tbl.del m.stoppedSince cls }
      else s
    | none => s)

/-- R197: the watchdog of one class in one direction; `own` is the module's own XOFF. -/
def execPauseWatchdog (port : Fin 2) (cls : Fin 8) (own : Bool) (s : State) : Out :=
  .next (
    let m := getMac s port
    let wd := getF s (oMacFc port) 47 32
    let since := Tbl.get? (if own then m.xoffSince else m.stoppedSince) cls
    match since with
    | none => s
    | some t =>
      if wd = 0 || decide (now s < t + durMs wd) then s
      else
        let m1 :=
          if own then { m with
            xoffUntil := Tbl.put m.xoffUntil cls (now s + durS 1)
            xoffSince := Tbl.del m.xoffSince cls }
          else { m with
            ignoreUntil := Tbl.put m.ignoreUntil cls (now s + durS 1)
            paused := Tbl.del m.paused cls
            stoppedSince := Tbl.del m.stoppedSince cls }
        let s1 := setMac s port m1
        let s2 := if own then sendPause s1 port [cls.val] 0 else s1
        raiseErr (macCount s2 port cPauseWdog 1)
          { code := 0x0502, cls := 2, inst := port, a := word (b2n own * 256 + cls) })

/-- R197: the 1 s has passed: pause is honoured again, or XOFF is sent again while the queue stays above XON. -/
def execPauseWatchdogEnd (port : Fin 2) (cls : Fin 8) (own : Bool) (s : State) : Out :=
  .next (
    let m := getMac s port
    match Tbl.get? (if own then m.xoffUntil else m.ignoreUntil) cls with
    | none => s
    | some t =>
      if now s < t then s
      else if own then
        let m1 := { m with xoffUntil := Tbl.del m.xoffUntil cls }
        if (heldClasses s port m1).contains cls.val then
          sendPause (setMac s port { m1 with
            xoffSince := Tbl.put m1.xoffSince cls (now s), xoffSentAt := now s }) port [cls.val] 65535
        else setMac s port m1
      else setMac s port { m with ignoreUntil := Tbl.del m.ignoreUntil cls })

-- ## Receiving (R24 to R26, R190, R195)

/-- R26: frames that take the control queue. -/
def bodyControl (b : FrameBody) : Bool :=
  match b with
  | .roce _ => true
  | .ptp _ _ => true
  | .arp _ => true
  | _ => false

/-- R193: a frame whose EtherType field holds a value that is neither 0x8100 nor 0x88A8, here listed as a tag, is untagged
and has that EtherType, so that R25 finds no kind for it. -/
def bodyOf (f : Frame) : FrameBody := if f.tags.any (fun t => t.tpid != 0x8100 && t.tpid != 0x88A8) then .other else f.body

/-- A MAC receives a frame, with what its FEC found (R207): the first failing check of R190 counts and discards it; an accepted frame is counted,
time-stamped and placed in its input queue, or dropped as an overrun when that queue is full. -/
def execMacFrameReceive (port : Fin 2) (f : Frame) (s : State) : Out :=
  .next (
    if !(getMac s port).link then s
    else
      let s0 := macCount (macCount s port cFecCorr f.fecCorr) port cFecUncorr f.fecUncorr
      match frameCheck s port f with
      | some c => macCount s0 port c 1
      | none =>
        let s1 := countRx s0 port f.len
        match bodyOf f with
        | .macControl opcode enables quanta => takePause s1 port opcode enables quanta
        | _ =>
          let m := getMac s1 port
          let item : RxItem := { frame := { f with body := bodyOf f }, time := rxStamp s port }
          if bodyControl (bodyOf f) then
            if rxBytes m.ctrlQ + f.len > ctrlCap then macCount s1 port cOverrun 1
            else flowCheck (setMac s1 port { m with ctrlQ := m.ctrlQ ++ [item] }) port
          else if rxBytes m.mediaQ + f.len > mediaCap then macCount s1 port cOverrun 1
          else flowCheck (setMac s1 port { m with mediaQ := m.mediaQ ++ [item] }) port)

-- ## Gate lists (R201 to R206)

/-- R200: the duration of a frame of `len` bytes, in units of 0.01 ns. -/
def frameDur (len : Nat) : Nat := (len + 20) * 2 + 2560

/-- R204: the entries of one cycle: intervals of 0 are passed over, the list is cut at the cycle's end, and the last
entry's states hold to the cycle's end. -/
def cycleEntries (es : List Gate) (left : Nat) : List Gate :=
  match es with
  | [] => []
  | e :: rest =>
    if e.intervalNs = 0 then cycleEntries rest left
    else if left = 0 then []
    else if e.intervalNs ≥ left then [{ e with intervalNs := left }]
    else
      match cycleEntries rest (left - e.intervalNs) with
      | [] => [{ e with intervalNs := left }]
      | more => e :: more

/-- The entries of a list's cycle. -/
def GateList.cycle (g : GateList) : List Gate := cycleEntries g.entries g.cycleNs

/-- Whether an entry opens a class. -/
def Gate.opens (g : Gate) (c : Nat) : Bool := (g.gates / 2 ^ c) % 2 == 1

/-- The time for which a class stays open from the head of a sequence of entries, in ns. -/
def openRun (es : List Gate) (c : Nat) : Nat :=
  match es with
  | [] => 0
  | e :: rest => if e.opens c then e.intervalNs + openRun rest c else 0

/-- R206: the longest time in ns for which a class stays open without a break, across cycle ends; none when it never
closes. -/
def longestOpen (es : List Gate) (c : Nat) : Option Nat :=
  if es.all (fun e => e.opens c) then none
  else some (((List.range es.length).map (fun i => openRun (es.drop i ++ es) c)).foldl max 0)

/-- Whether a frame's duration exceeds its class's longest window under the operational list (R206). -/
def neverFits (m : Mac) (c len : Nat) : Bool :=
  match m.oper with
  | none => false
  | some g =>
    match longestOpen g.cycle c with
    | none => false
    | some w => decide (frameDur len > w * 100)

/-- R203: the last entry of a cycle stays in effect until the change time, since what would follow is shorter than the
extension. The extension is the operational list's (DESIGN CHOICE, assumption 91). -/
def GateList.extended (g : GateList) (m : Mac) : Bool :=
  let es := g.cycle
  let boundary := g.start + durNs (m.entryNs + (es.getD m.entryIndex { gates := 255, intervalNs := 0 }).intervalNs)
  match m.admin with
  | some a => decide (m.entryIndex + 1 ≥ es.length) && decide (a.start < boundary + durNs g.extNs)
  | none => false

/-- R200: open_left of a class at instant `t`, as an instant's difference; none when its gate never closes. -/
def openLeft (m : Mac) (t c : Nat) : Option Nat :=
  match m.oper with
  | none => none
  | some g =>
    let es := g.cycle
    let cur := es.getD m.entryIndex { gates := 255, intervalNs := 0 }
    if es.all (fun e => e.opens c) then none
    else if g.extended m then some (((m.admin.map (fun a => a.start)).getD t) - t)
    else
      let rest := es.drop m.entryIndex ++ es ++ es
      some (g.start + durNs (m.entryNs + (if cur.opens c then openRun rest c else 0)) - t)

/-- A frame's duration in instants. -/
def frameDurT (len : Nat) : Nat := ceilDiv (frameDur len * second) 100000000000

/-- R198: the tag of a sent frame: the port's VID, and its class as PCP. -/
def txTag (s : State) (port cls : Nat) : Option (Nat × Nat) :=
  if getB s (oMacVlan port) 12 then some (getF s (oMacVlan port) 11 0, cls) else none

/-- R186, R206, R557: add a frame to a transmit queue. Nothing is added to a full queue (false); a frame for a port
without link, or that never fits, is discarded and counted. The duration in the record of R206 is rounded down to whole ns
(DESIGN CHOICE, assumption 92). -/
def txAdd (s : State) (port cls : Nat) (f : TxFrame) : State × Bool :=
  let m := getMac s port
  let q := m.txq.getD cls []
  if !m.link then (macCount s port cTxDiscard 1, true)
  else if neverFits m cls f.len then
    let s1 := macCount s port cTxNeverFits 1
    if m.neverFits.contains cls then (s1, true)
    else
      (raiseErr (setMac s1 port { getMac s1 port with neverFits := cls :: m.neverFits })
        { code := 0x0501, cls := 2, inst := port, a := word cls, b := word (frameDur f.len / 100)
          conceded := match f.kind with
            | .media p => p.conceded
            | _ => false }, true)
  else if (q.map (fun x => x.len)).sum + f.len > 256 * 1024 then (s, false)
  else (setMac s port { m with txq := m.txq.set cls (q ++ [{ f with tag := txTag s port cls }]) }, true)

/-- R198: the length of a frame on the wire, with the port's tag when TX_TAG is 1. -/
def wireLen (s : State) (port len : Nat) : Nat := if getB s (oMacVlan port) 12 then len + 4 else len

-- ## Sources that hold frames for a full queue (R118, R198, R557)

/-- ARP and neighbour replies go to CTRL_TC; `n` bounds them. -/
def fillReplies (s : State) (port n : Nat) : State :=
  match n with
  | 0 => s
  | n + 1 =>
    match (getMac s port).replies with
    | [] => s
    | f :: rest =>
      let r := txAdd s port (getF s (oMacTcMap port) 5 3) f
      if r.2 then fillReplies (setMac r.1 port { getMac r.1 port with replies := rest }) port n else s

/-- The length of a PTP message's frame on a transport (IEEE 1588-2019; PRESUMED, assumption 20). -/
def ptpLen (transport : Nat) (m : PtpOut) : Nat :=
  18 + (if transport = 0 then 0 else if transport = 1 then 28 else 50)
    + (match m with
       | .announce _ _ => 64
       | .sync _ _ _ => 44
       | .followUp _ _ => 44
       | .delayReq _ => 44
       | .pdelayReq _ => 54
       | .delayResp _ _ => 54
       | .pdelayResp _ _ _ _ => 54
       | .pdelayRespFollowUp _ _ => 54)

/-- Whether a message belongs to the peer delay mechanism, which has a group address of its own. -/
def PtpOut.peer (m : PtpOut) : Bool :=
  match m with
  | .pdelayReq _ => true
  | .pdelayResp _ _ _ _ => true
  | .pdelayRespFollowUp _ _ => true
  | .announce _ _ => false
  | .sync _ _ _ => false
  | .followUp _ _ => false
  | .delayReq _ => false
  | .delayResp _ _ => false

/-- R198, R557: the PTP frames of a port go to PTP_TC in order, as long as there is room. -/
def fillPtp (s : State) (port : Nat) (ms : List (Nat × PtpOut)) : State :=
  match ms with
  | [] => s
  | m :: rest =>
    if m.1 ≠ port then fillPtp s port rest
    else
      let tr := getF s (oTbPtpPort port) 4 3
      let r := txAdd s port (getF s (oMacTcMap port) 2 0)
        { len := wireLen s port (max 64 (ptpLen tr m.2)), kind := .ptp m.2
          dst := (ptpGroups tr).getD (b2n m.2.peer) 0 }
      if r.2 then fillPtp { r.1 with time := { r.1.time with ptpOut := r.1.time.ptpOut.erase m } } port rest else s

/-- The length of a RoCEv2 frame: Ethernet, IP, UDP and base transport headers, what the message carries, ICRC and FCS. -/
def roceLen (v6 : Bool) (m : RoceMsg) : Nat :=
  let body := match m with
    | .cmRep _ => 264
    | .cmRej _ => 264
    | .cmMra _ => 264
    | .cmDreq => 264
    | .cmDrep => 264
    | .cnp => 16
    | .write _ _ first data imm => (if first then 16 else 0) + (if imm.isSome then 4 else 0) + ceilDiv data.length 4 * 4
    | .readReq _ _ _ => 16
    | .readResp data => 4 + ceilDiv data.length 4 * 4
    | .nakRemoteAccess => 4
    | .nakInvalidRequest => 4
  max 64 (14 + (if v6 then 40 else 20) + 8 + 12 + body + 8)

/-- A packet that the host acknowledges. -/
def RoceMsg.acked (m : RoceMsg) : Bool :=
  match m with
  | .write _ _ _ _ _ => true
  | .readReq _ _ _ => true
  | .cmRep _ => false
  | .cmRej _ => false
  | .cmMra _ => false
  | .cmDreq => false
  | .cmDrep => false
  | .cnp => false
  | .readResp _ => false
  | .nakRemoteAccess => false
  | .nakInvalidRequest => false
def RoceMsg.isRead (m : RoceMsg) : Bool :=
  match m with
  | .readReq _ _ _ => true
  | .write _ _ _ _ _ => false
  | .cmRep _ => false
  | .cmRej _ => false
  | .cmMra _ => false
  | .cmDreq => false
  | .cmDrep => false
  | .cnp => false
  | .readResp _ => false
  | .nakRemoteAccess => false
  | .nakInvalidRequest => false

/-- R118: the rate at which a connection sends: line rate while CNP_RP_EN is 0. -/
def sendRate (s : State) (sl : Slot) : Rat := if getB s oHciCtrl 2 then sl.rate else 400000000000

/-- R117, R118: a packet waits: its connection is paced, or 16 RDMA READs of it are outstanding. -/
def pktWaits (s : State) (p : RocePkt) : Bool :=
  match p.slot with
  | none => false
  | some n =>
    let sl := getSlot s n
    (getB s oHciCtrl 2 && sl.connected && decide (now s < sl.nextSend))
      || (p.m.isRead && decide (16 ≤ (sl.unacked.filter RoceMsg.isRead).length))

/-- A packet of `len` bytes has gone to its transmit queue: its connection's pacing moves on (R118), and what the host is to
acknowledge waits for it (R117). -/
def pktGone (s : State) (p : RocePkt) (len : Nat) : State :=
  match p.slot with
  | none => s
  | some n =>
    let sl := getSlot s n
    let rate := max 1 (sendRate s sl)
    let x := { sl with nextSend := max (now s) sl.nextSend + ((len * 8 * second : Nat) / rate).ceil.toNat }
    setSlot s n (if p.m.acked then
      { x with unacked := x.unacked ++ [p.m], ackFrom := some (x.ackFrom.getD (now s)) } else x)

/-- R118, R198, R557: the RoCEv2 packets of a port go to their classes' queues in order; what is held holds back the later
packets of its connection. `kept` are those held so far. -/
def fillRoce (s : State) (port : Nat) (kept ps : List RocePkt) : State :=
  match ps with
  | [] => { s with hci := { s.hci with sendQ := kept ++ s.hci.sendQ } }
  | p :: rest =>
    if p.port ≠ port || kept.any (fun k => k.slot == p.slot && k.port == port) || pktWaits s p then
      fillRoce s port (kept ++ [p]) rest
    else
      let len := wireLen s port (roceLen p.dip.v6 p.m)
      let r := txAdd s port p.cls { len := len, kind := .roce p, dst := p.dst }
      if r.2 then fillRoce (pktGone r.1 p len) port kept rest else fillRoce s port (kept ++ [p]) rest

/-- Every source of a port adds what its queues have room for. -/
def fillQueues (s : State) (port : Nat) : State :=
  let s1 := fillReplies s port (getMac s port).replies.length
  let s2 := fillPtp s1 port s1.time.ptpOut
  fillRoce { s2 with hci := { s2.hci with sendQ := [] } } port [] s2.hci.sendQ

-- ## Selection (R199)

/-- R199: whether class `c` may send its head frame now: its gate is open, it is not paused, and the frame fits. -/
def mayStart (s : State) (m : Mac) (c : Nat) (f : TxFrame) : Bool :=
  match openLeft m (now s) c with
  | none => true
  | some left => decide (frameDurT f.len ≤ left)

/-- The gate of a class is open and the class is not stopped. -/
def classOpen (s : State) (m : Mac) (c : Nat) : Bool :=
  ((m.gates / 2 ^ c) % 2 == 1) &&
    (match Tbl.get? m.paused c with
     | some t => decide (now s ≥ t)
     | none => true)

/-- R66: what the MAC writes into a PTP message as it sends it, and what the time base keeps of the instant. A two-step message
is followed by the one that brings its time of sending. -/
def ptpSent (s : State) (port : Nat) (m : PtpOut) : State × PtpOut :=
  let at_ := txStamp s port
  let t := btToPtp at_
  let follow := fun (x : PtpOut) => { s with time := { s.time with ptpOut := s.time.ptpOut ++ [(port, x)] } }
  match m with
  | .sync seq one _ => if one then (s, .sync seq true (some t)) else (follow (.followUp seq t), m)
  | .delayReq seq => (setPtp s port { getPtp s port with reqSent := some (seq, at_) }, m)
  | .pdelayReq seq => (setPtp s port { getPtp s port with reqSent := some (seq, at_) }, m)
  | .pdelayResp seq one rx _ =>
    if one then (s, .pdelayResp seq true rx (some ((at_ - rx) * 65536000000000 / second)))
    else (follow (.pdelayRespFollowUp seq t), m)
  | .followUp _ _ => (s, m)
  | .announce _ _ => (s, m)
  | .delayResp _ _ => (s, m)
  | .pdelayRespFollowUp _ _ => (s, m)

/-- A frame as the MAC sends it. -/
def frameSent (s : State) (port : Nat) (f : TxFrame) : State × TxFrame :=
  match f.kind with
  | .ptp m => (let r := ptpSent s port m
               (r.1, { f with kind := .ptp r.2, held := false }))
  | _ => (s, { f with held := false })

/-- R146: the RoCEv2 frames that wait in a port's queues are sent, ahead of the fall of its link. -/
def sendLast (s : State) (port : Nat) : State :=
  let m := getMac s port
  let roce := fun (f : TxFrame) => match f.kind with
    | .roce _ => true
    | _ => false
  if !m.link then s
  else
    (m.txq.flatten.filter roce).foldl (fun s f => macCount (macCount (emit s (.frame port f)) port cTxFrames 1) port cTxBytes f.len)
      (setMac s port { m with txq := m.txq.map (fun q => q.filter (fun f => !(roce f))) })

/-- R199: look at the classes below `n`, the highest first. A frame that does not fit is counted once as held. -/
def selectTx (s : State) (port n : Nat) : State :=
  match n with
  | 0 => s
  | c + 1 =>
    let m := getMac s port
    match m.txq.getD c [] with
    | [] => selectTx s port c
    | f :: rest =>
      if !(classOpen s m c) then selectTx s port c
      else if m.oper.isSome && !(mayStart s m c f) then
        let s1 := setMac s port { m with txq := m.txq.set c ({ f with held := true } :: rest) }
        selectTx (if f.held then s1 else macCount s1 port cTxHeld 1) port c
      else
        let s1 := setMac s port { m with
          txq := m.txq.set c rest
          sending := some ({ f with held := false }, now s + frameDurT f.len) }
        let w := frameSent s1 port f
        macCount (macCount (emit w.1 (.frame port w.2)) port cTxFrames 1) port cTxBytes f.len

def execTxSelect (port : Fin 2) (s : State) : Out :=
  .next (if (getMac s port).link then selectTx (fillQueues s port) port 8 else s)

/-- R25, R198, R557: the packet engine answers an ARP request (64 bytes) or a neighbour solicitation (90 bytes) for the
port's address, to the address of the one who asks; it holds a reply that its class's queue has no room for. -/
def answerArp (s : State) (port : Nat) (target : Addr) (sender : Word) : State :=
  if ownsAddr s port target && (getMac s port).link then
    let f : TxFrame := { len := wireLen s port (if target.v6 then 90 else 64), kind := .reply, dst := sender }
    let s1 := setMac s port { getMac s port with replies := (getMac s port).replies ++ [f] }
    fillReplies s1 port (getMac s1 port).replies.length
  else s

def execArpRequest (port : Fin 2) (q : AddrQuery) (s : State) : Out :=
  .next (if (getMac s port).link && running s then answerArp s port q.target q.sender else s)

/-- The offsets of a port's gate registers. -/
def gateOffsets (port : Nat) : List Nat :=
  [oMacGateCtrl port, oMacGateBase port, oMacGateBaseFrac port, oMacGateCycle port]
    ++ (List.range 256).map (fun k => oMacGateEntry port k)

/-- The value a gate register would take at a commit: pending, else committed and awaiting its change time, else in
effect (R12, R205). -/
def gateVal (s : State) (port o : Nat) : Word :=
  match Tbl.get? s.shadow o with
  | some v => v
  | none => (Tbl.get? (getMac s port).adminRegs o).getD (regRaw s o)

/-- The list that a commit takes. -/
def gatePending (s : State) (port start : Nat) : GateList :=
  let n := bits (gateVal s port (oMacGateCtrl port)) 8 0
  { entries := (List.range n).map (fun k =>
      let v := gateVal s port (oMacGateEntry port k)
      { gates := bits v 39 32, intervalNs := bits v 31 0 })
    cycleNs := bits (gateVal s port (oMacGateCycle port)) 31 0
    extNs := bits (gateVal s port (oMacGateCycle port)) 47 32
    start := start }

/-- R201: RESULT of a refused commit. Where several cases hold, RESULT names the first in the order of R201's list (DESIGN
CHOICE, assumption 93). -/
def gateRefused (s : State) (port : Nat) : Option Nat :=
  let g := gatePending s port 0
  let len := bits (gateVal s port (oMacGateCtrl port)) 8 0
  firstFail [(decide (g.cycleNs < 1000), 3), (len == 0 || decide (len > 256), 4),
    (bitAt (gateVal s port (oMacGateCtrl port)) 9 && g.entries.all (fun e => e.intervalNs == 0), 5)]

/-- Make committed values the values in effect. -/
def applyRegs (s : State) (vs : List (Nat × Word)) : State := vs.foldl (fun s p => setRaw s p.1 p.2) s

/-- R202: the least whole number of cycles of `cycleNs` ns after base `b` that reaches `least`. -/
def cyclesTo (b least cycleNs : Nat) : Nat :=
  if b ≥ least then 0 else ceilDiv ((least - b) * 1000000000) (cycleNs * second)

/-- R203, R206: at its change time the committed list becomes operational. -/
def gateChange (s : State) (port : Nat) : State :=
  let m := getMac s port
  match m.admin with
  | none => s
  | some g =>
    if now s < g.start then s
    else
      let s1 := applyRegs s m.adminRegs
      let s2 := setMac s1 port { getMac s1 port with
        oper := some g
        admin := none
        adminRegs := []
        entryNs := 0
        entryIndex := 0
        gates := (g.cycle.getD 0 { gates := 255, intervalNs := 0 }).gates
        neverFits := [] }
      let never := (List.range 8).filter (fun c => !(g.cycle.any (fun e => e.opens c)))
      let s3 := setF (setF s2 (oMacGateStatus port) 23 16 (classMask never)) (oMacGateStatus port) 7 4 2
      setF (setF s3 (oMacGateStatus port) 1 1 0) (oMacGateStatus port) 0 0 1

/-- R201 to R205: commit the pending list. The answer is the item's status. SKIPPED reads 0 after a commit with EN 0 (DESIGN
CHOICE, assumption 94). -/
def gateCommitNow (s : State) (port : Nat) : State × IStatus :=
  match gateRefused s port with
  | some r => (setF s (oMacGateStatus port) 7 4 r, .refused)
  | none =>
    let offs := gateOffsets port
    let vals := offs.filterMap (fun o =>
      if (Tbl.get? s.shadow o).isSome || (Tbl.get? (getMac s port).adminRegs o).isSome then some (o, gateVal s port o)
      else none)
    let s0 := { s with shadow := s.shadow.filter (fun p => !(offs.contains p.1)) }
    if !(bitAt (gateVal s port (oMacGateCtrl port)) 9) then
      let s1 := applyRegs s0 vals
      let s2 := setMac s1 port { getMac s1 port with
        oper := none, admin := none, adminRegs := [], gates := 255, neverFits := [] }
      (setRaw s2 (oMacGateStatus port) (word (2 * 16)), .ok)
    else
      let base := (gateVal s port (oMacGateBase port)).toNat * second
        + (gateVal s port (oMacGateBaseFrac port)).toNat * 2 ^ 28
      let m := cyclesTo base (now s + durUs 2) (gatePending s port 0).cycleNs
      let start := base + durNs (m * (gatePending s port 0).cycleNs)
      let s1 := setMac s0 port { getMac s0 port with admin := some (gatePending s port start), adminRegs := vals }
      (setF (setF (setF s1 (oMacGateStatus port) 47 32 (min m 65535)) (oMacGateStatus port) 7 4 1)
        (oMacGateStatus port) 1 1 1, .ok)

/-- R205: a list whose change time has come takes effect before a commit of the same cycle. -/
def gateCommitWrite (s : State) (port : Nat) : State × IStatus := gateCommitNow (gateChange s port) port

def execGateChangeTime (port : Fin 2) (s : State) : Out := .next (gateChange s port)

/-- R203, R204: the next entry boundary of the operational list, when it is due. At a cycle's end within EXT_NS of the
change time no new cycle begins. -/
def gateAdvance (s : State) (port : Nat) : State :=
  let m := getMac s port
  match m.oper with
  | none => s
  | some g =>
    let es := g.cycle
    let cur := es.getD m.entryIndex { gates := 255, intervalNs := 0 }
    let boundary := g.start + durNs (m.entryNs + cur.intervalNs)
    let last := decide (m.entryIndex + 1 ≥ es.length)
    if now s < boundary || es.isEmpty || g.extended m then s
    else
      let i := if last then 0 else m.entryIndex + 1
      setMac s port { m with entryNs := m.entryNs + cur.intervalNs, entryIndex := i, gates := (es.getD i cur).gates }

def execGateEntry (port : Fin 2) (s : State) : Out := .next (gateAdvance s port)

end Sys2Proof.Machine
end

