-- ==== Sys2Proof/Machine/Restart.lean ====
section
/-! DEFINITION. Flushing lanes (R253, R282), and restarting the module (R146, R492, R515): operations that several units
share. -/

namespace Sys2Proof.Machine

-- ## Lanes and their packing FIFOs

/-- The CIP counters, by their place in the table (chapter 08). -/
def cAuthFail : Nat := 0
def cReplay : Nat := 1
def cTooOld : Nat := 2
def cNoKey : Nat := 3
def cExhausted : Nat := 4
def cVoid : Nat := 5
def cFlushDrop : Nat := 6
def cFifoStall : Nat := 7
def cJobs : Nat := 8

/-- Add to a CIP counter. -/
def cipCount (s : State) (c n : Nat) : State := bumpC s (oCipCounter c) n

/-- A cipher lane; a lane that nothing has used yet is idle and in service. -/
def getLane (s : State) (l : Nat) : Lane := (Tbl.get? s.media.lanes l).getD {}
def setLane (s : State) (l : Nat) (ln : Lane) : State :=
  { s with media := { s.media with lanes := Tbl.put s.media.lanes l ln } }

/-- `n` cycles of the 3 GHz CORE clock. -/
def coreDur (n : Nat) : Nat := ceilDiv (n * second) 3000000000

/-- Rows in a lane's packing FIFO (R277), and the data rows of a packet of `n` bytes. -/
def fifoDepth (l : Lane) : Nat := (l.fifo.map (fun p => p.rowsHeld)).sum
def dataRows (n : Nat) : Nat := ceilDiv n 48

/-- R250, R277: the CORE cycles from a packet's start until the lane has row `k` of it; row 0 is the header row. An encrypted
byte takes its share of a block, and the last block runs to its end. DEDUCED (assumption 103). -/
def FifoPkt.rowAt (p : FifoPkt) (k : Nat) : Nat :=
  let e := min p.enc (min (48 * k) p.len - p.clear)
  if k = 0 then 0 else p.extra + p.perByte * (if e = p.enc then 16 * ceilDiv p.enc 16 else e)

/-- The instant at which a lane ends the packet in work. -/
def Lane.endAt (ln : Lane) (p : FifoPkt) : Nat := ln.startAt + coreDur (p.rowAt (dataRows p.len))

/-- R277, R280: the rows that the packet in work has ready by `t` are pushed. A push into a full FIFO is refused for every CORE
cycle until `t`, and the lane stalls for as long. The answer counts those cycles; `n` bounds the rows. -/
def Lane.advance (t : Nat) (n : Nat) (ln : Lane) : Lane × Nat :=
  match n with
  | 0 => (ln, 0)
  | n + 1 =>
    match ln.fifo.getLast? with
    | none => (ln, 0)
    | some p =>
      let due := ln.startAt + coreDur (p.rowAt p.pushed)
      if !ln.busy || p.dropping || decide (p.pushed > dataRows p.len) || decide (t < due) then (ln, 0)
      else if fifoDepth ln ≥ 256 then
        let c := (t - due) * 3000000000 / second
        ({ ln with startAt := ln.startAt + coreDur c }, c)
      else
        Lane.advance t n { ln with fifo := ln.fifo.dropLast ++ [{ p with pushed := p.pushed + 1, rowsHeld := p.rowsHeld + 1 }] }

/-- Bring a lane's FIFO up to now, counting its stalls. -/
def advanceLane (s : State) (l : Nat) : State :=
  match Tbl.get? s.media.lanes l with
  | none => s
  | some ln =>
    let r := ln.advance (now s) 300
    let s1 := setLane s l r.1
    if r.2 = 0 then s1 else cipCount s1 cFifoStall r.2

/-- The stalled cycles that no lane has counted yet. -/
def stallsDue (s : State) : Nat := (s.media.lanes.map (fun p => (p.2.advance (now s) 300).2)).sum

/-- FLUSH_DONE of a lane: the status bit, and the end of a lane fault's handling (R282, R500). -/
def flushDone (s : State) (l : Nat) : State :=
  endHandling (raiseBit (setLane s l { getLane s l with flushing := false, cipFlush := false }) oCipFlushStatus 11) 0x0801 l

/-- A published packet of which no row has been popped. -/
def FifoPkt.untouched (p : FifoPkt) : Bool := p.state = .published && p.popped == 0

/-- R282: flush a lane. Untouched published packets are discarded and counted; the packet in progress drops its
remainder, and FLUSH_DONE then waits for its end. A flush of a lane that is being flushed merges with that flush. -/
def flushLane (s0 : State) (l : Nat) : State :=
  let s := advanceLane s0 l
  let ln := getLane s l
  if ln.flushing then s
  else
    let kept := ln.fifo.filter (fun p => !p.untouched)
    let gone := ln.fifo.length - kept.length
    let fifo := if ln.busy then kept.dropLast ++ (kept.getLast?.map (fun p => { p with dropping := true })).toList else kept
    let s1 := cipCount (setLane s l { ln with fifo := fifo, flushing := true }) cFlushDrop gone
    if ln.busy then s1 else flushDone s1 l

/-- Flush every lane that has been used. -/
def flushAll (s : State) : State := s.media.lanes.foldl (fun s p => flushLane s p.1) s

-- ## Closing every connection

/-- Complete every fetched command that has not begun with a status. -/
def completeFetched (s : State) (status : Nat) : State :=
  s.hci.fetched.foldl (fun s f =>
    complete (dropFetched s f.no) f.slot f.ring (ringCq s f.slot f.ring) (descTag f.d) (descQuiet f.d) status 0 0) s

/-- Complete every fetched and every begun command with a status. -/
def completeAll (s : State) (status : Nat) : State :=
  completeFetched (s.hci.inflight.foldl (fun s i => completeInflight s i status 0 0) s) status

/-- R146: DREQ on every connection, and every slot returns to FREE without hold; `n` counts slots down. -/
def dropSlots (s : State) (n : Nat) : State :=
  match n with
  | 0 => s
  | n + 1 =>
    let s1 := dropSlots s n
    freeSlot (if (getSlot s1 n).connected then sendRoce s1 n .cmDreq else s1) n

/-- R146: the transition needs the units: a begun command that has not ended yet ends with 0x402, its effects so far standing;
every connection is closed (assumption 6). -/
def abortHost (s : State) : State := dropSlots (completeAll s 0x402) 8

-- ## Restart

/-- SEQ after a start: one above the highest in the event log, or 1 (R496). -/
def nextSeqOf (log : List ERec) : Nat := (log.map (fun r => r.seq)).foldl max 0 + 1

/-- What a data port keeps over a restart: the plug-in in its cage. -/
def Mac.cold (m : Mac) : Mac := { module_ := m.module_ }
def GrnPort.cold (g : GrnPort) : GrnPort := { module_ := g.module_ }

/-- R270, R512: the keys that persistent key records belong to are lost; the records stand as retired at this instant. -/
def Mram.keysLost (m : Mram) : Mram :=
  { m with
    keyRecs := m.keyRecs.map (fun r => if r.installed then { r with installed := false, retired := m.retirements } else r)
    retirements := m.retirements + 1 }

/-- Everything but AON, MRAM, the plug-ins and the model's own bookkeeping is lost (R447, R511, R512, R534). The state
named is entered. -/
def coldState (s : State) (p : Power) : State :=
  let s1 := emits s (((List.range 2).filter (fun i => (if i = 0 then s.mac0 else s.mac1).link)).map
    (fun i => .linkLevel i false))
  { pending := s.pending
    out := s1.out
    fresh := s.fresh
    mac0 := s.mac0.cold
    mac1 := s.mac1.cold
    grn := { east := s.grn.east.cold, west := s.grn.west.cold }
    err := { nextSeq := nextSeqOf s.mram.log }
    power := p
    mram := s.mram.keysLost }

/-- R544: PPS OUT is driven low while the module starts. -/
def ppsDropped (s : State) : State := if s.time.ppsHigh then emit s (.ppsOut false) else s

/-- R515: the restart instant. The start itself runs at PWR_OK's row, which stands for this instant (assumption 7). -/
def restart (s : State) : State :=
  coldState (ppsDropped s) { s.power with
    st := .starting
    target := none
    pwrOk := false
    readyAt := none
    startAt := s.power.aon
    confirmed := false
    critical := false
    hotDormant := false }

/-- R522, R523: a failed start with its cause is counted in the boot history. -/
def countFailedStart (s : State) (cause : Nat) : State :=
  if mramWritable s then
    { s with mram := { s.mram with failCount := min 15 (s.mram.failCount + 1), lastFail := cause } }
  else s

/-- R524: whether 60 s have not yet passed since ready. -/
def sinceReady (s : State) : Bool :=
  match s.power.readyAt with
  | some t => decide (s.power.aon < t + aonUs 60000000)
  | none => false

/-- R492: a MODULE-class error whose code names no other action, once its record is posted: every fetched command ends
with 0x400 and the module restarts; within 60 s of ready that makes the start a failed one. After POWER_FAIL the service goes on (R517). -/
def moduleAction (s : State) : State :=
  if s.power.powerFailAt.isSome then s else
  match s.power.st with
  | .off => s
  | .starting => s
  | .windfall => s
  | _ =>
    let s1 := completeAll s 0x400
    restart (if sinceReady s then countFailedStart s1 5 else s1)

/-- R491 to R493, R501: raise an error that takes a unit out of service. `last` says that it was the last of its kind:
the error is then of class 4. The second part tells whether the module restarts. -/
def raiseUnit (s : State) (e : ErrSpec) : State :=
  let cls := if e.last then 4 else e.cls
  let esc := escalates s { e with cls := cls }
  let real := if esc then raisedClass s e else cls
  let s1 := raiseErr s { e with cls := cls }
  if real = 4 && !(esc && e.gone) then moduleAction s1 else s1

-- ## Lane faults

/-- The lanes of group `g` in service. -/
def groupLanes (s : State) (g : Nat) : List Nat :=
  ((List.range 64).map (fun k => 64 * g + k)).filter (fun l => !(getLane s l).failed)

/-- R253, R493, R501: a lane fault flushes the lane and takes it out of service. A further fault during that flush is
recorded only. -/
def laneFault (s : State) (l : Nat) : State :=
  let gone := (getLane s l).failed
  let last := !gone && (groupLanes s (l / 64)).length == 1
  let busy := (getLane s l).busy || (getLane s l).flushing
  let s1 := raiseUnit s { code := 0x0801, cls := 3, inst := l, a := word (l / 64), lasts := busy, last := last, gone := gone }
  if last then s1
  else
    let s2 := flushLane s1 l
    setF (setLane s2 l { getLane s2 l with failed := true }) (oCipLaneFail (l / 32)) (l % 32) (l % 32) 1

end Sys2Proof.Machine
end

