-- ==== Sys2Proof/Machine/Grinal.lean ====
section
/-! DEFINITION. Sending on the Grinal links (R461 to R467, R487): routes, wraps, sequence numbers, acked frames, bramble
events. -/

namespace Sys2Proof.Machine

-- Counters of a Grinal port and of the bramble, by their place in the table of chapter 16.
def gRx : Nat := 0
def gTx : Nat := 1
def gCrcErr : Nat := 2
def gDropped : Nat := 3
def gWraps : Nat := 4
def gMirrorGaps : Nat := 0
def gFetchGone : Nat := 1
def gPartialMissing : Nat := 2
def gTakeovers : Nat := 3
def gPeerTimeouts : Nat := 4

def grnPortCount (s : State) (p c n : Nat) : State := bumpC s (oGrnPortCounter p c) n
def grnCount (s : State) (c n : Nat) : State := bumpC s (oGrnCounter c) n

/-- The numbers of the members in a roster. -/
def members (roster : Nat) : List Nat := (List.range 16).filter (fun n => (roster / 2 ^ n) % 2 == 1)

/-- Whether a member is in the roster. -/
def inRoster (s : State) (m : Nat) : Bool := (members s.grn.roster).contains m

/-- R465: the hops from this module to a member going east, in the ring order of the last beacon. -/
def hopsEast (s : State) (dst : Nat) : Nat :=
  let n := s.grn.order.length
  let me := s.grn.order.idxOf (getF s oGrnCfg 3 0)
  let to_ := s.grn.order.idxOf dst
  if n = 0 then 0 else (to_ + n - me) % n

/-- R465: a unicast frame goes west when that has fewer hops. -/
def goesWest (s : State) (dst : Nat) : Bool :=
  decide (s.grn.order.length - hopsEast s dst < hopsEast s dst)

/-- R466: the port a frame leaves through, and whether it was turned there. -/
def leavesBy (s : State) (west : Bool) : Bool × Bool :=
  if (if west then s.grn.west.wrapped else s.grn.east.wrapped) then (!west, true) else (west, false)

/-- The next SEQ of a kind (R461). -/
def nextSeqOfKind (s : State) (kind : Nat) : Nat := Tbl.count s.grn.seqs kind

/-- Whether the module's Grinal ports carry its own frames: in Active and Quiet with the bramble enabled (R490). -/
def grnActive (s : State) : Bool := running s && getB s oGrnCfg 6

/-- The bytes of words, each least significant byte first (R461). -/
def wordBytes (ws : List Word) : List Byte := ws.flatMap (fun w => leBytes 6 w.toNat)

/-- The words that bytes hold. -/
def bytesWords (n : Nat) (bs : List Byte) : List Word := (List.range n).map (wordAt bs)

/-- R461: the four words of a frame's header. -/
def grnHeader (f : GrnFrame) : List Word :=
  [ word (f.version.toNat * 2 ^ 44 + f.kind.toNat * 2 ^ 40 + f.src.toNat * 2 ^ 36 + f.dst.toNat * 2 ^ 32 + b2n f.bcast * 2 ^ 31
      + b2n f.dirWest * 2 ^ 30 + b2n f.wrapped * 2 ^ 29 + b2n f.conceded * 2 ^ 28 + f.ttl.toNat * 2 ^ 22
      + f.payload.length % 2 ^ 14),
    f.a, f.b, word (f.epoch.toNat * 2 ^ 24 + f.seq.toNat) ]

/-- R461: the bytes of a frame: header, payload, zeros up to 64 bytes in all, and the CRC over header and payload. -/
def grnBytes (f : GrnFrame) : List Byte :=
  let body := wordBytes (grnHeader f) ++ f.payload
  body ++ zeros (60 - body.length) ++ leBytes 4 (crc32 body).toNat

/-- A frame leaves through its port, and is counted there. -/
def grnEmit (s : State) (f : GrnFrame) : State := grnPortCount (emit s (.grinal f.west (grnBytes f))) (b2n f.west) gTx 1

/-- R461: a frame of the module's own, out of a port and turned there or not. -/
def grnOwn (s : State) (way : Bool × Bool) (kind dst : Nat) (bcast conceded : Bool) (a b : Word) (seq : Nat)
    (payload : List Byte) : GrnFrame :=
  { west := way.1, kind := BitVec.ofNat 4 kind, src := BitVec.ofNat 4 (getF s oGrnCfg 3 0), dst := BitVec.ofNat 4 dst
    bcast := bcast, dirWest := way.1, wrapped := way.2, conceded := conceded, a := a, b := b
    epoch := BitVec.ofNat 24 s.grn.epoch, seq := BitVec.ofNat 24 seq, payload := payload }

/-- Send a frame of a kind and give its SEQ. -/
def grnSend (s : State) (kind dst : Nat) (bcast conceded : Bool) (a b : Word) (payload : List Byte) : State × Nat :=
  let seq := nextSeqOfKind s kind
  let way := leavesBy s (!bcast && goesWest s dst)
  let s1 := { s with grn := { s.grn with seqs := Tbl.put s.grn.seqs kind ((seq + 1) % 2 ^ 24) } }
  (grnEmit s1 (grnOwn s1 way kind dst bcast conceded a b seq payload), seq)

/-- R467: send a frame of an acked kind. -/
def grnSendAcked (s : State) (kind dst : Nat) (a b : Word) (payload : List Byte) (cmd xfer : Option Nat) : State × Nat :=
  let r := grnSend s kind dst false false a b payload
  ({ r.1 with grn := { r.1.grn with unacked := r.1.grn.unacked ++
    [{ seq := r.2, kind := kind, dst := dst, a := a, b := b, payload := payload, cmd := cmd, xfer := xfer
       due := now s + durUs (getF s oGrnTimers 15 4) }] } }, r.2)

/-- The 48 bytes of a descriptor (R131). -/
def descBytes (d : Desc) : List Byte :=
  [d.w0, d.w1, d.w2, d.w3, d.w4, d.w5, d.w6, d.w7].flatMap (fun w => leBytes 6 w.toNat)

/-- R487: send a peer message to a member, for a command when one waits on it. -/
def peerSend (s : State) (dst op fl : Nat) (w1 w2 w3 : Word) (cmd : Option Nat) : State × Nat :=
  grnSendAcked s 6 dst 0 0 (descBytes { w0 := word (op * 2 ^ 36 + fl * 2 ^ 24), w1 := w1, w2 := w2, w3 := w3 }) cmd none

/-- R488, R489: post a bramble event to every subscribed connection; `n` counts slots down. -/
def brambleEvent (s : State) (kind : Nat) (w1 : Word) (n : Nat) : State :=
  match n with
  | 0 => s
  | n + 1 =>
    let s1 := brambleEvent s kind w1 n
    match (getSlot s1 n).brambleSub with
    | none => s1
    | some sub => postEvent s1 n sub.queue sub.tag sub.ring 0 w1 (word (kind * 2 ^ 44 + s1.grn.epoch % 2 ^ 24))

/-- R13, R14, R476: a handle operand that may also name an object of a roster member; the member is not this one. -/
def remoteHandle (s : State) (ty : Nat) (w : Word) : Bool :=
  inBramble s && hType w == ty && hMember w != ownMember s && inRoster s (hMember w)
    && decide (hIndex w < typeMax ty)

end Sys2Proof.Machine
end

