-- ==== Sys2Proof/Machine/Rtp.lean ====
section
/-! DEFINITION. RTP and RTCP packets as bytes: header fields, RFC 8285 extensions (R224), the forwarder's rewriting (R237), the
RTX payload of RFC 4588 (R223, R239), and the RTCP packets that the module sends (R227). -/

namespace Sys2Proof

open Machine

/-- The number in `n` bytes of a packet from byte `i` on. -/
def field (bs : List Byte) (i n : Nat) : Nat := beNat ((bs.drop i).take n)

/-- The length of an RTP header without its extension, and with it. -/
def rtpFixed (bs : List Byte) : Nat := 12 + 4 * (field bs 0 1 % 16)
def rtpExtended (bs : List Byte) : Bool := (bs.getD 0 0).getLsbD 4
def rtpHeader (bs : List Byte) : Nat :=
  min bs.length (rtpFixed bs + (if rtpExtended bs then 4 + 4 * field bs (rtpFixed bs + 2) 2 else 0))

/-- The header fields of an RTP packet, its length, and the bytes that a cipher mode covers (R250). -/
def RtpFacts.marker (h : RtpFacts) : Bool := (h.bytes.getD 1 0).getLsbD 7
def RtpFacts.pt (h : RtpFacts) : Nat := field h.bytes 1 1 % 128
def RtpFacts.seq (h : RtpFacts) : Nat := field h.bytes 2 2
def RtpFacts.ts (h : RtpFacts) : Nat := field h.bytes 4 4
def RtpFacts.ssrc (h : RtpFacts) : Nat := field h.bytes 8 4
def RtpFacts.len (h : RtpFacts) : Nat := h.bytes.length
def RtpFacts.encLen (h : RtpFacts) : Nat := h.len - rtpHeader h.bytes

/-- The original sequence number of an RFC 4588 packet. -/
def RtpFacts.osn (h : RtpFacts) : Nat := field h.bytes (rtpHeader h.bytes) 2

/-- The SSRC of an RTCP packet, and the bytes that a cipher mode covers. -/
def RtcpFacts.ssrc (h : RtcpFacts) : Nat := field h.bytes 4 4
def RtcpFacts.encLen (h : RtcpFacts) : Nat := if h.e then h.bytes.length - 8 else 0

end Sys2Proof

namespace Sys2Proof.Machine

-- ## Header extensions (RFC 8285)

/-- The elements of the one-byte form, and of the two-byte form; `n` bounds their number. Zero bytes are padding, and ID 15
ends the one-byte form. -/
def extsOne (n : Nat) (bs : List Byte) : List (Nat × List Byte) :=
  match n, bs with
  | 0, _ => []
  | _, [] => []
  | n + 1, b :: rest =>
    if b = 0 then extsOne n rest
    else if b.toNat / 16 = 15 then []
    else (b.toNat / 16, rest.take (b.toNat % 16 + 1)) :: extsOne n (rest.drop (b.toNat % 16 + 1))
def extsTwo (n : Nat) (bs : List Byte) : List (Nat × List Byte) :=
  match n, bs with
  | 0, _ => []
  | _, [] => []
  | n + 1, b :: rest =>
    if b = 0 then extsTwo n rest
    else (b.toNat, (rest.drop 1).take (field rest 0 1)) :: extsTwo n (rest.drop (1 + field rest 0 1))

/-- R224: the elements of a packet's extension, in either form. -/
def rtpExts (bs : List Byte) : List (Nat × List Byte) :=
  let c := rtpFixed bs
  let data := (bs.drop (c + 4)).take (4 * field bs (c + 2) 2)
  if !(rtpExtended bs) then []
  else if field bs c 2 = 0xBEDE then extsOne data.length data
  else if field bs c 2 / 16 = 0x100 then extsTwo data.length data
  else []

/-- R224: the element of an ID; an ID of 0 means that there is none. -/
def extAt (bs : List Byte) (id : Nat) : Option (List Byte) :=
  if id = 0 then none else ((rtpExts bs).find? (fun e => e.1 == id)).map (·.2)

/-- RFC 6464: the level and the V bit of a packet. -/
def levelAt (bs : List Byte) (id : Nat) : Option (Nat × Bool) :=
  ((extAt bs id).bind (fun e => e.head?)).map (fun b => (b.toNat % 128, b.getLsbD 7))

/-- R237: an extension of some elements: in the one-byte form when every ID is 14 or less and every element is 16 bytes or
less, else in the two-byte form. -/
def extBytes (els : List (Nat × List Byte)) : List Byte :=
  let one := els.all (fun e => decide (e.1 ≤ 14) && decide (1 ≤ e.2.length) && decide (e.2.length ≤ 16))
  let body := els.flatMap (fun e =>
    if one then beBytes 1 (e.1 * 16 + (e.2.length - 1)) ++ e.2 else beBytes 1 e.1 ++ beBytes 1 e.2.length ++ e.2)
  if els.isEmpty then []
  else beBytes 2 (if one then 0xBEDE else 0x1000) ++ beBytes 2 (ceilDiv body.length 4) ++ body ++ zeros ((4 - body.length % 4) % 4)

-- ## Rewriting

/-- R237: a packet under another payload type, SSRC, timestamp, marker and extension; its contributing sources and its payload
stay, the latter behind `pre`. The sequence number follows. -/
def rewriteRtp (bs : List Byte) (pt ssrc ts : Nat) (marker : Bool) (els : List (Nat × List Byte)) (pre : List Byte := []) :
    List Byte :=
  let b0 := field bs 0 1
  beBytes 1 (b0 - b0 / 16 % 2 * 16 + (if els.isEmpty then 0 else 16)) ++ beBytes 1 (b2n marker * 128 + pt)
    ++ (bs.drop 2).take 2 ++ beBytes 4 ts ++ beBytes 4 ssrc ++ ((bs.take (rtpFixed bs)).drop 12) ++ extBytes els ++ pre
    ++ bs.drop (rtpHeader bs)

/-- R261: a packet with its sequence number. -/
def setSeq (bs : List Byte) (seq : Nat) : List Byte := bs.take 2 ++ beBytes 2 seq ++ bs.drop 4

/-- R223: the packet that an RFC 4588 packet carries, of a context's payload type and SSRC. -/
def unwrapRtx (bs : List Byte) (pt ssrc : Nat) : List Byte :=
  let n := rtpHeader bs
  bs.take 1 ++ beBytes 1 (field bs 1 1 / 128 * 128 + pt) ++ (bs.drop n).take 2 ++ (bs.drop 4).take 4 ++ beBytes 4 ssrc
    ++ (bs.take n).drop 12 ++ bs.drop (n + 2)

-- ## Audio payloads (R367, R369, R386)

/-- The payload of a packet: what follows the header, without the padding of RFC 3550. -/
def rtpPayload (bs : List Byte) : List Byte :=
  let p := bs.drop (rtpHeader bs)
  if (bs.getD 0 0).getLsbD 5 then p.take (p.length - (p.getLastD 0).toNat) else p

/-- RFC 6716 section 3.1: the samples at 48 kHz of a frame of an Opus configuration. -/
def opusFrame (config : Nat) : Nat :=
  if config < 12 then [480, 960, 1920, 2880].getD (config % 4) 0
  else if config < 16 then [480, 960].getD (config % 2) 0
  else [120, 240, 480, 960].getD (config % 4) 0

/-- RFC 6716 section 3.1: the audio bandwidth of a configuration, in the codes of MAX_BW (R390). -/
def opusBand (config : Nat) : Nat :=
  if config < 12 then config / 4 else if config < 16 then 3 + (config - 12) / 2 else [0, 2, 3, 4].getD ((config - 16) / 4) 4

/-- The configuration and the frame count code of a packet, and the number of frames that it holds. -/
def opusConfig (p : List Byte) : Nat := field p 0 1 / 8
def opusCode (p : List Byte) : Nat := field p 0 1 % 4
def opusFrames (p : List Byte) : Nat :=
  if opusCode p = 0 then 1 else if opusCode p < 3 then 2 else field p 1 1 % 64

/-- RFC 6716 section 3.2.1: a frame length and what follows it. -/
def opusLen (bs : List Byte) : Option (Nat × List Byte) :=
  match bs with
  | [] => none
  | b :: r =>
    if b.toNat < 252 then some (b.toNat, r)
    else match r with
      | [] => none
      | c :: r => some (4 * c.toNat + b.toNat, r)

/-- The sum of `n` frame lengths and what follows them. -/
def opusLens (n : Nat) (bs : List Byte) : Option (Nat × List Byte) :=
  match n with
  | 0 => some (0, bs)
  | n + 1 => (opusLen bs).bind (fun x => (opusLens n x.2).map (fun y => (x.1 + y.1, y.2)))

/-- RFC 6716 section 3.2.5: the bytes of padding that a code 3 packet announces, and what follows their count. -/
def opusPad (bs : List Byte) : Option (Nat × List Byte) :=
  match bs with
  | [] => none
  | b :: r => if b.toNat = 255 then (opusPad r).map (fun x => (x.1 + 254, x.2)) else some (b.toNat, r)

/-- RFC 6716 section 3.4, requirements R1 to R7, of an Opus packet. -/
def opusWellFormed (p : List Byte) : Bool :=
  let body := p.drop 1
  match p, opusCode p with
  | [], _ => false
  | _, 0 => decide (body.length ≤ 1275)
  | _, 1 => body.length % 2 == 0 && decide (body.length / 2 ≤ 1275)
  | _, 2 => match opusLen body with
    | none => false
    | some (n, r) => decide (n ≤ r.length) && decide (r.length - n ≤ 1275)
  | _, _ => match body with
    | [] => false
    | c :: r =>
      let m := c.toNat % 64
      let padded := if c.getLsbD 6 then opusPad r else some (0, r)
      decide (1 ≤ m) && decide (m * opusFrame (opusConfig p) ≤ 5760) && (match padded with
        | none => false
        | some (pad, r1) =>
          if c.getLsbD 7 then (match opusLens (m - 1) r1 with
            | none => false
            | some (sum, r2) => decide (sum + pad ≤ r2.length) && decide (r2.length - sum - pad ≤ 1275))
          else decide (pad ≤ r1.length) && (r1.length - pad) % m == 0 && decide ((r1.length - pad) / m ≤ 1275))

/-- R367, R369: the samples at 48 kHz of the audio that a packet carries; G.711 and G.722 carry a byte for each tick of an
8,000 Hz clock. -/
def audioSamples (codec : Nat) (bs : List Byte) : Nat :=
  let p := rtpPayload bs
  if codec = 8 then opusFrames p * opusFrame (opusConfig p) else 6 * p.length

/-- R369: a packet keeps the packet rules of its codec. -/
def audioDecodable (codec : Nat) (bs : List Byte) : Bool := codec != 8 || opusWellFormed (rtpPayload bs)

-- ## RTCP (RFC 3550, 4585, 5104, 8888)

/-- An RTCP packet: count or format, type, and what follows its first word. -/
def rtcpPacket (count type : Nat) (body : List Byte) : List Byte :=
  beBytes 1 (128 + count) ++ beBytes 1 type ++ beBytes 2 (body.length / 4) ++ body

/-- A reception report block. -/
def reportBytes (r : Report) : List Byte :=
  beBytes 4 r.ssrc ++ beBytes 1 r.fraction ++ beBytes 3 (r.lost % 2 ^ 24).toNat ++ beBytes 4 r.highest ++ beBytes 4 r.jitter
    ++ beBytes 4 r.lsr ++ beBytes 4 r.dlsr

/-- The reports beyond the 31 that one packet holds, in further RR packets; `n` bounds their number. -/
def moreReports (n ssrc : Nat) (rs : List Report) : List Byte :=
  match n with
  | 0 => []
  | n + 1 =>
    if rs.isEmpty then []
    else rtcpPacket (min 31 rs.length) 201 (beBytes 4 ssrc ++ (rs.take 31).flatMap reportBytes) ++ moreReports n ssrc (rs.drop 31)

/-- The 16 bits of one number of an RFC 8888 report: received, no ECN mark, and how long ago in 1/1024 s. -/
def arrivalBytes (a : Option Nat) : List Byte :=
  match a with
  | none => beBytes 2 0
  | some d => beBytes 2 (2 ^ 15 + min d 0x1FFE)

/-- The bytes of an RTCP packet that the module sends. -/
def rtcpBytes (r : RtcpOut) : List Byte :=
  match r with
  | .sr ssrc sec frac rtp packets octets reps =>
    rtcpPacket (min 31 reps.length) 200 (beBytes 4 ssrc ++ beBytes 4 sec ++ beBytes 4 frac ++ beBytes 4 rtp ++ beBytes 4 packets
      ++ beBytes 4 octets ++ (reps.take 31).flatMap reportBytes) ++ moreReports reps.length ssrc (reps.drop 31)
  | .rr ssrc reps =>
    rtcpPacket (min 31 reps.length) 201 (beBytes 4 ssrc ++ (reps.take 31).flatMap reportBytes)
      ++ moreReports reps.length ssrc (reps.drop 31)
  | .nack ssrc media seq => rtcpPacket 1 205 (beBytes 4 ssrc ++ beBytes 4 media ++ beBytes 2 seq ++ beBytes 2 0)
  | .pli ssrc media => rtcpPacket 1 206 (beBytes 4 ssrc ++ beBytes 4 media)
  | .fir ssrc media seq => rtcpPacket 4 206 (beBytes 4 ssrc ++ beBytes 4 0 ++ beBytes 4 media ++ beBytes 1 seq ++ zeros 3)
  | .ccfb ssrc blocks time =>
    rtcpPacket 11 205 (beBytes 4 ssrc
      ++ blocks.flatMap (fun b => beBytes 4 b.1 ++ beBytes 2 b.2.1 ++ beBytes 2 b.2.2.length
          ++ b.2.2.flatMap arrivalBytes ++ zeros (b.2.2.length % 2 * 2))
      ++ beBytes 4 time)

end Sys2Proof.Machine
end

