-- ==== Sys2Proof/Machine/Preserve.lean ====
section
/-! DEFINITION. The Preserve (R448 to R455): the ring of records, its index by context, and what readers find in it.
Positions are kept without their wrap; what software sees is the position modulo 2^48. -/

namespace Sys2Proof.Machine

-- PRS counters, by their place in the table of chapter 15.
def pRecords : Nat := 0
def pRtxServed : Nat := 1
def pRtxGone : Nat := 2
def pJoins : Nat := 3
def pExportBytes : Nat := 4
def pPoisoned : Nat := 5

def prsCount (s : State) (c n : Nat) : State := bumpC s (oPrsCounter c) n

/-- R449: blocks in the ring. -/
def prsBlocks (s : State) : Nat := (regionAt s 9).2 / 49152

/-- R449: the address of row `p`. -/
def rowAddr (s : State) (p : Nat) : Nat :=
  let q := p % 2 ^ 48
  (regionAt s 9).1 + (q / 1024 % prsBlocks s) * 49152 + q % 1024 * 48

/-- R449: rows of a record of `len` bytes, its header row included. -/
def recRows (len : Nat) : Nat := 1 + ceilDiv len 48

/-- R437, R438: the physical stack that serves an address. -/
def stackOf (s : State) (a : Nat) : Nat :=
  let l := a / 256 % 16
  if s.memory.spare = .inUse && s.memory.spared == l then 16 else l

/-- R449: a position that software gives, taken nearest to WRITE_POS. -/
def nearPos (s : State) (v : Word) : Nat :=
  ((s.memory.writePos : Int) + (v - word s.memory.writePos).toInt).toNat

/-- R451: the header row of a packet record. -/
def recHeader (r : PRec) : List Word :=
  [ word (2 ^ 46 + b2n r.refresh * 2 ^ 45 + b2n r.switch * 2 ^ 44 + b2n r.repair * 2 ^ 43 + b2n r.marker * 2 ^ 42
      + r.s * 2 ^ 38 + r.t * 2 ^ 34 + r.len),
    word r.pos, word r.ctx, word r.seq, word r.ts, bt48 r.time, word r.prevPos, 0 ]

/-- R451: the header row of a pad record. -/
def padHeader (pos : Nat) : List Word := [word (2 * 2 ^ 46), word pos, 0, 0, 0, 0, 0, 0]

/-- R450: what is still held once the writer has started the block of row `p`. -/
def afterBlock (s : State) (p : Nat) (rs : List PRec) : List PRec :=
  rs.filter (fun r => decide ((p / 1024 + 1) * 1024 ≤ r.pos + prsBlocks s * 1024))

/-- R449: end the block with a pad record when a record of `rows` rows does not fit in the rest of it. -/
def padBlock (s : State) (rows : Nat) : State :=
  let p := s.memory.writePos
  if p % 1024 + rows ≤ 1024 then s
  else
    let s1 := dramWrite s (rowAddr s p) (wordBytes (padHeader p))
    { s1 with memory := { s1.memory with writePos := (p / 1024 + 1) * 1024 } }

/-- A stream context. -/
def getCtx (s : State) (c : Nat) : Option Stream := Tbl.get? s.media.streams c
def setCtx (s : State) (c : Nat) (x : Stream) : State :=
  { s with media := { s.media with streams := Tbl.put s.media.streams c x } }
/-- Change a stream context that exists. -/
def updCtx (s : State) (c : Nat) (f : Stream → Stream) : State :=
  { s with media := { s.media with streams := Tbl.upd s.media.streams c f } }

/-- R452: keep the newest sixteen refresh points and the last switch point of each operating point. -/
def indexRec (x : Stream) (r : PRec) (switches : List Switchable) : Stream :=
  { x with
    lastPos := some r.pos
    firstPos := some (x.firstPos.getD r.pos)
    refreshes := if r.refresh then ({ pos := r.pos, time := r.time } :: x.refreshes).take 16 else x.refreshes
    switchPts := x.switchPts.filter (fun p => !(switches.contains p.at_))
      ++ switches.map (fun q => { at_ := q, pos := r.pos, time := r.time }) }

/-- R448 to R452: write one record; the header's own and previous positions are filled in here. With a Preserve of
0 GiB nothing is written (R455). The answer is the record's position. -/
def preserveWrite (s : State) (r : PRec) (switches : List Switchable) (plain : List Byte) : State × Option Nat :=
  if prsBlocks s = 0 then (s, none)
  else
    let s1 := padBlock s (recRows r.len)
    let p := s1.memory.writePos
    let prev := (getCtx s1 r.ctx).bind (fun x => x.lastPos)
    let rec_ : PRec := { r with pos := p, prevPos := prev.getD p }
    let held := if p % 1024 = 0 then afterBlock s1 p s1.memory.recs else s1.memory.recs
    let s2 := dramWrite s1 (rowAddr s1 p) (wordBytes (recHeader rec_) ++ plain.take r.len)
    let s3 := { s2 with memory := { s2.memory with writePos := p + recRows r.len, recs := held ++ [rec_] } }
    (prsCount (updCtx s3 r.ctx (fun x => indexRec x rec_ switches)) pRecords 1, some p)

/-- R440, R454: whether a unit of a record is poisoned. -/
def recPoisoned (s : State) (r : PRec) : Bool :=
  s.memory.poison.any (fun u => overlaps (u, 64) (rowAddr s r.pos, 48 * recRows r.len))

/-- The record at a position, when it is held. -/
def heldRec (s : State) (pos : Nat) : Option PRec := s.memory.recs.find? (fun r => r.pos == pos)

/-- R454, R505: what a reader finds at a position; a poisoned record is absent, counted, and raises an error. -/
def readRec (s : State) (pos : Nat) : State × Option PRec :=
  match heldRec s pos with
  | none => (s, none)
  | some r =>
    if recPoisoned s r then
      (raiseErr (prsCount s pPoisoned 1) {
        code := 0x0F01, cls := 2, obj := ownHandle s 1 r.ctx
        inst := stackOf s (rowAddr s r.pos), a := word (rowAddr s r.pos / 64 * 64), b := 9
        conceded := r.conceded }, none)
    else (s, some r)

/-- The last switch point of an operating point that the Preserve still holds; `up` says that one for a temporal up-switch
serves as well (R225). -/
def lastSwitch (s : State) (x : Stream) (pt : Nat × Nat) (up : Bool) : Option SwitchPt :=
  (x.switchPts.filter (fun p => p.at_.point == pt && (up || !p.at_.upOnly) && (heldRec s p.pos).isSome)).foldl
    (fun (m : Option SwitchPt) p => match m with
      | none => some p
      | some q => if q.pos < p.pos then some p else some q) none

/-- R451: the packet of a record, as it stands in the ring. -/
def recBytesAt (s : State) (r : PRec) : List Byte := dramRead s (rowAddr s r.pos + 48) r.len

/-- The held records of a context from a position on, oldest first. -/
def recsFrom (s : State) (ctx pos : Nat) : List PRec :=
  s.memory.recs.filter (fun r => r.ctx == ctx && decide (pos ≤ r.pos))

/-- The held records of a context, oldest first. Those of an earlier context of the same number are not among them. -/
def ownRecs (s : State) (c : Nat) : List PRec :=
  match (getCtx s c).bind (fun x => x.firstPos) with
  | none => []
  | some p => recsFrom s c p

/-- The refresh points of a context that are still held, newest first. -/
def heldRefreshes (s : State) (x : Stream) : List Refresh := x.refreshes.filter (fun r => (heldRec s r.pos).isSome)

end Sys2Proof.Machine
end

