-- ==== Sys2Proof/Machine/Media.lean ====
section
/-! DEFINITION. Outbound media, shared by the forwarder, RTCP and the produced streams: counters, keys and index
assignment (R261 to R270), the lane group's outbound queue, RTCP packets, requests for key pictures (R227, R347). -/

namespace Sys2Proof.Machine

-- ## Objects and counters

def getLeg (s : State) (l : Nat) : Option Leg := Tbl.get? s.media.legs l
def updLeg (s : State) (l : Nat) (f : Leg → Leg) : State :=
  { s with media := { s.media with legs := Tbl.upd s.media.legs l f } }
def getConf (s : State) (c : Nat) : Option Conf := Tbl.get? s.media.confs c
def getGroup (s : State) (g : Nat) : LaneGroup := (Tbl.get? s.media.groups g).getD {}
def setGroup (s : State) (g : Nat) (x : LaneGroup) : State :=
  { s with media := { s.media with groups := Tbl.put s.media.groups g x } }

/-- Add to a saturating 48-bit counter of a counter table. -/
def bumpS (t : Tbl Nat) (k n : Nat) : Tbl Nat := Tbl.put t k (satAdd 48 (Tbl.count t k) n)

/-- R248: the counters of a context and of a leg; R276: the key counters of a context. -/
def ctxCount (s : State) (c k n : Nat) : State := updCtx s c (fun x => { x with counters := bumpS x.counters k n })
def legCount (s : State) (l k n : Nat) : State := updLeg s l (fun x => { x with counters := bumpS x.counters k n })
def keyCount (s : State) (c k n : Nat) : State := updCtx s c (fun x => { x with keyCounters := bumpS x.keyCounters k n })

/-- R249: post a conference event of a leg. -/
def confEvent (s : State) (leg kind : Nat) (w1 : Word) : State :=
  match (getLeg s leg).bind (fun l => getConf s l.conf) with
  | none => s
  | some c =>
    if c.eventsEn then postEvent s c.slot c.queue c.tag c.ring 0 w1 (word (kind * 2 ^ 44 + leg)) else s

/-- The legs, and the contexts of a leg, by number. -/
def legCtxs (s : State) (leg kind : Nat) : List Nat :=
  (s.media.streams.filter (fun p => p.2.owner == leg && p.2.kind == kind)).map (·.1)

/-- The OUTBOUND_RTCP context of a leg (R215). -/
def rtcpCtx (s : State) (leg : Nat) : Option Nat := (legCtxs s leg 4).head?

/-- RTP clock rates of CLOCK (R245). -/
def clockRate (c : Nat) : Nat := [90000, 48000, 16000, 8000].getD c 90000

-- ## Suites (R250, R254)

/-- Key length, salt length, SRTP tag and SRTCP tag of a suite in bytes; none for a reserved one. -/
def suiteOf (suite : Nat) : Option (Nat × Nat × Nat × Nat) :=
  match suite with
  | 1 => some (16, 14, 10, 10)
  | 2 => some (16, 14, 4, 10)
  | 3 => some (32, 14, 10, 10)
  | 4 => some (32, 14, 4, 10)
  | 5 => some (16, 14, 10, 10)
  | 6 => some (16, 12, 16, 16)
  | 7 => some (32, 12, 16, 16)
  | _ => none

/-- R250: CORE cycles for `n` bytes: AES-256 costs 240 a block and AES-128 176, and f8 and GCM one block more. -/
def laneCycles (aes256 extra : Bool) (n : Nat) : Nat :=
  (if aes256 then 240 else 176) * (ceilDiv n 16 + b2n extra)

/-- The cycles of a packet under a suite. -/
def suiteCycles (suite n : Nat) : Nat :=
  laneCycles (suite == 3 || suite == 4 || suite == 7) (suite == 5 || suite == 6 || suite == 7) n

/-- The tag a suite puts on an SRTP or SRTCP packet. -/
def tagLen (suite : Nat) (rtcp : Bool) : Nat :=
  match suiteOf suite with
  | some (_, _, a, b) => if rtcp then b else a
  | none => 0

-- ## Keys and indices of outbound contexts (R261 to R271)

/-- The start of a key for the media or the RTX index. -/
def Key.startOf (k : Key) (rtx : Bool) : Nat := if rtx then k.startRtx else k.start

/-- R266: NEXT becomes CURRENT and the old CURRENT drains. -/
def promote (x : Stream) : Stream :=
  { x with
    cur := x.next
    next := none
    drain := x.cur
    sentUnderCur := 0
    keyCounters := bumpS x.keyCounters 0x08 1 }

/-- R266, outbound: the packet whose index equals NEXT's START is the first one under NEXT. -/
def outKeys (x : Stream) (i : Nat) (rtx : Bool) : Stream :=
  match x.next with
  | some k => if i ≥ k.startOf rtx then promote x else x
  | none => x

/-- The key in use for an outbound index: CURRENT from its START on, below it the draining key. -/
def outKey (x : Stream) (i : Nat) (rtx : Bool) : Option Key :=
  match x.cur with
  | none => none
  | some k =>
    if i ≥ k.startOf rtx then some k
    else
      match x.drain with
      | some d => if i ≥ d.startOf rtx then some d else none
      | none => none

/-- R269: the limit and the warning index of a context. -/
def indexLimit (x : Stream) : Nat := if x.kind = 4 || x.kind = 2 then 2 ^ 31 else 2 ^ 48
def indexWarn (s : State) (x : Stream) : Nat :=
  if x.kind = 4 then getF s oCipWarnSrtcp 30 0 else (regRaw s oCipWarnSrtp).toNat

/-- R271: word 1 of a key event. -/
def keyEventWord (x : Stream) (c : Nat) (rtx : Bool) : Word := word (b2n (x.kind == 4) * 2 ^ 24 + b2n rtx * 2 ^ 23 + c)

/-- R271: post a key event to the queue of a key. -/
def keyEvent (s : State) (k : Key) (status : Nat) (w1 w3 : Word) : State :=
  postEvent s k.slot k.queue k.tag k.ring status w1 w3

/-- The MRAM record of a persistent key. -/
def keyRec (s : State) (id : Nat) : Option KeyRec := s.mram.keyRecs.find? (fun r => r.keyId == id)

/-- R270: ask for a reserved value 2^20 further when the next index has come within 2^19 of it. -/
def reserveMore (s : State) (k : Key) (rtx : Bool) (next : Nat) : State :=
  match k.persist with
  | none => s
  | some id =>
    { s with mram := { s.mram with keyRecs := s.mram.keyRecs.map (fun r =>
        let now_ := if rtx then r.rtx else r.media
        if r.keyId == id && r.writing.isNone && decide (next + 2 ^ 19 ≥ now_) then
          { r with writing := some (if rtx then (r.media, r.rtx + 2 ^ 20) else (r.media + 2 ^ 20, r.rtx)) }
        else r) } }

/-- The outbound index state of the media or the RTX SSRC. -/
def Stream.outOf (x : Stream) (rtx : Bool) : OutIndex := if rtx then x.outRtx else x.out
def Stream.setOut (x : Stream) (rtx : Bool) (o : OutIndex) : Stream :=
  if rtx then { x with outRtx := o } else { x with out := o }

/-- R269, R271: an index that is exhausted drops the packet and posts its event once. -/
def exhausted (s : State) (c : Nat) (x : Stream) (rtx : Bool) : State :=
  let s1 := cipCount (keyCount s c 0x07 1) cExhausted 1
  let o := x.outOf rtx
  if o.exhaustedPosted then s1
  else
    let s2 := updCtx s1 c (fun y => y.setOut rtx { o with exhaustedPosted := true })
    match x.cur with
    | none => s2
    | some k => keyEvent s2 k 0x303 (keyEventWord x c rtx) (word (indexLimit x - 1))

/-- R269: the first index assigned under a key, for the assignment of `i`. -/
def firstUnder (o : OutIndex) (key i : Nat) : Nat :=
  match o.first with
  | some (k, f) => if k = key then f else i
  | none => i

/-- R261, R266 to R270: the next index of an outbound context and the key for it, or none when the packet is dropped:
without a CURRENT key as no_key, before its limit is looked at. -/
def assignIndex (s : State) (c : Nat) (rtx : Bool) : State × Option (Nat × Key) :=
  match getCtx s c with
  | none => (s, none)
  | some x0 =>
    let i := (x0.outOf rtx).next
    if x0.cur.isNone then (cipCount (keyCount s c 0x06 1) cNoKey 1, none)
    else if i ≥ indexLimit x0 then (exhausted s c x0 rtx, none)
    else
      let x := outKeys x0 i rtx
      match outKey x i rtx with
      | none => (cipCount (keyCount s c 0x06 1) cNoKey 1, none)
      | some k =>
        let o := x.outOf rtx
        let first := firstUnder o k.id i
        let sent := x.sentUnderCur + b2n (x.cur.map (fun c => c.id) == some k.id)
        let y := { x.setOut rtx { o with next := i + 1, hwm := i + 1, first := some (k.id, first) } with
          sentUnderCur := sent
          drain := if sent ≥ 2048 then none else x.drain }
        let s1 := reserveMore (retireRecs (setCtx s c y) (keysOf x0)) k rtx (i + 1)
        let s2 := if i = max (indexWarn s x) first then keyEvent s1 k 0x304 (keyEventWord x c rtx) (word i) else s1
        (s2, some (i, k))

-- ## The outbound queue of a lane group (R33, R251)

/-- Bytes waiting in a lane group's media queues. -/
def outBytes (g : LaneGroup) : Nat := (g.outQ.map (fun p => p.len)).sum
def inBytes (g : LaneGroup) : Nat := (g.inQ.map (fun p => p.len)).sum
def groupCap : Nat := 2 * 1024 * 1024

/-- R198, R237: frame length of a media packet of `n` bytes with its tag. -/
def frameLen (s : State) (l : Leg) (n : Nat) : Nat := wireLen s l.port (14 + (if l.v6 then 40 else 20) + 8 + n + 4)

/-- Put a packet into its lane group's outbound queue; its length and index are final. -/
def queueOut (s : State) (p : OutPkt) : State :=
  let g := getGroup s (p.ctx % 16)
  let s1 := setGroup s (p.ctx % 16) { g with outQ := g.outQ ++ [{ p with no := s.media.nextNo }] }
  { s1 with media := { s1.media with nextNo := s.media.nextNo + 1 } }

/-- Bytes of a packet that a cipher mode covers (R250): all but the RTP header, or the first 8 bytes of an RTCP packet. -/
def OutPkt.clear (p : OutPkt) : Nat := if p.rtcp.isEmpty then rtpHeader p.bytes else 8
def OutPkt.encLen (p : OutPkt) : Nat := p.bytes.length - p.clear

/-- R254, R260: the length of a packet under a suite: its tag, and for SRTCP the word of the E flag and the index. -/
def protectedLen (suite : Nat) (p : OutPkt) : Nat :=
  p.bytes.length + tagLen suite (!p.rtcp.isEmpty) + (if p.rtcp.isEmpty then 0 else 4)

/-- R261 to R269: a packet enters its lane group's outbound queue and takes its index, from which an RTP packet has its
sequence number; a retransmission under R262 keeps the one it has. Dropped without a key, at the limit, or for a quarantined
context. The queue has room. -/
def enterLane (s : State) (l : Leg) (p : OutPkt) : State :=
  match getCtx s p.ctx with
  | none => s
  | some x =>
    if x.quarantined then s
    else if p.again then
      match outKey x p.index false with
      | none => cipCount (keyCount s p.ctx 0x06 1) cNoKey 1
      | some k => queueOut s { p with len := frameLen s l (protectedLen k.suite p) }
    else
      let r := assignIndex s p.ctx p.rtx.isSome
      match r.2 with
      | none => r.1
      | some (i, k) =>
        let q := { p with index := i, len := frameLen s l (protectedLen k.suite p) }
        queueOut r.1 (if p.rtcp.isEmpty then { q with seq := i % 65536, bytes := setSeq p.bytes (i % 65536) } else q)

/-- Whether a packet fits the outbound queue of its group. -/
def outRoom (s : State) (l : Leg) (p : OutPkt) : Bool :=
  match (getCtx s p.ctx).bind (fun x => x.cur) with
  | none => true
  | some k => decide (outBytes (getGroup s (p.ctx % 16)) + frameLen s l (protectedLen k.suite p) ≤ groupCap)

/-- R33, R251: the forwarder sends a packet of a leg, or holds it while the group's queue is full. -/
def sendOut (s : State) (p : OutPkt) : State :=
  match getLeg s p.leg with
  | none => s
  | some l =>
    if l.held.isEmpty && outRoom s l p then enterLane s l p
    else updLeg s p.leg (fun l => { l with held := l.held ++ [p] })

/-- Send what a leg's forwarder holds, in order, while there is room; `n` bounds the packets. -/
def sendHeld (s : State) (leg n : Nat) : State :=
  match n with
  | 0 => s
  | n + 1 =>
    match getLeg s leg with
    | none => s
    | some l =>
      match l.held with
      | [] => s
      | p :: rest =>
        if outRoom s l p then sendHeld (enterLane (updLeg s leg (fun l => { l with held := rest })) l p) leg n else s

/-- R251: a group's outbound queue has room again: the forwarder goes on with what it holds for the contexts of the group. -/
def drainHeld (s : State) (g : Nat) : State :=
  (s.media.legs.filter (fun l => l.2.held.head?.elim false (fun p => p.ctx % 16 == g))).foldl
    (fun s l => sendHeld s l.1 l.2.held.length) s

/-- R238: remember a packet sent for retransmission. -/
def remember (s : State) (p : OutPkt) : State :=
  match p.pos with
  | none => s
  | some pos =>
    updCtx s p.ctx (fun x => { x with
      sentMap := (({ seq := p.seq, index := p.index, pos := pos, ts := p.ts, marker := p.marker } : Sent) :: x.sentMap.filter (fun e => e.seq != p.seq)).take 2048 })

/-- R230, R232, R238, R246, R248: a packet of a leg has been handed to a MAC transmit queue, and counts as sent. -/
def handed (s : State) (p : OutPkt) : State :=
  let rtcp := !p.rtcp.isEmpty
  let s1 := ctxCount (ctxCount (ctxCount s p.ctx 0x00 1) p.ctx 0x01 p.len) p.ctx 0x0E (b2n p.conceded)
  if rtcp then s1
  else
    let x := (getCtx s p.ctx).getD { kind := 3 }
    let s2 := updCtx s1 p.ctx (fun y => { y with
      sentSinceSr := true
      sentPackets := y.sentPackets + 1
      sentOctets := y.sentOctets + p.encLen
      rateLog := y.rateLog ++ [(now s, 0, 0, 8 * p.len)] })
    let s3 := updLeg s2 p.leg (fun l => { l with
      sends := (if p.rtx.isSome then x.rtxSsrc else x.ssrc, p.seq, now s, 8 * p.len) :: l.sends })
    if p.again || p.rtx.isSome then s3 else remember s3 p

-- ## RTCP that the module sends (R227, R228)

/-- NTP time now as 64 bits: bridge time plus NTP_OFFSET_S (R228). -/
def ntpNow (s : State) : Nat := ((now s / second + getF s oStrRtcp 47 16) % 2 ^ 32) * 2 ^ 32 + now s % second / 2 ^ 44

/-- RFC 3550's reception report of a context: what has come since its first number, and since the last report. -/
def receptionReport (s : State) (x : Stream) : Report :=
  let highest := x.highestSeq.getD 0
  let expected := (x.baseSeq.map (fun b => highest + 1 - b)).getD 0
  let lost : Int := (expected : Int) - x.received
  let since := expected - x.expectedPrior
  let gone := (since : Int) - ((x.received - x.receivedPrior : Nat) : Int)
  { ssrc := x.ssrc
    fraction := if since = 0 then 0 else min 255 (gone.toNat * 256 / since)
    lost := max (-2 ^ 23) (min (2 ^ 23 - 1) lost)
    highest := highest % 2 ^ 32
    jitter := x.jitter / 16
    lsr := (x.srMap.map (fun m => m.1.toNat / 2 ^ 16 % 2 ^ 32)).getD 0
    dlsr := if x.srMap.isSome then (now s - x.srAt) * 65536 / second % 2 ^ 32 else 0 }

/-- The reports of every INBOUND_MEDIA context of a leg (R227), and what they leave for the next ones. -/
def legReports (s : State) (leg : Nat) : List Report :=
  (legCtxs s leg 1).filterMap (fun c => (getCtx s c).map (receptionReport s))
def reported (s : State) (leg : Nat) : State :=
  (legCtxs s leg 1).foldl (fun s c => updCtx s c (fun x => { x with
    expectedPrior := (x.baseSeq.map (fun b => x.highestSeq.getD 0 + 1 - b)).getD 0, receivedPrior := x.received })) s

/-- R215, R227: send a compound packet to a leg through its OUTBOUND_RTCP context; without one nothing is sent. -/
def sendRtcp (s : State) (leg : Nat) (rs : Nat → List RtcpOut) : State :=
  match rtcpCtx s leg with
  | none => s
  | some c =>
    let out := rs (((getCtx s c).map (fun x => x.ssrc)).getD 0)
    reported (sendOut s { leg := leg, ctx := c, rtcp := out, bytes := out.flatMap rtcpBytes }) leg

/-- R227: a feedback packet, of the sender SSRC, stands behind an RR. -/
def sendFeedback (s : State) (leg : Nat) (r : Nat → RtcpOut) : State :=
  sendRtcp s leg (fun ssrc => [.rr ssrc (legReports s leg), r ssrc])

-- ## Requests for key pictures (R227, R304, R347, R479)

/-- R347: whether a request asks for a key picture: by REQ_MODE, for a PLI or a FIR. -/
def reqIsKey (mode : Nat) (fir : Bool) : Bool := mode == 2 || (mode == 1 && fir)

/-- R347: act on a request at an encode channel. The answer is word 1 of R363: 0 restart, 1 key, 2 merged. -/
def encRequest (s : State) (ch : Nat) (key : Bool) : State × Nat :=
  match Tbl.get? s.units.encs ch with
  | none => (s, 2)
  | some e =>
    let gap := durMs (getF s oStrFeedback 31 16)
    let recent := match e.lastKey with
      | some t => decide (now s < t + gap)
      | none => false
    let merged := if key then recent || e.keyPending || e.keyNew
      else (e.restartCycle && decide (e.stripe * 2 < e.period))
    let e1 := { e with
      counters := bumpS (bumpS e.counters 0x08 1) 0x09 (b2n merged)
      keyNew := e.keyNew || (key && !merged)
      restartNew := e.restartNew || (!key && !merged) }
    ({ s with units := { s.units with encs := Tbl.put s.units.encs ch e1 } }, if merged then 2 else b2n key)

/-- The encode channel that writes a PRODUCED context. -/
def encOf (s : State) (ctx : Nat) : Option Nat := (s.units.encs.find? (fun p => p.2.output == ctx)).map (·.1)

/-- R226, R227: the module acts on a request for a key picture of a source. -/
def actsOnRequest (s : State) (src : Nat) : Bool :=
  match getCtx s src with
  | none => false
  | some x => x.mirrorOf.isSome || x.kind == 5 || (x.kind == 1 && x.pliEn && (rtcpCtx s x.owner).isSome)

/-- R226, R227, R304, R479: the need for a key picture of a source reaches its sender, its encoder, or the member that
a mirror follows. PLIs and FIRs of one source are sent at most once per PLI_GAP_MS. -/
def keyRequest (s : State) (src : Nat) (fir : Bool) : State :=
  match getCtx s src with
  | none => s
  | some x =>
    match x.mirrorOf with
    | some h =>
      if grnActive s then (peerSend s (hMember h) 0xA83 (b2n fir) h 0 0 none).1 else s
    | none =>
      if x.kind = 5 then
        match encOf s src with
        | some ch =>
          (encRequest s ch (match Tbl.get? s.units.encs ch with
            | some e => reqIsKey e.reqMode fir
            | none => false)).1
        | none => s
      else
        let ready := match x.lastPli with
          | some t => decide (now s ≥ t + durMs (getF s oStrFeedback 31 16))
          | none => true
        if x.kind = 1 && x.pliEn && ready && (rtcpCtx s x.owner).isSome then
          sendFeedback (ctxCount (updCtx s src (fun y => { y with
              lastPli := some (now s), firSeq := if fir then (y.firSeq + 1) % 256 else y.firSeq })) src 0x0B 1) x.owner
            (fun ssrc => if fir then .fir ssrc x.ssrc x.firSeq else .pli ssrc x.ssrc)
        else s

end Sys2Proof.Machine
end

