-- ==== Sys2Proof/Machine/Forward.lean ====
section
/-! DEFINITION. The forwarder (R225, R232 to R239): operating points, the choice of layers, switches, prefetches, and the
packets it sends. -/

namespace Sys2Proof.Machine

-- ## Sources and operating points

/-- An operating point: spatial and temporal layer. Points are ordered by s and then t. -/
abbrev Point := Nat × Nat

def pointLe (p q : Point) : Bool := decide (p.1 < q.1) || (p.1 == q.1 && decide (p.2 ≤ q.2))

/-- The other members of a simulcast group, by SIM_INDEX. -/
def groupMembers (s : State) (src : Nat) : List (Nat × Nat) :=
  (s.media.streams.filter (fun p => p.2.group == some src)).map (fun p => (p.2.simIndex, p.1))

def simulcast (s : State) (src : Nat) : Bool := !(groupMembers s src).isEmpty

/-- The context that carries a point of a source: in a simulcast group, the member of SIM_INDEX s. -/
def pointCtx (s : State) (src : Nat) (p : Point) : Nat :=
  if simulcast s src then ((groupMembers s src).find? (fun m => m.1 == p.1)).elim src (·.2) else src

/-- The layer of that context that the point names. -/
def pointLayer (s : State) (src : Nat) (p : Point) : Point := if simulcast s src then (0, p.2) else p

/-- R245, R247: spatial points and temporal layers of a source. -/
def spatialCount (s : State) (src : Nat) : Nat :=
  if simulcast s src then (groupMembers s src).length + 1 else ((getCtx s src).map (fun x => x.sCount)).getD 0
def temporalCount (s : State) (src : Nat) : Nat := ((getCtx s src).map (fun x => x.tCount)).getD 0

/-- R232: the measured rate of a point in bit/s; 0 where a simulcast group has no member of SIM_INDEX s. -/
def pointRate (s : State) (src : Nat) (p : Point) : Nat :=
  match getCtx s (pointCtx s src p) with
  | none => 0
  | some x =>
    if simulcast s src && x.simIndex != p.1 then 0 else ((x.pointRates.find? (fun r => r.1 == pointLayer s src p)).map (·.2)).getD 0

/-- Every point up to a greatest point, ascending. -/
def pointsUpTo (maxS maxT : Nat) : List Point :=
  (List.range (maxS + 1)).flatMap (fun a => (List.range (maxT + 1)).map (fun b => (a, b)))

/-- R232, R233: the selectable points of a subscription, ascending, with their rates. -/
def selectable (s : State) (b : Sub) : List (Point × Nat) :=
  ((pointsUpTo b.maxS b.maxT).map (fun p => (p, pointRate s b.source p))).filter (fun r => r.2 != 0)

/-- Whether a packet of context `c` at layer (rs, rt) belongs to a point of a source. -/
def inPoint (s : State) (src : Nat) (p : Point) (c rs rt : Nat) : Bool :=
  if simulcast s src then pointCtx s src p == c && decide (rt ≤ p.2)
  else src == c && decide (rs ≤ p.1) && decide (rt ≤ p.2)

/-- Change the subscription of an outbound context. -/
def updSub (s : State) (o : Nat) (f : Sub → Sub) : State := updCtx s o (fun x => { x with sub := x.sub.map f })
def subOf (s : State) (o : Nat) : Option Sub := (getCtx s o).bind (fun x => x.sub)

-- ## Sending (R237)

/-- The SIM_INDEX 0 member of the simulcast group that a context belongs to; of no group, the context itself. -/
def groupHead (s : State) (c : Nat) : Nat := ((getCtx s c).bind (fun x => x.group)).getD c

/-- R237: the RTP timestamp offset, which changes only at a switch between simulcast members: the new member's first
picture takes the last timestamp sent plus the clock count between the receive times of the two pictures.
R373: 0 for a receiver of a mix group. -/
def tsOffsetFor (s : State) (x : Stream) (r : PRec) : Nat :=
  if x.audioOut then 0 else
  match x.lastSrc, x.lastTs with
  | some c, some ts =>
    if c = r.ctx || groupHead s c != groupHead s r.ctx then x.tsOffset
    else
      let between := (clockRate x.clock : Int) * ((r.time : Int) - (x.lastTsTime : Int)) / (second : Int)
      (((ts : Int) + between - (r.ts : Int)) % (2 ^ 32 : Int)).toNat
  | _, _ => x.tsOffset

/-- R237: the recognised extensions of a record, at the IDs of an outbound context. -/
def outExts (x : Stream) (r : PRec) : List (Nat × List Byte) :=
  (if x.levelId = 0 then [] else (r.level.map (fun l => (x.levelId, beBytes 1 (b2n l.2 * 128 + l.1)))).toList)
    ++ (if x.ddId = 0 || r.dd.isEmpty then [] else [(x.ddId, r.dd)])

/-- R237: rewrite a record's packet for an outbound context and hand it to the leg's cipher lane. -/
def forwardRec (s : State) (o : Nat) (r : PRec) (bytes : List Byte) (conceded : Bool) : State :=
  match getCtx s o with
  | none => s
  | some x =>
    let off := tsOffsetFor s x r
    let ts := (r.ts + off) % 2 ^ 32
    let top := match x.sub with
      | some b => (match b.cur with
        | some p => r.endOfFrame && (simulcast s b.source || r.s == p.1)
        | none => false)
      | none => false
    let s1 := setCtx s o { x with
      tsOffset := off
      lastTs := some ts
      lastTsTime := if x.lastTs = some ts then x.lastTsTime else r.time
      lastSrc := some r.ctx }
    sendOut s1 { leg := x.owner, ctx := o, pos := some r.pos, ts := ts, marker := r.marker || top
                 bytes := rewriteRtp bytes x.pt x.ssrc ts (r.marker || top) (outExts x r), conceded := conceded || r.conceded }

/-- Send several packets in order. -/
def forwardRecs (s : State) (o : Nat) (rs : List (PRec × List Byte)) (conceded : Bool) : State :=
  rs.foldl (fun s r => forwardRec s o r.1 r.2 conceded) s

/-- R454: read records with their packets; none when one of them is absent. -/
def readRecs (s : State) (ps : List Nat) : State × Option (List (PRec × List Byte)) :=
  match ps with
  | [] => (s, some [])
  | p :: rest =>
    let a := readRec s p
    match a.2 with
    | none => (a.1, none)
    | some r =>
      let b := readRecs a.1 rest
      (b.1, b.2.map (fun rs => (r, recBytesAt a.1 r) :: rs))

/-- The records that carry a point from a position on, without those that a current point already carries. -/
def pointRecs (s : State) (src : Nat) (p : Point) (cur : Option Point) (pos : Nat) : List PRec :=
  (recsFrom s (pointCtx s src p) pos).filter (fun r =>
    inPoint s src p r.ctx r.s r.t && !(match cur with
      | some q => inPoint s src q r.ctx r.s r.t
      | none => false))

-- ## Switching (R234 to R236)

/-- Audio codecs: Opus, G.711 and G.722 (R245). -/
def audioCodec (c : Nat) : Bool := c == 0x8 || c == 0x9 || c == 0xA || c == 0xB

/-- R225: whether a switch needs a key picture: a first picture, or another spatial layer, of a video stream. -/
def needsKey (s : State) (src : Nat) (cur : Option Point) (p : Point) : Bool :=
  match getCtx s src with
  | none => false
  | some x =>
    !(audioCodec x.codec) && (match cur with
      | none => true
      | some q => q.1 != p.1)

/-- Wait for the target's next switch point, asking for a key picture where that needs one. -/
def awaitSwitch (s : State) (o : Nat) (b : Sub) (p : Point) (baseOnly : Bool) : State :=
  let s1 := updSub s o (fun b => { b with switch := some { target := p, atSwitchPoint := true, baseOnly := baseOnly } })
  if needsKey s b.source b.cur p then keyRequest s1 (pointCtx s b.source p) false else s1

/-- R225: a switch from a current point to a target is a temporal up-switch. -/
def temporalUp (cur : Option Point) (p : Point) : Bool :=
  match cur with
  | none => false
  | some q => q.1 == p.1 && decide (q.2 < p.2)

/-- The last switch point of a point of a source that the Preserve holds, for a switch from a current point. -/
def heldSwitch (s : State) (src : Nat) (cur : Option Point) (p : Point) : Option SwitchPt :=
  (getCtx s (pointCtx s src p)).bind (fun x => lastSwitch s x (pointLayer s src p) (temporalUp cur p))

/-- A switch point no older than CATCHUP_MS. -/
def recentSwitch (s : State) (l : Leg) (src : Nat) (cur : Option Point) (p : Point) : Option SwitchPt :=
  (heldSwitch s src cur p).bind (fun q => if now s ≤ q.time + durMs l.catchupMs then some q else none)

/-- R234, R236, R454: switch at once from a switch point in the Preserve: its packets, in order up to live. When one of
them is absent the forwarder waits for the next switch point. `dir` is the counter of R248, none for a first start. -/
def switchFrom (s : State) (o : Nat) (b : Sub) (p : Point) (q : SwitchPt) (dir : Option Nat) : State :=
  let rd := readRecs s ((pointRecs s b.source p none q.pos).map (fun r => r.pos))
  match rd.2 with
  | none => awaitSwitch rd.1 o b p false
  | some rs =>
    let s1 := updSub (prsCount rd.1 pJoins 1) o (fun b => { b with cur := some p, switch := none, lateJoin := false })
    let s2 := match dir with
      | some k => ctxCount s1 o k 1
      | none => s1
    forwardRecs s2 o rs false

/-- R236: a first subscription starts from the last switch point held, whatever its age. -/
def joinAt (s : State) (o : Nat) (b : Sub) (p : Point) : State :=
  match heldSwitch s b.source none p with
  | some q => switchFrom s o b p q none
  | none => awaitSwitch s o b p false

/-- R234: a switch to a lower point. -/
def switchDown (s : State) (o : Nat) (l : Leg) (b : Sub) (cur p : Point) : State :=
  if simulcast s b.source && cur.1 != p.1 then
    match recentSwitch s l b.source (some cur) p with
    | some q => switchFrom s o b p q (some 0x0C)
    | none => awaitSwitch s o b p true
  else
    updSub s o (fun b => { b with
      switch := some { target := p, atSwitchPoint := !(decide (p.1 ≤ cur.1) && decide (p.2 ≤ cur.2)) } })

/-- R235: the first predicted picture start at or after an instant. -/
def predictedStart (x : Stream) (t : Nat) : Nat :=
  match x.lastPicture with
  | none => t
  | some (at_, _) =>
    if x.picInterval = 0 then t
    else at_ + (if t ≤ at_ then 0 else ceilDiv (t - at_) x.picInterval) * x.picInterval

/-- Whether a leg has an open prefetch (R104). -/
def openPrefetch (s : State) (leg : Nat) : Bool :=
  (legCtxs s leg 3).any (fun o => (((subOf s o).bind (fun b => b.prefetch)).bind (fun p => p.entry)).isSome)

/-- R107: once a leg's prefetch is resolved, the up-switches it refused are decided again. -/
def reopen (s : State) (leg : Nat) : State :=
  (legCtxs s leg 3).foldl (fun s o => updSub s o (fun b => { b with refused := false })) s

/-- R95, R104, R105, R107, R235, R454: a switch to a higher point. A packet that cannot be staged leaves the switch point
incomplete: the prefetch is discarded and the forwarder waits for the next switch point. A leg's second prefetch is refused, and counted once, until the
open one is resolved. -/
def switchUp (s : State) (o leg : Nat) (l : Leg) (b : Sub) (p : Point) : State :=
  match recentSwitch s l b.source b.cur p with
  | none => awaitSwitch s o b p false
  | some q =>
    if openPrefetch s leg then
      if b.refused then s else specCount (updSub s o (fun b => { b with switch := none, refused := true })) 4 5 1
    else
      let t := now s + durMs l.prefetchLeadMs
      let at_ := ((getCtx s (pointCtx s b.source p)).map (fun x => predictedStart x t)).getD t
      let e := openEntry s .prefetch o at_
      let plan : Prefetch := { entry := none, point := q.pos, target := p, instant := at_, staged := [] }
      -- the staged packets are read now, into packet buffers (R105)
      let rd := readRecs e.1 ((pointRecs s b.source p b.cur q.pos).map (fun r => r.pos))
      match e.2, rd.2 with
      | none, _ => updSub e.1 o (fun b => { b with switch := none, prefetch := some plan })
      | some k, some rs =>
        updSub rd.1 o (fun b => { b with switch := none, prefetch := some { plan with entry := some k, staged := rs } })
      | some k, none => awaitSwitch (closeEntry rd.1 k 3) o b p false

/-- R233 to R236: switch a slot to what the choice wants. A slot that was paused resumes as an up-switch, by a prefetch, and
not as a first subscription. DESIGN CHOICE (assumption 102). -/
def switchTo (s : State) (o leg : Nat) (l : Leg) (want : Option Point) : State :=
  match subOf s o with
  | none => s
  | some b =>
    match want, b.cur with
    | none, _ => updSub s o (fun b => { b with cur := none, switch := none })
    | some p, none =>
      if (b.switch.map (fun w => w.target)) = some p then s
      else if b.lateJoin then joinAt s o b p
      else if b.prefetch.isSome then s
      else switchUp s o leg l b p
    | some p, some cur =>
      if p = cur then updSub s o (fun b => { b with switch := none })
      else if (b.switch.map (fun w => w.target)) = some p then s
      else if pointLe p cur then switchDown s o l b cur p
      else if b.prefetch.isSome then updSub s o (fun b => { b with switch := none })
      else switchUp s o leg l b p

-- ## Choosing layers (R233)

/-- A slot of the choice: its outbound context, its selectable points and its current point. -/
structure Choice where
  ctx : Nat
  pts : List (Point × Nat)
  cur : Option Point
  want : Option (Point × Nat) := none

/-- Insert by priority; equal priorities keep the order of context index. -/
def insertPrio (x : Nat × Choice) (xs : List (Nat × Choice)) : List (Nat × Choice) :=
  match xs with
  | [] => [x]
  | y :: rest => if x.1 < y.1 then x :: y :: rest else y :: insertPrio x rest

/-- The subscribed slots of a leg in priority order. -/
def slotsOf (s : State) (leg : Nat) : List Choice :=
  let all := (legCtxs s leg 3).filterMap (fun o =>
    (subOf s o).map (fun b => (b.priority, ({ ctx := o, pts := selectable s b, cur := b.cur } : Choice))))
  ((all.foldl (fun acc x => insertPrio x acc) []).map (·.2))

/-- First pass: each slot its lowest point while the budget lasts. -/
def firstPass (budget : Rat) (cs : List Choice) : Rat × List Choice :=
  match cs with
  | [] => (budget, [])
  | c :: rest =>
    match c.pts with
    | [] =>
      let r := firstPass budget rest
      (r.1, c :: r.2)
    | p :: _ =>
      if (p.2 : Rat) ≤ budget then
        let r := firstPass (budget - p.2) rest
        (r.1, { c with want := some p } :: r.2)
      else
        let r := firstPass budget rest
        (r.1, c :: r.2)

/-- What a point needs: its rate, with the up margin above the current point. -/
def need (cur : Option Point) (margin : Nat) (p : Point × Nat) : Rat :=
  match cur with
  | some q => if pointLe p.1 q then p.2 else (p.2 : Rat) * (100 + margin) / 100
  | none => (p.2 : Rat) * (100 + margin) / 100

/-- Second pass: each slot the highest point that fits. -/
def secondPass (budget : Rat) (margin : Nat) (cs : List Choice) : List Choice :=
  match cs with
  | [] => []
  | c :: rest =>
    match c.want with
    | none => c :: secondPass budget margin rest
    | some w =>
      let b := budget + w.2
      let p := (c.pts.reverse.find? (fun p => decide (need c.cur margin p ≤ b))).getD w
      { c with want := some p } :: secondPass (b - p.2) margin rest

/-- R233: the rate of a leg's outbound media contexts that have no subscription. -/
def unsubscribedRate (s : State) (leg : Nat) : Nat :=
  ((legCtxs s leg 3).map (fun o => match getCtx s o with
    | some x => if x.sub.isNone then ((x.pointRates.find? (fun r => r.1 == (0, 0))).map (·.2)).getD 0 else 0
    | none => 0)).sum

/-- R233: choose points for a leg. -/
def chooseLayers (s : State) (leg : Nat) : State :=
  match getLeg s leg with
  | none => s
  | some l =>
    let a := firstPass (l.est - unsubscribedRate s leg) (slotsOf s leg)
    (secondPass a.1 l.upMarginPct a.2).foldl (fun s c => switchTo s c.ctx leg l (c.want.map (·.1))) s

-- ## Resolving a prefetch (R95, R235)

/-- R95: discard a slot's prefetch; nothing staged is sent. -/
def dropPrefetch (s : State) (o : Nat) : State :=
  match (subOf s o).bind (fun b => b.prefetch) with
  | none => s
  | some p =>
    let s1 := reopen (updSub s o (fun b => { b with prefetch := none })) (((getCtx s o).map (fun x => x.owner)).getD 0)
    match p.entry with
    | some e => closeEntry s1 e 3
    | none => s1

/-- R95: a switch point is complete among some packets: its picture's numbers without a gap through its marker. -/
def pictureWhole (point : Nat) (rs : List PRec) : Bool :=
  match rs.find? (fun r => r.pos == point) with
  | none => false
  | some first =>
    let pic := rs.filter (fun r => r.ts == first.ts)
    let seqs := pic.map (fun r => r.seq)
    pic.any (fun r => r.marker)
      && seqs.all (fun q => decide (q ≥ first.seq)) && decide (seqs.foldl max 0 + 1 - first.seq = (distinct seqs).length)

/-- R95, R105: the staged switch point is complete. Where nothing is staged (R107), the Preserve holds it. The packets of its
picture that the current point carries already are not staged, and stand in the Preserve. -/
def switchComplete (s : State) (b : Sub) (p : Prefetch) : Bool :=
  let c := pointCtx s b.source p.target
  let staged := p.staged.map (fun r => r.1)
  pictureWhole p.point (staged ++ (recsFrom s c p.point).filter (fun r => !(staged.any (fun q => q.pos == r.pos))))

/-- R235: the switch takes effect: the staged packets in their original order, then live. -/
def applyPrefetch (s : State) (o : Nat) (b : Sub) (p : Prefetch) (conceded : Bool) : State :=
  let s1 := ctxCount (updSub s o (fun b => { b with
    cur := some p.target, switch := none, prefetch := none, lateJoin := false })) o 0x0D 1
  if p.entry.isSome then forwardRecs s1 o p.staged conceded
  else
    let rd := readRecs s1 ((pointRecs s b.source p.target b.cur p.point).map (fun r => r.pos))
    match rd.2 with
    | some rs => forwardRecs rd.1 o rs conceded
    | none => rd.1

/-- R231, R235: whether a leg's estimate is stale now. -/
def legStale (s : State) (l : Leg) : Bool := l.ccfb && (l.stale || decide (now s ≥ l.staleFrom + durMs l.staleMs))

/-- R95, R235: the check at the switch instant. Confirmed when the estimate reaches the target's rate and the staged
switch point is complete; else conceded when the estimate is stale or `late`; else discarded. -/
def resolvePrefetch (s : State) (o : Nat) (late : Bool) : State :=
  match getCtx s o with
  | none => s
  | some x =>
    match x.sub, getLeg s x.owner with
    | some b, some l =>
      match b.prefetch with
      | none => s
      | some p =>
        let est := if l.lastReport = some (now s) then l.estBefore else l.est
        let ok := decide ((pointRate s b.source p.target : Rat) ≤ est) && switchComplete s b p
        let fin := fun (k : Nat) => match p.entry with
          | some e => closeEntry s e k
          | none => s
        let s1 :=
          if ok && !late then applyPrefetch (fin 1) o b p false
          else if p.entry.isSome && (late || legStale s l) then applyPrefetch (fin 2) o b p true
          else updSub (fin 3) o (fun b => { b with prefetch := none })
        chooseLayers (reopen s1 x.owner) x.owner
    | _, _ => s

/-- R95: a new estimate below the target's rate discards a leg's prefetch whose switch instant has not come (R82, R235); then the layers are chosen again (R233). -/
def estimateChanged (s : State) (leg : Nat) : State :=
  match getLeg s leg with
  | none => s
  | some l =>
    let low := (legCtxs s leg 3).filter (fun o => match subOf s o with
      | some b => (match b.prefetch with
        | some p => decide (now s < p.instant) && decide (l.est < (pointRate s b.source p.target : Rat))
        | none => false)
      | none => false)
    chooseLayers (low.foldl dropPrefetch s) leg

-- ## Live packets

/-- R234 to R237: a packet of a source reaches one subscription. `start` says that it starts a picture of the source. -/
def forwardOne (s : State) (r : PRec) (bytes : List Byte) (start : Bool) (switches : List Switchable) (o : Nat) : State :=
  match getCtx s o with
  | none => s
  | some x =>
    match x.sub, getLeg s x.owner with
    | some b, some l =>
      -- a pending switch
      let due := fun (w : Switch) =>
        pointCtx s b.source w.target == r.ctx
          && ((!w.atSwitchPoint && start) || switches.any (fun q =>
            q.point == pointLayer s b.source w.target && (!q.upOnly || temporalUp b.cur w.target)))
      let up := fun (w : Switch) => match b.cur with
        | some c => !(pointLe w.target c)
        | none => !b.lateJoin
      let s1 := match b.switch with
        | none => s
        | some w =>
          if !(due w) then s
          else if up w && decide (l.est < (pointRate s b.source w.target : Rat)) then
            chooseLayers (updSub s o (fun b => { b with switch := none })) x.owner
          else
            let s2 := updSub s o (fun b => { b with cur := some w.target, switch := none, lateJoin := false })
            match b.cur with
            | none => s2
            | some _ => ctxCount s2 o (if up w then 0x0D else 0x0C) 1
      match subOf s1 o with
      | none => s1
      | some b1 =>
        let inCur := match b1.cur with
          | some p => inPoint s1 b1.source p r.ctx r.s r.t
              && (match b1.switch with
                | some w => !w.baseOnly || r.t == 0
                | none => true)
          | none => false
        let s2 := match b1.prefetch with
          | some p =>
            if p.entry.isSome && inPoint s1 b1.source p.target r.ctx r.s r.t && !inCur then
              updSub s1 o (fun b => { b with prefetch := some { p with staged := p.staged ++ [(r, bytes)] } })
            else s1
          | none => s1
        if inCur then forwardRec s2 o r bytes r.conceded else s2
    | _, _ => s

/-- The outbound contexts that read a source context, directly or as a member of a simulcast group. -/
def readersOf (s : State) (src : Nat) : List Nat :=
  let head := ((getCtx s src).bind (fun x => x.group)).getD src
  (s.media.streams.filter (fun p => match p.2.sub with
    | some b => b.source == src || b.source == head
    | none => false)).map (·.1)

/-- A stored packet of a source goes to every subscription that names it (R223). -/
def forwardLive (s : State) (r : PRec) (bytes : List Byte) (start : Bool) (switches : List Switchable) : State :=
  (readersOf s r.ctx).foldl (fun s o => forwardOne s r bytes start switches o) s

-- ## Retransmission (R238, R239, R262, R454, R455)

/-- The bits a leg has retransmitted in the last second. -/
def rtxBits (l : Leg) (t : Nat) : Nat := ((l.rtxLog.filter (fun p => decide (p.1 + second > t))).map (·.2)).sum

/-- R238: a refused request. -/
def refuseRtx (s : State) (o : Nat) (gone : Bool) : State :=
  prsCount (ctxCount s o 0x0A 1) pRtxGone (b2n gone)

/-- R238, R239: one sequence number of a NACK. -/
def retransmit (s : State) (o : Nat) (seq : Nat) : State :=
  match getCtx s o with
  | none => s
  | some x =>
    match getLeg s x.owner with
    | none => s
    | some l =>
      if !(getB s oPrsCtrl 0) || prsBlocks s == 0 then refuseRtx s o true
      else
        match x.sentMap.find? (fun e => e.seq == seq) with
        | none => refuseRtx s o false
        | some e =>
          let rd := readRec s e.pos
          match rd.2 with
          | none => refuseRtx rd.1 o true
          | some r =>
            let s1 := rd.1
            let packet := rewriteRtp (recBytesAt s1 r) (if x.rtxEn then x.rtxPt else x.pt) (if x.rtxEn then x.rtxSsrc else x.ssrc)
              e.ts e.marker (outExts x r) (if x.rtxEn then beBytes 2 seq else [])
            let n := 8 * frameLen s1 l (packet.length + (match x.cur with
              | some k => tagLen k.suite false
              | none => 0))
            let early := match e.lastRtx with
              | some t => decide (now s1 < t + durMs (getF s1 oStrFeedback 15 0))
              | none => false
            if early || decide (((rtxBits l (now s1) + n : Nat) : Rat) > l.est * l.rtxPct / 100) then refuseRtx s1 o false
            else
              let s2 := updLeg s1 x.owner (fun l => { l with
                rtxLog := (now s1, n) :: l.rtxLog.filter (fun p => decide (p.1 + second > now s1)) })
              let s3 := updCtx s2 o (fun x => { x with
                sentMap := x.sentMap.map (fun f => if f.seq == seq then { f with lastRtx := some (now s1) } else f) })
              let p : OutPkt := { leg := x.owner, ctx := o, pos := some e.pos, ts := e.ts, marker := e.marker
                                  bytes := if x.rtxEn then packet else setSeq packet e.seq }
              sendOut (prsCount (ctxCount s3 o 0x09 1) pRtxServed 1)
                (if x.rtxEn then { p with rtx := some seq }
                 else { p with again := true, index := e.index, seq := e.seq })

end Sys2Proof.Machine
end

