-- ==== Sys2Proof/Machine/Streams.lean ====
section
/-! DEFINITION. The commands of conferences, legs and stream contexts (R213 to R218, R240 to R248, R476 to R478). -/

namespace Sys2Proof.Machine

-- ## Operands

/-- A mask of the bits [hi:lo] (R5). -/
def mask (hi lo : Nat) : Nat := 2 ^ (hi + 1) - 2 ^ lo

/-- R555 stage 5: a handle of one of some types, of this module, whose object exists. -/
def hObj (s : State) (tys : List Nat) (w : Word) (ex : Nat → Bool) : Bool × Nat :=
  match handleErr s tys w with
  | some e => (true, e)
  | none => (!(ex (hIndex w)), 0x104)

/-- R476: an operand that accepts the handle of an object of another roster member. -/
def ofMember (s : State) (ty : Nat) (w : Word) : Bool :=
  inBramble s && hType w == ty && hMember w != ownMember s && inRoster s (hMember w)
def hMay (s : State) (ty : Nat) (w : Word) (ex : Nat → Bool) : Bool × Nat :=
  if ofMember s ty w then (decide (hIndex w ≥ typeMax ty), 0x103) else hObj s [ty] w ex

/-- A leg that exists and is not being destroyed. -/
def legLive (s : State) (l : Nat) : Bool :=
  match getLeg s l with
  | some x => !x.destroying
  | none => false

/-- A stream context that the host can name: it exists, and is neither a mirror nor a seat context. -/
def ctxNamed (s : State) (c : Nat) : Bool :=
  match getCtx s c with
  | some x => !x.hidden && (x.kind == 5 || legLive s x.owner)
  | none => false

/-- A conference that the host can name: a shadow has no handle of its own. -/
def confNamed (s : State) (c : Nat) : Bool :=
  match getConf s c with
  | some x => x.shadowOf.isNone
  | none => false

def kindOf (s : State) (c : Nat) : Nat := ((getCtx s c).map (fun x => x.kind)).getD 0
def ownerOf (s : State) (c : Nat) : Nat := ((getCtx s c).map (fun x => x.owner)).getD 0
/-- R504: a command that names a quarantined context completes with 0x401. -/
def quarantined (s : State) (c : Nat) : Bool := ((getCtx s c).map (fun x => x.quarantined)).getD false
def codecOf (s : State) (c : Nat) : Nat := ((getCtx s c).map (fun x => x.codec)).getD 0

/-- The local number of a conference that a handle names, as its home or through its shadow here. -/
def confOf (s : State) (w : Word) : Option Nat :=
  if ofMember s 3 w then (s.media.confs.find? (fun p => p.2.shadowOf == some w)).map (·.1) else some (hIndex w)

/-- No context has this number: what a subscription names once its source is gone (R245). -/
def noCtx : Nat := 8388608

-- ## Conferences (R213, R244)

def execConfCreate (c : Cmd) (s : State) : Out :=
  .next (runRing s 0x200 c fun s =>
    let ev := bitAt c.w1 6
    let q := bits c.w1 5 0
    let n := Tbl.lowestFree s.media.confs
    let x : Conf := { eventsEn := ev, queue := q, slot := c.slot, ring := c.ring, tag := c.tag, span := bitAt c.w2 0 }
    guarded s [(reservedBad c 0 [0x7F, 1], 0x101), (ev && noQueue s c.slot q, 0x112),
        (bitAt c.w2 0 && !(inBramble s), 0x1D0), (decide (s.media.confs.length ≥ 16384), 0x200)]
      (.reply { s with media := { s.media with confs := Tbl.put s.media.confs n x } } 0 (ownHandle s 3 n) 0))

/-- Whether a PRODUCED context or a mix group names a conference. -/
def confUsed (s : State) (n : Nat) : Bool :=
  s.media.streams.any (fun p => p.2.kind == 5 && !p.2.hidden && p.2.owner == n)
    || s.units.mixes.any (fun p => p.2.conf == n)

def execConfDestroy (c : Cmd) (s : State) : Out :=
  .next (runRing s 0x201 c fun s =>
    let n := hIndex c.w1
    guarded s [(reservedBad c 0 [full], 0x101), hObj s [3] c.w1 (confNamed s), (confUsed s n, 0x105),
        (s.media.legs.any (fun p => p.2.conf == n) || ((getConf s n).map (fun x => !x.attached.isEmpty)).getD false, 0x142)]
      (.reply { s with media := { s.media with confs := Tbl.del s.media.confs n } } 0 0 0))

-- ## Creating and destroying contexts

/-- R217: two contexts of one leg conflict: one kind and one SSRC, or an SSRC that is another's RTX SSRC. -/
def ssrcClash (kind ssrc : Nat) (rtx : Option Nat) (y : Stream) : Bool :=
  (y.kind == kind && y.ssrc == ssrc) || (y.rtxEn && y.rtxSsrc == ssrc)
    || (match rtx with
        | some r => y.ssrc == r || (y.rtxEn && y.rtxSsrc == r)
        | none => false)

/-- R217: a context of a leg with this kind, SSRC and RTX SSRC would break the rule; `me` is left out. -/
def flowClash (s : State) (leg kind ssrc : Nat) (rtx : Option Nat) (me : Option Nat) : Bool :=
  (kind == 1 && rtx == some ssrc)
    || s.media.streams.any (fun p => p.2.owner == leg && p.2.kind != 5 && !p.2.hidden && some p.1 != me
        && ssrcClash kind ssrc rtx p.2)

/-- R245: codec codes in use. -/
def codecKnown (c : Nat) : Bool := c ≤ 5 || (8 ≤ c && c ≤ 11)

/-- The context that STREAM_CREATE's words describe. -/
def streamOf (c : Cmd) : Stream :=
  let kind := bits c.w2 47 44
  { kind := kind
    codec := bits c.w2 43 40
    pt := bits c.w2 38 32
    ssrc := bits c.w2 31 0
    sCount := bits c.w3 47 44
    tCount := bits c.w3 43 40
    simIndex := bits c.w3 39 36
    clock := bits c.w3 35 32
    levelId := bits c.w3 31 24
    ddId := bits c.w3 23 16
    jbTarget := bits c.w3 15 0
    meter := if c.w4 = 0 then none else some (hIndex c.w4)
    group := if c.w5 = 0 then none else some (hIndex c.w5)
    reorderMs := bits c.w6 47 40
    nackEn := bitAt c.w6 39
    pliEn := bitAt c.w6 38
    ccfbEn := bitAt c.w6 37
    rtxEn := bitAt c.w7 47
    rtxPt := bits c.w7 38 32
    rtxSsrc := bits c.w7 31 0
    owner := hIndex c.w1 }

/-- R245: the ranges of STREAM_CREATE, and GROUP's agreement with the context. -/
def streamRange (s : State) (x : Stream) : Bool :=
  decide (x.kind < 1) || decide (5 < x.kind) || !(codecKnown x.codec) || decide (3 < x.clock)
    || decide (x.sCount < 1) || decide (3 < x.sCount) || decide (x.tCount < 1) || decide (3 < x.tCount)
    || decide (2 < x.simIndex) || decide (500 < x.jbTarget) || decide (100 < x.reorderMs)
    || ((x.kind == 2 || x.kind == 4) && x.pt != 0)
    || (match x.group with
        | none => x.simIndex != 0
        | some g => x.kind == 5 || x.simIndex == 0 || x.sCount != 1 || kindOf s g != 1 || ownerOf s g != x.owner
            || codecOf s g != x.codec || ((getCtx s g).map (fun y => y.simIndex)).getD 0 != 0
            || ((getCtx s g).map (fun y => y.sCount)).getD 0 != 1)

/-- R214, R215: the limits of a leg. -/
def legFull (s : State) (x : Stream) : Bool :=
  x.kind != 5 && (decide ((s.media.streams.filter (fun p => p.2.owner == x.owner && p.2.kind != 5)).length ≥ 256)
    || (x.kind == 4 && (rtcpCtx s x.owner).isSome))

/-- R214: at the maximum of objects, or without room in the contexts region. -/
def ctxAtMax (s : State) : Bool := decide (s.media.streams.length ≥ 5242880)
def ctxNoRoom (s : State) : Bool := decide (s.media.streams.length ≥ contextCapacity s)

def execStreamCreate (c : Cmd) (s : State) : Out :=
  .next (runRing s 0x210 c fun s =>
    let x := streamOf c
    let owner := if x.kind = 5 then hObj s [3] c.w1 (fun n => (getConf s n).isSome)
      else if 1 ≤ x.kind ∧ x.kind ≤ 4 then hObj s [2] c.w1 (legLive s)
      else hObj s [2, 3] c.w1 (fun n => if hType c.w1 = 3 then (getConf s n).isSome else legLive s n)
    let n := Tbl.lowestFree s.media.streams
    guarded s [
        (reservedBad c 0 [full, mask 47 40 + mask 38 0, full, full, full, mask 47 37, mask 47 47 + mask 38 0], 0x101),
        owner, hCheck0 s [4] c.w4, if c.w5 = 0 then (false, 0) else hObj s [1] c.w5 (ctxNamed s),
        (streamRange s x, 0x108),
        (x.kind != 5 && flowClash s x.owner x.kind x.ssrc (if x.rtxEn then some x.rtxSsrc else none) none, 0x140),
        (legFull s x || ctxAtMax s, 0x200), (ctxNoRoom s, 0x201)]
      (.reply (setCtx s n x) 0 (ownHandle s 1 n) 0))

/-- R245: STREAM_MODIFY by selector. -/
def streamChange (sel : Nat) (w : Word) (x : Stream) : Stream :=
  match sel with
  | 0 => { x with meter := if w = 0 then none else some (hIndex w) }
  | 1 => { x with reorderMs := bits w 47 40, nackEn := bitAt w 39, pliEn := bitAt w 38, ccfbEn := bitAt w 37 }
  | 2 => { x with levelId := bits w 31 24, ddId := bits w 23 16 }
  | _ => { x with rtxEn := bitAt w 47, rtxPt := bits w 38 32, rtxSsrc := bits w 31 0 }

/-- Operand bits of w2 by selector. -/
def modifyMask (sel : Nat) : Nat := [full, mask 47 37, mask 31 16, mask 47 47 + mask 38 0].getD sel 0

/-- Flags [27:24] of a command: the selector of a MODIFY. -/
def cmdSel (c : Cmd) : Nat := bits c.flags 3 0

def execStreamModify (c : Cmd) (s : State) : Out :=
  .next (runRing s 0x211 c fun s =>
    let sel := cmdSel c
    let n := hIndex c.w1
    let x := (getCtx s n).getD { kind := 0 }
    guarded s [(decide (3 < sel), 0x108), (reservedBad c 0xF [full, modifyMask sel], 0x101),
        hObj s [1] c.w1 (ctxNamed s), if sel = 0 then hCheck0 s [4] c.w2 else (false, 0),
        (sel == 1 && decide (bits c.w2 47 40 > 100), 0x108),
        (sel == 3 && x.kind != 5 && flowClash s x.owner x.kind x.ssrc
          (if bitAt c.w2 47 then some (bits c.w2 31 0) else none) (some n), 0x140), (quarantined s n, 0x401)]
      (.reply (updCtx s n (streamChange sel c.w2)) 0 0 0))

/-- R245, R362: whether something reads or writes a context: a group's other members, a decode context, a canvas, a mix
group with its bindings, or the channel whose OUTPUT it is. -/
def ctxRead (s : State) (c : Nat) : Bool :=
  s.media.streams.any (fun p => p.2.group == some c)
    || s.units.decs.any (fun p => p.2.source == c)
    || s.units.canvases.any (fun p => p.2.layers.any (fun l => l.source == ownHandle s 1 c))
    || s.units.encs.any (fun p => p.2.output == c)
    || s.units.mixes.any (fun p => p.2.formats.any (fun f => f.shared == c))
    || s.units.bindings.any (fun p => p.2.inbound == some c || p.2.outbound == some c)
    || s.units.pendingBindings.any (fun p => (match p.2.1 with
        | some b => b.inbound == some c || b.outbound == some c
        | none => false))

/-- R245: every subscription that names a context as its source becomes paused. -/
def pauseReaders (s : State) (c : Nat) : State :=
  (s.media.streams.filter (fun p => (p.2.sub.map (fun b => b.source)) == some c)).foldl (fun s p =>
    updSub (dropPrefetch s p.1) p.1 (fun b => { b with source := noCtx, cur := none, switch := none })) s

/-- R478: readers of a source: subscriptions and decode contexts. -/
def hasReader (s : State) (src : Nat) : Bool :=
  s.media.streams.any (fun p => (p.2.sub.map (fun b => b.source)) == some src)
    || s.units.decs.any (fun p => p.2.source == src)

/-- R478: a mirror without readers is released, and its source's member is told. -/
def releaseMirror (s : State) (src : Nat) : State :=
  match (getCtx s src).bind (fun x => x.mirrorOf) with
  | none => s
  | some h =>
    if hasReader s src then s
    else
      let s1 := if inRoster s (hMember h) then (peerSend s (hMember h) 0xA82 0 h 0xFF 0 none).1 else s
      { s1 with media := { s1.media with streams := Tbl.del s1.media.streams src } }

/-- R236: remove the subscription of an outbound context, with its prefetch. -/
def unsubscribe (s : State) (o : Nat) : State :=
  match subOf s o with
  | none => s
  | some b => releaseMirror (updCtx (dropPrefetch s o) o (fun x => { x with sub := none })) b.source

/-- Destroy a context with its keys and its subscription. -/
def dropCtx (s : State) (c : Nat) : State :=
  match getCtx s c with
  | none => s
  | some x =>
    let s1 := pauseReaders (unsubscribe s c) c
    retireRecs { s1 with media := { s1.media with streams := Tbl.del s1.media.streams c } } (keysOf x)

/-- Choose layers again for every leg (R233). -/
def chooseAll (s : State) : State := s.media.legs.foldl (fun s p => chooseLayers s p.1) s

def execStreamDestroy (c : Cmd) (s : State) : Out :=
  .next (runRing s 0x212 c fun s =>
    let n := hIndex c.w1
    guarded s [(reservedBad c 0 [full], 0x101), hObj s [1] c.w1 (ctxNamed s), (ctxRead s n, 0x105)]
      (.reply (chooseAll (dropCtx s n)) 0 0 0))

-- ## Queries (R248)

/-- LEG_LAYERS' code of a point. -/
def pointCode (p : Option Point) : Nat :=
  match p with
  | some q => q.1 * 16 + q.2
  | none => 0xFF

/-- R248: word 3. -/
def queryWord3 (x : Stream) : Nat :=
  if x.kind = 3 then
    match x.sub with
    | some b => pointCode b.cur
    | none => 0x100
  else 0

/-- R248: whether a counter applies to a kind of context. -/
def counterApplies (kind sel : Nat) : Bool :=
  let inb := kind == 1 || kind == 2
  if sel ≤ 2 || sel == 8 || sel == 9 || sel == 0xB then true
  else if (3 ≤ sel && sel ≤ 7) || (0x10 ≤ sel && sel ≤ 0x12) then inb
  else if sel == 0xF then kind == 3 || kind == 4
  else kind == 3

def execStreamQuery (c : Cmd) (s : State) : Out :=
  .next (runRing s 0x213 c fun s =>
    let sel := bits c.w2 7 0
    let n := hIndex c.w1
    let clear := bitAt c.w2 8
    guarded s [(reservedBad c 0 [full, 0x1FF], 0x101),
        hObj s [1, 2] c.w1 (fun n => if hType c.w1 = 1 then ctxNamed s n else legLive s n),
        (!(sel ≤ 0x12 || (0x20 ≤ sel && sel ≤ 0x23)), 0x108), (hType c.w1 == 1 && quarantined s n, 0x401)]
      (if hType c.w1 = 1 then
        let x := (getCtx s n).getD { kind := 0 }
        let v := if sel ≤ 0x12 && counterApplies x.kind sel then Tbl.count x.counters sel else 0
        .reply (if clear then updCtx s n (fun y => { y with counters := Tbl.del y.counters sel }) else s) 0
          (word v) (word (queryWord3 x))
      else
        let l := (getLeg s n).getD { conf := 0 }
        let v := if sel = 0x23 then (l.est / 1000).floor.toNat else if sel ≥ 0x20 then Tbl.count l.counters sel else 0
        .reply (if clear then updLeg s n (fun y => { y with counters := Tbl.del y.counters sel }) else s) 0 (word v) 0))

-- ## Legs (R246, R247)

/-- R217: the flow key of another leg equals that of `l`. A leg whose LEG_DESTROY has taken effect and still waits to complete
keeps its flow from no other. DESIGN CHOICE (assumption 101). -/
def legClash (s : State) (l : Leg) (me : Option Nat) : Bool :=
  s.media.legs.any (fun p => some p.1 != me && !p.2.destroying && p.2.port == l.port && p.2.localPort == l.localPort
    && p.2.v6 == l.v6 && decide (p.2.addr = l.addr) && p.2.remotePort == l.remotePort)

/-- The leg that words 2 to 6 describe, over the rest of another. -/
def legWith (l : Leg) (w2 w3 w4 w5 w6 : Word) : Leg :=
  { l with
    nextHop := w2
    localPort := bits w3 47 32
    remotePort := bits w3 31 16
    dscp := bits w3 15 10
    cls := bits w3 9 7
    v6 := bitAt w3 6
    ccfb := bitAt w3 5
    port := bits w3 3 0
    addr := BitVec.ofNat 128 (bits w6 31 0 * 2 ^ 96 + w5.toNat * 2 ^ 48 + w4.toNat)
    startRate := bits w6 47 32 }

/-- R246: ranges of words 3 to 6. -/
def legRange (l : Leg) (w4 w5 w6 : Word) : Bool :=
  l.localPort == 0 || l.remotePort == 0 || decide (l.startRate < l.minRate) || l.startRate == 0
    || (!l.v6 && (w5 != 0 || bits w4 47 32 != 0 || bits w6 31 0 != 0))

/-- The legs that name a shaper. -/
def legsOfShaper (s : State) (k : Nat) : List Nat := (s.media.legs.filter (fun p => p.2.shaper == some k)).map (·.1)
def getShaper (s : State) (k : Nat) : Shaper := (Tbl.get? s.media.shapers k).getD {}

/-- R240: a FOLLOW shaper under a second leg. -/
def shaperTaken (s : State) (w : Word) (me : Option Nat) : Bool :=
  w != 0 && (getShaper s (hIndex w)).follow && (legsOfShaper s (hIndex w)).any (fun l => some l != me)

/-- The leg's shaper, when it is enabled. -/
def legShaper (s : State) (l : Leg) : Option Shaper :=
  match l.shaper with
  | none => none
  | some k => if (getShaper s k).en then some (getShaper s k) else none

/-- "The line estimate": the bounds of a leg's estimate in bit/s. -/
def clampEst (s : State) (l : Leg) (e : Rat) : Rat :=
  let hi : Nat := match legShaper s l with
    | some sh => sh.rate
    | none => 4194240000
  min (max e (l.minRate * 64000 : Nat)) (hi : Rat)

/-- Bound a leg's estimate anew, and follow a change (R95, R233). -/
def reclamp (s : State) (leg : Nat) : State :=
  match getLeg s leg with
  | none => s
  | some _ => estimateChanged (updLeg s leg (fun l => { l with est := clampEst s l l.est })) leg

/-- R227: the next report of a leg: 0.5 to 1.5 intervals from now, drawn from a free value. -/
def nextReportAt (s : State) : Nat :=
  let ms := getF s oStrRtcp 15 0
  now s + durMs ms / 2 + durMs ms * (freeVal s 16).toNat / 65536

/-- Create a leg in a conference. -/
def addLeg (s : State) (conf : Nat) (d : Desc) : State × Nat :=
  let n := Tbl.lowestFree s.media.legs
  let l0 := legWith { conf := conf } d.w2 d.w3 d.w4 d.w5 d.w6
  let l1 := { l0 with
    shaper := if d.w7 = 0 then none else some (hIndex d.w7)
    createdAt := now s
    staleFrom := now s
    lastCcfb := now s
    nextReport := nextReportAt s }
  let l2 := { l1 with est := clampEst s l1 (l1.startRate * 64000 : Nat), estBefore := (l1.startRate * 64000 : Nat) }
  (nextFree { s with media := { s.media with legs := Tbl.put s.media.legs n l2 } }, n)

/-- R217, R240, R35: what may stop LEG_CREATE when the leg is made. -/
def legCreateLate (s : State) (d : Desc) : Option Nat :=
  firstFail [(shaperTaken s d.w7 none, 0x105), (legClash s (legWith { conf := 0 } d.w2 d.w3 d.w4 d.w5 d.w6) none, 0x140),
    (decide (s.media.legs.length ≥ 131072), 0x200),
    ((confOf s d.w1).isNone && decide (s.media.confs.length ≥ 16384), 0x200)]

/-- R476, R477: the conference of a new leg: local, shadowed already, or a new shadow of a spanning one. -/
def shadowFor (s : State) (w : Word) : State × Nat :=
  match confOf s w with
  | some n => (s, n)
  | none =>
    let n := Tbl.lowestFree s.media.confs
    ({ s with media := { s.media with confs := Tbl.put s.media.confs n { span := true, shadowOf := some w } } }, n)

/-- LEG_CREATE once its conference is known to be there: at once, or when CONF_ATTACH has been acknowledged. -/
def legCreateFinish (s : State) (d : Desc) : Body :=
  match legCreateLate s d with
  | some st => .fail s st
  | none =>
    let a := shadowFor s d.w1
    let b := addLeg a.1 a.2 d
    .reply b.1 0 (ownHandle b.1 2 b.2) 0

/-- R476, R477: the conference of a new leg. One whose home member has left the roster takes no further attach. -/
def confToAttach (s : State) (w : Word) : Bool × Nat :=
  if !(ofMember s 3 w) && hMember w != ownMember s && s.media.confs.any (fun p => p.2.shadowOf == some w) then (true, 0x403)
  else hMay s 3 w (confNamed s)

def execLegCreate (c : Cmd) (s : State) : Out :=
  .next (runRing s 0x220 c fun s =>
    let d := cmdDesc 0x220 c
    let l := legWith { conf := 0 } c.w2 c.w3 c.w4 c.w5 c.w6
    guarded s [(reservedBad c 0 [full, full, mask 47 5 + mask 3 0, full, full, full, full], 0x101),
        confToAttach s c.w1, hCheck0 s [5] c.w7,
        (legRange l c.w4 c.w5 c.w6, 0x108), (decide (l.port > 1), 0x141)]
      (if (legCreateLate s d).isNone && (confOf s c.w1).isNone then
        let r := peerSend s (hMember c.w1) 0xA80 0 c.w1 0 0 none
        .waits r.1 (.peer r.2 d)
      else legCreateFinish s d))

/-- Operand bits of w2 to w6 of LEG_MODIFY by selector. -/
def legMasks (sel : Nat) : List Nat :=
  [[full, full, mask 47 5 + mask 3 0, full, full, full], [full, full, full], [full, full], [full, 0xFFFF]].getD sel []

/-- R247: the line parameters out of range. -/
def lineRange (l : Leg) (w2 w3 : Word) : Bool :=
  decide (bits w2 47 32 < 50) || decide (10000 < bits w2 47 32) || decide (bits w2 31 16 < 1)
    || decide (1000 < bits w2 31 16) || decide (2000 < bits w2 15 0) || decide (bits w3 47 32 < 1)
    || decide (l.startRate < bits w3 47 32) || decide (500 < bits w3 31 16) || decide (100 < bits w3 15 8)
    || decide (100 < bits w3 7 0)

/-- LEG_MODIFY's effect by selector. A leg with CCFB clear keeps START_RATE as its estimate and is never stale (R231);
STALE_MS counts from the change that sets CCFB. -/
def legChange (s : State) (sel : Nat) (c : Cmd) (l : Leg) : Leg :=
  match sel with
  | 0 =>
    let x := legWith l c.w2 c.w3 c.w4 c.w5 c.w6
    if x.ccfb then { x with staleFrom := if l.ccfb then l.staleFrom else now s }
    else { x with est := (x.startRate * 64000 : Nat), stale := false }
  | 1 => { l with
      staleMs := bits c.w2 47 32
      delayThreshMs := bits c.w2 31 16
      catchupMs := bits c.w2 15 0
      minRate := bits c.w3 47 32
      prefetchLeadMs := bits c.w3 31 16
      rtxPct := bits c.w3 15 8
      upMarginPct := bits c.w3 7 0 }
  | 2 => { l with shaper := if c.w2 = 0 then none else some (hIndex c.w2) }
  | _ => { l with est := clampEst s l (bits c.w2 15 0 * 64000 : Nat) }

def execLegModify (c : Cmd) (s : State) : Out :=
  .next (runRing s 0x221 c fun s =>
    let sel := cmdSel c
    let n := hIndex c.w1
    let l := (getLeg s n).getD { conf := 0 }
    let x := legWith l c.w2 c.w3 c.w4 c.w5 c.w6
    guarded s [(decide (3 < sel), 0x108), (reservedBad c 0xF (legMasks sel), 0x101), hObj s [2] c.w1 (legLive s),
        if sel = 2 then hCheck0 s [5] c.w2 else (false, 0),
        (sel == 0 && legRange x c.w4 c.w5 c.w6, 0x108), (sel == 1 && lineRange l c.w2 c.w3, 0x108),
        (sel == 3 && bits c.w2 15 0 == 0, 0x108), (sel == 0 && x.port != l.port, 0x141),
        (sel == 2 && shaperTaken s c.w2 (some n), 0x105), (sel == 0 && legClash s x (some n), 0x140)]
      (.reply (reclamp (updLeg s n (legChange s sel c)) n) 0 0 0))

/-- R477: the last leg of a shadow conference is gone: CONF_DETACH, and the shadow is freed. -/
def detachShadow (s : State) (conf : Nat) : State :=
  match (getConf s conf).bind (fun x => x.shadowOf) with
  | none => s
  | some w =>
    if s.media.legs.any (fun p => p.2.conf == conf && !p.2.destroying) then s
    else
      let s1 := { s with media := { s.media with confs := Tbl.del s.media.confs conf } }
      if inRoster s (hMember w) then (peerSend s1 (hMember w) 0xA81 0 w 0 0 none).1 else s1

/-- R246: a leg that is being destroyed: its inbound contexts, keys, subscriptions and prefetch are gone at once; its
outbound contexts stay until the packets queued for it are gone. -/
def retireLeg (s : State) (leg : Nat) : State :=
  let s1 := (legCtxs s leg 3).foldl unsubscribe s
  let s2 := (legCtxs s leg 1 ++ legCtxs s leg 2).foldl dropCtx s1
  updLeg s2 leg (fun l => { l with destroying := true })

def execLegDestroy (c : Cmd) (s : State) : Out :=
  .next (runRing s 0x222 c fun s =>
    let n := hIndex c.w1
    guarded s [(reservedBad c 0 [full], 0x101), hObj s [2] c.w1 (legLive s),
        (s.media.streams.any (fun p => p.2.owner == n && p.2.kind != 5 && ctxRead s p.1), 0x105)]
      (.waits (chooseAll (detachShadow (retireLeg s n) (((getLeg s n).map (fun l => l.conf)).getD 0))) (.legDestroy n)))

-- ## Subscriptions (R232 to R236, R478)

/-- R236: set a subscription and choose layers for the leg. A slot that keeps its source keeps its point. -/
def subscribe (s : State) (leg o src maxS maxT prio : Nat) : State :=
  match subOf s o with
  | none => chooseLayers (updCtx s o (fun x => { x with
      sub := some { source := src, maxS := maxS, maxT := maxT, priority := prio } })) leg
  | some b =>
    if b.source = src then
      let low := match b.prefetch with
        | some p => decide (p.target.1 > maxS) || decide (p.target.2 > maxT)
        | none => false
      let s1 := if low then dropPrefetch s o else s
      chooseLayers (updSub s1 o (fun b => { b with
        maxS := maxS, maxT := maxT, priority := prio
        switch := b.switch.filter (fun w => decide (w.target.1 ≤ maxS) && decide (w.target.2 ≤ maxT)) })) leg
    else
      let s1 := updCtx (unsubscribe s o) o (fun x => { x with
        sub := some { source := src, maxS := maxS, maxT := maxT, priority := prio } })
      chooseLayers s1 leg

/-- R478: the mirror of a remote source here, by the source's handle. -/
def mirrorFor (s : State) (w : Word) : Option Nat :=
  (s.media.streams.find? (fun p => p.2.mirrorOf == some w)).map (·.1)

/-- R476: a conference here that spans: the video sources of its members are readable. -/
def spanAttached (s : State) (m : Nat) : Option Nat :=
  (s.media.confs.find? (fun p => match p.2.shadowOf with
    | some w => hMember w == m
    | none => p.2.span && p.2.attached.contains m)).map (·.1)

/-- R478: the highest operating point among the readers of a mirror and a new one; a decode context counts as the top. -/
def topPoint (s : State) (src maxS maxT : Nat) : Nat :=
  if s.units.decs.any (fun p => p.2.source == src) then
    (((getCtx s src).map (fun x => (x.sCount - 1) * 16 + (x.tCount - 1))).getD 0x22)
  else
    let subs := (s.media.streams.filterMap (fun p => p.2.sub)).filter (fun b => b.source == src)
    let top := subs.foldl (fun (a : Nat × Nat) b => if pointLe a (b.maxS, b.maxT) then (b.maxS, b.maxT) else a) (maxS, maxT)
    top.1 * 16 + top.2

/-- R478: make the mirror of a remote source. Its codec and layer counts are the source's, which no message carries:
they are free values (a video codec of R245, 1 to 3 layers). -/
def makeMirror (s : State) (w : Word) : State × Nat :=
  let n := Tbl.lowestFree s.media.streams
  let x : Stream := {
    kind := 5
    hidden := true
    mirrorOf := some w
    owner := (spanAttached s (hMember w)).getD 0
    codec := (freeVal s 8).toNat % 6
    sCount := (freeVal (nextFree s) 8).toNat % 3 + 1
    tCount := (freeVal (nextFree (nextFree s)) 8).toNat % 3 + 1 }
  (nextFree (nextFree (nextFree (setCtx s n x))), n)

/-- R244: the result of LEG_LAYERS. -/
def layersReply (s : State) (o : Nat) : Body := .reply s 0 (word (pointCode ((subOf s o).bind (fun b => b.cur)))) 0

/-- LEG_LAYERS on a mirror, when its source has acknowledged: the checks of R247 and the subscription. -/
def layersFinish (s : State) (d : Desc) : Body :=
  let leg := hIndex d.w1
  let o := hIndex d.w2
  match mirrorFor s d.w3 with
  | none => .fail s 0x104
  | some src =>
    match firstFail [(!(legLive s leg) || !(ctxNamed s o), 0x104), (codecOf s src != codecOf s o, 0x108),
        (decide (bits d.w4 47 44 ≥ spatialCount s src) || decide (bits d.w4 43 40 ≥ temporalCount s src), 0x143)] with
    | some st => .fail (releaseMirror s src) st
    | none => layersReply (subscribe s leg o src (bits d.w4 47 44) (bits d.w4 43 40) (bits d.w4 39 32)) o

/-- R392: an outbound context that a leg is bound by, or is about to be. -/
def boundOut (s : State) (o : Nat) : Bool :=
  s.units.bindings.any (fun b => b.2.outbound == some o)
    || s.units.pendingBindings.any (fun b => (b.2.1.bind (fun x => x.outbound)) == some o)

def execLegLayers (c : Cmd) (s : State) : Out :=
  .next (runRing s 0x223 c fun s =>
    let leg := hIndex c.w1
    let o := hIndex c.w2
    let src := hIndex c.w3
    let maxS := bits c.w4 47 44
    let maxT := bits c.w4 43 40
    let remote := ofMember s 1 c.w3
    let local_ := c.w3 != 0 && !remote
    guarded s [(reservedBad c 0 [full, full, full, mask 47 32], 0x101), hObj s [2] c.w1 (legLive s),
        hObj s [1] c.w2 (ctxNamed s), (kindOf s o != 3 || ownerOf s o != leg || boundOut s o, 0x108),
        if c.w3 = 0 then (false, 0) else hMay s 1 c.w3 (ctxNamed s),
        (local_ && kindOf s src != 1 && kindOf s src != 5, 0x108),
        (remote && (spanAttached s (hMember c.w3)).isNone, 0x108),
        (local_ && codecOf s src != codecOf s o, 0x108),
        (local_ && (decide (maxS ≥ spatialCount s src) || decide (maxT ≥ temporalCount s src)), 0x143),
        (remote && (mirrorFor s c.w3).isNone && ctxAtMax s, 0x200),
        (remote && (mirrorFor s c.w3).isNone && ctxNoRoom s, 0x201),
        (quarantined s o || (local_ && quarantined s src), 0x401)]
      (if c.w3 = 0 then layersReply (chooseLayers (unsubscribe s o) leg) o
      else if remote then
        let s1 := if (mirrorFor s c.w3).isSome then s else (makeMirror s c.w3).1
        let r := peerSend s1 (hMember c.w3) 0xA82 0 c.w3 (word (topPoint s1 ((mirrorFor s1 c.w3).getD noCtx) maxS maxT)) 0 none
        .waits r.1 (.peer r.2 (cmdDesc 0x223 c))
      else layersReply (subscribe s leg o src maxS maxT (bits c.w4 39 32)) o))

-- ## Meters and shapers (R219, R220, R240, R242, R244)

def execMeterSet (c : Cmd) (s : State) : Out :=
  .next (runRing s 0x230 c fun s =>
    let cir := bits c.w2 47 24
    let pir := bits c.w2 23 0
    let cbs := bits c.w3 47 24
    let pbs := bits c.w3 23 0
    let m : Meter := {
      en := bitAt c.w4 2, cir := cir * 1000, pir := pir * 1000, cbs := cbs, pbs := pbs, yellowDrop := bitAt c.w4 1
      redPass := bitAt c.w4 0, tc := cbs, tp := pbs, last := now s }
    guarded s [(reservedBad c 0 [full, full, full, 7], 0x101), hCheck s [4] c.w1,
        (decide (pir < cir) || decide (pir < 1) || decide (cbs < 9216) || decide (pbs < 9216), 0x108)]
      (.reply { s with media := { s.media with meters := Tbl.put s.media.meters (hIndex c.w1) m } } 0 0 0))

def execShaperSet (c : Cmd) (s : State) : Out :=
  .next (runRing s 0x231 c fun s =>
    let n := hIndex c.w1
    let old := getShaper s n
    let en := bitAt c.w3 32
    let burst := bits c.w2 23 0
    let sh : Shaper := {
      en := en, follow := bitAt c.w3 33, rate := bits c.w2 47 24 * 1000, burst := burst, pacePct := bits c.w3 47 40
      qlimit := bits c.w3 23 0, credit := if old.en then 0 else burst, last := now s, queue := old.queue }
    let legs := legsOfShaper s n
    guarded s [(reservedBad c 0 [full, full, mask 47 40 + mask 33 32 + mask 23 0], 0x101), hCheck s [5] c.w1,
        (decide (bits c.w2 47 24 < 64) || decide (sh.pacePct < 100) || decide (200 < sh.pacePct)
          || decide (sh.qlimit < 9216), 0x108),
        ((sh.follow && decide (legs.length > 1)) || (!en && !legs.isEmpty), 0x105)]
      (.reply (legs.foldl reclamp { s with media := { s.media with shapers := Tbl.put s.media.shapers n sh } }) 0 0 0))

end Sys2Proof.Machine
end

