-- ==== Sys2Proof/Machine/Packets.lean ====
section
/-! DEFINITION. The packet engines (R24 to R28, R34, R96 to R98, R216, R558), the meter bank (R219 to R222), the leg
shapers (R240 to R243), and RTCP (R226 to R231). -/

namespace Sys2Proof.Machine

-- ## Engines

def getEngine (s : State) (e : Nat) : Engine := if e = 0 then s.media.engine0 else s.media.engine1
def setEngine (s : State) (e : Nat) (x : Engine) : State :=
  if e = 0 then { s with media := { s.media with engine0 := x } } else { s with media := { s.media with engine1 := x } }

/-- R34: the engine that serves a port. -/
def servingEngine (s : State) (port : Nat) : Nat := if (getEngine s port).out then 1 - port else port

/-- R518: the packet engines take media frames in Active; they stop on entry to another state. -/
def mediaOn (s : State) : Bool := s.power.st = .active && s.power.target.isNone

/-- Count a frame of a port as unclassified (R25, R216). -/
def unclassified (s : State) (port : Nat) : State := bumpC s (oStrCounter port) 1

/-- R216: the leg that a UDP datagram of a port names. -/
def legFor (s : State) (port : Nat) (src : Addr) (sport dport : BitVec 16) : Option Nat :=
  (s.media.legs.find? (fun p => !p.2.destroying && p.2.port == port && p.2.localPort == dport.toNat
    && p.2.remotePort == sport.toNat && p.2.v6 == src.v6 && decide (p.2.addr = src.bits))).map (·.1)

/-- R216: whether the second payload byte marks RTCP. -/
def isRtcp (b1 : Byte) : Bool := decide (192 ≤ b1.toNat) && decide (b1.toNat ≤ 223)

/-- The SSRC that classification reads: of an SRTCP packet, or of an RTP packet. -/
def mediaSsrc (m : Media) : Nat :=
  match m with
  | .rtp h => h.ssrc
  | .rtcp h => h.ssrc

/-- R216: the context of a leg for an SSRC. -/
def ctxFor (s : State) (leg : Nat) (rtcp : Bool) (ssrc : Nat) : Option Nat :=
  (s.media.streams.find? (fun p => p.2.owner == leg && !p.2.hidden && p.2.kind == (if rtcp then 2 else 1)
    && (p.2.ssrc == ssrc || (!rtcp && p.2.rtxEn && p.2.rtxSsrc == ssrc)))).map (·.1)

/-- R216: the media packet that a frame is, when it classifies. -/
def classify (s : State) (port : Nat) (i : RxItem) : Option Pkt :=
  match i.frame.body with
  | .udp src sport dport fragment b0 b1 m =>
    if fragment || !(mediaOn s) || decide (b0.toNat < 128) || decide (191 < b0.toNat) then none
    else
      match legFor s port src sport dport with
      | none => none
      | some leg =>
        match ctxFor s leg (isRtcp b1) (mediaSsrc m) with
        | none => none
        | some c =>
          let rtx := !(isRtcp b1) && ((getCtx s c).map (fun x => x.ssrc != mediaSsrc m)).getD false
          some { port := port, time := i.time, len := i.frame.len, leg := leg, ctx := c, media := m, rtx := rtx }
  | _ => none

/-- R216, R218: the leg whose flow a frame matches with an unknown SSRC, as the lookup of its classification finds it. -/
def unknownLeg (s : State) (port : Nat) (i : RxItem) : Option Nat :=
  match i.frame.body with
  | .udp src sport dport fragment b0 b1 m =>
    if fragment || !(mediaOn s) || decide (b0.toNat < 128) || decide (191 < b0.toNat) then none
    else (legFor s port src sport dport).filter (fun leg => (ctxFor s leg (isRtcp b1) (mediaSsrc m)).isNone)
  | _ => none

/-- R27, R503: the other engine still has packets of a port in its pipeline or at the gate. -/
def portElsewhere (s : State) (engine port : Nat) : Bool :=
  let o := getEngine s (1 - engine)
  o.fifo.any (fun i => i.port == port) || o.passed.any (fun p => p.port == port)

/-- R24 to R27, R34: an engine takes the next frame of a port it serves: a control frame if one waits, else a media
frame unless an earlier one is still at the gate (R558). In degraded mode it takes the ports in turn. A port that changes its
engine waits until the other one has completed its packets (R503). -/
def execPacketClassify (engine : Fin 2) (s : State) : Out :=
  .next (
    let e := getEngine s engine
    let ready := fun (p : Nat) => let m := getMac s p
      servingEngine s p == engine.val && !(portElsewhere s engine p) && (!m.ctrlQ.isEmpty || (!m.mediaQ.isEmpty && e.passed.isEmpty))
    let port := if ready e.turn then some e.turn else if ready (1 - e.turn) then some (1 - e.turn) else none
    if e.out || !(running s) then s
    else
      match port with
      | none => s
      | some p =>
        let m := getMac s p
        match (if m.ctrlQ.isEmpty then m.mediaQ else m.ctrlQ) with
        | [] => s
        | i :: rest =>
          let s1 := setMac s p (if m.ctrlQ.isEmpty then { m with mediaQ := rest } else { m with ctrlQ := rest })
          let item : EngItem := { port := p, item := i, pkt := classify s p i, unknown := unknownLeg s p i }
          flowCheck (setEngine s1 engine { e with fifo := e.fifo ++ [item], turn := 1 - p }) p)

/-- R25, R117, R189: what the host control interface does with a RoCEv2 packet by itself; the accesses and messages it carries
come as their own rows. -/
def takeRoce (s : State) (port : Nat) (sa : Word) (f : RoceFacts) : State :=
  let dropped := bumpF s oHciCount 23 12 1
  if !(ownsAddr s port f.dip) then unclassified s port
  else if !f.icrcOk || !f.pkeyOk then dropped
  else if f.cm then s
  else if !f.rc then dropped
  else
    match f.qp with
    | none => dropped
    | some n =>
      if !(getSlot s n).connected || (getSlot s n).port != port then dropped
      else
        let s1 := takeAck (setSlot s n { getSlot s n with peerMac := sa }) n f.ack
        if f.refusedOp then sendRoce s1 n .nakInvalidRequest else s1

/-- R216, R249: a datagram of a known leg with an unknown SSRC: counted, and posted at most once a second. -/
def unknownSsrc (s : State) (leg ssrc : Nat) : State :=
  let s1 := legCount s leg 0x20 1
  match getLeg s leg with
  | none => s1
  | some l =>
    let quiet := match l.lastUnknown with
      | some t => decide (now s < t + second)
      | none => false
    if quiet then s1 else confEvent (updLeg s1 leg (fun l => { l with lastUnknown := some (now s) })) leg 0 (word ssrc)

/-- R25: a compared frame that is no media packet reaches the one destination of its kind. PTP messages come as their
own rows, but for management messages, which are dropped and counted (R65). -/
def takeFrame (s : State) (port : Nat) (i : RxItem) (unknown : Option Nat) : State :=
  match i.frame.body with
  | .roce f => takeRoce s port i.frame.sa f
  | .ptp _ management =>
    if management && getB s (oTbPtpPort port) 0 then
      setPtp s port { getPtp s port with dropped := (getPtp s port).dropped + 1 }
    else s
  | .macControl _ _ _ => s
  | .arp target => if ownsAddr s port target then answerArp s port target i.frame.sa else unclassified s port
  | .udp _ _ _ _ _ _ m =>
    (match unknown with
     | none => unclassified s port
     | some leg => unknownSsrc (unclassified s port) leg (mediaSsrc m))
  | .other => unclassified s port

/-- R500: the first packet of a handed-over port has compared equal on the other engine, and passed on. -/
def handoverDone (s : State) (e port : Nat) : State :=
  if (getEngine s e).handover = some port then
    let s1 := setEngine s e { getEngine s e with handover := none }
    endHandling (endHandling s1 0x0701 (1 - e)) 0x0702 (1 - e)
  else s

/-- R34, R98: hand an engine's port to the other engine, starting at the packet that last mismatched. An earlier packet
that waits at the gate goes first (R27). -/
def handOver (s : State) (e port : Nat) : State :=
  let a := getEngine s e
  let b := getEngine s (1 - e)
  let s1 := setEngine s e { a with out := true, fifo := [], replay := false }
  let s2 := setEngine s1 (1 - e) { b with fifo := b.fifo ++ a.fifo, handover := some port }
  if a.passed.isEmpty then s2 else { s2 with media := { s2.media with gateTurn := e } }

/-- R97, R98, R493, R501: a mismatch. A replay that mismatches again is raised as a UNIT error, and 64 mismatches within
1 s as DEGRADED_RATE; either hands the port over, or is the last engine's. -/
def mismatch (s : State) (e port : Nat) : State :=
  let x := getEngine s e
  let ms := x.mismatches.filter (fun t => decide (t + second > now s)) ++ [now s]
  let s1 := specCount (setEngine s e { x with mismatches := ms, replay := true }) e 3 1
  let last := (getEngine s (1 - e)).out
  let again := x.replay
  if again then
    let s2 := raiseUnit s1 { code := 0x0701, cls := 3, inst := e, a := word port, lasts := true, last := last }
    if last then s2 else handOver s2 e port
  else
    let s2 := raiseErr s1 { code := 0x0701, cls := 2, inst := e, a := word port, lasts := true }
    if ms.length ≥ 64 then
      let s3 := raiseUnit s2 { code := 0x0702, cls := 3, inst := e, a := word ms.length, lasts := true, last := last }
      if last then s3 else handOver s3 e port
    else s2

/-- R96, R97, R502: the outputs for the packet at the head of an engine's input FIFO are compared. -/
def execLockstepCompare (engine : Fin 2) (equal : Bool) (s : State) : Out :=
  .next (
    let e := getEngine s engine
    match e.fifo with
    | [] => s
    | i :: rest =>
      let s1 := specCount s engine 0 1
      if e.out then s
      else if !equal then mismatch s1 engine i.port
      else
        let s2 := specCount s1 engine 1 1
        let s3 := if e.replay then endHandling s2 0x0701 engine else s2
        let s4 := if i.port != engine.val then bumpC s3 (oErrDeg i.port) 1 else s3
        let s5 := setEngine s4 engine { e with
          fifo := rest
          replay := false
          passed := e.passed ++ i.pkt.toList }
        match i.pkt with
        | some _ => s5
        | none => handoverDone (takeFrame s5 i.port i.item i.unknown) engine i.port)

-- ## Meters (R219 to R222)

/-- R219: a bucket filled at `rate` bit/s for `dt`. -/
def refill (tokens : Rat) (depth rate dt : Nat) : Rat := min (depth : Rat) (tokens + (rate * dt : Nat) / (8 * second : Nat))

/-- R219: colour a packet of `n` bytes received at `t`. -/
def meterColour (m : Meter) (n t : Nat) : Meter × Colour :=
  let dt := t - m.last
  let tc := refill m.tc m.cbs m.cir dt
  let tp := refill m.tp m.pbs m.pir dt
  let m1 := { m with last := max m.last t, tc := tc, tp := tp }
  if tp < (n : Rat) then (m1, .red)
  else if tc < (n : Rat) then ({ m1 with tp := tp - n }, .yellow)
  else ({ m1 with tp := tp - n, tc := tc - n }, .green)

/-- R248: the counters of a colour: packets coloured, and packets dropped under R221. -/
def colouredSel (c : Colour) : Nat :=
  match c with
  | .green => 0x04
  | .yellow => 0x05
  | .red => 0x06
  | .uncoloured => 0x04
def droppedSel (c : Colour) : Nat :=
  match c with
  | .green => 0x10
  | .yellow => 0x11
  | .red => 0x12
  | .uncoloured => 0x10

/-- The fall-back policer of a port, and its rate in bit/s (R222). -/
def getFallback (s : State) (port : Nat) : Fallback := if port = 0 then s.media.fb0 else s.media.fb1
def setFallback (s : State) (port : Nat) (f : Fallback) : State :=
  if port = 0 then { s with media := { s.media with fb0 := f } } else { s with media := { s.media with fb1 := f } }
def fallbackRate (s : State) (port : Nat) : Nat :=
  (if port = 0 then getF s oStrFallback 23 0 else getF s oStrFallback 47 24) * 1000000

/-- R222: the bucket is full whenever the rate changes from 0, as it is in `s`, to a non-zero value. -/
def fillFallback (s s1 : State) (port : Nat) : State :=
  if fallbackRate s port = 0 && fallbackRate s1 port != 0 then setFallback s1 port { tokens := 9216, last := now s1 } else s1

/-- R222: police a packet by its port's fall-back policer; the answer is whether it passes. -/
def fallback (s : State) (p : Pkt) : State × Bool :=
  let rate := fallbackRate s p.port
  if rate = 0 then (s, true)
  else
    let f := getFallback s p.port
    let tokens := refill f.tokens 9216 rate (p.time - f.last)
    if (p.len : Rat) > tokens then
      (ctxCount (bumpC (setFallback s p.port { tokens := tokens, last := max f.last p.time }) (oStrCounter (2 + p.port)) 1)
        p.ctx 0x07 1, false)
    else (setFallback s p.port { tokens := tokens - p.len, last := max f.last p.time }, true)

/-- R221: whether the lane group's inbound queue drops an arriving packet. -/
def inboundFull (g : LaneGroup) (p : Pkt) : Bool :=
  let n := inBytes g
  decide (n + p.len > groupCap)
    || (match p.colour with
        | .yellow => decide (n * 4 > groupCap * 3)
        | .red => decide (n * 2 > groupCap)
        | _ => false)

/-- R221, R251, R259: a packet enters its lane group's inbound queue and takes its ticket, or is dropped. -/
def enterInbound (s : State) (p : Pkt) : State :=
  let g := getGroup s (p.ctx % 16)
  if inboundFull g p then ctxCount s p.ctx (droppedSel p.colour) 1
  else
    let r := ((getCtx s p.ctx).map (fun x => if p.rtx then x.replayRtx else x.replay)).getD {}
    let s1 := updCtx s p.ctx (fun x =>
      if p.rtx then { x with replayRtx := { r with nextTicket := r.nextTicket + 1 } }
      else { x with replay := { r with nextTicket := r.nextTicket + 1 } })
    let s2 := setGroup s1 (p.ctx % 16) { g with inQ := g.inQ ++ [{ p with ticket := r.nextTicket, no := s.media.nextNo }] }
    { s2 with media := { s2.media with nextNo := s.media.nextNo + 1 } }

/-- R219 to R222: meter a packet and pass it to its lane group. A context that is gone or quarantined drops it. -/
def meterPacket (s : State) (p : Pkt) : State :=
  match getCtx s p.ctx with
  | none => s
  | some x =>
    if x.quarantined then s
    else
      match x.meter.bind (fun k => (Tbl.get? s.media.meters k).bind (fun m => if m.en then some (k, m) else none)) with
      | none =>
        let r := fallback s p
        if r.2 then enterInbound r.1 p else r.1
      | some (k, m) =>
        let r := meterColour m p.len p.time
        let s1 := ctxCount { s with media := { s.media with meters := Tbl.put s.media.meters k r.1 } } p.ctx (colouredSel r.2) 1
        let drop := match r.2 with
          | .red => !m.redPass
          | .yellow => m.yellowDrop
          | _ => false
        if drop then ctxCount s1 p.ctx (droppedSel r.2) 1 else enterInbound s1 { p with colour := r.2 }

/-- R558: one packet each 1/170,000,000 s. -/
def gatePace : Nat := ceilDiv second 170000000

/-- R558: the gate admits the engine's next compared packet, in turn and at its pace, to the meter. -/
def execMediaGateAdmit (engine : Fin 2) (s : State) : Out :=
  .next (
    let e := getEngine s engine
    let turn := s.media.gateTurn == engine.val || (getEngine s (1 - engine.val)).passed.isEmpty
    match e.passed with
    | [] => s
    | p :: rest =>
      if !turn || decide (now s < s.media.gateNext) then s
      else
        let s1 := setEngine s engine { e with passed := rest }
        let s2 := { s1 with media := { s1.media with gateTurn := 1 - engine.val, gateNext := now s + gatePace } }
        handoverDone (meterPacket s2 p) engine p.port)

-- ## Leaving through a shaper (R29, R240 to R243, R557)

/-- Hand a media packet to its class's MAC queue; nothing happens while the queue is full (R557). -/
def toMac (s : State) (p : OutPkt) : State × Bool :=
  match getLeg s p.leg with
  | none => (s, true)
  | some l =>
    let r := txAdd s l.port l.cls { len := p.len, kind := .media p, dst := l.nextHop }
    if r.2 then (handed r.1 p, true) else (s, false)

/-- R241: the rate of a shaper for a leg, in bit/s. -/
def shaperRate (s : State) (sh : Shaper) (leg : Nat) : Rat :=
  if sh.follow then min (sh.rate : Rat) (((getLeg s leg).map (fun l => l.est)).getD 0 * sh.pacePct / 100) else sh.rate

def putShaper (s : State) (k : Nat) (sh : Shaper) : State :=
  { s with media := { s.media with shapers := Tbl.put s.media.shapers k sh } }

/-- R241: send heads while the credit is not negative and the queue of the head's class has room. -/
def shaperSend (s : State) (k n : Nat) : State :=
  match n with
  | 0 => s
  | n + 1 =>
    let sh := getShaper s k
    match sh.queue with
    | [] => s
    | p :: rest =>
      if sh.en && decide (sh.credit < 0) then s
      else
        let r := toMac s p
        if r.2 then
          shaperSend (putShaper r.1 k { sh with queue := rest, credit := sh.credit - p.len }) k n
        else s

/-- R241: evaluate a shaper. -/
def shaperEval (s : State) (k : Nat) : State :=
  let sh := getShaper s k
  match sh.queue with
  | [] => s
  | p :: _ =>
    let dt := now s - sh.last
    let credit := min (sh.burst : Rat) (sh.credit + shaperRate s sh p.leg * dt / (8 * second : Nat))
    shaperSend (putShaper s k { sh with credit := credit, last := now s }) k sh.queue.length

def execShaperEvaluate (shaper : Nat) (s : State) : Out :=
  .next (if Tbl.has s.media.shapers shaper && running s then settle (shaperEval s shaper) else s)

/-- Bytes in a shaper queue. -/
def shaperBytes (sh : Shaper) : Nat := (sh.queue.map (fun p => p.len)).sum

/-- R240, R243: a ciphered packet of a leg goes to its shaper's queue, or is dropped there; without an enabled shaper it
goes to the MAC queue at once. The answer is false while that queue is full. -/
def toShaper (s : State) (p : OutPkt) : State × Bool :=
  match getLeg s p.leg with
  | none => (s, true)
  | some l =>
    match l.shaper, legShaper s l with
    | some k, some sh =>
      if shaperBytes sh + p.len > sh.qlimit then (ctxCount s p.ctx 0x0F 1, true)
      else (putShaper s k { sh with queue := sh.queue ++ [p] }, true)
    | _, _ => toMac s p

-- ## RTCP received (R226, R230, R238)

/-- R226: an SR stores its sender's mapping in the sender's INBOUND_MEDIA context. -/
def execRtcpSr (ctx : Nat) (ntp : BitVec 64) (rtp : BitVec 32) (s : State) : Out :=
  .next (if running s && kindOf s ctx == 1 then updCtx s ctx (fun x => { x with srMap := some (ntp, rtp), srAt := now s }) else s)

/-- R226: an RR gives the leg's round-trip time, in 2^-16 s. -/
def execRtcpRr (leg : Nat) (lsr dlsr : BitVec 32) (s : State) : Out :=
  .next (
    if !(running s) || lsr = 0 then s
    else updLeg s leg (fun l => { l with
      rtt := some (BitVec.ofNat 32 (ntpNow s / 2 ^ 16) - lsr - dlsr).toNat }))

/-- R226, R238: a NACK of an outbound context. -/
def execRtcpNack (ctx : Nat) (seqs : List (BitVec 16)) (s : State) : Out :=
  .next (
    if !(running s) || kindOf s ctx != 3 then s
    else seqs.foldl (fun s q => retransmit s ctx q.toNat) (ctxCount s ctx 0x08 1))

/-- R226: a PLI or FIR goes to the source of the subscription. One that nothing is sent for, because the subscription forwards
no source now or because its sender is asked for nothing, is ignored and counted. -/
def execRtcpPliFir (ctx : Nat) (fir : Bool) (s : State) : Out :=
  .next (
    if !(running s) || kindOf s ctx != 3 then s
    else
      let s1 := ctxCount s ctx 0x0B 1
      match subOf s ctx with
      | none => legCount s1 (ownerOf s ctx) 0x21 1
      | some b =>
        match b.cur with
        | none => legCount s1 (ownerOf s ctx) 0x21 1
        | some point =>
          let src := pointCtx s b.source point
          if actsOnRequest s src then keyRequest s1 src fir else legCount s1 (ownerOf s ctx) 0x21 1)

/-- What a report says of one leg's packets: frame bits received, packets lost, and each packet's delay (R230). -/
structure ReportSum where
  bits : Nat := 0
  lost : Nat := 0
  delays : List Int := []
  deriving DecidableEq, Repr

/-- R230: take one packet of a report. A packet that the leg did not send says nothing. -/
def reportPacket (l : Leg) (r : ReportSum) (p : CcfbPacket) : ReportSum :=
  match p.arrival with
  | none => { r with lost := r.lost + 1 }
  | some a =>
    match l.sends.find? (fun e => e.1 == p.ssrc.toNat && e.2.1 == p.seq.toNat) with
    | none => r
    | some e => { r with bits := r.bits + e.2.2.2, delays := r.delays ++ [(a * 2 ^ 52 : Nat) - (e.2.2.1 : Int)] }

/-- The least of some delays. -/
def minDelay (d : Int) (ds : List Int) : Int := ds.foldl min d

/-- R230: the new estimate before its bounds; none when the report names no packet received, or no time has passed. The
interval of a leg's first report, which has no previous one, counts from the leg's creation.
DESIGN CHOICE (assumption 100). -/
def newEstimate (l : Leg) (t reported : Nat) (r : ReportSum) (hist : List Int) : Option Rat :=
  let interval := t - l.lastReport.getD l.createdAt
  match r.delays with
  | [] => none
  | d :: _ =>
    if interval = 0 then none
    else
      let rate : Rat := (r.bits * second : Nat) / (interval : Nat)
      let lost : Rat := (r.lost : Rat) / (reported : Nat)
      let qdelay : Rat := (r.delays.foldl (· + ·) 0 : Int) / (r.delays.length : Rat) - (minDelay d hist : Int)
      some (if qdelay > (durMs l.delayThreshMs : Nat) then rate * 85 / 100
        else if lost > 1 / 10 then l.est * (1 - lost / 2)
        else if lost < 2 / 100 then l.est * 105 / 100
        else l.est)

/-- R230, R231: accept a report. Where the formulas give no value the estimate is a free one within its bounds
(assumption 3). -/
def acceptReport (s : State) (leg : Nat) (l : Leg) (ps : List CcfbPacket) : State :=
  let t := now s
  let r := ps.foldl (reportPacket l) {}
  let hist := l.delays.filter (fun d => decide (d.1 + 10 * second > t)) ++ r.delays.map (fun d => (t, d))
  let est := (newEstimate l t ps.length r (hist.map (·.2))).getD (Config.estimateOfEmptyReport s.fresh : Nat)
  let s1 := (ps.filter (fun p => p.arrival.isNone)).foldl (fun s p =>
    match s.media.streams.find? (fun x => x.2.owner == leg && x.2.kind == 3
        && (x.2.ssrc == p.ssrc.toNat || (x.2.rtxEn && x.2.rtxSsrc == p.ssrc.toNat))) with
    | some x => ctxCount s x.1 0x02 1
    | none => s) s
  let s2 := updLeg (nextFree s1) leg (fun l => { l with
    estBefore := if l.lastReport = some t then l.estBefore else l.est
    est := clampEst s l est
    lastReport := some t
    stale := false
    staleFrom := t
    delays := hist
    sends := l.sends.filter (fun e => decide (e.2.2.1 + 10 * second > t)) })
  estimateChanged s2 leg

def execRtcpCcfb (leg : Nat) (packets : List CcfbPacket) (s : State) : Out :=
  .next (
    match getLeg s leg with
    | none => s
    | some l =>
      if !(running s) || l.destroying then s
      else if !l.ccfb then legCount s leg 0x21 1
      else acceptReport s leg l packets)

/-- R226, R249. -/
def execRtcpBye (leg : Nat) (ssrc : BitVec 32) (s : State) : Out :=
  .next (if running s && legLive s leg then confEvent s leg 1 (word ssrc.toNat) else s)

-- ## RTCP sent (R227, R228)

/-- R228: the RTP timestamp of an SR. -/
def srRtp (s : State) (x : Stream) : Nat :=
  let src := x.lastSrc.bind (getCtx s)
  match src.bind (fun y => y.srMap) with
  | some (ntp, rtp) =>
    let d := ((BitVec.ofNat 64 (ntpNow s)) - ntp).toInt
    (((rtp.toNat : Int) + d * (clockRate x.clock : Int) / (2 ^ 32 : Int) + (x.tsOffset : Int)) % (2 ^ 32 : Int)).toNat
  | none => (x.lastTs.getD 0 + clockRate x.clock * (now s - x.lastTsTime) / second) % 2 ^ 32

/-- R227: an SR for each outbound context that has sent since its last one, or an RR; then the next interval is drawn. A leg
without an OUTBOUND_RTCP context sends neither (R215). -/
def execRtcpReportTimer (leg : Nat) (s : State) : Out :=
  .next (
    match getLeg s leg with
    | none => s
    | some l =>
      if !(running s) || l.destroying || decide (now s < l.nextReport) then s
      else
        let out := (legCtxs s leg 3).filter (fun c => ((getCtx s c).map (fun x => x.sentSinceSr)).getD false)
        let reps := legReports s leg
        let s1 := if (rtcpCtx s leg).isNone then s
          else if out.isEmpty then sendRtcp s leg (fun ssrc => [.rr ssrc reps])
          else out.foldl (fun s c => match getCtx s c with
            | some x => updCtx (sendRtcp s leg (fun _ => [.sr x.ssrc (ntpNow s / 2 ^ 32) (ntpNow s % 2 ^ 32) (srRtp s x)
                (x.sentPackets % 2 ^ 32) (x.sentOctets % 2 ^ 32) reps])) c
                (fun x => { x with sentSinceSr := false, lastSr := some (now s) })
            | none => s) s
        nextFree (updLeg s1 leg (fun l => { l with nextReport := nextReportAt s })))

/-- The signed distance of two 16-bit sequence numbers. -/
def seqDiff (a b : Nat) : Int := (BitVec.ofNat 16 a - BitVec.ofNat 16 b).toInt

/-- R227: one SSRC's part of an RFC 8888 report at `t`: its first number, and for each number up to the last one how long ago it
came, in 1/1024 s. -/
def ccfbBlock (t ssrc : Nat) (log : List (Nat × Nat)) : Nat × Nat × List (Option Nat) :=
  let base := (log.head?.map (·.1)).getD 0
  let offs := log.map (fun e => (seqDiff e.1 base, e.2))
  let lo := offs.foldl (fun m e => min m e.1) 0
  let hi := offs.foldl (fun m e => max m e.1) 0
  (ssrc, (((base : Int) + lo) % 65536).toNat,
    (List.range ((hi - lo).toNat + 1)).map (fun i =>
      (offs.find? (fun e => e.1 == lo + i)).map (fun e => (t - e.2) * 1024 / second)))

/-- The parts of a report over the packets logged, in the order of their first arrivals; an RTX SSRC has its own. -/
def ccfbBlocks (t : Nat) (log : List (Nat × Nat × Nat)) : List (Nat × Nat × List (Option Nat)) :=
  ((log.map (·.1)).eraseDups).map (fun ssrc => ccfbBlock t ssrc ((log.filter (fun e => e.1 == ssrc)).map (·.2)))

/-- R227: the RFC 8888 report of a leg's contexts with CCFB_EN. -/
def execCcfbReportTimer (leg : Nat) (s : State) : Out :=
  .next (
    match getLeg s leg with
    | none => s
    | some l =>
      if !(running s) || l.destroying || decide (now s < l.lastCcfb + durMs (getF s oStrFeedback 47 32)) then s
      else
        let cs := (legCtxs s leg 1).filter (fun c => ((getCtx s c).map (fun x => x.ccfbEn)).getD false)
        let blocks := cs.flatMap (fun c => ((getCtx s c).map (fun x => ccfbBlocks (now s) x.ccfbLog)).getD [])
        let s1 := updLeg s leg (fun l => { l with lastCcfb := now s })
        if cs.isEmpty then s1
        else cs.foldl (fun s c => updCtx s c (fun x => { x with ccfbLog := [] }))
          (sendFeedback s1 leg (fun ssrc => .ccfb ssrc blocks (ntpNow s / 2 ^ 16 % 2 ^ 32))))

/-- Send a NACK for a missing number of an inbound context, and count it (R227). -/
def sendNack (s : State) (ctx seq : Nat) : State :=
  match getCtx s ctx with
  | none => s
  | some x =>
    let s1 := updCtx s ctx (fun x => { x with
      missing := x.missing.map (fun m => if m.seq == seq then { m with nacks := m.nacks + 1, lastNack := now s } else m) })
    if (rtcpCtx s x.owner).isNone then s1 else sendFeedback (ctxCount s1 ctx 0x08 1) x.owner (fun ssrc => .nack ssrc x.ssrc (seq % 65536))

/-- R227: REORDER_MS after the gap was seen, and once more 30 ms later. -/
def execNackTimer (ctx seq : Nat) (s : State) : Out :=
  .next (
    match getCtx s ctx with
    | none => s
    | some x =>
      match x.missing.find? (fun m => m.seq == seq) with
      | none => s
      | some m =>
        let due := if m.nacks = 0 then m.seenAt + durMs x.reorderMs else m.lastNack + durMs 30
        if !(running s) || !x.nackEn || x.kind != 1 || decide (m.nacks ≥ 2) || decide (now s < due) then s
        else sendNack s ctx seq)

/-- R231: STALE_MS without a report: the event; then halving at each further STALE_MS. -/
def execEstimateStale (leg : Nat) (s : State) : Out :=
  .next (
    match getLeg s leg with
    | none => s
    | some l =>
      if !(running s) || !l.ccfb || l.destroying || decide (now s < l.staleFrom + durMs l.staleMs) then s
      else
        let s1 := updLeg s leg (fun l => { l with stale := true, staleFrom := l.staleFrom + durMs l.staleMs })
        if !l.stale then confEvent (legCount s1 leg 0x22 1) leg 2 (word (l.est / 1000).floor.toNat)
        else estimateChanged (updLeg s1 leg (fun l => { l with est := max (l.est / 2) (l.minRate * 64000 : Nat) })) leg)

-- ## Point rates and switch instants (R232, R235)

/-- R232: the rates of a context's points over the last second. -/
def measure (t : Nat) (x : Stream) : Stream :=
  let log := x.rateLog.filter (fun e => decide (e.1 + second > t))
  { x with
    rateLog := log
    pointRates := (pointsUpTo (x.sCount - 1) (x.tCount - 1)).map (fun p =>
      (p, ((log.filter (fun e => decide (e.2.1 ≤ p.1) && decide (e.2.2.1 ≤ p.2))).map (fun e => e.2.2.2)).sum)) }

def execPointRateUpdate (s : State) : Out :=
  .next (
    if !(running s) || decide (now s < s.media.lastRateUpdate + durMs 100) then s
    else
      chooseAll { s with media := { s.media with
        streams := s.media.streams.map (fun p => (p.1, measure (now s) p.2))
        lastRateUpdate := now s } })

def execSwitchInstant (ctx : Nat) (s : State) : Out :=
  .next (
    match (subOf s ctx).bind (fun b => b.prefetch) with
    | none => s
    | some p => if running s && decide (now s ≥ p.instant) then resolvePrefetch s ctx false else s)

end Sys2Proof.Machine
end

