-- ==== Sys2Proof/Machine/Cipher.lean ====
section
/-! DEFINITION. Cipher lanes, keys and packing FIFOs (chapter 08): R250 to R282. -/

namespace Sys2Proof.Machine

-- ## Keys (R263 to R271)

/-- R263: key entries of the module, and those held. -/
def keyCapacity (s : State) : Nat := min 16777215 (((regionAt s 1).2 - 48 * 2 ^ 20) / 128)
def keysHeld (s : State) : Nat := (s.media.streams.map (fun p => (keysOf p.2).length)).sum


/-- R264, R265: the master key and salt that a blob gives for `n` bytes of material, or none (0x151). -/
def material (kek : Option (List Byte)) (wrapped : Bool) (n : Nat) (blob : List Byte) : Option (List Byte) :=
  let size := if wrapped then (if n ≤ 32 then 40 else 56) else n
  if blob.length ≠ 64 || (blob.drop size).any (fun b => b != 0) then none
  else if wrapped then
    match kek.bind (fun k => unwrap k (blob.take size)) with
    | some m => if m.length = n then some m else none
    | none => none
  else some (blob.take n)

/-- The key-encryption key of a slot (R533). -/
def kekOf (s : State) (slot : Nat) : Option (List Byte) := Tbl.get? s.sec.keks slot

/-- R268, R270: the marks that an install must meet: of the context, and of the KEY_ID's record. -/
def markOf (s : State) (x : Stream) (persist : Bool) (id : Nat) (rtx : Bool) : Nat :=
  let rec_ := if persist then keyRec s id else none
  max (x.outOf rtx).hwm ((rec_.map (fun r => if rtx then r.rtx else r.media)).getD 0)

/-- R270: the record table with room for one more, or none when every record belongs to an installed key. -/
def roomForRec (rs : List KeyRec) : Option (List KeyRec) :=
  if rs.length < 65536 then some rs
  else
    match (rs.filter (fun r => !r.installed)).foldl (fun (m : Option KeyRec) r =>
      match m with
      | none => some r
      | some a => some (if r.retired < a.retired then r else a)) none with
    | none => none
    | some v => some (rs.filter (fun r => r.keyId != v.keyId))

/-- R270: keep a persistent key's marks: its record asks for START + 2^20. The answer is whether it persists. -/
def persistKey (s : State) (id start startRtx : Nat) : State × Bool :=
  let fresh : Nat × Nat := (start + 2 ^ 20, startRtx + 2 ^ 20)
  match keyRec s id with
  | some _ =>
    ({ s with mram := { s.mram with keyRecs := s.mram.keyRecs.map (fun r =>
        if r.keyId == id then { r with installed := true, writing := some fresh } else r) } }, true)
  | none =>
    match roomForRec s.mram.keyRecs with
    | none => (s, false)
    | some rs =>
      ({ s with mram := { s.mram with
          keyRecs := rs ++ [{ keyId := id, media := 0, rtx := 0, writing := some fresh }] } }, true)

/-- R267: install a key into NEXT or CURRENT. An install into CURRENT that replaces a key erases it and the draining key,
and on an inbound context clears window_valid; on an outbound context it sets the next indices. -/
def installKey (x : Stream) (toNext : Bool) (k : Key) : Stream :=
  if toNext then { x with next := some k }
  else
    let y := { x with cur := some k, drain := none, sentUnderCur := 0 }
    if x.kind = 1 || x.kind = 2 then
      if x.cur.isSome then { y with
        replay := { y.replay with valid := false, window := 0 }
        replayRtx := { y.replayRtx with valid := false, window := 0 } }
      else y
    else { y with
      out := { y.out with next := k.start, first := none }
      outRtx := if x.rtxEn then { y.outRtx with next := k.startRtx, first := none } else y.outRtx }

/-- KEY_INSTALL once the blob has been read (R264 to R270, R555 stages 7 and 8). -/
def keyInstallWith (s : State) (c : Cmd) (suite : Nat) (x : Stream) (mat : List Byte) : Body :=
  let n := hIndex c.w1
  let toNext := bitAt c.w2 39
  let persist := bitAt c.w2 37
  let start := c.w5.toNat
  let startRtx := c.w6.toNat
  let out := x.kind == 3 || x.kind == 4
  let mark := markOf s x persist c.w7.toNat false
  let markRtx := markOf s x persist c.w7.toNat true
  let erased := if toNext then x.next.toList else x.cur.toList ++ x.drain.toList
  if out && decide (start < mark) then .reply s 0x302 (word mark) 0
  else if out && x.rtxEn && decide (startRtx < markRtx) then .reply s 0x302 (word markRtx) 0
  else if erased.isEmpty && decide (keysHeld s ≥ keyCapacity s) then .fail s 0x201
  else if x.quarantined then .fail s 0x401
  else
    let r := if persist then persistKey s c.w7.toNat start startRtx else (s, false)
    let k : Key := {
      id := s.media.nextKey, suite := suite, start := start, startRtx := startRtx
      session := (match suiteOf suite with
        | some (kl, sl, _, _) => session kl sl mat (x.kind == 2 || x.kind == 4)
        | none => session 0 0 [] false)
      persist := if r.2 then some c.w7.toNat else none
      slot := c.slot, queue := bits c.w2 5 0, ring := c.ring, tag := c.tag }
    let s1 := { r.1 with media := { r.1.media with nextKey := s.media.nextKey + 1 } }
    let s2 := updCtx s1 n (fun y => installKey y toNext k)
    .waits (retireRecs s2 erased) (.keyErase n (erased.map (fun e => e.id)) (word (if out then mark else 0)) (word (b2n r.2)))

def execKeyInstall (c : Cmd) (blob : HostData) (s : State) : Out :=
  .next (runRing s 0x300 c fun s =>
    let n := hIndex c.w1
    let x := (getCtx s n).getD { kind := 0 }
    let suite := bits c.w2 47 40
    let persist := bitAt c.w2 37
    let wrapped := bitAt c.w2 38
    guarded s [
        (reservedBad c 0 [full, mask 47 37 + 0x3F, full, full, full, full, if persist then full else 0], 0x101),
        hObj s [1] c.w1 (ctxNamed s), (x.kind == 5, 0x108), (noQueue s c.slot (bits c.w2 5 0), 0x112),
        regionCheck s c.slot c.w3,
        ((bitAt c.w2 39 && x.cur.isNone) || (persist && (x.kind == 1 || x.kind == 2)) || (c.w6 != 0 && !x.rtxEn)
          || decide (c.w5.toNat ≥ indexLimit x) || decide (c.w6.toNat ≥ indexLimit x), 0x108),
        (regionBounds s c.slot c.w3 c.w4.toNat 64 false, 0x115), (c.w4.toNat % 64 != 0, 0x118),
        ((suiteOf suite).isNone || (!wrapped && getB s oCipCtrl 1), 0x150)]
      (match blob, suiteOf suite with
        | .bytes bs, some (kl, sl, _, _) =>
          match material (kekOf s c.slot) wrapped (kl + sl) bs with
          | none => .fail s 0x151
          | some m => keyInstallWith s c suite x m
        | d, _ => hostFailure s c d))

def execKeyRetire (c : Cmd) (s : State) : Out :=
  .next (runRing s 0x301 c fun s =>
    let n := hIndex c.w1
    let x := (getCtx s n).getD { kind := 0 }
    let named := if bitAt c.w2 0 then x.next else x.cur
    let erased := if bitAt c.w2 0 then x.next.toList else keysOf x
    guarded s [(reservedBad c 0 [full, 3], 0x101), hObj s [1] c.w1 (ctxNamed s), (x.kind == 5, 0x108)]
      (match named with
        | none => .reply s 0 0 0
        | some k =>
          let s1 := match bitAt c.w2 1, k.persist with
            | true, some id => { s with mram := { s.mram with keyRecs := s.mram.keyRecs.filter (fun r => r.keyId != id) } }
            | _, _ => s
          let s2 := updCtx s1 n (fun y =>
            if bitAt c.w2 0 then { y with next := none } else { y with cur := none, next := none, drain := none })
          .waits (retireRecs s2 erased) (.keyErase n (erased.map (fun e => e.id)) 0 0)))

/-- R276: the value that KEY_QUERY selects. -/
def keyValue (x : Stream) (sel : Nat) : Nat :=
  let out := x.kind == 3 || x.kind == 4
  match sel with
  | 0 => if out then x.out.next else 0
  | 1 => if out then x.out.hwm else 0
  | 2 => if out && x.rtxEn then x.outRtx.next else 0
  | 9 => ((x.next.map (fun k => k.suite)).getD 0) * 256 + (x.cur.map (fun k => k.suite)).getD 0
      + b2n x.drain.isSome * 2 ^ 16 + b2n ((x.cur.bind (fun k => k.persist)).isSome) * 2 ^ 17
  | _ => Tbl.count x.keyCounters sel

def execKeyQuery (c : Cmd) (s : State) : Out :=
  .next (runRing s 0x302 c fun s =>
    let sel := bits c.w2 7 0
    let n := hIndex c.w1
    let x := (getCtx s n).getD { kind := 0 }
    guarded s [(reservedBad c 0 [full, 0x1FF], 0x101), hObj s [1] c.w1 (ctxNamed s), (decide (9 < sel), 0x108),
        (x.quarantined, 0x401)]
      (.reply (if bitAt c.w2 8 then updCtx s n (fun y => { y with keyCounters := Tbl.del y.keyCounters sel }) else s)
        0 (word (keyValue x sel)) 0))

/-- R270: a reserved value has been written to MRAM; packets that waited for it may go on. -/
def execKeyReserveWritten (keyId : Word) (s : State) : Out :=
  .next (
    if !(mramWritable s) then s
    else { s with mram := { s.mram with keyRecs := s.mram.keyRecs.map (fun r =>
      if r.keyId == keyId.toNat then
        match r.writing with
        | some (a, b) => { r with media := a, rtx := b, writing := none }
        | none => r
      else r) } })

-- ## Inbound indices (R257 to R260, R266)

/-- RFC 3711 Appendix A, with rollover counter 0 where the estimate would give −1. -/
def estimateIndex (highest seq : Nat) : Nat :=
  let sl := highest % 65536
  let roc := highest / 65536
  if sl < 32768 then (if seq > sl + 32768 then (roc - 1) * 65536 + seq else roc * 65536 + seq)
  else if seq + 32768 < sl then (roc + 1) % 2 ^ 32 * 65536 + seq
  else roc * 65536 + seq

/-- R257: without a valid window, the value with the sequence number nearest to START; of two, the higher. -/
def nearestIndex (start seq : Nat) : Nat :=
  let base := start / 65536 * 65536 + seq
  if base ≤ start then
    if base + 65536 - start ≤ start - base && decide (base + 65536 < 2 ^ 48) then base + 65536 else base
  else if base ≥ 65536 && decide (start - (base - 65536) < base - start) then base - 65536
  else base

/-- The replay state and START that a packet is judged by. -/
def replayOf (x : Stream) (rtx : Bool) : Replay := if rtx then x.replayRtx else x.replay
def setReplay (x : Stream) (rtx : Bool) (r : Replay) : Stream := if rtx then { x with replayRtx := r } else { x with replay := r }

/-- The index of an inbound packet: estimated for SRTP, explicit for SRTCP. -/
def inboundIndex (x : Stream) (p : Pkt) : Nat :=
  match p.media with
  | .rtcp h => h.index.toNat
  | .rtp h =>
    let r := replayOf x p.rtx
    if r.valid then estimateIndex r.highest h.seq
    else nearestIndex ((x.cur.map (fun k => k.startOf p.rtx)).getD 0) h.seq

/-- R266, inbound: the key for an index. -/
def inboundKey (x : Stream) (i : Nat) (rtx : Bool) : Option Key :=
  match x.next.filter (fun k => decide (i ≥ k.startOf rtx)), x.cur with
  | some k, _ => some k
  | none, some k =>
    if i ≥ k.startOf rtx then some k else x.drain.filter (fun d => decide (i ≥ d.startOf rtx))
  | none, none => none

/-- R257: the first replay test: none to go on, or the counter of the drop. -/
def replayTest (r : Replay) (i : Nat) : Option Nat :=
  if r.valid && decide (i ≤ r.highest) then
    if r.highest - i ≥ 128 then some cTooOld
    else if r.window.testBit (r.highest - i) then some cReplay
    else none
  else none

/-- R259: pass tickets that were given up. -/
def passGivenUp (r : Replay) (n : Nat) : Replay :=
  match n with
  | 0 => r
  | n + 1 =>
    if r.givenUp.contains r.doneTicket then
      passGivenUp { r with givenUp := r.givenUp.filter (· != r.doneTicket), doneTicket := r.doneTicket + 1 } n
    else r

/-- R259: a packet gives up its ticket. -/
def giveUp (s : State) (p : Pkt) : State :=
  updCtx s p.ctx (fun x =>
    let r := replayOf x p.rtx
    let r1 := { r with givenUp := r.givenUp ++ [p.ticket] }
    setReplay x p.rtx (passGivenUp r1 r1.givenUp.length))

/-- KEY_QUERY's counter for a CIP counter (R276). -/
def keySel (c : Nat) : Nat := if c = cAuthFail then 3 else if c = cReplay then 4 else if c = cTooOld then 5 else 6

/-- Drop an inbound packet: counted for the module and the context; its ticket is given up. -/
def dropInbound (s : State) (p : Pkt) (c : Nat) : State := giveUp (cipCount (keyCount s p.ctx (keySel c) 1) c 1) p

-- ## Lanes (R250 to R253, R277 to R281)

/-- R251: the lowest-numbered free lane of a group in service. -/
def freeLane (s : State) (g : Nat) : Option Nat := (groupLanes s g).find? (fun l => !(getLane s l).busy)

/-- A packet for a lane: its bytes, of which `enc` behind the first `clear` are encrypted (R250). -/
def lanePkt (w : LaneWork) (aes256 extra : Bool) (bytes : List Byte) (clear enc : Nat) : FifoPkt :=
  let cost := if aes256 then 15 else 11
  { work := w, len := bytes.length, bytes := bytes, clear := clear, enc := enc, perByte := cost, extra := b2n extra * 16 * cost }

/-- The same under a suite. -/
def suitePkt (w : LaneWork) (suite : Nat) (bytes : List Byte) (clear enc : Nat) : FifoPkt :=
  lanePkt w (suite == 3 || suite == 4 || suite == 7) (suite == 5 || suite == 6 || suite == 7) bytes clear enc

/-- Start a packet on a lane, whose header row is pushed now, or stalls the lane (R277, R280). -/
def startLane (s : State) (l : Nat) (p : FifoPkt) : State :=
  let ln := getLane s l
  advanceLane (setLane s l { ln with busy := true, startAt := now s, fifo := ln.fifo ++ [p] }) l

/-- The bytes of an inbound packet after decryption, how many stand clear, and how many its mode covers. -/
def plainOf (m : Media) : List Byte × Nat × Nat :=
  match m with
  | .rtp h => (h.bytes, rtpHeader h.bytes, h.encLen)
  | .rtcp h => (h.bytes, 8, h.encLen)

-- ## SRTP and SRTCP as the lanes make them (R254, R260, R261)

/-- A suite's cipher over the bytes behind the clear ones: AES-CM, f8 with its IV, or GCM without its tag. -/
def suiteCrypt (k : Key) (ssrc index : Nat) (rtcp : Bool) (f8iv data : List Byte) : List Byte :=
  if k.suite = 5 then f8Mode k.session.cipher k.session.salt f8iv data
  else if k.suite = 6 || k.suite = 7 then gcmCrypt k.session.cipher (gcmIv k.session ssrc index rtcp) data
  else ctrMode k.session.cipher (cmIv k.session ssrc index) data

/-- R261: the SRTP packet of an RTP packet under a key: its header clear, its payload encrypted, its tag. HMAC-SHA-1 covers
the rollover counter as well; GCM authenticates the header. -/
def protectRtp (k : Key) (bs : List Byte) (index : Nat) : List Byte :=
  let n := rtpHeader bs
  let head := bs.take n
  let ssrc := field bs 8 4
  let roc := beBytes 4 (index / 65536)
  let ct := suiteCrypt k ssrc index false (zeros 1 ++ (bs.take 12).drop 1 ++ roc) (bs.drop n)
  if k.suite = 6 || k.suite = 7 then head ++ ct ++ gcmTag k.session.cipher (gcmIv k.session ssrc index false) head ct
  else head ++ ct ++ (hmacSha1 k.session.auth (head ++ ct ++ roc)).take (tagLen k.suite false)

/-- R260: the SRTCP packet of an RTCP packet, with its E flag set and its index; RFC 7714 puts the tag before them. -/
def protectRtcp (k : Key) (bs : List Byte) (index : Nat) : List Byte :=
  let head := bs.take 8
  let ssrc := field bs 4 4
  let word_ := beBytes 4 (2 ^ 31 + index)
  let ct := suiteCrypt k ssrc index true (zeros 4 ++ word_ ++ head) (bs.drop 8)
  if k.suite = 6 || k.suite = 7 then
    head ++ ct ++ gcmTag k.session.cipher (gcmIv k.session ssrc index true) (head ++ word_) ct ++ word_
  else head ++ ct ++ word_ ++ (hmacSha1 k.session.auth (head ++ ct ++ word_)).take (tagLen k.suite true)

/-- What a lane makes of an outbound packet. -/
def protectOut (k : Key) (p : OutPkt) : List Byte :=
  if p.rtcp.isEmpty then protectRtp k p.bytes p.index else protectRtcp k p.bytes p.index

-- ## The rows of a packet (R277, R278)

/-- R278: the words of a packet's header row. -/
def headerRow (p : FifoPkt) : List Word :=
  let st := match p.state with
    | .pending => 0
    | .published => 1
    | .void => 2
  let w := match p.work with
    | .inbound q => (0, q.ctx, bt48 q.time, q.index)
    | .outbound q => (1, q.ctx, 0, q.index)
    | .job _ _ => (1, 0, 0, 0)
  [word (st * 2 ^ 46 + p.len), word (w.1 * 2 ^ 23 + w.2.1), w.2.2.1, word w.2.2.2, 0, 0, 0, 0]

/-- R277: the bytes of data row `k`, from 0 on; their number is its VALID tag. -/
def dataRow (p : FifoPkt) (k : Nat) : List Byte := (p.bytes.drop (48 * k)).take 48

/-- R257, R259: start an inbound packet, or drop it at the key lookup or the first replay test. -/
def startInbound (s : State) (l : Nat) (p : Pkt) : State :=
  match getCtx s p.ctx with
  | none => s
  | some x =>
    let i := inboundIndex x p
    if x.quarantined then giveUp s p
    else
      match inboundKey x i p.rtx with
      | none => dropInbound s p cNoKey
      | some k =>
        match replayTest (replayOf x p.rtx) i with
        | some c => dropInbound s p c
        | none =>
          let m := plainOf p.media
          startLane s l (suitePkt (.inbound { p with index := i, key := k.id }) k.suite m.1 m.2.1 m.2.2)

/-- R261, R262, R266: start an outbound packet under the key for its index, or drop it. -/
def startOutbound (s : State) (l : Nat) (p : OutPkt) : State :=
  match getCtx s p.ctx with
  | none => s
  | some x =>
    if x.quarantined then s
    else
      match outKey x p.index p.rtx.isSome with
      | none => cipCount (keyCount s p.ctx 0x06 1) cNoKey 1
      | some k =>
        let wire := protectOut k p
        startLane s l (suitePkt (.outbound { p with key := k.id, wire := wire }) k.suite wire p.clear p.encLen)

/-- R270: an outbound packet whose index has reached the reserved value waits in the group queue. -/
def reserveHolds (s : State) (p : OutPkt) : Bool :=
  match (getCtx s p.ctx).bind (fun x => outKey x p.index p.rtx.isSome) with
  | none => false
  | some k =>
    match k.persist.bind (keyRec s) with
    | none => false
    | some r => decide (p.index ≥ (if p.rtx.isSome then r.rtx else r.media))

/-- PKCS #7 padding to whole blocks (R273). -/
def pkcs7 (data : List Byte) : List Byte :=
  let n := 16 - data.length % 16
  data ++ List.replicate n (BitVec.ofNat 8 n)

/-- A job's fields of its parameter block (R272), whose key stands unwrapped. -/
def Job.keyLen (j : Job) : Nat := if j.aes256 then 32 else 16
def Job.key (j : Job) : List Byte := (j.block.drop 8).take j.keyLen
def Job.iv (j : Job) : List Byte := (j.block.drop (8 + j.keyLen)).take (if j.mode = 6 then 12 else 16)
def Job.salt (j : Job) : List Byte := (j.block.drop (8 + j.keyLen + 16)).take 14

/-- R273: everything that a job writes. -/
def jobBytes (j : Job) : List Byte :=
  let aad := j.source.take j.aadLen
  let data := (j.source.drop j.aadLen).take j.length
  let ks := roundKeys j.key
  match j.mode with
  | 1 =>
    if j.decrypt then cbcDec j.key j.iv (chunks 16 data)
    else cbcEnc ks j.iv (chunks 16 (if (j.block.getD 2 0).getLsbD 1 then pkcs7 data else data))
  | 2 => ctrMode j.key j.iv data
  | 3 => cfbMode ks j.decrypt j.iv (chunks 16 data)
  | 4 => xorBytes data (ofbStream ks (ceilDiv data.length 16) j.iv)
  | 5 => f8Mode j.key j.salt j.iv data
  | _ =>
    let out := gcmCrypt j.key j.iv data
    aad ++ out ++ gcmTag j.key j.iv aad (if j.decrypt then data else out)

/-- The bytes of a job's output that its mode encrypts: not GCM's additional data, nor its tag (R250). -/
def Job.covered (j : Job) : Nat := if j.mode = 6 then j.length else j.total

/-- R250, R274: the packet of `n` bytes of a job's output from `off` on. -/
def jobPkt (j : Job) (id off n : Nat) : FifoPkt :=
  let from_ := max off j.aadLen
  let upTo := min (off + n) (j.aadLen + j.covered)
  lanePkt (.job id off) j.aes256 (off == 0 && (j.mode == 5 || j.mode == 6)) (((jobBytes j).drop off).take n)
    (from_ - off) (upTo - from_)

/-- Whether a job's source is in module memory on held pages (R94, R274). -/
def jobWaits (s : State) (j : Job) : Bool := j.srcRegion.isNone && !(heldBy s j.srcAddr (j.aadLen + j.length)).isEmpty

/-- R251: start a bulk job. Its source in module memory is read now. -/
def startJob (s : State) (l id : Nat) : State :=
  match Tbl.get? s.media.jobs id with
  | none => s
  | some j =>
    let j1 := if j.srcRegion.isNone then { j with source := dramRead s j.srcAddr (j.aadLen + j.length) } else j
    let n := min 4096 j.total
    startLane { s with media := { s.media with jobs := Tbl.put s.media.jobs id { j1 with made := n } } } l (jobPkt j1 id 0 n)

/-- Jobs that run on the lanes of a group. -/
def jobsRunning (s : State) (g : Nat) : Nat :=
  ((groupLanes s g).filter (fun l => (getLane s l).busy && ((getLane s l).fifo.getLast?.map (fun p => match p.work with
    | .job _ _ => true
    | _ => false)).getD false)).length

/-- R251: what a lane group starts next: the queues in turn, and a job only when both media queues are empty. -/
def execCipherLaneStart (group : Fin 16) (s : State) : Out :=
  .next (
    let g := getGroup s group
    let inReady := !g.inQ.isEmpty
    let outReady := match g.outQ with
      | [] => false
      | p :: _ => !(reserveHolds s p)
    match freeLane s group with
    | none => s
    | some l =>
      if !(running s) then s
      else if outReady && (g.turnOut || !inReady) then
        match g.outQ with
        | [] => s
        | p :: rest => settle (drainHeld (startOutbound (setGroup s group { g with outQ := rest, turnOut := false }) l p) group)
      else if inReady then
        match g.inQ with
        | [] => s
        | p :: rest => startInbound (setGroup s group { g with inQ := rest, turnOut := true }) l p
      else
        match g.jobQ with
        | [] => s
        | id :: rest =>
          let waits := ((Tbl.get? s.media.jobs id).map (jobWaits s)).getD false
          if !g.outQ.isEmpty || waits || decide (jobsRunning s group ≥ getF s oCipCtrl 14 8) then s
          else startJob (setGroup s group { g with jobQ := rest }) l id)

/-- Write word 0 of the packet that a lane has in work, and free the lane. A VOID packet is counted; one without a row in
the FIFO leaves nothing there. -/
def endPacket (s : State) (l : Nat) (st : FifoState) (tagDone : Bool) : State :=
  let ln := getLane s l
  let ended := (ln.fifo.getLast?.map (fun p => { p with state := st, tagDone := tagDone })).toList
  let s1 := setLane s l { ln with fifo := ln.fifo.dropLast ++ ended.filter (fun p => p.pushed != 0), busy := false }
  let s2 := if st = .void then cipCount s1 cVoid 1 else s1
  if ln.flushing then flushDone s2 l else s2

/-- R274, R282: a job whose packet a flush or a fault has lost ends with 0x400, its effects so far standing. -/
def failJob (s : State) (id : Nat) : State :=
  completeWhere { s with media := { s.media with jobs := Tbl.del s.media.jobs id } }
    (fun i => i.wait == .cipherJob id) 0x400 0 0

/-- Whether a job still waits, runs, or has output in a FIFO. -/
def jobAlive (s : State) (id : Nat) : Bool :=
  s.media.groups.any (fun g => g.2.jobQ.contains id)
    || s.media.lanes.any (fun l => l.2.fifo.any (fun p => match p.work with
      | .job k _ => k == id && p.state != .void && !p.dropping
      | _ => false))

/-- End the jobs that a flush has cut. -/
def reapJobs (s : State) : State :=
  (s.media.jobs.filter (fun j => !(jobAlive s j.1))).foldl (fun s j => failJob s j.1) s

/-- R274: after a job's packet the lane goes on with the next one of 4,096 bytes. -/
def nextJobPacket (s : State) (l id : Nat) : State :=
  match Tbl.get? s.media.jobs id with
  | none => s
  | some j =>
    let n := min 4096 (j.total - j.made)
    if n = 0 then s
    else startLane { s with media := { s.media with jobs := Tbl.put s.media.jobs id { j with made := j.made + n } } } l
      (jobPkt j id j.made n)

/-- R257, R279, R281: the packet in work ends, once its last row is in the FIFO: voided when its remainder was dropped or its
tag differs, else published, or for an inbound packet left to its turn under R259. -/
def execCipherLaneEnd (lane : Fin 1024) (tagOk laneFault : Bool) (s0 : State) : Out :=
  .next (
    let s := advanceLane s0 lane
    let ln := getLane s lane
    if laneFault then reapJobs (Sys2Proof.Machine.laneFault s lane)
    else
      match ln.fifo.getLast? with
      | none => s
      | some p =>
        if !ln.busy || decide (now s < ln.endAt p) then s
        else if p.dropping then
          let s1 := endPacket s lane .void false
          settle (match p.work with
            | .inbound q => giveUp s1 q
            | .outbound _ => s1
            | .job id _ => failJob s1 id)
        else if p.pushed ≤ dataRows p.len then s
        else
          match p.work with
          | .inbound q =>
            if tagOk then endPacket s lane .pending true
            else settle (dropInbound (endPacket s lane .void false) q cAuthFail)
          | .outbound _ => settle (endPacket s lane .published false)
          | .job id _ => nextJobPacket (endPacket s lane .published false) lane id)

/-- Change the state of the packet of a context that holds a ticket. -/
def markTicket (s : State) (ctx : Nat) (rtx : Bool) (ticket : Nat) (st : FifoState) : State :=
  { s with media := { s.media with lanes := s.media.lanes.map (fun l => (l.1, { l.2 with
    fifo := l.2.fifo.map (fun p => match p.work with
      | .inbound q => if q.ctx == ctx && q.rtx == rtx && q.ticket == ticket then { p with state := st, tagDone := false } else p
      | _ => p) })) } }

/-- The inbound packet of a context whose tag check is done and whose ticket is next. -/
def ticketReady (s : State) (ctx : Nat) (rtx : Bool) (ticket : Nat) : Option Pkt :=
  s.media.lanes.findSome? (fun l => l.2.fifo.findSome? (fun p => match p.work with
    | .inbound q => if p.tagDone && q.ctx == ctx && q.rtx == rtx && q.ticket == ticket then some q else none
    | _ => none))

/-- R257: accept an index: the window moves up, and the bit is set. -/
def acceptIndex (r : Replay) (i : Nat) : Replay :=
  if r.valid && decide (i ≤ r.highest) then { r with window := (r.window ||| 2 ^ (r.highest - i)) % 2 ^ 128 }
  else
    let moved := if r.valid then (r.window * 2 ^ (i - r.highest)) % 2 ^ 128 else 0
    { r with valid := true, highest := i, window := moved ||| 1 }

/-- R266, inbound: a first success under NEXT makes it CURRENT; the draining key goes once highest − 127 of the media
index reaches CURRENT's START. -/
def switchInbound (x : Stream) (key : Nat) : Stream :=
  let y := if (x.next.map (fun k => k.id)) = some key then promote x else x
  match y.cur with
  | none => y
  | some k => if y.replay.valid && decide (y.replay.highest ≥ k.start + 127) then { y with drain := none } else y

/-- R257 to R259: the steps in ticket order for the next packet of a context. -/
def execTicketStep (ctx : Nat) (rtx : Bool) (s : State) : Out :=
  .next (
    match getCtx s ctx with
    | none => s
    | some x =>
      let r := replayOf x rtx
      match ticketReady s ctx rtx r.doneTicket with
      | none => s
      | some q =>
        let done := passGivenUp { r with doneTicket := r.doneTicket + 1 } r.givenUp.length
        if r.valid && decide (q.index ≤ r.highest) && r.window.testBit (r.highest - q.index) then
          settle (cipCount (cipCount (keyCount (markTicket (setCtx s ctx (setReplay x rtx done)) ctx rtx q.ticket .void)
            ctx 0x04 1) cReplay 1) cVoid 1)
        else
          let y := switchInbound (setReplay x rtx (acceptIndex done q.index)) q.key
          let gone := if y.drain.isNone then x.drain.toList.filter (fun k => (y.cur.map (fun c => c.id)) != some k.id) else []
          settle (markTicket (retireRecs (setCtx s ctx y) gone) ctx rtx q.ticket .published))

-- ## The packing FIFO's consumers (R252, R279)

/-- The order number of a lane's packet, with its context and direction. -/
def orderOf (w : LaneWork) : Option (Bool × Nat × Nat) :=
  match w with
  | .inbound p => some (false, p.ctx, p.no)
  | .outbound p => some (true, p.ctx, p.no)
  | .job _ _ => none

/-- R252: an earlier packet of the same context is still to reach the consumer. -/
def earlierHeld (s : State) (w : LaneWork) : Bool :=
  match orderOf w with
  | none => false
  | some (d, c, n) => s.media.lanes.any (fun l => l.2.fifo.any (fun p => match orderOf p.work with
    | some (d', c', n') => d' == d && c' == c && decide (n' < n) && p.state != .void
    | none => false))

/-- R272 to R274: a packet of a job's output is written; the last one completes the command. -/
def jobOutput (s : State) (id off : Nat) (bytes : List Byte) : State :=
  match Tbl.get? s.media.jobs id with
  | none => s
  | some j =>
    let n := bytes.length
    let s1 := match j.dstRegion with
      | some r => regionWrite s j.dstSlot r (j.dstAddr + off) bytes
      | none => dramWrite s (j.dstAddr + off) bytes
    if j.written + n ≥ j.total then
      completeWhere (cipCount { s1 with media := { s1.media with jobs := Tbl.del s1.media.jobs id } } cJobs 1)
        (fun i => i.wait == .cipherJob id) 0 (word j.total) 0
    else { s1 with media := { s1.media with jobs := Tbl.put s1.media.jobs id { j with written := j.written + n } } }

/-- The packet at a lane's head has been popped whole. -/
def deliver (s : State) (p : FifoPkt) : State × Bool :=
  match p.work with
  | .inbound q => ({ s with media := { s.media with engineIn := s.media.engineIn ++ [q] } }, true)
  | .outbound q => toShaper s q
  | .job id off => (jobOutput s id off p.bytes, true)

/-- R279, R280: one row is popped from the head of a lane's FIFO: of a published packet in its context's order, or of a
VOID packet, whose rows are released. With the last row the packet reaches its consumer. A row that found the FIFO full is
pushed behind it. -/
def execFifoPop (lane : Fin 1024) (s0 : State) : Out :=
  .next (
    let s := advanceLane s0 lane
    let ln := getLane s lane
    match ln.fifo with
    | [] => s
    | p :: rest =>
      let less := { p with rowsHeld := p.rowsHeld - 1, popped := p.popped + 1 }
      match p.state with
      | .pending => s
      | .void => advanceLane (setLane s lane { ln with fifo := if p.rowsHeld ≤ 1 then rest else less :: rest }) lane
      | .published =>
        if earlierHeld s p.work then s
        else if p.rowsHeld > 1 then advanceLane (setLane s lane { ln with fifo := less :: rest }) lane
        else
          let r := deliver (setLane s lane { ln with fifo := rest }) p
          if r.2 then advanceLane (settle r.1) lane else s)

-- ## Bulk jobs (R272 to R274)

/-- R273: the bytes that a job writes. -/
def jobTotal (mode : Nat) (decrypt pad : Bool) (aad n : Nat) : Nat :=
  if mode = 6 then aad + n + 16
  else if mode = 1 && pad && !decrypt then 16 * (n / 16 + 1)
  else n

/-- R272: bytes of the block that must be zero. -/
def blockReserved (mode : Nat) (b : List Byte) : Bool :=
  let used := fun (i : Nat) =>
    i ≤ 2 || (8 ≤ i && i ≤ 63) || (64 ≤ i && i ≤ (if mode = 6 then 75 else 79)) || (mode == 5 && 80 ≤ i && i ≤ 93)
  b.zipIdx.any (fun p => !(used p.2) && p.1 != 0) || decide ((b.getD 2 0).toNat ≥ 4)
    || ((b.getD 2 0).getLsbD 1 && mode != 1)

/-- R264, R272: the job's key. -/
def jobKey (kek : Option (List Byte)) (wrapped : Bool) (n : Nat) (b : List Byte) : Option (List Byte) :=
  let field := (b.drop 8).take 56
  let size := if wrapped then n + 8 else n
  if (field.drop size).any (fun x => x != 0) then none
  else if wrapped then
    match kek.bind (fun k => unwrap k (field.take size)) with
    | some m => if m.length = n then some m else none
    | none => none
  else some (field.take n)

/-- Whether a range of module memory touches the module reserve or leaves the memory (R274). -/
def badModuleRange (a n : Nat) : Bool := decide (a + n > 2016 * gib)

/-- Whether a range of module memory holds a poisoned unit (R440). -/
def poisoned (s : State) (a n : Nat) : Bool := s.memory.poison.any (fun u => overlaps (u, 64) (a, n))

/-- Queue a job (R251: a lane group's job queue; the group is the model's choice). -/
def queueJob (s : State) (j : Job) : State × Nat :=
  let id := s.media.nextJob
  let g := getGroup s (id % 16)
  let s1 := setGroup s (id % 16) { g with jobQ := g.jobQ ++ [id] }
  ({ s1 with media := { s1.media with jobs := Tbl.put s1.media.jobs id j, nextJob := id + 1 } }, id)

/-- CIPHER_JOB once its parameter block has been read. -/
def cipherJobWith (s : State) (c : Cmd) (b : List Byte) (source : HostData) : Body :=
  let mode := (b.getD 0 0).toNat
  let keyLen := (b.getD 1 0).toNat
  let flags := b.getD 2 0
  let pad := flags.getLsbD 1
  let decrypt := cmdFlag c 0
  let n := bits c.w7 31 0
  let aad := if mode = 6 then bits c.w7 47 32 else 0
  let total := jobTotal mode decrypt pad aad n
  let key := jobKey (kekOf s c.slot) (flags.getLsbD 0) keyLen b
  let srcBad := c.w3 != 0 && regionBounds s c.slot c.w3 c.w4.toNat (aad + n) false
  let dstBad := c.w5 != 0 && regionBounds s c.slot c.w5 c.w6.toNat total true
  guarded s [(blockReserved mode b, 0x101), (n == 0 && mode != 6, 0x108), (srcBad || dstBad, 0x115),
      (mode == 1 && (!pad || decrypt) && n % 16 != 0, 0x118),
      (mode == 0 || decide (6 < mode) || (keyLen == 32 && mode == 5), 0x150),
      ((keyLen != 16 && keyLen != 32) || key.isNone, 0x151),
      ((c.w3 == 0 && badModuleRange c.w4.toNat (aad + n)) || (c.w5 == 0 && badModuleRange c.w6.toNat total), 0x1A2),
      (c.w3 == 0 && poisoned s c.w4.toNat (aad + n), 0x401)]
    (let j : Job := {
        block := b.take 8 ++ key.getD [] ++ b.drop 64, source := [], decrypt := decrypt, aadLen := aad, length := n
        dstSlot := c.slot, dstRegion := if c.w5 = 0 then none else some (hIndex c.w5 % 1024), dstAddr := c.w6.toNat
        srcRegion := if c.w3 = 0 then none else some (hIndex c.w3 % 1024), srcAddr := c.w4.toNat
        mode := mode, aes256 := keyLen == 32, total := total }
      if c.w3 = 0 then
        let r := queueJob s j
        .waits r.1 (.cipherJob r.2)
      else
        match source with
        | .bytes bs =>
          let r := queueJob s { j with source := bs }
          .waits r.1 (.cipherJob r.2)
        | d => hostFailure s c d)

def execCipherJob (c : Cmd) (block source : HostData) (s : State) : Out :=
  .next (runRing s 0x310 c fun s =>
    guarded s [(reservedBad c 1 [full, full, full, full, full, full, full], 0x101), regionCheck s c.slot c.w1,
        if c.w3 = 0 then (false, 0) else regionCheck s c.slot c.w3,
        if c.w5 = 0 then (false, 0) else regionCheck s c.slot c.w5,
        (decide (bits c.w7 31 0 > 16777216), 0x108), (regionBounds s c.slot c.w1 c.w2.toNat 128 false, 0x115),
        (c.w2.toNat % 64 != 0, 0x118)]
      (match block with
        | .bytes b => cipherJobWith s c b source
        | d => hostFailure s c d))

-- ## CIP_FLUSH (R282)

/-- CIP_FLUSH_STATUS.BUSY: a flush started through CIP_FLUSH is in progress. -/
def flushBusy (s : State) : Bool := (getLane s s.media.flushLane).cipFlush

/-- The write of CIP_FLUSH with GO: refused while another lane's flush is in progress. -/
def cipFlushWrite (s : State) (lane : Nat) : State × IStatus :=
  if flushBusy s && s.media.flushLane != lane then (s, .refused)
  else
    let s1 := flushLane { s with media := { s.media with flushLane := lane } } lane
    let s2 := setLane s1 lane { getLane s1 lane with cipFlush := (getLane s1 lane).flushing }
    (settle (reapJobs s2), .ok)

end Sys2Proof.Machine
end

