-- ==== Sys2Proof/Machine/Pixels.lean ====
section
/-! DEFINITION. Pictures in memory and their samples: slots and planes (R292, R293, R321, R322), colour conversion and
output (R320), blending (R319), taint policies and taint maps (R302, R323, R324). -/

namespace Sys2Proof.Machine

-- ## Slots and planes

/-- Bytes of a sample of a 4:2:0 format, or of a pixel of a packed one (R321). -/
def pxfBytes (pxf : Nat) : Nat := [0, 1, 2, 4, 6].getD pxf 0

/-- R292, R322: bytes per line of a slot. -/
def strideOf (pxf w : Nat) : Nat := if pxf = 4 then 6 * w else ceilDiv (w * pxfBytes pxf) 256 * 256

/-- R292, R322: bytes of a slot of a format and greatest size. -/
def slotBytes (pxf w h : Nat) : Nat :=
  let st := strideOf pxf w
  pageUp (512 + st * h + (if pxf = 4 then 0 else st * ceilDiv h 2))

/-- Where the samples of a picture lie: format, first sample, stride, chroma plane (R294, R321). -/
structure Planes where
  pxf : Nat
  luma : Nat
  stride : Nat
  chroma : Nat
  deriving DecidableEq, Repr

/-- The planes of a slot at `base` for a greatest height. -/
def slotPlanes (pxf base w h : Nat) : Planes :=
  { pxf := pxf, luma := base + 512, stride := strideOf pxf w, chroma := base + 512 + strideOf pxf w * h }

/-- A sample position as three 16-bit codes and its alpha. -/
structure Px where
  c0 : Nat
  c1 : Nat
  c2 : Nat
  pa : Nat := 255
  deriving DecidableEq, Repr

/-- R320, R321: the codes at column `x` of line `y`. A 4:2:0 chroma sample applies to each of its four positions. -/
def pixelAt (m : List Host.Cell) (p : Planes) (x y : Nat) : Px :=
  let byte := fun (a : Nat) => (readByte m a).toNat
  let half := fun (a : Nat) => byte a + 256 * byte (a + 1)
  match p.pxf with
  | 1 => { c0 := byte (p.luma + y * p.stride + x) * 256
           c1 := byte (p.chroma + y / 2 * p.stride + x / 2 * 2) * 256
           c2 := byte (p.chroma + y / 2 * p.stride + x / 2 * 2 + 1) * 256 }
  | 2 => { c0 := half (p.luma + y * p.stride + 2 * x) % 1024 * 64
           c1 := half (p.chroma + y / 2 * p.stride + x / 2 * 4) % 1024 * 64
           c2 := half (p.chroma + y / 2 * p.stride + x / 2 * 4 + 2) % 1024 * 64 }
  | 3 => let a := p.luma + y * p.stride + 4 * x
         { c0 := byte a * 256, c1 := byte (a + 1) * 256, c2 := byte (a + 2) * 256, pa := byte (a + 3) }
  | _ => let a := p.luma + y * p.stride + 6 * x
         { c0 := half a, c1 := half (a + 2), c2 := half (a + 4) }

/-- R293, R322: header words as the 256 bytes of a picture header. -/
def headerBytes (ws : List Word) : List Byte :=
  let bs := ws.flatMap (fun w => leBytes 6 w.toNat)
  bs ++ List.replicate (256 - bs.length) 0

/-- R302: a taint map as the 256 bytes that follow a header. -/
def mapBytes (areas : List Nat) : List Byte :=
  (List.range 256).map (fun i =>
    BitVec.ofNat 8 ((List.range 8).map (fun b => if areas.contains (8 * i + b) then 2 ^ b else 0)).sum)

/-- R293: the fields of header word 4 from a taint count, the size and a colour description. -/
def taintWord (areas w h pr tr mx : Nat) (fr : Bool) : Word :=
  word (areas * 2 ^ 36 + ceilDiv w 64 * 2 ^ 30 + ceilDiv h 64 * 2 ^ 24 + pr * 2 ^ 16 + tr * 2 ^ 8 + mx * 2 + b2n fr)

-- ## Colour conversion (R320)

/-- A coefficient carried to 16 fractional bits. -/
def coef (q : Rat) : Rat := ((q * 65536 + 1 / 2).floor : Rat) / 65536

/-- The luma coefficients of red and blue of H.273 matrices 1, 5, 6 and 9 (assumption 31). -/
def lumaCoefs (matrix : Nat) : Rat × Rat :=
  if matrix = 9 then (2627 / 10000, 593 / 10000)
  else if matrix = 5 || matrix = 6 then (299 / 1000, 114 / 1000)
  else (2126 / 10000, 722 / 10000)

/-- Offset and scale of luma codes and scale of chroma codes, by range. -/
def rangeScale (full : Bool) : Rat × Rat × Rat := if full then (0, 65280, 65280) else (4096, 56064, 57344)

/-- Codes to red, green and blue as fractions. -/
def toRgb (matrix : Nat) (full : Bool) (p : Px) : Rat × Rat × Rat :=
  let k := lumaCoefs matrix
  let sc := rangeScale full
  let kg := 1 - k.1 - k.2
  let y : Rat := ((p.c0 : Rat) - sc.1) / sc.2.1
  let cb : Rat := ((p.c1 : Rat) - 32768) / sc.2.2
  let cr : Rat := ((p.c2 : Rat) - 32768) / sc.2.2
  (y + coef (2 * (1 - k.1)) * cr,
   y - coef (2 * k.2 * (1 - k.2) / kg) * cb - coef (2 * k.1 * (1 - k.1) / kg) * cr,
   y + coef (2 * (1 - k.2)) * cb)

/-- Round to nearest and clip to a 16-bit code. -/
def clip16 (q : Rat) : Nat := min 65535 (q + 1 / 2).floor.toNat

/-- Red, green and blue to codes. -/
def fromRgb (matrix : Nat) (full : Bool) (pa : Nat) (c : Rat × Rat × Rat) : Px :=
  let k := lumaCoefs matrix
  let sc := rangeScale full
  let kg := 1 - k.1 - k.2
  let y := coef k.1 * c.1 + coef kg * c.2.1 + coef k.2 * c.2.2
  let cb := coef (-(k.1 / (2 * (1 - k.2)))) * c.1 + coef (-(kg / (2 * (1 - k.2)))) * c.2.1 + coef (1 / 2) * c.2.2
  let cr := coef (1 / 2) * c.1 + coef (-(kg / (2 * (1 - k.1)))) * c.2.1 + coef (-(k.2 / (2 * (1 - k.1)))) * c.2.2
  { c0 := clip16 (y * sc.2.1 + sc.1), c1 := clip16 (cb * sc.2.2 + 32768), c2 := clip16 (cr * sc.2.2 + 32768), pa := pa }

/-- R320: a source matrix code other than 1, 5, 6 or 9 is treated as 1. -/
def knownMatrix (m : Nat) : Bool := m == 1 || m == 5 || m == 6 || m == 9
def effMatrix (m : Nat) : Nat := if knownMatrix m then m else 1

/-- R320: convert a sample to the canvas matrix and range, when they differ or the source is R'G'B'. -/
def convert (pxf srcMatrix : Nat) (srcFull : Bool) (matrix : Nat) (full : Bool) (p : Px) : Px :=
  if pxf = 3 then
    fromRgb matrix full p.pa ((p.c0 : Rat) / 65280, (p.c1 : Rat) / 65280, (p.c2 : Rat) / 65280)
  else if effMatrix srcMatrix = matrix && srcFull == full then p
  else fromRgb matrix full p.pa (toRgb (effMatrix srcMatrix) srcFull p)

/-- R320: a 16-bit code in 8 bits and in 10 bits. -/
def out8 (v : Nat) : Nat := min 255 ((v + 128) / 256)
def out10 (v : Nat) : Nat := min 1023 ((v + 32) / 64)

/-- R319: one component of one layer over what is below. -/
def blend1 (src below a : Nat) : Nat := (src * a + below * (255 - a) + 127) / 255

/-- R319: a layer's sample over what is below, with the layer's alpha. -/
def blend (alpha : Nat) (p below : Px) : Px :=
  let a := (alpha * p.pa + 127) / 255
  { c0 := blend1 p.c0 below.c0 a, c1 := blend1 p.c1 below.c1 a, c2 := blend1 p.c2 below.c2 a }

/-- 8-bit codes of a FILL or BACKGROUND field as 16-bit codes. -/
def fillPx (f : Nat) : Px := { c0 := f / 65536 % 256 * 256, c1 := f / 256 % 256 * 256, c2 := f % 256 * 256 }

-- ## Layers of one canvas picture (R314, R317, R323, R324)

/-- What a layer reads in one canvas picture: where its samples lie and how far they reach, its colour, its tainted areas
and what its hold image holds (R323). -/
structure LayerSrc where
  planes : Planes
  width : Nat
  height : Nat
  matrix : Nat
  full : Bool
  taint : List Nat := []
  hold : Option HoldImage := none
  deriving DecidableEq, Repr

/-- The 64 × 64 area that holds a sample of a picture of a width (R302). -/
def areaOf (width x y : Nat) : Nat := y / 64 * ceilDiv width 64 + x / 64

/-- Whether a canvas position lies in a layer's rectangle (R317). -/
def covers (l : Layer) (x y : Nat) : Bool :=
  decide (l.x ≤ x) && decide (x < l.x + l.cropW) && decide (l.y ≤ y) && decide (y < l.y + l.cropH)

/-- The pixel of a hold image at a position of its layer. -/
def holdPixel (m : List Host.Cell) (l : Layer) (h : HoldImage) (x y : Nat) : Px :=
  pixelAt m { pxf := 4, luma := h.base, stride := 6 * l.cropW, chroma := 0 } (x - l.x) (y - l.y)

/-- The sample that a layer gives at a position it covers, after conversion, and whether it is a tainted one shown. -/
def layerPx (m : List Host.Cell) (matrix : Nat) (full : Bool) (l : Layer) (src : Option LayerSrc) (x y : Nat) :
    Px × Bool :=
  let sx := l.cropX + (x - l.x)
  let sy := l.cropY + (y - l.y)
  match src with
  | none => (fillPx l.fill, false)
  | some r =>
    if sx ≥ r.width || sy ≥ r.height then (fillPx l.fill, false)
    else
      let raw := convert r.planes.pxf r.matrix r.full matrix full (pixelAt m r.planes sx sy)
      let p := if l.pixelAlpha then raw else { raw with pa := 255 }
      let area := areaOf r.width sx sy
      if !(r.taint.contains area) then (p, false)
      else if l.policy = 0 then (p, decide ((l.alpha * p.pa + 127) / 255 > 0))
      else if l.policy = 1 then
        match r.hold with
        | some h => if h.clean.contains area then (holdPixel m l h x y, false) else (fillPx l.fill, false)
        | none => (fillPx l.fill, false)
      else (fillPx l.fill, false)

/-- R319: the canvas sample at a position, and whether it shows a tainted sample. -/
def canvasPx (m : List Host.Cell) (matrix : Nat) (full : Bool) (background : Nat)
    (ls : List (Layer × Option LayerSrc)) (x y : Nat) : Px × Bool :=
  ls.foldl (fun acc l =>
    if covers l.1 x y then
      let p := layerPx m matrix full l.1 l.2 x y
      (blend l.1.alpha p.1 acc.1, acc.2 || p.2)
    else acc) (fillPx background, false)

/-- R20, R321: three codes as an internal word. -/
def pxWord (p : Px) : Word := word (p.c0 % 65536 + p.c1 % 65536 * 2 ^ 16 + p.c2 % 65536 * 2 ^ 32)
def wordPx (w : Word) : Px := { c0 := bits w 15 0, c1 := bits w 31 16, c2 := bits w 47 32 }

/-- The composed lines of a canvas picture and its tainted areas (R319, R324). -/
def composeLines (m : List Host.Cell) (w h matrix : Nat) (full : Bool) (background : Nat)
    (ls : List (Layer × Option LayerSrc)) : List (List Word) × List Nat :=
  let all := (List.range h).map (fun y => (List.range w).map (fun x => canvasPx m matrix full background ls x y))
  let tainted := (List.range h).flatMap (fun y => ((List.range w).filter (fun x =>
    ((all.getD y []).getD x (fillPx 0, false)).2)).map (fun x => areaOf w x y))
  (all.map (fun l => l.map (fun p => pxWord p.1)),
   (List.range (ceilDiv w 64 * ceilDiv h 64)).filter (fun a => tainted.contains a))

/-- R323: every clean source area within the crop is copied into the hold image. -/
def holdCopy (m : List Host.Cell) (matrix : Nat) (full : Bool) (l : Layer) (r : LayerSrc) (h : HoldImage) :
    List Host.Cell × HoldImage :=
  let spots := (List.range l.cropH).flatMap (fun j => (List.range l.cropW).map (fun i => (i, j)))
  let seen := spots.filter (fun p => decide (l.cropX + p.1 < r.width) && decide (l.cropY + p.2 < r.height)
    && !(r.taint.contains (areaOf r.width (l.cropX + p.1) (l.cropY + p.2))))
  let mem := seen.foldl (fun mem p =>
    let px := convert r.planes.pxf r.matrix r.full matrix full (pixelAt m r.planes (l.cropX + p.1) (l.cropY + p.2))
    writeBytes mem (h.base + p.2 * 6 * l.cropW + p.1 * 6) (leBytes 6 (pxWord px).toNat)) m
  let areas := seen.map (fun p => areaOf r.width (l.cropX + p.1) (l.cropY + p.2))
  (mem, { h with clean := h.clean ++ (areas.foldl (fun acc a =>
    if acc.contains a || h.clean.contains a then acc else acc ++ [a]) []) })

-- ## Writing composed lines (R320 to R322)

/-- A 4:2:0 chroma sample: the mean of its four positions' output codes. -/
def chroma4 (out : Nat → Nat) (c : Px → Nat) (a b : List Word) (k : Nat) : Nat :=
  let at_ := fun (ws : List Word) (i : Nat) => out (c (wordPx (ws.getD i 0)))
  (at_ a (2 * k) + at_ a (2 * k + 1) + at_ b (2 * k) + at_ b (2 * k + 1) + 2) / 4

/-- The bytes of one line of luma, of one line of chroma from two canvas lines, and of one line of internal words. -/
def lumaBytes (pxf : Nat) (ws : List Word) : List Byte :=
  ws.flatMap (fun w => if pxf = 1 then leBytes 1 (out8 (wordPx w).c0) else leBytes 2 (out10 (wordPx w).c0))
def chromaBytes (pxf : Nat) (a b : List Word) : List Byte :=
  (List.range (a.length / 2)).flatMap (fun k =>
    if pxf = 1 then leBytes 1 (chroma4 out8 Px.c1 a b k) ++ leBytes 1 (chroma4 out8 Px.c2 a b k)
    else leBytes 2 (chroma4 out10 Px.c1 a b k) ++ leBytes 2 (chroma4 out10 Px.c2 a b k))
def wordLine (ws : List Word) : List Byte := ws.flatMap (fun w => leBytes 6 w.toNat)

/-- Write lines `y` on of a picture into its planes; the number of lines is even. -/
def writeLines (m : List Host.Cell) (p : Planes) (y : Nat) (ls : List (List Word)) : List Host.Cell :=
  match ls with
  | [] => m
  | [a] => writeBytes m (p.luma + y * p.stride) (if p.pxf = 4 then wordLine a else lumaBytes p.pxf a)
  | a :: b :: rest =>
    if p.pxf = 4 then
      let m1 := writeBytes m (p.luma + y * p.stride) (wordLine a)
      writeLines (writeBytes m1 (p.luma + (y + 1) * p.stride) (wordLine b)) p (y + 2) rest
    else
      let m1 := writeBytes m (p.luma + y * p.stride) (lumaBytes p.pxf a)
      let m2 := writeBytes m1 (p.luma + (y + 1) * p.stride) (lumaBytes p.pxf b)
      writeLines (writeBytes m2 (p.chroma + y / 2 * p.stride) (chromaBytes p.pxf a b)) p (y + 2) rest

end Sys2Proof.Machine
end

