-- ==== Sys2Proof/Machine/MediaUnits.lean ====
section
/-! DEFINITION. What the decode, compose and encode units share: their objects, events and counters, picture schedules
(R313), one attempt at a canvas picture (R314, R323 to R326) and at a coded picture (R351, R352), and what follows when a
speculation is resolved (R81, R90, R92). -/

namespace Sys2Proof.Machine

-- ## Objects

def getDec (s : State) (d : Nat) : Option Dec := Tbl.get? s.units.decs d
def setDec (s : State) (d : Nat) (x : Dec) : State := { s with units := { s.units with decs := Tbl.put s.units.decs d x } }
def updDec (s : State) (d : Nat) (f : Dec → Dec) : State :=
  { s with units := { s.units with decs := Tbl.upd s.units.decs d f } }
def getCanvas (s : State) (c : Nat) : Option Canvas := Tbl.get? s.units.canvases c
def setCanvas (s : State) (c : Nat) (x : Canvas) : State :=
  { s with units := { s.units with canvases := Tbl.put s.units.canvases c x } }
def updCanvas (s : State) (c : Nat) (f : Canvas → Canvas) : State :=
  { s with units := { s.units with canvases := Tbl.upd s.units.canvases c f } }
def getEnc (s : State) (c : Nat) : Option Enc := Tbl.get? s.units.encs c
def setEnc (s : State) (c : Nat) (x : Enc) : State := { s with units := { s.units with encs := Tbl.put s.units.encs c x } }
def updEnc (s : State) (c : Nat) (f : Enc → Enc) : State :=
  { s with units := { s.units with encs := Tbl.upd s.units.encs c f } }

-- ## Events of an object, each kind at most once a second (R309, R332, R365, R395)

/-- Whether an event of a kind may be posted now. -/
def mayPost (s : State) (events : List (Nat × Nat)) (kind : Nat) : Bool :=
  match Tbl.get? events kind with
  | some t => decide (now s ≥ t + second)
  | none => true

def decEvent (s : State) (d kind status : Nat) (w1 : Word) : State :=
  match getDec s d with
  | none => s
  | some x =>
    if x.eventsEn && mayPost s x.events kind then
      postEvent (setDec s d { x with events := Tbl.put x.events kind (now s) }) x.slot x.queue x.tag x.ring status w1
        (word (kind * 2 ^ 44 + d))
    else s

def canvasEvent (s : State) (c kind status : Nat) (w1 : Word) : State :=
  match getCanvas s c with
  | none => s
  | some x =>
    if x.eventsEn && mayPost s x.events kind then
      postEvent (setCanvas s c { x with events := Tbl.put x.events kind (now s) }) x.slot x.queue x.tag x.ring status w1
        (word (kind * 2 ^ 44 + c))
    else s

def encEvent (s : State) (c kind status : Nat) (w1 : Word) : State :=
  match getEnc s c with
  | none => s
  | some x =>
    if x.eventsEn && mayPost s x.events kind then
      postEvent (setEnc s c { x with events := Tbl.put x.events kind (now s) }) x.slot x.queue x.tag x.ring status w1
        (word (kind * 2 ^ 44 + c))
    else s

-- ## Counters: of an object (R310, R333, R366), and of the unit's registers

def decCount (s : State) (d k n : Nat) : State := updDec s d (fun x => { x with counters := bumpS x.counters k n })
def canvasCount (s : State) (c k n : Nat) : State := updCanvas s c (fun x => { x with counters := bumpS x.counters k n })
def encCount (s : State) (c k n : Nat) : State := updEnc s c (fun x => { x with counters := bumpS x.counters k n })

-- ## Picture schedules (R313)

/-- The least whole number not below a / b, for b above 0. -/
def ceilInt (a b : Int) : Int := -((-a) / b)

/-- The start of period `k` of a schedule of `den` / `num` seconds from an origin. -/
def schedAt (origin : Int) (k : Int) (num den : Nat) : Nat :=
  (origin + ceilInt (k * (den * second : Nat)) (num : Nat)).toNat

/-- The smallest k whose start is at or after an instant. -/
def schedFirst (origin : Int) (num den t : Nat) : Int := ceilInt (((t : Int) - origin) * (num : Nat)) ((den * second : Nat) : Int)

/-- The deadline of row `r` of `rows` in a window after a start (R313). -/
def rowDue (start windowUs rows r : Nat) : Nat := start + ceilDiv (windowUs * (r + 1) * second) (rows * 1000000)

-- ## Decode contexts as sources

/-- R292: the pool's sample format, slot size, and the place of a slot. -/
def Dec.pxf (x : Dec) : Nat := if x.depth10 then 2 else 1
def Dec.slotSize (x : Dec) : Nat := slotBytes x.pxf x.maxW x.maxH
def Dec.slotBase (x : Dec) (k : Nat) : Nat := x.base + k * x.slotSize
def Dec.pic (x : Dec) (n : Nat) : Option Pic := x.pics.find? (fun p => p.no == n)
def decPic (s : State) (d n : Nat) : Option Pic := (getDec s d).bind (fun x => x.pic n)

/-- R293: the header of a decoded picture. -/
def picHeader (x : Dec) (p : Pic) : List Word :=
  [ word (p.width * 2 ^ 32 + p.height * 2 ^ 16 + strideOf x.pxf x.maxW),
    word (b2n p.concealed * 2 ^ 47 + b2n p.greyRef * 2 ^ 46 + b2n (p.ripe.final && p.ripe.flag) * 2 ^ 45
      + b2n p.redecoded * 2 ^ 44 + b2n x.depth10 * 2 ^ 43 + b2n p.monochrome * 2 ^ 42 + p.s * 2 ^ 36 + p.t * 2 ^ 32
      + p.ts % 2 ^ 32),
    bt48 p.releasedAt,
    (p.finalAt.map bt48).getD 0,
    taintWord p.taint.length p.width p.height p.colour.1 p.colour.2.1 p.colour.2.2.1 p.colour.2.2.2,
    word p.outNo ]

/-- Write a picture's header and taint map. -/
def writePicHeader (s : State) (x : Dec) (p : Pic) : State :=
  dramWrite s (x.slotBase p.slotNo) (headerBytes (picHeader x p) ++ mapBytes p.taint)

/-- R87, R310: what a final output adds to the counters, once. -/
def countOutput (s : State) (d : Nat) (p : Pic) : State :=
  let s1 := decCount (decCount s d 0x00 1) d 0x01 (b2n p.ripe.flag)
  let s2 := bumpC (bumpC s1 (oDecCounter 0) 1) (oDecCounter 1) (b2n p.ripe.flag)
  updDec s2 d (fun x => { x with gauge := if x.gauge.1 ≤ p.outNo then (p.outNo, p.taint.length) else x.gauge })

/-- The newest of a context's output pictures that is final (R288). -/
def Dec.newestFinal (x : Dec) : Option Pic :=
  (x.pics.filter (fun p => p.output && p.ripe.final)).foldl (fun (m : Option Pic) p => match m with
    | none => some p
    | some q => if q.outNo < p.outNo then some p else some q) none

/-- R288: while the context decodes nothing, a newer picture that becomes final is its output. -/
def keepFinal (s : State) (d : Nat) (p : Pic) : State :=
  updDec s d (fun x =>
    if x.unsupported && ((x.newest.bind x.pic).elim true (fun q => decide (q.outNo < p.outNo))) then { x with newest := some p.no }
    else x)

/-- R87, R293: a picture that has become final: its time, its header, and the counters it held back. -/
def picFinal (s : State) (d : Nat) (p : Pic) : State :=
  match getDec s d with
  | none => s
  | some x =>
    let q := { p with finalAt := some (now s) }
    let s1 := writePicHeader (setDec s d { x with pics := x.pics.map (fun r => if r.no == p.no then q else r) }) x q
    let s2 := if q.output then countOutput (keepFinal s1 d q) d q else s1
    if q.concealed then bumpC (decCount s2 d 0x02 1) (oDecCounter 2) 1 else s2

/-- The pictures of a context that a reference slot, an output or an open entry still needs. -/
def neededPic (x : Dec) (p : Pic) : Bool :=
  x.refs.any (fun r => r.2 == p.no) || x.newest == some p.no || x.before == some (some p.no) || (p.shown && !p.output) || p.ripe.entry.isSome
    || x.runs.any (fun r => r.2.contains p.no)

/-- Slots that nothing needs any more are freed, and decodes that wait for one go on (R292, R405). -/
def prunePics (s : State) (d : Nat) : State :=
  match getDec s d with
  | none => s
  | some x =>
    let kept := x.pics.filter (neededPic x)
    if kept.length = x.pics.length then s
    else resumeTasks (setDec s d { x with pics := kept }) .poolSlot (fun k => k == keyDec d)

/-- R87, R310: completed runs whose pictures have all become final are counted. -/
def countRuns (s : State) (d : Nat) : State :=
  match getDec s d with
  | none => s
  | some x =>
    let done := x.redecoded.filter (fun r => r.all (fun n => (x.pic n).elim true (fun p => p.ripe.final)))
    done.foldl (fun s r => bumpC (decCount s d 0x03 1) (oDecCounter 3) r.length)
      (setDec s d { x with redecoded := x.redecoded.filter (fun r => !(done.contains r)) })

/-- Pictures of a context that have become final are settled. -/
def settleDec (s : State) (d : Nat) : State :=
  match getDec s d with
  | none => s
  | some x =>
    let s1 := (x.pics.filter (fun p => p.finalAt.isNone && p.ripe.final)).foldl (fun s p => picFinal s d p) s
    prunePics (countRuns s1 d) d

-- ## Canvases

/-- R313: rows of a canvas, starts of its pictures, and row deadlines. -/
def Canvas.rows (c : Canvas) : Nat := ceilDiv c.height 16
def Canvas.startOf (c : Canvas) (n : Nat) : Nat := schedAt c.origin (c.k0 + n) c.fpsNum c.fpsDen
def Canvas.rowDue (c : Canvas) (start r : Nat) : Nat := Machine.rowDue start c.windowUs c.rows r
def Canvas.lastDue (c : Canvas) (start : Nat) : Nat := c.rowDue start (c.rows - 1)
def Canvas.bufBase (c : Canvas) (k : Nat) : Nat := c.base + k * c.bufBytes
def Canvas.planes (c : Canvas) (k : Nat) : Planes := slotPlanes c.pxf (c.bufBase k) c.width c.height

/-- The pictures of a canvas: in progress, newest complete, older. -/
def Canvas.all (c : Canvas) : List CanvasPic := c.cur.toList ++ c.newest.toList ++ c.unripe
def canvasPic (s : State) (c n : Nat) : Option CanvasPic := (getCanvas s c).bind (fun x => x.all.find? (fun p => p.no == n))

/-- R322: the header of a canvas buffer. -/
def canvasHeader (c : Canvas) (p : CanvasPic) : List Word :=
  [ word (c.width * 2 ^ 32 + c.height * 2 ^ 16 + strideOf c.pxf c.width),
    word (b2n (p.ripe.final && p.ripe.flag) * 2 ^ 45 + b2n p.recomposed * 2 ^ 44 + b2n (c.pxf == 2 || c.pxf == 4) * 2 ^ 43),
    bt48 p.start,
    (p.finalAt.map bt48).getD 0,
    taintWord p.taint.length c.width c.height c.primaries c.transfer c.matrix c.fullRange,
    word p.no,
    word c.pxf ]

def writeCanvasHeader (s : State) (c : Canvas) (p : CanvasPic) : State :=
  if c.memBufs = 0 then s else dramWrite s (c.bufBase p.buffer) (headerBytes (canvasHeader c p) ++ mapBytes p.taint)

/-- What layer `i` of a canvas reads: the newest output of a decode context, or the newest complete picture of another
canvas (R314). What the TIME cycle itself has brought is not seen. -/
def newestSource (s : State) (w : Word) : Option (Nat × Nat) :=
  if hType w = 6 then (getDec s (hIndex w)).bind (fun d => (d.before.getD d.newest).map (fun n => (hIndex w, n)))
  else if hType w = 7 then (getCanvas s (hIndex w)).bind (fun c =>
    (c.before.getD (c.newest.map (fun p => p.no))).map (fun n => (hIndex w, n)))
  else none

/-- The ripeness of a source picture; none when it is not there. -/
def sourceRipe (s : State) (w : Word) (r : Nat × Nat) : Option Ripe :=
  if hType w = 6 then (decPic s r.1 r.2).map (fun p => p.ripe) else (canvasPic s r.1 r.2).map (fun p => p.ripe)

/-- R326, R92: a source picture that an attempt may read: not discarded, and final when it is itself a replacement. -/
def sourceReady (s : State) (w : Word) (r : Nat × Nat) : Bool :=
  if hType w = 6 then
    match decPic s r.1 r.2 with
    | some p => !p.ripe.discarded && (!p.redecoded || p.ripe.final)
    | none => true
  else
    match canvasPic s r.1 r.2 with
    | some p => !p.ripe.discarded && !p.redo && !p.joinWait && (!p.recomposed || p.ripe.final)
    | none => true

/-- The samples of a layer's source picture, or of its still (R314, R316, R318). -/
def layerSrc (s : State) (c : Canvas) (l : Layer) (src : Option (Nat × Nat)) (hold : Option HoldImage) : Option LayerSrc :=
  if l.source = 0 then
    some { planes := { pxf := l.pxf, luma := l.stillAddr.toNat, stride := l.stillStride
                       chroma := l.stillAddr.toNat + l.stillStride * l.stillH }
           width := l.stillW, height := l.stillH, matrix := c.matrix, full := c.fullRange }
  else
    match src with
    | none => none
    | some r =>
      if hType l.source = 6 then
        match getDec s r.1, decPic s r.1 r.2 with
        | some d, some p =>
          some { planes := slotPlanes d.pxf (d.slotBase p.slotNo) d.maxW d.maxH, width := p.width, height := p.height
                 matrix := p.colour.2.2.1, full := p.colour.2.2.2, taint := p.taint, hold := hold }
        | _, _ => none
      else
        match getCanvas s r.1, canvasPic s r.1 r.2 with
        | some k, some p =>
          some { planes := k.planes p.buffer, width := k.width, height := k.height, matrix := k.matrix
                 full := k.fullRange, taint := p.taint, hold := hold }
        | _, _ => none

/-- The task of a canvas picture (R400, R401). -/
def canvasTask (c : Canvas) (id : Nat) (p : CanvasPic) : Task :=
  { cls := clsCmp, band := 0, deadline := some (c.lastDue p.start), affinity := keyCanvas id, serial := some (keyCanvas id)
    seq := 0, entry := p.ripe.entry }

/-- Where in a picture's list of sources a record is. -/
def picSource (p : CanvasPic) (i : Nat) : Option (Nat × Nat) := (p.sources.find? (fun q => q.1 == i)).map (·.2)

/-- What a hold image keeps of a copy from a source with a ripeness (R88): while the source is unripe, so is what the hold
image holds of it, and its state before the first such copy is kept. A copy that covers every area from a final source makes
it that source's. -/
def copiedFrom (s : State) (h : HoldImage) (src : Ripe) (whole : Bool) : HoldImage :=
  match src.entry with
  | none => if whole then { h with opens := [], flag := src.flag, saved := none } else { h with flag := h.flag || src.flag }
  | some e =>
    { h with
      opens := distinct (h.opens ++ [e])
      flag := h.flag || src.flag
      saved := some (h.saved.getD (h.clean, s.memory.dram.filter (fun c => decide (h.base ≤ c.1) && decide (c.1 < h.base + h.bytes)))) }

/-- R323: copy clean areas into the hold images of the HOLD layers, one record after the other. -/
def updateHolds (s : State) (c : Canvas) (p : CanvasPic) (is : List Nat) : State × Canvas :=
  match is with
  | [] => (s, c)
  | i :: rest =>
    match c.layers[i]?, c.holds.find? (fun h => h.record == i) with
    | some l, some h =>
      (match layerSrc s c l (picSource p i) (some h) with
       | none => updateHolds s c p rest
       | some r =>
         let ripe := ((picSource p i).bind (sourceRipe s l.source)).getD {}
         let a := holdCopy s.memory.dram c.matrix c.fullRange l r (copiedFrom s h ripe r.taint.isEmpty)
         updateHolds { s with memory := { s.memory with dram := a.1 } }
           { c with holds := c.holds.map (fun g => if g.record == i then a.2 else g) } p rest)
    | _, _ => updateHolds s c p rest

/-- Read the layers of a canvas picture and compose its samples, once, with a ripeness that it has been given (R314,
R319, R323, R324). Layer indices count records. -/
def composeNow (s : State) (c0 : Canvas) (p : CanvasPic) (r : Ripe) : State × Canvas × CanvasPic :=
  let h := updateHolds s c0 p (List.range c0.layers.length)
  let c := h.2
  let ls := (List.range c.layers.length).filterMap (fun i => (c.layers[i]?).map (fun l =>
    (l, layerSrc h.1 c l (picSource p i) (c.holds.find? (fun g => g.record == i)))))
  let out := composeLines h.1.memory.dram c.width c.height c.matrix c.fullRange c.background ls
  let q := { p with
    ripe := r
    row := 0
    lines := out.1
    taint := out.2
    matrixAs1 := (ls.filter (fun l => match l.2 with
      | some x => !(knownMatrix x.matrix)
      | none => false)).length
    minSeq := h.1.sched.nextSeq
    redo := false
    joinWait := false }
  let s1 := match r.entry with
    | none => if c.memBufs = 0 then h.1 else overwritten h.1 (c.bufBase q.buffer) c.bufBytes
    | some e => if c.memBufs = 0 then h.1 else
        holdPages (overwritten h.1 (c.bufBase q.buffer) c.bufBytes) (c.bufBase q.buffer) c.bufBytes e
  let s2 := c.holds.foldl (fun s g => g.opens.foldl (fun s e => holdPages s g.base g.bytes e) s) s1
  (s2, { c with cur := some q }, q)

/-- Whether a source picture that a record reads has tainted areas, for which a HOLD layer shows its hold image. -/
def showsTaint (s : State) (c : Canvas) (q : Nat × Nat × Nat) : Bool :=
  match c.layers[q.1]? with
  | none => false
  | some l => (layerSrc s c l (some q.2) none).elim false (fun r => !r.taint.isEmpty)

/-- One attempt at a canvas picture with the sources it has read: the picture takes its ripeness and is composed, or
waits for a join entry (R92, R108, R326). The task is asked for afterwards. -/
def attemptCanvas (s : State) (id : Nat) (c : Canvas) (p : CanvasPic) : State × Bool :=
  let ins := p.sources.filterMap (fun q => match c.layers[q.1]? with
    | some l => sourceRipe s l.source q.2
    | none => none)
  let kept := c.holds.flatMap (fun h =>
    if (p.sources.find? (fun q => q.1 == h.record)).elim false (fun q => showsTaint s c q) then
      { entry := none, flag := h.flag } :: h.opens.map (fun e => { entry := some e })
    else [])
  let j := joinBound s (keyCanvas id) (ins ++ kept) (c.lastDue p.start)
  match j.2 with
  | none => (setCanvas j.1 id { c with cur := some { p with joinWait := true } }, false)
  | some r =>
    let a := composeNow j.1 c p r
    (setCanvas a.1 id a.2.1, true)

/-- R333: the counters that a final and complete canvas picture adds, its header and its event. -/
def canvasFinal (s : State) (id : Nat) (p : CanvasPic) : State :=
  match getCanvas s id with
  | none => s
  | some c =>
    let q := { p with finalAt := some (now s), lines := [] }
    let mark := fun (x : CanvasPic) => if x.no == p.no then q else x
    let s1 := writeCanvasHeader (setCanvas s id { c with
      newest := c.newest.map mark, unripe := (c.unripe.map mark).take 2 }) c q
    let s2 := [(0, 1), (1, b2n p.ripe.flag), (2, b2n p.recomposed), (3, p.late), (5, p.hints.length), (6, p.matrixAs1)].foldl
      (fun s k => canvasCount s id k.1 k.2) s1
    let s3 := [(0, 1), (1, b2n p.ripe.flag), (2, p.late), (4, p.hints.length)].foldl
      (fun s k => bumpC s (oCmpCounter k.1) k.2) s2
    let s4 := updCanvas s3 id (fun c => { c with counters := Tbl.put c.counters 7 p.taint.length })
    if p.late > 0 then canvasEvent s4 id 0 0x502 (word p.late) else s4

/-- Complete pictures of a canvas that have become final are settled. -/
def settleCanvas (s : State) (id : Nat) : State :=
  match getCanvas s id with
  | none => s
  | some c =>
    ((c.unripe.reverse ++ c.newest.toList).filter (fun p => p.finalAt.isNone && p.ripe.final)).foldl
      (fun s p => canvasFinal s id p) s

-- ## Encode channels

/-- R345: the block size of a codec. -/
def blockSize (codec : Nat) : Nat := if codec = 5 then 64 else 16

/-- A channel whose sources are canvases. -/
def Enc.fromCanvas (e : Enc) : Bool := e.srcs.any (fun w => hType w == 7)

/-- Parts of `n` as equal as whole numbers allow, the larger first: start and size of part `i` of `k` (R351). -/
def part (n k i : Nat) : Nat × Nat := (i * (n / k) + min i (n % k), n / k + (if i < n % k then 1 else 0))

/-- The block rows and the number of blocks of a segment of a layer (R351). -/
def segShape (codec segments w h i : Nat) : List Nat × Nat :=
  let b := blockSize codec
  let rows := ceilDiv h b
  let cols := ceilDiv w b
  if codec = 5 then (List.range rows, rows * (part cols segments i).2)
  else if codec = 1 then
    let p := part rows segments i
    ((List.range p.2).map (· + p.1), p.2 * cols)
  else
    let rs := (List.range rows).filter (fun r => r % segments == i)
    (rs, rs.length * cols)

/-- R339: the bytes of one reference slot of a layer, and the place of slot `k` of a layer. -/
def encSlotSize (codec : Nat) (d10 : Bool) (z : Nat × Nat) : Nat :=
  let m := if codec = 5 then 8 else 16
  slotBytes (if d10 then 2 else 1) (ceilDiv z.1 m * m) (ceilDiv z.2 m * m)
def Enc.slotBase (e : Enc) (l k : Nat) : Nat :=
  e.base + ((e.sizes.take l).map (fun z => (e.tLayers + 1) * encSlotSize e.codec e.depth10 z)).sum
    + k * encSlotSize e.codec e.depth10 (e.sizes.getD l (0, 0))

/-- R352's H and R353's D. -/
def stepsH (codec : Nat) : Nat := if codec = 1 then 6 else if codec = 3 then 20 else 24
def stepD (codec : Nat) : Nat := if codec = 1 then 1 else if codec = 3 then 3 else 4

/-- R336, R335: the schedule of a channel: origin, frame rate and window. -/
def encSched (s : State) (e : Enc) : Int × Nat × Nat × Nat :=
  match e.srcs.head? with
  | some w =>
    if hType w = 7 then
      match getCanvas s (hIndex w) with
      | some c => (c.origin, c.fpsNum, c.fpsDen, c.windowUs)
      | none => (e.origin, e.fpsNum, e.fpsDen, e.windowUs)
    else (e.origin, e.fpsNum, e.fpsDen, e.windowUs)
  | none => (e.origin, e.fpsNum, e.fpsDen, e.windowUs)

def encStart (s : State) (e : Enc) (n : Nat) : Nat :=
  let x := encSched s e
  schedAt x.1 (e.k0 + n) x.2.1 x.2.2.1

/-- R355: the last source row that block row `r` of a layer covers, and its deadline. -/
def lastSrcRow (codec h r : Nat) : Nat := min (ceilDiv h 16 - 1) ((r + 1) * (blockSize codec / 16) - 1)
def blockDue (s : State) (e : Enc) (start layer r : Nat) : Nat :=
  let h := (e.sizes.getD layer (0, 0)).2
  rowDue start (encSched s e).2.2.2 (ceilDiv h 16) (lastSrcRow e.codec h r)

/-- R357, R93: the emission deadline of a coded picture: the row deadline of its last row, in the top layer. -/
def encEmission (s : State) (e : Enc) (start : Nat) : Nat :=
  let top := e.sLayers - 1
  blockDue s e start top (ceilDiv (e.sizes.getD top (0, 0)).2 (blockSize e.codec) - 1)

/-- The segments of a picture that is to be coded, from its budgets and QPs (R351, R353). -/
def freshSegments (e : Enc) (p : CodedPic) : List Segment :=
  (List.range e.sLayers).flatMap (fun l =>
    let size := e.sizes.getD l (0, 0)
    let total := ((List.range e.segments).map (fun i => (segShape e.codec e.segments size.1 size.2 i).2)).sum
    (List.range e.segments).map (fun i =>
      let sh := segShape e.codec e.segments size.1 size.2 i
      { layer := l, seg := i, share := p.budgets.getD l 0 * sh.2 / total, qg := p.qps.getD l 0, rows := sh.1 }))

/-- The tasks of a picture's segments (R400, R401). -/
def segTasks (s : State) (id : Nat) (e : Enc) (p : CodedPic) : List Task :=
  p.segments.map (fun g =>
    { cls := clsEnc, band := 0, deadline := some (blockDue s e p.start g.layer (g.rows.getLastD 0))
      affinity := keyEnc id g.layer g.seg, serial := some (keyEnc id g.layer g.seg), seq := 0, entry := p.ripe.entry })

/-- The ripeness of what a channel's picture reads. -/
def encInputs (s : State) (e : Enc) (p : CodedPic) : List Ripe :=
  (e.srcs.zip p.sources).filterMap (fun q => q.2.bind (sourceRipe s q.1))

/-- R340: a 16-bit code in a channel's depth. -/
def depthCode (d10 : Bool) (v : Nat) : Nat := if d10 then out10 v else out8 v

/-- R336, R340: the samples that layer `l` of a channel codes: those of the source picture, FILL where it does not reach or where
there is none; a canvas hands over its lines. -/
def encInput (s : State) (e : Enc) (p : CodedPic) (l : Nat) : List (List Word) :=
  let z := e.sizes.getD l (0, 0)
  let w := e.srcs.getD l 0
  let cut := fun (x : Px) => pxWord { c0 := depthCode e.depth10 x.c0, c1 := depthCode e.depth10 x.c1, c2 := depthCode e.depth10 x.c2 }
  match p.sources.getD l none with
  | none => List.replicate z.2 (List.replicate z.1 (cut (fillPx e.fill)))
  | some r =>
    if hType w = 7 then
      ((canvasPic s r.1 r.2).map (fun c => c.lines.map (fun ws => ws.map (fun x => cut (wordPx x))))).getD []
    else
      match getDec s r.1, decPic s r.1 r.2 with
      | some d, some q =>
        (List.range z.2).map (fun y => (List.range z.1).map (fun x =>
          cut (if x < q.width && y < q.height then
              pixelAt s.memory.dram (slotPlanes d.pxf (d.slotBase q.slotNo) d.maxW d.maxH) x y
            else fillPx e.fill)))
      | _, _ => []

/-- R340: the colour description of what a layer-0 source shows. -/
def srcColour (s : State) (e : Enc) (p : CodedPic) : Option (Nat × Nat × Nat × Bool) :=
  match p.sources.getD 0 none with
  | none => none
  | some r =>
    if hType (e.srcs.getD 0 0) = 7 then (getCanvas s r.1).map (fun c => (c.primaries, c.transfer, c.matrix, c.fullRange))
    else (decPic s r.1 r.2).map (fun q => q.colour)

/-- R86, R89, R339: the slots that a picture's reconstruction fills are held while it is unripe. -/
def holdRefs (s : State) (e : Enc) (p : CodedPic) : State :=
  (List.range e.sLayers).foldl (fun s l =>
    let a := e.slotBase l p.slot
    let n := encSlotSize e.codec e.depth10 (e.sizes.getD l (0, 0))
    match p.ripe.entry with
    | some k => holdPages (overwritten s a n) a n k
    | none => overwritten s a n) s

/-- One attempt at a coded picture: it takes its ripeness from its inputs, or waits for a join entry (R86, R92, R108). -/
def attemptEnc (s : State) (id : Nat) (e : Enc) (p : CodedPic) : State × Option CodedPic :=
  let j := joinBound s (keyEnc id 0 0) (encInputs s e p) (encEmission s e p.start)
  match j.2 with
  | none => (setEnc j.1 id { e with cur := some { p with joinWait := true } }, none)
  | some r =>
    let q := { p with ripe := r, segments := freshSegments e p, minSeq := j.1.sched.nextSeq, redo := false, joinWait := false
                      late := 0, exhausted := 0, hinted := 0, skippedStripe := false, vecs := []
                      input := (List.range e.sLayers).map (encInput j.1 e p) }
    (holdRefs (setEnc j.1 id { e with cur := some q, colour := e.colour.orElse (fun _ => srcColour j.1 e p) }) e q, some q)

-- ## Discarded inputs (R92, R326, R357)

/-- R326: compose a picture again once its replacement inputs are there. -/
def redoCanvas (s : State) (id : Nat) : State :=
  match getCanvas s id with
  | none => s
  | some c =>
    match c.cur with
    | none => s
    | some p =>
      let ready := p.sources.all (fun q => match c.layers[q.1]? with
        | some l => sourceReady s l.source q.2
        | none => true)
      if (p.redo || p.joinWait) && ready then
        let a := attemptCanvas s id c p
        if a.2 then
          match (getCanvas a.1 id).bind (fun c => c.cur) with
          | some q => (requestTask a.1 (canvasTask c id q)).1
          | none => a.1
        else a.1
      else s

/-- R357: code a picture again once its replacement inputs are there. -/
def redoEnc (s : State) (id : Nat) : State :=
  match getEnc s id with
  | none => s
  | some e =>
    match e.cur with
    | none => s
    | some p =>
      let ready := (e.srcs.zip p.sources).all (fun q => match q.2 with
        | some r => sourceReady s q.1 r
        | none => true)
      if (p.redo || p.joinWait) && ready then
        let a := attemptEnc s id e p
        match a.2 with
        | some q => (segTasks a.1 id e q).foldl (fun s t => (requestTask s t).1) a.1
        | none => a.1
      else s

/-- Canvases in an order in which nested ones come first (a canvas reads no more than two below it, R315). -/
def redoAll (s : State) : State :=
  let pass := fun (s : State) => s.units.canvases.foldl (fun s c => redoCanvas s c.1) s
  let s1 := pass (pass (pass s))
  s1.units.encs.foldl (fun s e => redoEnc s e.1) s1

-- ## Resolving an entry (R81, R90, R92)

/-- What an entry's outcome (1 ripe, 2 conceded, 3 discarded) makes of a result. -/
def resolved (e outcome : Nat) (r : Ripe) : Ripe :=
  if r.entry = some e then { entry := none, flag := r.flag || outcome == 2, discarded := r.discarded || outcome == 3 } else r

/-- A canvas picture in progress or complete whose entry is resolved; a discarded one is to be composed again. -/
def resolvedCanvas (e outcome : Nat) (p : CanvasPic) : CanvasPic :=
  let r := resolved e outcome p.ripe
  if p.ripe.entry = some e && outcome == 3 then
    { p with ripe := {}, row := 0, late := 0, redo := true, recomposed := true, finalAt := none }
  else { p with ripe := r }

/-- A hold image when the entry of a copied source is resolved: a discarded one leaves it as it was before. -/
def holdResolved (e outcome : Nat) (h : HoldImage) : HoldImage :=
  if !(h.opens.contains e) then h
  else if outcome = 3 then { h with clean := (h.saved.map (·.1)).getD h.clean, opens := [], saved := none }
  else
    let rest := h.opens.filter (fun k => k != e)
    { h with opens := rest, flag := h.flag || outcome == 2, saved := if rest.isEmpty then none else h.saved }

/-- The bytes of the hold images that a discarded entry takes back. -/
def restoreHolds (s : State) (e outcome : Nat) : State :=
  if outcome ≠ 3 then s
  else
    (s.units.canvases.flatMap (fun p => p.2.holds)).foldl (fun s h =>
      match h.saved with
      | some v => if h.opens.contains e then v.2.foldl (fun s c => dramWrite s c.1 [c.2]) s else s
      | none => s) s

/-- A canvas: a discarded complete picture becomes the one in progress again, and an older one the newest. -/
def canvasResolved (e outcome : Nat) (c0 : Canvas) : Canvas :=
  let c := { c0 with holds := c0.holds.map (holdResolved e outcome) }
  let cur := c.cur.map (resolvedCanvas e outcome)
  let older := c.unripe.map (resolvedCanvas e outcome)
  match c.newest.map (resolvedCanvas e outcome) with
  | none => { c with cur := cur, unripe := older }
  | some p =>
    if p.redo then
      { c with
        cur := some (cur.getD p)
        newest := (older.filter (fun q => !q.redo)).head?
        unripe := (older.filter (fun q => !q.redo)).drop 1 }
    else { c with cur := cur, newest := some p, unripe := older.filter (fun q => !q.redo) }

/-- A coded picture whose entry is resolved; a discarded one is coded again. -/
def encResolved (e outcome : Nat) (x : Enc) : Enc :=
  { x with cur := x.cur.map (fun p =>
      if p.ripe.entry = some e && outcome == 3 then { p with ripe := {}, redo := true, recoded := true }
      else { p with ripe := resolved e outcome p.ripe }) }

/-- A decode context: its pictures, and its re-decode run, which a concession ends (R299). -/
def decResolved (e outcome : Nat) (d : Dec) : Dec :=
  let fix := fun (p : Pic) => { p with ripe := resolved e outcome p.ripe }
  { d with
    pics := d.pics.map fix
    replacements := (d.replacements.filter (fun r => r.1 != e)).map (fun r => (r.1, r.2.1, fix r.2.2))
    runs := d.runs.filter (fun r => r.1 != e)
    entries := d.entries.filter (fun k => k != e)
    counters := if outcome == 2 && d.runs.any (fun r => r.1 == e) then bumpS d.counters 0x04 1 else d.counters }

/-- R90: what a join entry becomes when one of its inputs is resolved; its own outcome when that settles it. -/
def joinStep (e outcome : Nat) (en : Entry) : Entry × Option Nat :=
  if en.cls = .join && en.joins.contains e then
    let rest := en.joins.filter (fun k => k != e)
    let flag := en.flag || outcome == 2
    ({ en with joins := rest, flag := flag },
     if outcome = 3 then some 3 else if rest.isEmpty then some (if flag then 2 else 1) else none)
  else (en, none)

/-- Resolve entries and the join entries that follow; `n` bounds their number. -/
def resolveN (s : State) (n : Nat) (queue : List (Nat × Nat)) : State :=
  match n, queue with
  | 0, _ => s
  | _, [] => s
  | n + 1, (e, k) :: rest =>
    if !(Tbl.has s.spec.table e) then resolveN s n rest
    else
      let s1 := restoreHolds (closeEntry s e k) e k
      let s2 : State := { s1 with units := { s1.units with
        decs := s1.units.decs.map (fun p => (p.1, decResolved e k p.2))
        canvases := s1.units.canvases.map (fun p => (p.1, canvasResolved e k p.2))
        encs := s1.units.encs.map (fun p => (p.1, encResolved e k p.2)) } }
      let joins := s2.spec.table.filterMap (fun p => (joinStep e k p.2).2.map (fun o => (p.1, o)))
      let s3 : State := { s2 with spec := { s2.spec with
        table := s2.spec.table.map (fun p => (p.1, (joinStep e k p.2).1))
        joinWaiters := s2.spec.joinWaiters.map (fun w => { w with opens := w.opens.filter (fun x => x != e) }) } }
      -- the re-decode tasks of a run that has ended are void (R299)
      resolveN (cancelTasks s3 (fun t => t.cls == clsDec && t.entry == some e && !t.started)) n (rest ++ joins)

/-- A conceded result stored in module memory meets a range (R426): a decoded picture, or a canvas picture. -/
def concededAt (s : State) (a n : Nat) : Bool :=
  s.units.decs.any (fun d => d.2.pics.any (fun p =>
    p.ripe.final && p.ripe.flag && overlaps (d.2.slotBase p.slotNo, d.2.slotSize) (a, n)))
  || s.units.canvases.any (fun c => decide (c.2.memBufs > 0) && c.2.all.any (fun p =>
    p.ripe.final && p.ripe.flag && overlaps (c.2.bufBase p.buffer, c.2.bufBytes) (a, n)))

/-- R486: bytes of a peer's read go back to it. -/
def sendData (s : State) (r : PeerRead) : State :=
  (grnSend s 9 r.member false (concededAt s r.addr r.len) (word r.addr) (word (r.number * 2 ^ 24)) (dramRead s r.addr r.len)).1

/-- R89: peers' reads whose pages are no longer held are served, in order. -/
def releasePeerReads (s : State) : State :=
  let ready := s.dma.peerReads.filter (fun r => (heldBy s r.addr r.len).isEmpty)
  ready.foldl sendData
    { s with dma := { s.dma with peerReads := s.dma.peerReads.filter (fun r => !(heldBy s r.addr r.len).isEmpty) } }

/-- What resolved results bring about: final pictures are settled, discarded ones are made again, host reads of released
pages are answered. -/
def afterResolve (s : State) : State :=
  let s1 := s.units.decs.foldl (fun s d => settleDec s d.1) s
  let s2 := s1.units.canvases.foldl (fun s c => settleCanvas s c.1) s1
  let s3 := { s2 with spec := { s2.spec with joinWaiters := s2.spec.joinWaiters.filter (fun w => decide (w.opens.length + b2n w.own > 1)) } }
  releasePeerReads (releaseReads (redoAll s3))

/-- Resolve one entry with everything that depends on it. -/
def resolveEntry (s : State) (e outcome : Nat) : State :=
  afterResolve (resolveN s (2 * s.spec.table.length + 2) [(e, outcome)])

/-- R90, R108: concede the open source entries behind some entries. -/
def sourcesOf (s : State) (n : Nat) (es : List Nat) : List Nat :=
  match n with
  | 0 => []
  | n + 1 => es.flatMap (fun e => match Tbl.get? s.spec.table e with
      | none => []
      | some en => if en.cls = .join then sourcesOf s n en.joins else [e])

end Sys2Proof.Machine
end

