-- ==== Sys2Proof/Machine/VideoDecode.lean ====
section
/-! DEFINITION. Video decode (R283 to R310) and the video jitter buffers (R229). -/

namespace Sys2Proof.Machine

-- ## Waiting pictures (R285)

/-- The decode task of a waiting picture (R400, R401). -/
def decTask (d : Nat) (x : Dec) (w : WaitPic) : Task :=
  { cls := clsDec, band := 1, deadline := if w.catchup then none else some (w.releasedAt + ceilDiv second x.fps)
    affinity := keyDec d, serial := some (keyDec d), seq := 0 }

/-- A core has taken the first picture of the list, and has not finished it: it decodes it, or its task has yielded (R285,
R405). -/
def decoding (s : State) (d : Nat) (x : Dec) : Bool :=
  s.sched.tasks.any (fun p => p.2.affinity == keyDec d && p.2.started && p.2.entry.isNone && x.served != some p.1)

/-- R410: the task of a dropped picture, or its waiting request, is cancelled. -/
def cancelOne (s : State) (d : Nat) (x : Dec) (w : WaitPic) : State :=
  let dl := (decTask d x w).deadline
  let mine := fun (t : Task) => t.affinity == keyDec d && t.entry.isNone && t.deadline == dl
  match s.sched.waiting.find? (fun r => mine r.task) with
  | some r => { s with sched := { s.sched with waiting := s.sched.waiting.erase r } }
  | none =>
    match s.sched.tasks.find? (fun p => mine p.2 && decide (p.2.state ≠ .running)) with
    | some p => removeTask (bumpF s oTskCount 15 0 1) p.1
    | none => s

/-- R285, R310: pictures are dropped. -/
def dropWaiting (s : State) (d : Nat) (x : Dec) (ws : List WaitPic) : State :=
  let n := ws.length
  bumpC (decCount (ws.foldl (fun s w => cancelOne s d x w) s) d 0x08 n) (oDecCounter 6) n

/-- R304, R309: the need for a key picture reaches the source. The answer is 0 sent, 1 merged, 2 passed to the encode
channel, none when nothing is sent. -/
def requestKey (s : State) (d : Nat) (x : Dec) (fir : Bool) : State × Option Nat :=
  match getCtx s x.source with
  | none => (s, none)
  | some y =>
    let done := fun (s : State) (k : Nat) =>
      (decEvent (decCount s d 0x09 1) d 3 0 (word (if k = 2 then 2 else b2n fir)), some k)
    if y.kind = 5 then
      if y.mirrorOf.isSome then done (keyRequest s x.source fir) 0
      else if (encOf s x.source).isSome then done (keyRequest s x.source fir) 2
      else (s, some 2)
    else if !y.pliEn then (s, none)
    else
      let merged := match y.lastPli with
        | some t => decide (now s < t + durMs (getF s oStrFeedback 31 16))
        | none => false
      if merged then (s, some 1) else done (keyRequest s x.source fir) 0

/-- A request on the decoder's own account (R304). -/
def requestIf (s : State) (d : Nat) (on : Bool) : State :=
  match getDec s d with
  | none => s
  | some x => if on then (requestKey s d x false).1 else s

/-- R285, R288: decoding stops until a random access point. -/
def resync (s : State) (d : Nat) : State :=
  let s1 := updDec s d (fun x => { x with stopped := true, refs := [], grey := [] })
  requestIf (prunePics s1 d) d (((getDec s d).map (fun x => x.missingReq)).getD false)

/-- R285: a released picture joins those that wait; a 17th drops pictures. -/
def addWaiting (s : State) (d : Nat) (w : WaitPic) : State :=
  match getDec s d with
  | none => s
  | some x =>
    if x.destroying then s
    else
      let busy := decoding s d x
      let head := if busy then x.waiting.take 1 else []
      let rest := (if busy then x.waiting.drop 1 else x.waiting) ++ [w]
      let s1 := (requestTask (setDec s d { x with waiting := head ++ rest }) (decTask d x w)).1
      if (rest.filter (fun v => !v.catchup)).length ≤ 16 then s1
      else
        let gone := rest.filter (fun v => v.disposable)
        if gone.isEmpty then
          resync (dropWaiting (updDec s1 d (fun x => { x with waiting := head })) d x rest) d
        else
          dropWaiting (updDec s1 d (fun x => { x with waiting := head ++ rest.filter (fun v => !v.disposable) })) d x gone

-- ## Jitter buffers (R229)

/-- Whole numbers from a to b. -/
def fromTo (a b : Nat) : List Nat := (List.range (b + 1 - a)).map (· + a)

/-- What the release of the first picture of a jitter buffer finds: the numbers missing, the last number charged to it,
and whether its end is unknown. Numbers between its last packet and the next picture are its own (assumption 33). -/
def jbBounds (x : Stream) (p : JbPic) (next : Option JbPic) : List Nat × Nat × Bool :=
  let least := p.seqs.foldl min (p.seqs.headD 0)
  let most := p.seqs.foldl max 0
  let first := match x.jbReleased with
    | some r => if r < least then r + 1 else least
    | none => least
  match p.marker with
  | some m => ((fromTo first (max m most)).filter (fun q => !(p.seqs.contains q)), max m most, false)
  | none =>
    match next with
    | some n =>
      let last := n.seqs.foldl min (n.seqs.headD 0) - 1
      ((fromTo first (max last most)).filter (fun q => !(p.seqs.contains q)), max last most, false)
    | none => ((fromTo first most).filter (fun q => !(p.seqs.contains q)), most, true)

/-- R229: whether the first picture of a buffer is complete. -/
def jbComplete (x : Stream) (p : JbPic) : Bool :=
  let b := jbBounds x p none
  p.marker.isSome && b.1.isEmpty

/-- R289, R290: the target in effect from a picture on. `top` is the highest layer of the source: a target above it is
reached with it. -/
def retarget (x : Dec) (top : Nat × Nat) (p : JbPic) : Dec :=
  match x.pendingTarget with
  | none => x
  | some t =>
    let up := x.targetS == t.1 && decide (x.targetT < t.2)
    let at_ := fun (q : Nat × Nat) => p.switches.any (fun w => w.point == q && (up || !w.upOnly))
    if at_ t || at_ (min t.1 top.1, min t.2 top.2) then { x with targetS := t.1, targetT := t.2, pendingTarget := none } else x

/-- R227: the release of a picture asks for its missing numbers that no NACK has asked for yet. -/
def nackRelease (s : State) (c : Nat) (seqs : List Nat) : State :=
  seqs.foldl (fun s q => match getCtx s c with
    | some x =>
      if x.nackEn && x.kind == 1 && x.missing.any (fun m => m.seq == q && m.nacks == 0) then sendNack s c q else s
    | none => s) s

/-- R229: release the first picture of a context's buffer to every decode context that reads it. -/
def releaseFirst (s : State) (c : Nat) : State :=
  match getCtx s c with
  | none => s
  | some x =>
    match x.jb with
    | [] => s
    | p :: rest =>
      let b := jbBounds x p rest.head?
      let read := s.units.decs.any (fun d => d.2.source == c)
      let s0 := updCtx (ctxCount s c 0x02 (if read then b.1.length else 0)) c (fun x => { x with
        jb := rest, jbReleased := some b.2.1, jbTs := some p.ts })
      let s1 := if read then nackRelease s0 c b.1 else s0
      let top := (x.sCount - 1, x.tCount - 1)
      (s1.units.decs.filter (fun d => d.2.source == c)).foldl (fun s d =>
        let s2 := updDec s d.1 (fun y => retarget y top p)
        let y := retarget d.2 top p
        addWaiting s2 d.1 { ts := p.ts, releasedAt := now s, missing := b.1, disposable := p.disposable, conceded := p.conceded
                            target := (y.targetS, y.targetT), openEnd := b.2.2, last := b.2.1 }) s1

/-- Release while the first picture is complete; `n` bounds the pictures. -/
def releaseComplete (s : State) (c n : Nat) : State :=
  match n with
  | 0 => s
  | n + 1 =>
    match getCtx s c with
    | none => s
    | some x =>
      match x.jb with
      | [] => s
      | p :: _ => if jbComplete x p then releaseComplete (releaseFirst s c) c n else s

/-- Release every picture up to the last whose deadline has come; `n` bounds the pictures. -/
def releaseDue (s : State) (c n : Nat) : State :=
  match n with
  | 0 => s
  | n + 1 =>
    match getCtx s c with
    | none => s
    | some x =>
      if x.jb.any (fun p => decide (p.firstAt + durMs x.jbTarget ≤ now s)) then releaseDue (releaseFirst s c) c n
      else releaseComplete s c (n + 1)

/-- R229: a picture's release deadline. -/
def execJbRelease (ctx : Nat) (s : State) : Out :=
  .next (match getCtx s ctx with
    | none => s
    | some x => if running s then releaseDue s ctx x.jb.length else s)

-- ## Resolving and repairing (R298 to R300)

/-- Whether a ripeness depends on an entry, directly or through joins; `n` bounds their nesting. -/
def carriesN (s : State) (n e : Nat) (k : Nat) : Bool :=
  match n with
  | 0 => k == e
  | n + 1 => k == e || (match Tbl.get? s.spec.table k with
      | some en => en.joins.any (carriesN s n e)
      | none => false)
def carries (s : State) (e : Nat) (r : Ripe) : Bool :=
  match r.entry with
  | some k => carriesN s 8 e k
  | none => false

/-- A task that decodes a picture again (R299, R400). -/
def redecodeTask (s : State) (d e : Nat) : Task :=
  { cls := clsDec, band := 1, deadline := (Tbl.get? s.spec.table e).bind (fun en => en.deadline), affinity := keyDec d
    serial := some (keyDec d), seq := 0, entry := some e }

/-- R299: start a re-decode run. -/
def startRun (s : State) (d e : Nat) : State :=
  match getDec s d with
  | none => s
  | some x =>
    let run := (x.pics.filter (fun p => carries s e p.ripe)).map (fun p => p.no)
    let s1 := setDec s d { x with runs := x.runs ++ [(e, run)] }
    run.foldl (fun s _ => (requestTask s (redecodeTask s d e)).1) s1

/-- A packet of a released picture fills a gap: what is still missing, the end, and the last number. -/
def fillGap (missing : List Nat) (openEnd : Bool) (last seq : Nat) (marker : Bool) : List Nat × Bool × Nat :=
  if openEnd && decide (last < seq) then (missing ++ fromTo (last + 1) (seq - 1), !marker, seq)
  else (missing.filter (fun q => q != seq), openEnd, last)

/-- R298 to R300: a repair reaches one decode context. A picture that waits takes it; one that carries its own open entry
completes; any other stays as it is (R101). -/
def decRepair (s : State) (d seq ts : Nat) (marker unneeded conceded : Bool) : State :=
  match getDec s d with
  | none => s
  | some x =>
    let hits := fun (missing : List Nat) (openEnd : Bool) (t : Nat) => missing.contains seq || (openEnd && t == ts)
    let waits := fun (w : WaitPic) => !w.begun && hits w.missing w.openEnd w.ts
    let opened := fun (p : Pic) => p.own.elim false (fun e => Tbl.has s.spec.table e)
    if x.waiting.any waits then
      setDec s d { x with waiting := x.waiting.map (fun w =>
        if waits w then
          let g := fillGap w.missing w.openEnd w.last seq marker
          { w with missing := g.1, openEnd := g.2.1, last := g.2.2, conceded := w.conceded || conceded }
        else w) }
    else
      match (x.pics.find? (fun p => opened p && hits p.missing p.openEnd p.ts)).bind (fun p => p.own) with
      | none => decCount s d 0x05 1
      | some e =>
        let fill := fun (p : Pic) =>
          let g := fillGap p.missing p.openEnd p.last seq marker
          { p with missing := g.1, openEnd := g.2.1, last := g.2.2, exact := p.exact && unneeded
                   conceded := p.conceded || (conceded && !unneeded) }
        let x1 := { x with pics := x.pics.map (fun p =>
          if p.own == some e && hits p.missing p.openEnd p.ts then fill p else p) }
        let mine := x1.pics.filter (fun p => p.own == some e)
        let s1 := setDec s d x1
        if mine.any (fun p => !p.missing.isEmpty || p.openEnd) then s1
        else if mine.all (fun p => p.exact) then resolveEntry s1 e 1
        else startRun s1 d e

/-- R229: a packet that arrives after its picture's release goes to every decode context that reads the stream. -/
def repairAll (s : State) (c seq ts : Nat) (marker unneeded conceded : Bool) : State :=
  (s.units.decs.filter (fun d => d.2.source == c)).foldl (fun s d => decRepair s d.1 seq ts marker unneeded conceded) s

-- ## Samples of a decoded picture (R294, R296)

/-- The middle one of some numbers, the lower of two (DESIGN CHOICE, assumption 114); 0 of none. -/
def median (xs : List Int) : Int :=
  (xs.find? (fun v => decide ((xs.filter (fun w => decide (w < v))).length ≤ (xs.length - 1) / 2)
    && decide ((xs.length - 1) / 2 < (xs.filter (fun w => decide (w ≤ v))).length))).getD 0

/-- R296: the decoded blocks that touch a block from above or from the left. -/
def decodedNear (bs : List BlockFact) (b : BlockFact) : List BlockFact :=
  bs.filter (fun a => !a.concealed
    && ((a.y + a.h == b.y && decide (a.x < b.x + b.w) && decide (b.x < a.x + a.w))
      || (a.x + a.w == b.x && decide (a.y < b.y + b.h) && decide (b.y < a.y + a.h))))

/-- R296: the displacement of a concealed block in whole luma samples: by component the median of its neighbours' vectors. A
block's vector is that of its first reference, and a fraction is dropped (DESIGN CHOICE, assumption 114). -/
def concealVector (bs : List BlockFact) (b : BlockFact) : Int × Int :=
  let vs := (decodedNear bs b).filterMap (fun a => a.refs.head?.map (·.2))
  (median (vs.map (·.1)) / 16, median (vs.map (·.2)) / 16)

/-- A column or line of a picture, displaced; beyond the edge it is the edge's (DESIGN CHOICE, assumption 114). -/
def displaced (pos size : Nat) (d : Int) : Nat := min (size - 1) ((pos : Int) + d).toNat

/-- R296: copy a concealed block from the newest output, of a width and height, read from `m0`. -/
def concealBlock (m0 : List Host.Cell) (from_ to_ : Planes) (w h : Nat) (v : Int × Int) (m : List Host.Cell) (b : BlockFact)
    (bw bh : Nat) : List Host.Cell :=
  let n := pxfBytes to_.pxf
  let read := fun (a k : Nat) => (List.range k).map (fun i => readByte m0 (a + i))
  let luma := (List.range bh).foldl (fun m j => (List.range bw).foldl (fun m i =>
    writeBytes m (to_.luma + (b.y + j) * to_.stride + (b.x + i) * n)
      (read (from_.luma + displaced (b.y + j) h v.2 * from_.stride + displaced (b.x + i) w v.1 * n) n)) m) m
  (List.range (ceilDiv bh 2)).foldl (fun m j => (List.range (ceilDiv bw 2)).foldl (fun m i =>
    writeBytes m (to_.chroma + (b.y / 2 + j) * to_.stride + (b.x / 2 + i) * 2 * n)
      (read (from_.chroma + displaced (b.y / 2 + j) (ceilDiv h 2) (v.2 / 2) * from_.stride
        + displaced (b.x / 2 + i) (ceilDiv w 2) (v.1 / 2) * 2 * n) (2 * n))) m) luma

/-- R294: samples as they stand in a slot: in 10 bits the upper six of each are zero. -/
def sampleBytes (d10 : Bool) (bs : List Byte) : List Byte :=
  if d10 then bs.zipIdx.map (fun b => if b.2 % 2 = 1 then b.1 &&& 3 else b.1) else bs

/-- R294: the chroma lines of a monochrome picture. -/
def monoLines (m : List Host.Cell) (to_ : Planes) (w h : Nat) : List Host.Cell :=
  (List.range (ceilDiv h 2)).foldl (fun m j => writeBytes m (to_.chroma + j * to_.stride)
    ((List.range (2 * ceilDiv w 2)).flatMap (fun _ => if to_.pxf = 2 then leBytes 2 512 else leBytes 1 128))) m

/-- R293, R294, R296: write a picture's samples into a slot: those that the codec decoded, grey chroma for a monochrome one, and
for each concealed block a copy from the newest output. Without an output the block keeps what the row brings. -/
def writeSamples (s : State) (x : Dec) (slot : Nat) (p : PicFacts) : State :=
  let to_ := slotPlanes x.pxf (x.slotBase slot) x.maxW x.maxH
  let m1 := writeBytes s.memory.dram to_.luma ((sampleBytes x.depth10 p.planes).take (x.slotSize - 512))
  let m2 := if p.monochrome then monoLines m1 to_ p.width p.height else m1
  let m3 := match x.newest.bind x.pic with
    | none => m2
    | some q => (p.blocks.filter (fun b => b.concealed)).foldl (fun m b =>
        concealBlock s.memory.dram (slotPlanes x.pxf (x.slotBase q.slotNo) x.maxW x.maxH) to_ q.width q.height
          (concealVector p.blocks b) m b (min b.w (p.width - b.x)) (min b.h (p.height - b.y))) m2
  { s with memory := { s.memory with dram := m3 } }

-- ## Decoding a picture

/-- The areas of a picture that the samples from (x0, y0) up to (x1, y1) touch. -/
def areasOver (w x0 y0 x1 y1 : Nat) : List Nat :=
  if x1 ≤ x0 ∨ y1 ≤ y0 then []
  else (fromTo (y0 / 64) ((y1 - 1) / 64)).flatMap (fun j => (fromTo (x0 / 64) ((x1 - 1) / 64)).map (fun i => j * ceilDiv w 64 + i))

/-- R302: one axis of a block moved by a motion component in sixteenths of a sample: a fractional one grows it by 4 samples on
each side; what is left lies within the reference's size. -/
def movedSpan (pos len size : Nat) (mv : Int) : Nat × Nat :=
  let g : Int := if mv % 16 = 0 then 0 else 4
  let lo := ((pos : Int) * 16 + mv) / 16 - g
  let hi := -((-(((pos + len : Nat) : Int) * 16 + mv)) / 16) + g
  (min size lo.toNat, min size hi.toNat)

/-- R302: a block reads a tainted area of a reference, whose width, height and taint are given. -/
def readsTaint (b : BlockFact) (mv : Int × Int) (r : Nat × Nat × List Nat) : Bool :=
  let xs := movedSpan b.x b.w r.1 mv.1
  let ys := movedSpan b.y b.h r.2.1 mv.2
  (areasOver r.1 xs.1 ys.1 xs.2 ys.2).any (fun a => r.2.2.contains a)

/-- R302: the taint map of a picture; `ref` gives the width, height and tainted areas of a reference slot. -/
def taintMap (p : PicFacts) (concealed grey : Bool) (ref : Nat → Nat × Nat × List Nat) : List Nat :=
  let n := ceilDiv p.width 64 * ceilDiv p.height 64
  if grey then List.range n
  else if (p.randomAccess || p.intraOnly) && !concealed then []
  else
    let bad := p.blocks.filter (fun b =>
      b.concealed || (!b.intra && b.refs.any (fun r => readsTaint b r.2 (ref r.1))))
    let areas := bad.flatMap (fun b => areasOver p.width b.x b.y (min p.width (b.x + b.w)) (min p.height (b.y + b.h)))
    (List.range n).filter (fun a => areas.contains a)

/-- The lowest pool slot that no picture holds (R292). -/
def poolSlot (x : Dec) : Option Nat :=
  (List.range x.poolSlots).find? (fun k => !(x.pics.any (fun p => p.slotNo == k))
    && !(x.replacements.any (fun r => r.2.2.slotNo == k)))

/-- R295: the picture that is output next: of the pictures shown and not yet output, the one of least timestamp, once
more of them wait than the reorder delay holds back. -/
def nextOutput (x : Dec) (reorder : Nat) : Option Pic :=
  let wait := x.pics.filter (fun p => p.shown && !p.output)
  if wait.length ≤ reorder then none
  else wait.foldl (fun (m : Option Pic) p => match m with
    | none => some p
    | some q => if p.ts < q.ts then some p else some q) none

/-- R304: since when the newest output has been tainted. -/
def taintClock (s : State) (x : Dec) (p : Pic) : Dec :=
  if p.taint.isEmpty then { x with taintedSince := none, lastTaintReq := none }
  else { x with taintedSince := some (x.taintedSince.getD (now s)) }

/-- Output what may be output; `n` bounds the pictures. -/
def outputPics (s : State) (d reorder n : Nat) : State :=
  match n with
  | 0 => s
  | n + 1 =>
    match getDec s d with
    | none => s
    | some x =>
      match nextOutput x reorder with
      | none => s
      | some p =>
        let q := { p with output := true, outNo := x.outputs }
        let x1 := taintClock s { x with
          outputs := x.outputs + 1, newest := some p.no, before := some (x.before.getD x.newest)
          pics := x.pics.map (fun r => if r.no == p.no then q else r) } q
        let s1 := writePicHeader (setDec s d x1) x1 q
        outputPics (if q.finalAt.isSome then countOutput s1 d q else s1) d reorder n

/-- The status of an UNSUPPORTED event (R288). -/
def unsupportedStatus (code : Nat) : Nat := if code = 0x0A then 0x161 else if code = 0x0B then 0x162 else 0x500

/-- R288: pictures passed over. -/
def skipPicture (s : State) (d : Nat) (unsup : Bool) : State :=
  bumpC (decCount s d 0x07 1) (oDecCounter 5) (b2n unsup)

/-- R287: the code of a tool. -/
def toolCode (t : StreamTool) : Nat :=
  match t with
  | .interlaced => 0x01
  | .chroma => 0x02
  | .superResolution => 0x04
  | .largeScaleTile => 0x05
  | .h264Slices => 0x06
  | .hevcTools => 0x07

/-- R286, R287: a stream's profile or level lies above the declared one. A lower profile is a subset, but for VP9, whose
profile 2 holds no stream of profile 0 (PRESUMED, assumption 97). VP8 and VP9 declare no level. -/
def aboveCeiling (codec : Nat) (x : Dec) (p : PicFacts) : Bool :=
  (if codec = 4 then p.profile != x.profile else decide (x.profile < p.profile))
    || (codec != 3 && codec != 4 && decide (x.level < p.level))

/-- R287: the features that a picture uses, each with whether it does. -/
def featuresOf (codec : Nat) (x : Dec) (p : PicFacts) : List (Bool × Nat) :=
  [(decide (p.depth > 10) || (decide (p.depth = 10) && !x.depth10), 0x03),
   (decide (p.refsNeeded > x.poolSlots - 2), 0x08),
   (decide (p.sLayers > 3) || decide (p.tLayers > 3), 0x09),
   (aboveCeiling codec x p, 0x0A),
   (decide (p.width > x.maxW) || decide (p.height > x.maxH), 0x0B)]

/-- The feature of R287 that is reported: a tool that no context supports, else the one of the lowest code (DESIGN CHOICE,
assumption 98). -/
def featureOf (codec : Nat) (x : Dec) (p : PicFacts) : Option Nat :=
  match p.tool with
  | some t => some (toolCode t)
  | none => firstFail (featuresOf codec x p)

/-- R286: a picture's temporal layer: H.264 has it from the dependency descriptor alone. -/
def layerT (codec : Nat) (p : PicFacts) : Nat := if codec = 1 && !p.dd then 0 else p.t

/-- R287, R289: a picture that its context passes over: above the target, beside the target layer of an S mode, or a VP9
frame with SID above 0. -/
def passedOver (codec : Nat) (target : Nat × Nat) (p : PicFacts) : Bool :=
  decide (layerT codec p > target.2) || decide (p.s > target.1) || (codec == 4 && decide (p.s > 0))
    || (p.simulcast && p.s != min target.1 (p.sLayers - 1))

/-- R289, R295: a picture is output when the codec shows it and it is of the target layer, or of the highest that the stream
has. -/
def outputs (codec : Nat) (target : Nat × Nat) (p : PicFacts) : Bool :=
  p.shown && (codec != 5 || p.s == min target.1 (p.sLayers - 1))

/-- R297, R99, R100, R107: the entry of a picture decoded with packets missing: the state, the entry, and the flag of a
picture conceded at once. -/
def openConcealment (s : State) (d : Nat) (x : Dec) (w : WaitPic) : State × Option Nat × Bool :=
  if x.repairWaitMs = 0 then (s, none, true)
  else if w.begun && w.entry.elim false (fun e => Tbl.has s.spec.table e) then (s, w.entry, false)
  else
    let s0 := match x.entries with
      | e :: _ => if x.entries.length ≥ 8 then resolveEntry s e 2 else s
      | [] => s
    let o := openEntry s0 .concealment d (w.releasedAt + durMs x.repairWaitMs)
    match o.2 with
    | none => (o.1, none, true)
    | some e => (updDec o.1 d (fun x => { x with entries := x.entries ++ [e] }), some e, false)

/-- The ripeness of the pictures that a decode reads. -/
def refRipes (s : State) (d : Nat) (nos : List Nat) : List Ripe := nos.filterMap (fun n => (decPic s d n).map (fun p => p.ripe))

/-- R297, R301: a picture names a reference slot that nothing has filled, or one that holds a substituted picture. -/
def greyRefs (x : Dec) (p : PicFacts) : Bool :=
  p.reads.any (fun k => !(x.refs.any (fun r => r.1 == k)) || x.grey.contains k)

/-- R297: a picture opens a concealment entry. -/
def opensEntry (s : State) (x : Dec) (w : WaitPic) (p : PicFacts) : Bool :=
  (!w.missing.isEmpty || w.openEnd) && !p.lossHarmless && !(greyRefs x p) && x.repairWaitMs != 0
    && decide (openSources s < 229376)

/-- R108: what a live decode waits for when the distinct open entries of its references, and its own, need a join entry and
none is free. -/
def joinBlocked (s : State) (d : Nat) (x : Dec) (w : WaitPic) (p : PicFacts) (ins : List Ripe) : Option JoinWait :=
  let opens := distinct (ins.filterMap (fun r => r.entry))
  let own := opensEntry s x w p
  if !(greyRefs x p) && decide (opens.length + b2n own > 1) && decide (openJoins s ≥ 32768) then
    some { consumer := keyDec d, opens := opens, own := own }
  else none

/-- The picture numbers that reference slots hold. -/
def slotPics (x : Dec) (slots : List Nat) : List Nat :=
  slots.filterMap (fun k => (x.refs.find? (fun r => r.1 == k)).map (·.2))

/-- R299: a picture decoded after a run started reads a picture of the run: it joins the run. -/
def joinRuns (s : State) (d no : Nat) (r : Ripe) : State :=
  match getDec s d with
  | none => s
  | some x =>
    (x.runs.filter (fun q => carries s q.1 r)).foldl (fun s q =>
      (requestTask (updDec s d (fun x => { x with
        runs := x.runs.map (fun p => if p.1 == q.1 then (p.1, p.2 ++ [no]) else p) })) (redecodeTask s d q.1)).1) s

/-- R292 to R303: decode a waiting picture into a slot. -/
def decodeInto (s : State) (d slot : Nat) (w : WaitPic) (p : PicFacts) : State :=
  match getDec s d with
  | none => s
  | some x =>
    let unfilled := distinct (p.reads.filter (fun k => !(x.refs.any (fun r => r.1 == k)) && !(x.grey.contains k)))
    let codec := codecOf s x.source
    let grey := greyRefs x p
    let lossy := (!w.missing.isEmpty || w.openEnd) && !p.lossHarmless
    let opened := if lossy && !grey then openConcealment s d x w else (s, none, lossy)
    let s1 := opened.1
    let nos := slotPics x p.reads
    let ins := refRipes s1 d nos
    let flag := opened.2.2 || w.conceded || ins.any (fun r => r.flag)
    let j := if grey then (s1, some { entry := none, flag := flag })
      else joinOf s1 (keyDec d) (ins ++ [{ entry := none, flag := w.conceded }] ++ (match opened.2.1 with
        | some e => [{ entry := some e }]
        | none => [{ entry := none, flag := opened.2.2 }])) none
    let ripe := j.2.getD {}
    let s2 := j.1
    let concealed := p.blocks.any (fun b => b.concealed)
    let y := (getDec s2 d).getD x
    let ref := fun (k : Nat) => ((slotPics y [k]).head?.bind (y.pic)).elim (p.width, p.height, []) (fun q =>
      (q.width, q.height, q.taint))
    let pic : Pic := {
      no := y.nextPic, slotNo := slot, ts := w.ts, width := p.width, height := p.height, s := p.s, t := layerT codec p
      concealed := concealed, greyRef := grey, monochrome := p.monochrome
      colour := p.colour.getD (1, 1, 1, false), ripe := ripe, releasedAt := w.releasedAt
      taint := taintMap p concealed grey ref, missing := w.missing, openEnd := w.openEnd, last := w.last
      reads := nos, own := opened.2.1, shown := outputs codec w.target p, conceded := w.conceded }
    let y1 := { y with
      waiting := if p.more then { w with begun := true, entry := opened.2.1 } :: y.waiting else y.waiting
      nextPic := y.nextPic + 1
      pics := y.pics ++ [pic]
      refs := p.refreshes.foldl (fun r k => Tbl.put r k pic.no) y.refs
      grey := (y.grey ++ unfilled).filter (fun k => !(p.refreshes.contains k)) }
    let s3 := writePicHeader (writeSamples (setDec s2 d y1) y slot p) y1 pic
    let s4 := match ripe.entry with
      | some e => holdPages (overwritten s3 (y1.slotBase slot) y1.slotSize) (y1.slotBase slot) y1.slotSize e
      | none => overwritten s3 (y1.slotBase slot) y1.slotSize
    let s5 := unfilled.foldl (fun s _ => decEvent (bumpC (decCount s d 0x06 1) (oDecCounter 4) 1) d 1 0x501 (word w.ts)) s4
    let s6 := requestIf s5 d (y.missingReq && !unfilled.isEmpty)
    let s7 := outputPics s6 d p.reorder (y1.pics.length + 1)
    let s8 := settleDec (joinRuns s7 d pic.no ripe) d
    -- an entry whose deadline has passed already is conceded at once (R57)
    match opened.2.1 with
    | some e => if w.releasedAt + durMs x.repairWaitMs ≤ now s then resolveEntry s8 e 2 else s8
    | none => s8

/-- R288: a picture of an unsupported sequence: nothing of it is decoded, and the newest final picture stays the output. Where
the pool holds none, the newest output stays (DESIGN CHOICE, assumption 99). -/
def unsupportedPic (s : State) (d code : Nat) (missingReq : Bool) : State :=
  let s1 := updDec s d (fun x => { x with
    stopped := true, unsupported := true, refs := [], grey := []
    newest := (x.newestFinal.map (fun p => p.no)).orElse (fun _ => x.newest) })
  prunePics (requestIf (decEvent s1 d 0 (unsupportedStatus code) (word code)) d missingReq) d

/-- A live or catch-up decode has read its picture, or a frame of it (R288 to R295). -/
def decodeLive (s : State) (d id : Nat) (x : Dec) (p : PicFacts) : State :=
  match x.waiting with
  | [] => s
  | w :: rest =>
    let codec := codecOf s x.source
    let served := fun (x : Dec) => if p.more then x else { x with served := some id }
    -- a frame that is passed over leaves the picture's other frames waiting
    let passedBy := updDec s d (fun x => served { x with waiting := if p.more then { w with begun := true } :: rest else rest })
    match featureOf codec x p with
    | some code =>
      let s1 := skipPicture passedBy d true
      if x.stopped && !p.randomAccess then s1 else unsupportedPic s1 d code x.missingReq
    | none =>
      if x.stopped && !p.randomAccess then skipPicture passedBy d true
      else if passedOver codec w.target p then skipPicture passedBy d false
      else
        match poolSlot x with
        | none => s
        | some slot =>
          match joinBlocked s d x w p (refRipes s d (slotPics x p.reads)) with
          | some k => joinWaits s k
          | none =>
            let taken := updDec (joinServed s (keyDec d)) d (fun x => served { x with waiting := rest })
            let s1 := if x.stopped then
                decEvent (updDec taken d (fun x => { x with stopped := false, unsupported := false })) d 2 0 (word w.ts)
              else taken
            decodeInto s1 d slot w p

/-- R299: a picture of a run is decoded again into a free slot. -/
def decodeAgain (s : State) (d e : Nat) (x : Dec) (id : Nat) (p : PicFacts) : State :=
  match x.runs.find? (fun r => r.1 == e) with
  | none => updDec s d (fun x => { x with served := some id })
  | some (_, []) => updDec s d (fun x => { x with served := some id })
  | some (_, no :: rest) =>
    match x.pic no, poolSlot x with
    | some o, some slot =>
      let mine := fun (n : Nat) => (x.replacements.find? (fun r => r.1 == e && r.2.1 == n)).map (fun r => r.2.2)
      let read := fun (n : Nat) => match mine n with
        | some q => some q
        | none => x.pic n
      let own := o.own.filter (fun k => k != e && Tbl.has s.spec.table k)
      let lossy := !o.missing.isEmpty || o.openEnd
      let ins := (o.reads.filterMap read).map (fun q => q.ripe)
      let j := joinOf s (keyDec d) (ins ++ [{ entry := own, flag := o.conceded || (lossy && own.isNone) }]) none
      match j.2 with
      | none => j.1
      | some ripe =>
        let concealed := p.blocks.any (fun b => b.concealed)
        let pairs := p.reads.zip o.reads
        let ref := fun (k : Nat) => ((pairs.find? (fun q => q.1 == k)).bind (fun q => read q.2)).elim (p.width, p.height, [])
          (fun q => (q.width, q.height, q.taint))
        let pic := { o with
          slotNo := slot, width := p.width, height := p.height, concealed := concealed, redecoded := true, ripe := ripe
          own := own, finalAt := none, taint := taintMap p concealed o.greyRef ref
          monochrome := p.monochrome, colour := p.colour.getD (1, 1, 1, false) }
        let x1 := { x with
          replacements := x.replacements ++ [(e, no, pic)]
          runs := x.runs.map (fun r => if r.1 == e then (e, rest) else r)
          served := some id }
        let s1 := writePicHeader (writeSamples (setDec j.1 d x1) x slot p) x1 pic
        match ripe.entry with
        | some k => holdPages (overwritten s1 (x1.slotBase slot) x1.slotSize) (x1.slotBase slot) x1.slotSize k
        | none => overwritten s1 (x1.slotBase slot) x1.slotSize
    | _, _ => s

/-- R295: a decode task finishes a picture. The task that runs says whether it is a live one or one of a run. -/
def execPictureDecoded (dec : Nat) (p : PicFacts) (s : State) : Out :=
  .next (
    match getDec s dec, runningWith s (keyDec dec) with
    | some x, some (id, t) =>
      if !(running s) || x.served == some id then s
      else
        match t.entry with
        | none => decodeLive s dec id x p
        | some e => decodeAgain s dec e x id p
    | _, _ => s)

/-- R299: every picture of a run has a replacement before the entry's deadline. The replacements take the places of
their originals, and the entry is discarded. The run is counted when they are final (R87). -/
def execRedecodeRunDone (dec entry : Nat) (s : State) : Out :=
  .next (
    match getDec s dec, Tbl.get? s.spec.table entry with
    | some x, some en =>
      if !(x.runs.contains (entry, [])) || decide ((en.deadline.getD 0) ≤ now s) then s
      else
        let mine := x.replacements.filter (fun r => r.1 == entry)
        let swap := fun (p : Pic) => match mine.find? (fun r => r.2.1 == p.no) with
          | some r => { r.2.2 with outNo := p.outNo, output := p.output, shown := p.shown }
          | none => p
        let x1 := { x with
          pics := x.pics.map swap
          replacements := x.replacements.filter (fun r => r.1 != entry)
          runs := x.runs.filter (fun r => r.1 != entry)
          entries := x.entries.filter (fun k => k != entry) }
        let x2 := match x1.newest.bind x1.pic with
          | some p => taintClock s x1 p
          | none => x1
        let s1 := setDec s dec { x2 with redecoded := x2.redecoded ++ [mine.map (fun r => r.2.1)] }
        let s2 := mine.foldl (fun s r => match decPic s dec r.2.1 with
          | some p => writePicHeader s x2 p
          | none => s) s1
        resumeTasks (resolveEntry s2 entry 3) .poolSlot (fun k => k == keyDec dec)
    | _, _ => s)

/-- R304: the newest output has been tainted for TAINT_REQ_MS, and again for each further period. -/
def execTaintRequestTimer (dec : Nat) (s : State) : Out :=
  .next (
    match getDec s dec with
    | none => s
    | some x =>
      match x.taintedSince with
      | none => s
      | some t0 =>
        if !(running s) || !x.taintReq || decide (now s < max t0 (x.lastTaintReq.getD 0) + durMs x.taintReqMs) then s
        else (requestKey (setDec s dec { x with lastTaintReq := some (now s) }) dec x false).1)

-- ## Commands (R284, R305 to R308)

/-- R286: whether a profile and level are in the table. -/
def decProfileOk (codec profile level : Nat) : Bool :=
  let leveled := decide (10 ≤ level) && decide (level ≤ 51)
  match codec with
  | 1 => decide (profile ≤ 2) && leveled
  | 2 => decide (profile ≤ 1) && leveled
  | 3 => profile == 0 && level == 0
  | 4 => (profile == 0 || profile == 2) && level == 0
  | 5 => profile == 0 && leveled
  | _ => false

/-- R306: profiles that admit 10 bits. -/
def decDepthOk (codec profile : Nat) : Bool := (codec == 2 && profile == 1) || (codec == 4 && profile == 2) || codec == 5

/-- R292: the lowest POOL_SLOTS of a codec; none is set for a codec that no decode context takes. -/
def poolLeast (codec : Nat) : Nat :=
  if codec = 3 then 5 else if codec = 1 || codec = 2 then 6 else if codec = 4 || codec = 5 then 10 else 0

/-- R306: the size limit. -/
def sizeBad (w h : Nat) : Bool := decide (max w h > 3840) || decide (min w h > 2160)

/-- R284: the reservation of a context in Mpixel/s. -/
def decReserve (w h fps ts : Nat) : Nat :=
  let f : Nat := [10000, 12500, 13125].getD ts 10000
  ceilDiv (w * h * fps * f) 10000000000

def decReserved (s : State) : Nat := (s.units.decs.map (fun p => p.2.reserved)).sum
def decLimit (s : State) : Nat := 320 * getF s oDecAdmit 6 0
/-- R284, 0x203: a reservation that raises the sum by more than there is. -/
def decRefused (s : State) (new old : Nat) : Bool :=
  decide (new > 1000) || decide (decReserved s - old + new > decLimit s)

/-- The context that DEC_CREATE's words describe. -/
def decOf (d : Desc) (slot ring : Nat) (src : Nat) : Dec :=
  { source := src
    profile := bits d.w2 47 44
    level := bits d.w2 43 36
    taintReq := bitAt d.w2 33
    missingReq := bitAt d.w2 32
    targetS := bits d.w2 31 28
    targetT := bits d.w2 27 24
    depth10 := bitAt d.w2 23
    eventsEn := bitAt d.w2 7
    queue := bits d.w2 5 0
    slot := slot
    ring := ring
    tag := descTag d
    maxW := bits d.w3 47 32
    maxH := bits d.w3 31 16
    fps := bits d.w3 15 8
    poolSlots := bits d.w3 7 0
    taintReqMs := bits d.w4 47 32
    repairWaitMs := bits d.w4 9 0 }

/-- R305, R306: the value and resource checks of DEC_CREATE against the source's codec; they give the lowest code. -/
def decChecks (s : State) (x : Dec) (start codec : Nat) : List (Bool × Nat) :=
  let pool := x.poolSlots * slotBytes x.pxf x.maxW x.maxH
  [ (decide (start > 1) || decide (x.targetS > 2) || decide (x.targetT > 2) || (x.targetS != 0 && codec != 5)
      || (x.depth10 && !(decDepthOk codec x.profile)) || decide (x.maxW < 16) || decide (x.maxH < 16)
      || decide (x.fps < 1) || decide (120 < x.fps) || decide (x.poolSlots < poolLeast codec)
      || decide (32 < x.poolSlots) || decide (x.taintReqMs < 100) || decide (10000 < x.taintReqMs)
      || decide (1000 < x.repairWaitMs), 0x108),
    (!(decide (1 ≤ codec) && decide (codec ≤ 5)), 0x160),
    (!(decProfileOk codec x.profile x.level), 0x161),
    (sizeBad x.maxW x.maxH, 0x162),
    (decide (s.units.decs.length ≥ 16384), 0x200),
    ((allocate s 3 pool).isNone, 0x201),
    (decRefused s (decReserve x.maxW x.maxH x.fps x.targetS) 0, 0x203) ]

/-- Records of one picture become a waiting picture of a catch-up: numbers missing between them are missing. -/
def catchupPic (s : State) (x : Dec) (prev : Nat) (rs : List PRec) : WaitPic :=
  let seqs := rs.map (fun r => r.seq)
  let last := seqs.foldl max 0
  { ts := (rs.head?.map (fun r => r.ts)).getD 0, releasedAt := now s
    missing := (fromTo (prev + 1) last).filter (fun q => !(seqs.contains q))
    catchup := true, target := (x.targetS, x.targetT), last := last
    disposable := rs.any (fun r => r.disposable), conceded := rs.any (fun r => r.conceded) }

/-- R291, R454: the readable records of a catch-up, by picture, in order. -/
def catchupRecs (s : State) (rs : List PRec) : State × List PRec :=
  rs.foldl (fun (a : State × List PRec) r =>
    let q := readRec a.1 r.pos
    (q.1, a.2 ++ q.2.toList)) (s, [])

/-- Group records by timestamp, in order of first appearance. -/
def byTs (rs : List PRec) : List (List PRec) :=
  (distinct (rs.map (fun r => r.ts))).map (fun t => rs.filter (fun r => r.ts == t))

/-- R291: START 0b01: the pictures from the newest refresh point held up to the live one wait for decode. -/
def catchUp (s : State) (d : Nat) (x : Dec) (c : Nat) : State :=
  match getCtx s c with
  | none => s
  | some y =>
    match (heldRefreshes s y).head? with
    | none => s
    | some r =>
      let live := y.jb.map (fun p => p.ts)
      let got := catchupRecs s ((recsFrom s c r.pos).filter (fun q => !(live.contains q.ts)))
      let first := (got.2.head?.map (fun q => q.seq)).getD 1
      let pics := (byTs got.2).foldl (fun (a : Nat × List WaitPic) g =>
        let w := catchupPic s x a.1 g
        (max a.1 w.last, a.2 ++ [w])) (first - 1, [])
      let s1 := updDec got.1 d (fun x => { x with waiting := x.waiting ++ pics.2 })
      pics.2.foldl (fun s w => (requestTask s (decTask d x w)).1) s1

/-- DEC_CREATE once its source is known here. -/
def decMake (s : State) (d : Desc) (slot ring src : Nat) : Body :=
  let x0 := decOf d slot ring src
  let start := bits d.w2 35 34
  match firstFail (decChecks s x0 start (codecOf s src)) with
  | some st => .fail s st
  | none =>
    let n := Tbl.lowestFree s.units.decs
    let pool := x0.poolSlots * slotBytes x0.pxf x0.maxW x0.maxH
    let x := { x0 with
      bytes := pool, base := (allocate s 3 pool).getD 0, reserved := decReserve x0.maxW x0.maxH x0.fps x0.targetS }
    let s1 := setDec (overwritten s x.base pool) n x
    .reply (if start = 1 then catchUp s1 n x src else s1) 0 (ownHandle s 6 n) 0

/-- R478: DEC_CREATE on a mirror, when its source has acknowledged. -/
def decFinish (s : State) (d : Desc) (slot ring : Nat) : Body :=
  match mirrorFor s d.w1 with
  | none => .fail s 0x104
  | some src =>
    match decMake s d slot ring src with
    | .reply s1 st w1 w3 => .reply (if st = 0 then s1 else releaseMirror s1 src) st w1 w3
    | .waits s1 w => .waits s1 w

def execDecCreate (c : Cmd) (s : State) : Out :=
  .next (runRing s 0x400 c fun s =>
    let src := hIndex c.w1
    let remote := ofMember s 1 c.w1
    let ev := bitAt c.w2 7
    guarded s [(reservedBad c 0 [full, mask 47 23 + 0xBF, full, mask 47 32 + mask 9 0], 0x101),
        hMay s 1 c.w1 (ctxNamed s), (!remote && kindOf s src != 1 && kindOf s src != 5, 0x108),
        (ev && noQueue s c.slot (bits c.w2 5 0), 0x112),
        (remote && (spanAttached s (hMember c.w1)).isNone, 0x108),
        (remote && (mirrorFor s c.w1).isNone && ctxAtMax s, 0x200),
        (remote && (mirrorFor s c.w1).isNone && ctxNoRoom s, 0x201), (!remote && quarantined s src, 0x401)]
      (if remote then
        let s1 := if (mirrorFor s c.w1).isSome then s else (makeMirror s c.w1).1
        let top := ((mirrorFor s1 c.w1).bind (getCtx s1)).map (fun x => (x.sCount - 1) * 16 + (x.tCount - 1))
        let r := peerSend s1 (hMember c.w1) 0xA82 0 c.w1 (word (top.getD 0)) 0 none
        .waits r.1 (.peer r.2 (cmdDesc 0x400 c))
      else decMake s (cmdDesc 0x400 c) c.slot c.ring src))

/-- A decode context that the host can name. -/
def decLive (s : State) (d : Nat) : Bool :=
  match getDec s d with
  | some x => !x.destroying
  | none => false

/-- R290: a new target: what is lower takes effect at the next released picture, what is higher at a switch point. -/
def setTarget (s : State) (d ts tt reserve : Nat) : State :=
  match getDec s d with
  | none => s
  | some x =>
    let nowT := (min ts x.targetS, min tt x.targetT)
    let x1 := { x with
      targetS := nowT.1, targetT := nowT.2, reserved := reserve
      pendingTarget := if nowT = (ts, tt) then none else some (ts, tt) }
    let s1 := setDec s d x1
    requestIf s1 d (x.missingReq && decide (ts > x.targetS))

def execDecModify (c : Cmd) (s : State) : Out :=
  .next (runRing s 0x401 c fun s =>
    let sel := cmdSel c
    let n := hIndex c.w1
    let x := (getDec s n).getD { source := 0 }
    let ts := bits c.w2 31 28
    let tt := bits c.w2 27 24
    let res := decReserve x.maxW x.maxH x.fps ts
    let masks := [[full, mask 31 24], [full, mask 9 0], [full, 3, 0xFFFF], [full, 0xBF]].getD sel []
    guarded s [(decide (3 < sel), 0x108), (reservedBad c 0xF masks, 0x101), hObj s [6] c.w1 (decLive s),
        (sel == 3 && bitAt c.w2 7 && noQueue s c.slot (bits c.w2 5 0), 0x112),
        (sel == 0 && (decide (ts > 2) || decide (tt > 2) || (ts != 0 && codecOf s x.source != 5)), 0x108),
        (sel == 1 && decide (bits c.w2 9 0 > 1000), 0x108),
        (sel == 2 && (decide (bits c.w3 15 0 < 100) || decide (bits c.w3 15 0 > 10000)), 0x108),
        (sel == 0 && decide (res > x.reserved) && decRefused s res x.reserved, 0x203)]
      (.reply (match sel with
        | 0 => setTarget s n ts tt res
        | 1 => updDec s n (fun x => { x with repairWaitMs := bits c.w2 9 0 })
        | 2 => updDec s n (fun x => { x with
            taintReq := bitAt c.w2 1, missingReq := bitAt c.w2 0, taintReqMs := bits c.w3 15 0 })
        | _ => updDec s n (fun x => { x with
            eventsEn := bitAt c.w2 7, queue := bits c.w2 5 0, slot := c.slot, ring := c.ring, tag := c.tag })) 0 0 0))

/-- R308: a canvas, with the layout that waits, or an encode channel reads a context. -/
def unitRead (s : State) (w : Word) : Bool :=
  s.units.canvases.any (fun p => p.2.layers.any (fun l => l.source == w)
    || (match p.2.waiting with
        | some q => q.layers.any (fun l => l.source == w)
        | none => false))
    || s.units.encs.any (fun p => p.2.srcs.contains w || (match p.2.pendingSrcs with
        | some ws => ws.contains w
        | none => false))

/-- Concede every open entry of a context; its runs end with them (R308, R114). -/
def concedeDec (s : State) (d : Nat) : State :=
  match getDec s d with
  | none => s
  | some x => x.entries.foldl (fun s e => resolveEntry s e 2) s

def execDecDestroy (c : Cmd) (s : State) : Out :=
  .next (runRing s 0x402 c fun s =>
    let n := hIndex c.w1
    guarded s [(reservedBad c 0 [full], 0x101), hObj s [6] c.w1 (decLive s), (unitRead s c.w1, 0x105)]
      (let x := (getDec s n).getD { source := noCtx }
       let s1 := cancelTasks (concedeDec s n) (fun t => t.affinity == keyDec n)
       let s2 := updDec s1 n (fun x => { x with destroying := true, waiting := [], source := noCtx, reserved := 0 })
       .waits (releaseMirror s2 x.source) (.decDestroy n)))

def execDecRequestIntra (c : Cmd) (s : State) : Out :=
  .next (runRing s 0x403 c fun s =>
    let n := hIndex c.w1
    let x := (getDec s n).getD { source := noCtx }
    guarded s [(reservedBad c 1 [full], 0x101), hObj s [6] c.w1 (decLive s),
        (kindOf s x.source != 5 && !(((getCtx s x.source).map (fun y => y.pliEn)).getD false), 0x108)]
      (let r := requestKey s n x (cmdFlag c 0)
       .reply r.1 0 (word (r.2.getD 0)) 0))

end Sys2Proof.Machine
end

