-- ==== Sys2Proof/Machine/Compose.lean ====
section
/-! DEFINITION. Composition of canvases (R311 to R333). -/

namespace Sys2Proof.Machine

-- ## Motion hints (R330)

/-- A layer without transparency. -/
def Layer.opaque_ (l : Layer) : Bool := l.alpha == 255 && !l.pixelAlpha

/-- Whether two layers show the same source. -/
def sameSource (l m : Layer) : Bool := l.source == m.source && (l.source != 0 || l.stillAddr == m.stillAddr)

/-- How far the samples of `m` have moved in `l`. -/
def moved (l m : Layer) : Int × Int :=
  (((l.x : Int) - l.cropX) - ((m.x : Int) - m.cropX), ((l.y : Int) - l.cropY) - ((m.y : Int) - m.cropY))

/-- Whether the 16 × 16 block at a position lies wholly in a layer, and whether a layer covers any of it. -/
def wholly (l : Layer) (x y : Int) : Bool :=
  decide ((l.x : Int) ≤ x) && decide (x + 16 ≤ l.x + l.cropW) && decide ((l.y : Int) ≤ y) && decide (y + 16 ≤ l.y + l.cropH)
def touches (l : Layer) (x y : Int) : Bool :=
  decide ((l.x : Int) < x + 16) && decide (x < l.x + l.cropW) && decide ((l.y : Int) < y + 16) && decide (y < l.y + l.cropH)

/-- The moves of a new layout against the previous one: record, layer, previous record and layer, displacement; only the
lowest record of a source. -/
def moves (new old : List Layer) : List (Nat × Layer × Nat × Layer × (Int × Int)) :=
  let all := new.zipIdx.filterMap (fun l =>
    (old.zipIdx.find? (fun m => sameSource l.1 m.1 && moved l.1 m.1 != (0, 0))).map (fun m =>
      (l.2, l.1, m.2, m.1, moved l.1 m.1)))
  all.filter (fun a => !(all.any (fun b => b.1 < a.1 && sameSource b.2.1 a.2.1)))

/-- The hints that a move gives a canvas's blocks. -/
def hintedBlocks (w h : Nat) (new old : List Layer) (a : Nat × Layer × Nat × Layer × (Int × Int)) : List Hint :=
  let l := a.2.1
  let m := a.2.2.2.1
  let d := a.2.2.2.2
  if !l.opaque_ || !m.opaque_ then []
  else
    (((List.range (w / 16)).flatMap (fun i => (List.range (h / 16)).map (fun j => (i, j)))).filter
      (fun b =>
        let x : Int := (16 * b.1 : Nat)
        let y : Int := (16 * b.2 : Nat)
        wholly l x y && !((new.drop (a.1 + 1)).any (fun k => touches k x y))
          && wholly m (x - d.1) (y - d.2) && !((old.drop (a.2.2.1 + 1)).any (fun k => touches k (x - d.1) (y - d.2))))).map
      (fun b => { record := a.1, col := b.1, row := b.2, dx := -d.1, dy := -d.2 })

/-- The hints given when a layout takes effect. -/
def hintsFor (w h : Nat) (new old : List Layer) : List Hint := (moves new old).flatMap (hintedBlocks w h new old)

-- ## Picture starts (R314, R327 to R329)

/-- Complete the CANVAS_SET_LAYERS that waits on a canvas (R329, R331). -/
def endLayers (s : State) (id : Nat) (w1 w3 : Word) : State := completeWhere s (fun i => decide (i.wait = .layers id)) 0 w1 w3

/-- R329: the waiting layout takes effect at the start of picture `n`. -/
def applyLayers (s : State) (id n start : Nat) : State × List Hint :=
  match getCanvas s id with
  | none => (s, [])
  | some c =>
    match c.waiting with
    | none => (s, [])
    | some w =>
      if start < w.notBefore then (s, [])
      else
        let hints := if c.newest.isSome then hintsFor c.width c.height w.layers c.layers else []
        let holds := w.holds.map (fun h => (c.holds.find? (fun g => g.record == h.record && g.base == h.base)).getD h)
        (endLayers (setCanvas s id { c with layers := w.layers, holds := holds, waiting := none }) id 0 (word n), hints)

/-- R327: a picture start at which nothing is read or written. -/
def skipCanvas (s : State) (id n : Nat) : State :=
  canvasEvent (bumpC (canvasCount s id 0x04 1) (oCmpCounter 3) 1) id 1 0x502 (word n)

/-- The buffer that the next picture of a canvas fills (R322). -/
def nextBuffer (c : Canvas) : Nat :=
  match c.newest with
  | some p => if c.memBufs = 0 then 0 else (p.buffer + 1) % c.memBufs
  | none => 0

/-- The sources that a picture start reads, by record (R314). -/
def readSources (s : State) (c : Canvas) : List (Nat × Nat × Nat) :=
  c.layers.zipIdx.filterMap (fun l => (newestSource s l.1.source).map (fun r => (l.2, r)))

/-- R311, R314, R326, R408: a picture starts: its slot is granted, its sources are read and it is composed. -/
def startCanvas (s : State) (id n start : Nat) : State :=
  if !(slotGranted s clsCmp 0) then skipCanvas (slotRefused s) id n
  else
    let a := applyLayers s id n start
    match getCanvas a.1 id with
    | none => a.1
    | some c =>
      let p : CanvasPic := { no := n, start := start, sources := readSources a.1 c, buffer := nextBuffer c, hints := a.2 }
      let t := attemptCanvas a.1 id c p
      match t.2, (getCanvas t.1 id).bind (fun c => c.cur) with
      | true, some q => createTasks t.1 [canvasTask c id q]
      | _, _ => t.1

def execCanvasPictureStart (canvas : Nat) (s : State) : Out :=
  .next (
    match getCanvas s canvas with
    | none => s
    | some c =>
      let n := c.nextNo
      let start := c.startOf n
      if !(running s) || decide (now s < start) || c.destroying then s
      else
        let s1 := setCanvas s canvas { c with nextNo := n + 1 }
        if !(mediaOn s) then s1
        else if c.cur.isSome then skipCanvas s1 canvas n
        else startCanvas s1 canvas n start)

-- ## Rows (R325 to R327)

/-- The channels bound to a canvas as a row source (R335). -/
def boundTo (s : State) (w : Word) : List Nat := (s.units.encs.filter (fun p => p.2.srcs.contains w)).map (·.1)

/-- Encode tasks of some channels that wait for source rows go on (R405). -/
def rowsReady (s : State) (chs : List Nat) : State :=
  resumeTasks s .sourceRows (fun k => decide (8 * 2 ^ 60 ≤ k) && decide (k < 9 * 2 ^ 60)
    && chs.contains ((k - 8 * 2 ^ 60) / 256))

/-- R322, R325: the next row of a picture is complete. -/
def rowDone (s : State) (id : Nat) (c : Canvas) (p : CanvasPic) : State :=
  let r := p.row
  let s1 := if c.memBufs = 0 then s
    else { s with memory := { s.memory with
      dram := writeLines s.memory.dram (c.planes p.buffer) (16 * r) ((p.lines.drop (16 * r)).take 16) } }
  let q := { p with row := r + 1, late := p.late + b2n (decide (now s > c.rowDue p.start r)) }
  let s2 :=
    if r + 1 < c.rows then setCanvas s1 id { c with cur := some q }
    else
      let done := { q with lines := [] }
      settleCanvas (writeCanvasHeader (setCanvas s1 id { c with
        cur := none, newest := some done, before := some (c.before.getD (c.newest.map (fun p => p.no))), unripe := (c.newest.toList ++ c.unripe).take 3 }) c done) id
  rowsReady s2 (boundTo s (ownHandle s 7 id))

def execComposeRowDone (canvas : Nat) (s : State) : Out :=
  .next (
    match getCanvas s canvas, runningWith s (keyCanvas canvas) with
    | some c, some (t, _) =>
      (match c.cur with
       | none => s
       | some p =>
         if !(running s) || p.redo || p.joinWait || decide (t < p.minSeq) then s
         else settle (redoAll (rowDone s canvas c p)))
    | _, _ => s)

/-- R108, R327: at the deadline of the last row a picture that still waits for a join entry has its sources conceded. A
row that is not complete by its deadline is counted late when it completes. -/
def canvasDeadline (s : State) (canvas row : Nat) : State :=
  match getCanvas s canvas with
  | none => s
  | some c =>
    match c.cur with
    | none => s
    | some p =>
      if !(running s) || !p.joinWait || row + 1 < c.rows || decide (now s < c.lastDue p.start) then s
      else
        let es := p.sources.filterMap (fun q => (c.layers[q.1]?).bind (fun l =>
          (sourceRipe s l.source q.2).bind (fun r => r.entry)))
        (sourcesOf s 16 es).foldl (fun s e => resolveEntry s e 2) s

def execComposeRowDeadline (canvas row : Nat) (s : State) : Out := .next (canvasDeadline s canvas row)

-- ## Commands (R312, R315 to R317, R329, R331)

def fpsBad (num den : Nat) : Bool := num == 0 || den == 0 || decide (num < den) || decide (num > 120 * den)
def windowBad (us num den : Nat) : Bool := decide (us < 100) || decide (us > 1000000) || decide (us * num > 1000000 * den)

def execCanvasCreate (c : Cmd) (s : State) : Out :=
  .next (runRing s 0x500 c fun s =>
    let w := bits c.w1 47 32
    let h := bits c.w1 31 16
    let mx := bits c.w1 15 8
    let num := bits c.w2 47 32
    let den := bits c.w2 31 16
    let us := bits c.w4 47 28
    let bufs := bits c.w4 27 24
    let pxf := bits c.w4 23 18
    let size := if bufs = 0 then 0 else slotBytes pxf w h
    let origin := nearest (now s) c.w3
    let n := Tbl.lowestFree s.units.canvases
    let x : Canvas := {
      width := w, height := h, matrix := mx, fullRange := bitAt c.w1 7, fpsNum := num, fpsDen := den
      primaries := bits c.w2 15 8, transfer := bits c.w2 7 0, origin := origin
      k0 := schedFirst origin num den (now s + durMs 1), windowUs := us, memBufs := bufs, pxf := pxf
      eventsEn := bitAt c.w4 7, queue := bits c.w4 5 0, slot := c.slot, ring := c.ring, tag := c.tag
      background := bits c.w5 23 0, base := (allocate s 4 (bufs * size)).getD 0, bufBytes := size }
    guarded s [(reservedBad c 0 [mask 47 7, full, full, mask 47 18 + 0xBF, mask 23 0], 0x101),
        (bitAt c.w4 7 && noQueue s c.slot (bits c.w4 5 0), 0x112),
        (decide (w < 64) || decide (h < 64) || w % 2 == 1 || h % 2 == 1 || !(knownMatrix mx) || fpsBad num den
          || windowBad us num den || !(bufs == 0 || bufs == 2 || bufs == 3)
          || (bufs != 0 && !(pxf == 1 || pxf == 2 || pxf == 4)), 0x108),
        (sizeBad w h, 0x162), (decide (s.units.canvases.length ≥ 4096), 0x200),
        ((allocate s 4 (bufs * size)).isNone, 0x201)]
      (.reply (setCanvas (overwritten s x.base (bufs * size)) n x) 0 (ownHandle s 7 n) 0))

/-- A canvas that the host can name. -/
def canvasLive (s : State) (c : Nat) : Bool :=
  match getCanvas s c with
  | some x => !x.destroying
  | none => false

/-- A layer record of 48 bytes (R316). -/
def layerOf (ws : List Word) : Layer :=
  let w := fun (i : Nat) => ws.getD i 0
  { source := w 0
    stillAddr := w 1
    stillW := bits (w 2) 47 32
    stillH := bits (w 2) 31 16
    stillStride := bits (w 2) 15 0
    x := bits (w 3) 47 32
    y := bits (w 3) 31 16
    alpha := bits (w 3) 15 8
    policy := bits (w 3) 7 6
    pxf := bits (w 3) 5 0
    cropX := bits (w 4) 47 32
    cropY := bits (w 4) 31 16
    cropW := bits (w 4) 15 0
    cropH := bits (w 5) 47 32
    pixelAlpha := bitAt (w 5) 24
    fill := bits (w 5) 23 0 }

/-- R134: the words of a block in host memory as the module takes them. -/
def blockWords (s : State) (slot n : Nat) (bs : List Byte) : List Word :=
  let ws := bytesWords n bs
  if bitAt (getSlot s slot).cfg 22 then ws.map swapWord else ws

/-- R316: bits of a record that must be zero. -/
def recordReserved (ws : List Word) : Bool :=
  let w := fun (i : Nat) => ws.getD i 0
  w 6 != 0 || w 7 != 0 || bits (w 5) 31 25 != 0

/-- R316: a record's SOURCE as a check. -/
def sourceCheck (s : State) (l : Layer) : Bool × Nat :=
  if l.source = 0 then (false, 0)
  else hObj s [6, 7] l.source (fun n => if hType l.source = 6 then decLive s n else canvasLive s n)

/-- R316, R321: values of a record out of range (0x108). -/
def recordRange (s : State) (l : Layer) : Bool :=
  let still := l.source = 0
  l.policy == 3 || decide (l.cropW < 2) || decide (l.cropH < 2)
    || (if still then
          decide (l.pxf < 1) || decide (4 < l.pxf) || decide (l.stillW < 2) || decide (3840 < l.stillW)
            || decide (l.stillH < 2) || decide (3840 < l.stillH) || decide (l.stillStride < l.stillW * pxfBytes l.pxf)
            || (l.pixelAlpha && l.pxf != 3)
        else
          l.pxf != 0 || l.pixelAlpha || l.stillAddr != 0 || l.stillW != 0 || l.stillH != 0 || l.stillStride != 0
            || (hType l.source == 7 && ((getCanvas s (hIndex l.source)).map (fun c => c.memBufs)).getD 2 == 0))

/-- R317: a rectangle or a crop that does not fit, or an odd value (0x172). -/
def recordRect (c : Canvas) (l : Layer) : Bool :=
  [l.x, l.y, l.cropX, l.cropY, l.cropW, l.cropH, l.stillW, l.stillH].any (fun v => v % 2 == 1)
    || decide (l.x + l.cropW > c.width) || decide (l.y + l.cropH > c.height)
    || (l.source == 0 && (decide (l.cropX + l.cropW > l.stillW) || decide (l.cropY + l.cropH > l.stillH)))

/-- The bytes that a still's samples span (R316). -/
def stillBytes (l : Layer) : Nat := l.stillStride * l.stillH + (if l.pxf ≤ 2 then l.stillStride * ceilDiv l.stillH 2 else 0)

/-- The layers that a canvas has or is about to have; `me` is given a new layout. -/
def layoutOf (s : State) (me : Nat) (new : List Layer) (c : Nat) : List Layer :=
  if c = me then new
  else
    match getCanvas s c with
    | some x => (match x.waiting with
      | some w => w.layers
      | none => x.layers)
    | none => []

/-- R315: whether the depth of a canvas is more than `n`; so is a canvas's that reads itself. -/
def deeper (s : State) (me : Nat) (new : List Layer) (n c : Nat) : Bool :=
  match n with
  | 0 => true
  | n + 1 => ((layoutOf s me new c).filter (fun l => hType l.source == 7)).any (fun l => deeper s me new n (hIndex l.source))

/-- R323: the hold images of a layout: those kept and those allocated; none without room. -/
def placeHolds (s : State) (id : Nat) (c : Canvas) (ls : List (Layer × Nat)) (got : List HoldImage) : Option (List HoldImage) :=
  match ls with
  | [] => some got
  | (l, i) :: rest =>
    if l.policy != 1 || l.source == 0 then placeHolds s id c rest got
    else
      let kept := (c.holds.find? (fun h => h.record == i)).bind (fun h =>
        match c.layers[i]? with
        | some m =>
          if m.source == l.source && m.policy == 1 && m.cropX == l.cropX && m.cropY == l.cropY && m.cropW == l.cropW
            && m.cropH == l.cropH then some h else none
        | none => none)
      match kept with
      | some h => placeHolds s id c rest (got ++ [h])
      | none =>
        let bytes := pageUp (6 * l.cropW * l.cropH)
        let s1 := setCanvas s id { c with waiting := some { layers := [], notBefore := 0, holds := got } }
        match allocate s1 4 bytes with
        | none => none
        | some b => placeHolds s id c rest (got ++ [{ record := i, base := b, bytes := bytes }])

/-- CANVAS_SET_LAYERS once its records have been read. -/
def setLayersWith (s : State) (c : Cmd) (id : Nat) (x : Canvas) (recs : List (List Word)) : Body :=
  let ls := recs.map layerOf
  let all := (s.units.canvases.map (·.1))
  match firstFail ([(recs.any recordReserved, 0x101)] ++ ls.map (sourceCheck s) ++
      [(ls.any (recordRange s), 0x108),
       (all.any (fun k => deeper s id ls 3 k), 0x171), (ls.any (recordRect x), 0x172),
       (ls.any (fun l => l.source == 0 && badModuleRange l.stillAddr.toNat (stillBytes l)), 0x1A2)]) with
  | some st => .fail s st
  | none =>
    match placeHolds s id { x with waiting := none } ls.zipIdx [] with
    | none => .fail s 0x201
    | some hs =>
      let t := now s + durMs 1
      let at_ := if cmdFlag c 0 then max t (deadlineAt (nearest (now s) c.w5)) else t
      let s1 := endLayers s id 1 0
      let s2 := (hs.filter (fun h => !(x.holds.contains h))).foldl (fun s h => overwritten s h.base h.bytes) s1
      .waits (updCanvas s2 id (fun x => { x with waiting := some { layers := ls, notBefore := at_, holds := hs } })) (.layers id)

def execCanvasSetLayers (c : Cmd) (records : HostData) (s : State) : Out :=
  .next (runRing s 0x501 c fun s =>
    let id := hIndex c.w1
    let n := bits c.w4 3 0
    guarded s [(reservedBad c 1 [full, full, full, 0xF, full], 0x101), hObj s [7] c.w1 (canvasLive s),
        regionCheck s c.slot c.w2, (regionBounds s c.slot c.w2 c.w3.toNat (48 * n) false, 0x115),
        (c.w3.toNat % 64 != 0, 0x118), (decide (n < 2) || decide (8 < n), 0x170)]
      (match records, getCanvas s id with
        | .bytes bs, some x =>
          setLayersWith s c id x ((List.range n).map (fun i => blockWords s c.slot 8 (bs.drop (48 * i))))
        | d, _ => hostFailure s c d))

def execCanvasDestroy (c : Cmd) (s : State) : Out :=
  .next (runRing s 0x502 c fun s =>
    let n := hIndex c.w1
    guarded s [(reservedBad c 0 [full], 0x101), hObj s [7] c.w1 (canvasLive s), (unitRead s c.w1, 0x105)]
      (let s1 := endLayers s n 1 0
       .waits (updCanvas s1 n (fun x => { x with destroying := true, layers := [], waiting := none })) (.canvasDestroy n)))

end Sys2Proof.Machine
end

