-- ==== Sys2Proof/Machine/StreamEngine.lean ====
section
/-! DEFINITION. The stream engine (R223 to R225, R229, R375, R448, R478): what becomes of each decrypted or produced
packet of a source. -/

namespace Sys2Proof.Machine

-- ## Layers and switch points (R225)

/-- R225: whether a context's layers are read from its packets: VP8 and VP9 carry them, AV1, H.264 and HEVC in the
dependency descriptor when DD_ID is set. -/
def layered (x : Stream) : Bool := x.codec == 3 || x.codec == 4 || ((x.codec == 1 || x.codec == 2 || x.codec == 5) && x.ddId != 0)

/-- The layer of a packet. -/
def layerOfPkt (x : Stream) (h : RtpFacts) : Point := if layered x then (h.s, h.t) else (0, 0)

/-- R225: the switches for which a packet is a switch point. Every packet of audio serves any; so does a picture start of an
opaque stream. Of a stream without layers a picture start serves temporal changes, and a key picture or a refresh point any
switch. VP8's layer sync bit serves an up-switch to its layer, VP9's U bit one to any layer above, and a VP9 layer that is
not inter-predicted a spatial switch. DESIGN CHOICE (assumption 104). -/
def switchesOf (x : Stream) (h : RtpFacts) (start : Bool) : List Switchable :=
  let at_ := fun (up : Bool) (ps : List Point) => ps.map (fun p => ({ point := p, upOnly := up } : Switchable))
  let all := pointsUpTo (x.sCount - 1) (x.tCount - 1)
  let above := all.filter (fun p => decide (h.t ≤ p.2))
  if audioCodec x.codec then at_ false [(0, 0)]
  else if !(layered x) then
    if !start then [] else at_ (x.codec != 0 && !h.key && !h.refresh) [(0, 0)]
  else if x.codec = 3 then
    if h.key then at_ false all else if h.sync then at_ true [(0, h.t)] else []
  else if x.codec = 4 then
    if h.key then at_ false all
    else at_ false (if h.intraLayer then above.filter (fun p => p.1 == h.s) else []) ++ at_ true (if h.sync then above else [])
  else at_ false h.ddSwitches

-- ## Sequence numbers and receive statistics (R223)

/-- R223: a sequence number extended to the value nearest to the highest one; the first one of a context is its packet
index (assumption 34). -/
def extendSeq (x : Stream) (index seq : Nat) : Nat :=
  match x.highestSeq with
  | none => index
  | some h => nearestIndex h seq

/-- RFC 3550's interarrival jitter in sixteenths of a clock unit, with this packet's transit time. -/
def jitterStep (x : Stream) (time ts : Nat) : Stream :=
  let transit : Int := ((time * clockRate x.clock / second : Nat) : Int) - ts
  match x.lastTransit with
  | none => { x with lastTransit := some transit }
  | some t =>
    let d := ((BitVec.ofInt 32 (transit - t)).toInt).natAbs
    { x with lastTransit := some transit, jitter := x.jitter + d - (x.jitter + 8) / 16 }

/-- What a context knows once a packet with an extended sequence number is held. -/
def holdSeq (x : Stream) (t ext : Nat) : Stream :=
  let gap := match x.highestSeq with
    | some h => (fromTo (h + 1) (ext - 1)).map (fun q => ({ seq := q, seenAt := t } : Missing))
    | none => []
  { x with
    highestSeq := some (max ext (x.highestSeq.getD 0))
    heldSeqs := (ext :: x.heldSeqs).take 2048
    missing := (x.missing.filter (fun m => m.seq != ext)) ++ gap }

/-- R223: a packet with this number is held already. -/
def heldAlready (s : State) (c : Nat) (x : Stream) (ext : Nat) : Bool :=
  x.heldSeqs.contains ext || (ownRecs s c).any (fun r => r.seq == ext)

/-- R235: the mean interval between picture starts, over at most sixteen. -/
def pictureStart (x : Stream) (time : Nat) : Stream :=
  match x.lastPicture with
  | none => { x with lastPicture := some (time, 1) }
  | some (t, n) =>
    { x with
      picInterval := if x.picInterval = 0 then time - t else (x.picInterval * (n - 1) + (time - t)) / n
      lastPicture := some (time, min 16 (n + 1)) }

-- ## Jitter buffers

/-- Whether a decode context reads a source. -/
def decRead (s : State) (c : Nat) : Bool := s.units.decs.any (fun d => d.2.source == c)

/-- Add a packet, as a picture of its own, to the pictures of a video jitter buffer, in sequence order. -/
def jbInsert (ps : List JbPic) (ext : Nat) (n : JbPic) : List JbPic :=
  match ps with
  | [] => [n]
  | p :: rest =>
    if p.ts = n.ts then
      { p with
        seqs := p.seqs ++ n.seqs
        marker := n.marker.or p.marker
        switches := p.switches ++ n.switches
        disposable := p.disposable || n.disposable
        conceded := p.conceded || n.conceded } :: rest
    else if ext < p.seqs.foldl min (p.seqs.headD 0) then n :: p :: rest
    else p :: jbInsert rest ext n

/-- R229: a packet of a picture that has been released. -/
def afterRelease (x : Stream) (ext ts : Nat) : Bool :=
  (match x.jbReleased with
   | some r => decide (ext ≤ r)
   | none => false) || x.jbTs == some ts

/-- A packet of a video context reaches its jitter buffer, or is late and a repair. -/
def videoBuffer (s : State) (c : Nat) (x : Stream) (time ext : Nat) (h : RtpFacts) (sw : List Switchable) (conceded : Bool) : State :=
  if afterRelease x ext h.ts then
    if decRead s c then repairAll (ctxCount s c 0x03 1) c ext h.ts h.marker h.unneeded conceded else s
  else
    let n : JbPic := { ts := h.ts, firstAt := time, seqs := [ext], marker := if h.marker then some ext else none, switches := sw
                       disposable := h.disposable, conceded := conceded }
    releaseDue (updCtx s c (fun x => { x with jb := jbInsert x.jb ext n })) c (x.jb.length + 1)

/-- The period T of a mix group. -/
def Mix.period (m : Mix) : Nat := if m.period20 then durMs 20 else durMs 10

/-- The leg bound as a sender by an inbound context, with its group. -/
def senderOf (s : State) (c : Nat) : Option (Nat × Nat) :=
  (s.units.bindings.find? (fun b => b.2.inbound == some c)).map (fun b => (b.1, b.2.group))

def getMix (s : State) (g : Nat) : Option Mix := Tbl.get? s.units.mixes g
def setMix (s : State) (g : Nat) (m : Mix) : State := { s with units := { s.units with mixes := Tbl.put s.units.mixes g m } }
def updMix (s : State) (g : Nat) (f : Mix → Mix) : State :=
  { s with units := { s.units with mixes := Tbl.upd s.units.mixes g f } }
def mixCount (s : State) (g k n : Nat) : State := updMix s g (fun m => { m with counters := bumpS m.counters k n })

/-- R394: post an event of a mix group: SPEAKERS_CHANGED each time, the others at most once a second. -/
def mixEvent (s : State) (g kind status : Nat) (w1 : Word) : State :=
  match getMix s g with
  | none => s
  | some m =>
    if m.eventsEn && (kind == 0 || mayPost s m.events kind) then
      postEvent (setMix s g { m with events := Tbl.put m.events kind (now s) }) m.slot m.queue m.tag m.ring status w1
        (word (kind * 2 ^ 44 + g))
    else s

/-- R375: J, which is JB_TARGET_MS and no less than T (assumption 35). -/
def audioJ (x : Stream) (m : Mix) : Nat := max (durMs x.jbTarget) m.period

/-- R375: the playout time of an RTP timestamp. -/
def playout (x : Stream) (ts : Nat) : Int :=
  x.ajb.ref + (BitVec.ofInt 32 ((ts : Int) - x.ajb.tsRef)).toInt * (second : Int) / (clockRate x.clock : Int)

/-- R369: a packet is undecodable. -/
def undecodable (x : Stream) (h : RtpFacts) : Bool :=
  !(audioDecodable x.codec h.bytes) || h.pt != x.pt || decide (audioSamples x.codec h.bytes > 5760)

/-- R378: what a packet's level adds to its period. -/
def noteLevel (j : AudioJb) (time : Nat) (level : Option (Nat × Bool)) : AudioJb :=
  match level with
  | none => { j with lastPacket := some time }
  | some (v, vad) => { j with
      lastPacket := some time
      level := some (match j.level with
        | some l => min l v
        | none => v)
      vadAllZero := j.vadAllZero && !vad }

/-- R369, R375: a packet of a bound sender reaches its audio jitter buffer. -/
def audioBuffer (s : State) (c leg g : Nat) (m : Mix) (time : Nat) (h : RtpFacts) : State :=
  match getCtx s c with
  | none => s
  | some x =>
    let leveled := noteLevel x.ajb time (levelAt h.bytes x.levelId)
    let j := if x.ajb.anchored || undecodable x h then leveled
      else { leveled with anchored := true, ref := (time : Int) + (audioJ x m : Nat), tsRef := h.ts, lateRun := 0
                          lateNow := false, deepSince := none, held := [] }
    let y := { x with ajb := j }
    let s1 := setCtx s c y
    if undecodable x h then
      mixEvent (bumpC (mixCount s1 g 0x0A 1) (oAudCounter 6) 1) g 1 0x500 (word leg)
    else if (time : Int) > playout y h.ts then
      updCtx (ctxCount s1 c 0x03 1) c (fun x => { x with ajb := { x.ajb with lateNow := true } })
    else
      updCtx s1 c (fun x => { x with ajb := { x.ajb with held := x.ajb.held ++ [(h.ts, audioSamples x.codec h.bytes)] } })

-- ## Storing and passing on

/-- R478: every final packet of a source within a member's point goes to that member as MEDIA. -/
def sendMedia (s : State) (c : Nat) (s0 t0 ext : Nat) (conceded : Bool) (plain : List Byte) : State :=
  match getCtx s c with
  | none => s
  | some x =>
    if !(mediaOn s && grnActive s) then s
    else x.remote.foldl (fun s r =>
      if decide (s0 ≤ r.2.1) && decide (t0 ≤ r.2.2) && inRoster s r.1 then
        (grnSend s 2 r.1 false conceded (ownHandle s 1 c) (word ext) plain).1
      else s) s

/-- R232: the bits of the frame that carries a packet of `n` bytes over IPv4, for packets that arrive in none
(assumption 36). -/
def plainFrame (n : Nat) : Nat := n + 46

/-- R85, R223, R448, R478: one final packet of a source: it is written to the Preserve, and goes to its jitter buffer, to
the forwarder and to remote members. `bits` is its length in frame bits, `level` the level of a mix frame (R386). The answer adds its record. -/
def storeRec (s : State) (c : Nat) (x : Stream) (time ext bits : Nat) (h : RtpFacts) (conceded : Bool)
    (level : Option (Nat × Bool) := none) : State × PRec :=
  let ts := h.ts
  let newest := match x.highestSeq with
    | some q => decide (q < ext)
    | none => true
  let start := newest && x.lastTs != some ts
  let layer := layerOfPkt x h
  let sw := switchesOf x h start
  let video := !(audioCodec x.codec)
  let repair := video && decRead s c && afterRelease x ext ts
  let y0 := holdSeq x time ext
  let y1 := if start then pictureStart y0 time else y0
  let y := { y1 with
    lastTs := if newest then some ts else y1.lastTs
    rateLog := y1.rateLog ++ [(time, layer.1, layer.2, bits)] }
  let r : PRec := {
    pos := 0, ctx := c, len := h.len, seq := ext, ts := ts, time := time, s := layer.1, t := layer.2, refresh := h.refresh
    switch := !sw.isEmpty, repair := repair, marker := h.marker, prevPos := 0, endOfFrame := h.endOfFrame
    level := level.orElse (fun _ => levelAt h.bytes x.levelId), dd := (extAt h.bytes x.ddId).getD [], conceded := conceded, disposable := h.disposable }
  let w := preserveWrite (setCtx s c y) r sw h.bytes
  let s1 := if video then videoBuffer w.1 c y time ext h sw conceded else w.1
  let s2 := match senderOf s1 c with
    | some (leg, g) => (match getMix s1 g with
      | some m => audioBuffer s1 c leg g m time h
      | none => s1)
    | none => s1
  let r1 := match w.2 with
    | some pos => { r with pos := pos }
    | none => r
  (sendMedia (forwardLive s2 r1 h.bytes start sw) c layer.1 layer.2 ext conceded h.bytes, r1)

/-- The state of `storeRec`. -/
def storePacket (s : State) (c : Nat) (x : Stream) (time ext bits : Nat) (h : RtpFacts) (conceded : Bool) : State :=
  (storeRec s c x time ext bits h conceded).1

/-- The receive statistics that RFC 3550's and RFC 8888's reports are made from, for a packet accepted under its SSRC and
number as received. -/
def noteReceived (x : Stream) (time ext : Nat) (h : RtpFacts) : Stream :=
  { x with
    received := x.received + 1
    baseSeq := some (x.baseSeq.getD ext)
    ccfbLog := if x.ccfbEn then x.ccfbLog ++ [(h.ssrc, h.seq, time)] else x.ccfbLog }

/-- R223: an accepted INBOUND_MEDIA packet. An RFC 4588 packet is taken as the packet that it carries. -/
def acceptRtp (s : State) (p : Pkt) (x : Stream) (h : RtpFacts) : State :=
  let g := if p.rtx then { h with bytes := unwrapRtx h.bytes x.pt x.ssrc } else h
  let ext := extendSeq x (if p.rtx then h.osn else p.index) g.seq
  let s1 := ctxCount (ctxCount (ctxCount s p.ctx 0x00 1) p.ctx 0x01 p.len) p.ctx 0x09 (b2n p.rtx)
  if heldAlready s1 p.ctx x ext then ctxCount s1 p.ctx 0x03 1
  else
    match getCtx s1 p.ctx with
    | none => s1
    | some y => storePacket s1 p.ctx (jitterStep (noteReceived y p.time ext h) p.time g.ts) p.time ext (8 * p.len) g false

/-- R223, R226: the next packet that the lanes have decrypted. What an SRTCP packet says comes as its own
rows; the packets of it that nothing acts on are counted. A context
that is gone or quarantined drops it. -/
def execStreamEnginePacket (s : State) : Out :=
  .next (
    match s.media.engineIn with
    | [] => s
    | p :: rest =>
      let s1 := { s with media := { s.media with engineIn := rest } }
      match getCtx s1 p.ctx with
      | none => s1
      | some x =>
        if x.quarantined || !(running s) then s1
        else
          match p.media with
          | .rtcp h => legCount (ctxCount (ctxCount s1 p.ctx 0x00 1) p.ctx 0x01 p.len) p.leg 0x21 h.ignored
          | .rtp h => settle (acceptRtp s1 p x h))

/-- R343, R386: the packet of a PRODUCED context: its payload type, SSRC and number, and of the extensions the dependency
descriptor that the encoder has written at DD_ID, and a mix frame's level at AUDIO_LEVEL_ID. -/
def produced (x : Stream) (ts ext : Nat) (marker : Bool) (level : Option (Nat × Bool)) (bs : List Byte) : List Byte :=
  let els := (if x.levelId = 0 then [] else (level.map (fun l => (x.levelId, beBytes 1 (b2n l.2 * 128 + l.1)))).toList)
    ++ ((extAt bs x.ddId).map (fun e => (x.ddId, e))).toList
  setSeq (rewriteRtp bs x.pt x.ssrc (ts % 2 ^ 32) marker els) (ext % 65536)

/-- R85, R358, R385: a packet that an encoder or a mix group produces for a PRODUCED context. The module gives it the next
sequence number, of which the first is a free value. The answer adds the record, with its packet. -/
def produceRec (s : State) (c : Nat) (ts : Nat) (h : RtpFacts) (marker : Bool) (level : Option (Nat × Bool)) (conceded : Bool) :
    State × Option (PRec × List Byte) :=
  match getCtx s c with
  | none => (s, none)
  | some x =>
    let ext := match x.highestSeq with
      | some q => q + 1
      | none => (freeVal s 16).toNat
    let g := { h with bytes := produced x ts ext marker level h.bytes }
    let s1 := if x.highestSeq.isNone then nextFree s else s
    let s2 := ctxCount (ctxCount s1 c 0x00 1) c 0x01 g.len
    match getCtx s2 c with
    | none => (s2, none)
    | some y =>
      let r := storeRec s2 c y (now s) ext (8 * plainFrame g.len) g conceded level
      (r.1, some (r.2, g.bytes))

/-- The state of `produceRec`. -/
def producePacket (s : State) (c : Nat) (ts : Nat) (h : RtpFacts) (marker conceded : Bool) : State :=
  (produceRec s c ts h marker none conceded).1

end Sys2Proof.Machine
end

