-- ==== Sys2Proof/Machine/Encode.lean ====
section
/-! DEFINITION. Video encode and rate control (R334 to R366). -/

namespace Sys2Proof.Machine

-- ## Refresh and temporal layers (R341 to R347)

/-- R341: the temporal pattern of a channel. -/
def pattern (tLayers : Nat) : List Nat := if tLayers = 1 then [0] else if tLayers = 2 then [0, 1] else [0, 2, 1, 2]

/-- R345: the block columns of stripe `i` of `p` in `c` columns: first and one past the last. -/
def stripeCols (c p i : Nat) : Nat × Nat := (i * c / p, (i + 1) * c / p)

/-- R345: the smallest number of block columns of a channel's layers. -/
def leastCols (codec : Nat) (sizes : List (Nat × Nat)) : Nat :=
  sizes.foldl (fun m z => min m (ceilDiv z.1 (blockSize codec))) 65535

/-- Parameters that wait for a picture start take effect (R361). -/
def applyPending (e : Enc) : Enc :=
  let a := match e.pendingQp with
    | some (t, m, caps) => { e with qpTarget := t, qpMax := m, caps := caps, pendingQp := none }
    | none => e
  let b := match a.pendingSrcs with
    | some ws => { a with srcs := ws, pendingSrcs := none }
    | none => a
  match b.pendingSearch with
  | some (n, m) => { b with search := n, reqMode := m, pendingSearch := none }
  | none => b

/-- R345, R361: a cycle starts: a waiting REFRESH_P and FAST_P take effect, and the cycle has its period. -/
def newCycle (e : Enc) (fast : Bool) : Enc :=
  let a := match e.pendingRefresh with
    | some (p, f) => { e with refreshP := p, fastP := f, pendingRefresh := none }
    | none => e
  { a with stripe := 0, period := if fast && a.fastP != 0 then a.fastP else a.refreshP, restartCycle := fast }

/-- R341, R344, R345, R347, R364: what the next picture is: the channel with its pattern and cycle moved on, whether it is
a key picture, its temporal layer, and its stripe. -/
def nextKind (e0 : Enc) : Enc × Bool × Nat × Option Nat :=
  let key := !e0.started || e0.keyPending
  let e := if key || e0.resumed then { e0 with phase := 0 } else e0
  let t := (pattern e.tLayers).getD (e.phase % (pattern e.tLayers).length) 0
  let e1 := { e with phase := e.phase + 1, started := true }
  if key then ({ e1 with keyPending := false, stripe := 0, restartCycle := false, resumed := false }, true, 0, none)
  else if t != 0 then (e1, false, t, none)
  else
    let e2 := if e1.restartPending then { newCycle e1 true with restartPending := false, resumed := false }
      else if e1.resumed then { newCycle e1 false with resumed := false }
      else if e1.stripe = 0 && !e1.restartCycle then newCycle e1 false
      else e1
    (e2, false, 0, some e2.stripe)

-- ## References and motion (R339, R341, R342, R346, R349, R350)

/-- R341: the picture that a picture of a temporal layer predicts from: for layer 0 and 1 the nearest of layer 0, for layer 2
the nearest of layer 0 or 1. -/
def temporalRef (e : Enc) (t : Nat) : Option RefPic :=
  (e.refs.filter (fun r => decide (r.temporal ≤ t - 1))).foldl (fun (m : Option RefPic) r => match m with
    | none => some r
    | some q => if q.index < r.index then some r else some q) none

/-- The lowest reference slot that no reference lies in (DESIGN CHOICE, assumption 107). -/
def freeRef (e : Enc) : Nat := ((List.range (e.tLayers + 1)).find? (fun k => !(e.refs.any (fun r => r.slot == k)))).getD 0

/-- R339, R341: the references once a picture is complete: one of the top of several temporal layers is no reference, any other
takes the place of the one of its layer; a key picture leaves no other. -/
def keepRef (e : Enc) (p : CodedPic) : Enc :=
  let clean := match p.stripe with
    | some k => if p.skippedStripe then k else k + 1
    | none => e.stripe
  let r : RefPic := { index := p.index, slot := p.slot, temporal := p.temporal, clean := clean }
  { e with
    coded := p.index + 1
    prevVecs := p.vecs
    refs := if e.tLayers > 1 && p.temporal + 1 == e.tLayers then e.refs
      else if p.key then [r] else r :: e.refs.filter (fun x => x.temporal != p.temporal) }

/-- The block columns of a layer (R345), and the block column of a 16 × 16 block. -/
def layerCols (e : Enc) (l : Nat) : Nat := ceilDiv (e.sizes.getD l (0, 0)).1 (blockSize e.codec)

/-- R345: whether a 16 × 16 block lies left of the picture's stripe, and whether it lies in it. -/
def leftOfStripe (e : Enc) (p : CodedPic) (l col : Nat) : Bool :=
  p.stripe.elim false (fun k => decide (col * 16 / blockSize e.codec < (stripeCols (layerCols e l) e.period k).1))
def inStripe (e : Enc) (p : CodedPic) (l col : Nat) : Bool :=
  p.stripe.elim false (fun k => !(leftOfStripe e p l col)
    && decide (col * 16 / blockSize e.codec < (stripeCols (layerCols e l) e.period k).2))

/-- R346: the first sample past the clean region of a block's reference: the picture's temporal reference, or the layer below
of the same picture. -/
def cleanEdge (e : Enc) (p : CodedPic) (l : Nat) (lower : Bool) : Nat :=
  if lower then
    p.stripe.elim 0 (fun k => (stripeCols (layerCols e (l - 1)) e.period k).2 * blockSize e.codec)
  else
    let n := ((e.refs.find? (fun r => some r.index == p.refNo)).map (fun r => r.clean)).getD 0
    n * layerCols e l / e.period * blockSize e.codec

/-- R346, R302: one past the last sample column that a 16 × 16 block reads with a vector in quarter samples. A read of the layer
below, at half the size, always interpolates (DEDUCED, assumption 108). -/
def readsUpTo (col : Nat) (lower : Bool) (dx : Int) : Int :=
  let x : Int := (64 * (col + 1) : Nat)
  if lower then ceilInt (x + dx) 8 + 4 else ceilInt (x + dx) 4 + (if dx % 4 = 0 then 0 else 4)

/-- R340: the levels of H.264 Annex A (PRESUMED, assumption 115): the level in tenths, 9 for level 1b, the greatest macroblock
rate, picture size in macroblocks, bit rate in units of 1,000 bit/s, and vertical vector range in samples. -/
def h264Levels : List (Nat × Nat × Nat × Nat × Nat) :=
  [(10, 1485, 99, 64, 64), (9, 1485, 99, 128, 64), (11, 3000, 396, 192, 128), (12, 6000, 396, 384, 128),
   (13, 11880, 396, 768, 128), (20, 11880, 396, 2000, 128), (21, 19800, 792, 4000, 256), (22, 20250, 1620, 4000, 256),
   (30, 40500, 1620, 10000, 256), (31, 108000, 3600, 14000, 512), (32, 216000, 5120, 20000, 512),
   (40, 245760, 8192, 20000, 512), (41, 245760, 8192, 50000, 512), (42, 522240, 8704, 50000, 512)]
  ++ [(50, 589824, 22080, 135000, 512), (51, 983040, 36864, 240000, 512), (52, 2073600, 36864, 240000, 512),
   (60, 4177920, 139264, 240000, 8192), (61, 8355840, 139264, 480000, 8192), (62, 16711680, 139264, 800000, 8192)]

/-- R340: the levels of AV1 Annex A (PRESUMED, assumption 115): the level in tenths, the greatest picture size, width, height,
display rate, decode rate, and bit rate of the main tier in Mbit/s times 10. -/
def av1Levels : List (Nat × Nat × Nat × Nat × Nat × Nat × Nat) :=
  [(20, 147456, 2048, 1152, 4423680, 5529600, 15), (21, 278784, 2816, 1584, 8363520, 10454400, 30),
   (30, 665856, 4352, 2448, 19975680, 24969600, 60), (31, 1065024, 5504, 3096, 31950720, 39938400, 100),
   (40, 2359296, 6144, 3456, 70778880, 77856768, 120), (41, 2359296, 6144, 3456, 141557760, 155713536, 200),
   (50, 8912896, 8192, 4352, 267386880, 273715200, 300), (51, 8912896, 8192, 4352, 534773760, 547430400, 400)]
  ++ [(52, 8912896, 8192, 4352, 1069547520, 1094860800, 600), (53, 8912896, 8192, 4352, 1069547520, 1176502272, 600),
   (60, 35651584, 16384, 8704, 1069547520, 1176502272, 600), (61, 35651584, 16384, 8704, 2139095040, 2189721600, 1000),
   (62, 35651584, 16384, 8704, 4278190080, 4379443200, 1600), (63, 35651584, 16384, 8704, 4278190080, 4706009088, 1600)]

/-- The H.264 level of a channel: the lowest whose limits hold it. -/
def h264Level (e : Enc) : Option (Nat × Nat × Nat × Nat × Nat) :=
  let z := e.sizes.getD 0 (0, 0)
  let w := ceilDiv z.1 16
  let h := ceilDiv z.2 16
  let factor := if e.profile = 3 then 1250 else 1000
  h264Levels.find? (fun x => decide (w * h * e.fpsNum ≤ x.2.1 * e.fpsDen) && decide (w * h ≤ x.2.2.1)
    && decide (w * w ≤ 8 * x.2.2.1) && decide (h * h ≤ 8 * x.2.2.1) && decide (e.caps.getD 0 0 * 8000 ≤ x.2.2.2.1 * factor))

/-- R340: the level that a channel writes, in tenths; 0 for VP8, and none where no level holds it. -/
def levelWritten (e : Enc) : Option Nat :=
  let z := e.sizes.getLastD (0, 0)
  if e.codec = 3 then some 0
  else if e.codec = 1 then (h264Level e).map (·.1)
  else
    (av1Levels.find? (fun x => decide (z.1 * z.2 ≤ x.2.1) && decide (z.1 ≤ x.2.2.1) && decide (z.2 ≤ x.2.2.2.1)
      && decide (z.1 * z.2 * e.fpsNum ≤ x.2.2.2.2.1 * e.fpsDen)
      && decide ((e.sizes.map (fun q => q.1 * q.2)).sum * e.fpsNum ≤ x.2.2.2.2.2.1 * e.fpsDen)
      && decide (e.caps.sum * 8000 ≤ x.2.2.2.2.2.2 * 100000))).map (·.1)

/-- R349: whether a vector in quarter samples lies in the codec's or the level's range (PRESUMED, assumption 115). -/
def vectorInRange (e : Enc) (v : Int × Int) : Bool :=
  if e.codec = 1 then
    let n : Int := ((h264Level e).map (fun x => x.2.2.2.2)).getD 8192
    decide (-8192 ≤ v.1) && decide (v.1 < 8192) && decide (-4 * n ≤ v.2) && decide (v.2 < 4 * n)
  else if e.codec = 5 then decide (-8192 < v.1) && decide (v.1 < 8192) && decide (-8192 < v.2) && decide (v.2 < 8192)
  else Config.vp8VectorInRange v.1 v.2

/-- R346, R349: whether a block may predict with a vector. -/
def vectorOk (e : Enc) (p : CodedPic) (l col : Nat) (lower : Bool) (v : Int × Int) : Bool :=
  vectorInRange e v
    && (!(leftOfStripe e p l col) || decide (readsUpTo col lower v.1 + 8 ≤ (cleanEdge e p l lower : Nat)))

/-- R341, R342: the references of a picture's blocks in a layer: the temporal one with its distance in coded pictures, and the
layer below. The layers above 0 of a key picture and of the first picture of a cycle have the layer below only. -/
def blockRefs (p : CodedPic) (l : Nat) : List (Bool × Nat) :=
  (if p.key || (decide (0 < l) && p.stripe == some 0) then [] else (p.refNo.map (fun n => (false, p.index - n))).toList)
    ++ (if 0 < l then [(true, 0)] else [])

def vecAt (vs : List MotionVec) (l col row : Nat) : Option MotionVec :=
  vs.find? (fun v => v.layer == l && v.col == col && v.row == row)

/-- R349: the candidate vectors of a block for a reference: zero, spatial, temporal and from the layer below. The neighbours'
are those that predict from the same reference (DEDUCED), and a scaled component is cut to whole quarter samples towards zero
(DESIGN CHOICE, assumption 108). -/
def candidates (e : Enc) (vs : List MotionVec) (l col row : Nat) (r : Bool × Nat) : List (Int × Int) :=
  let near := ((if col = 0 then [] else [vecAt vs l (col - 1) row])
    ++ (if row = 0 then [] else [vecAt vs l col (row - 1), vecAt vs l (col + 1) (row - 1)])).filterMap id
  let before := (vecAt e.prevVecs l col row).toList.filter (fun v => !v.lower && !r.1)
  let below := if l = 0 || r.1 then [] else (vecAt vs (l - 1) (col / 2) (row / 2)).toList.filter (fun v => !v.lower)
  [((0, 0) : Int × Int)] ++ (near.filter (fun v => v.lower == r.1)).map (fun v => (v.dx, v.dy))
    ++ before.map (fun v => ((v.dx * (r.2 : Int)).tdiv (v.back : Int), (v.dy * (r.2 : Int)).tdiv (v.back : Int)))
    ++ below.map (fun v => (2 * v.dx, 2 * v.dy))

/-- The vector of least SAD, the earlier of equals. -/
def leastSad (f : Int × Int → Nat) (best : Int × Int) (vs : List (Int × Int)) : Int × Int :=
  vs.foldl (fun b v => if f v < f b then v else b) best

/-- R350: the positions around a vector at `step` quarter samples, and the whole-sample positions within ± `n` samples of it. -/
def around (v : Int × Int) (step : Int) : List (Int × Int) :=
  [-step, 0, step].flatMap (fun y => [-step, 0, step].map (fun x => (v.1 + x, v.2 + y)))
def wholeAround (v : Int × Int) (n : Nat) : List (Int × Int) :=
  let axis := fun (c : Int) => ((List.range (2 * n + 2)).map (fun k => 4 * (c / 4 - n + (k : Nat)))).filter
    (fun x => decide (c - 4 * (n : Int) ≤ x) && decide (x ≤ c + 4 * (n : Int)))
  (axis v.2).flatMap (fun y => (axis v.1).map (fun x => (x, y)))

/-- R349, R350: motion search of a block against one reference: its best vector, or none when every candidate is dropped. -/
def searchRef (e : Enc) (p : CodedPic) (vs : List MotionVec) (n l col row : Nat) (r : Bool × Nat) : Option (Int × Int) :=
  let ok := vectorOk e p l col r.1
  let sad := fun (v : Int × Int) => Config.sad n l col row r.1 v.1 v.2
  match (candidates e vs l col row r).filter ok with
  | [] => none
  | c :: rest =>
    let a := leastSad sad c rest
    let b := leastSad sad a ((wholeAround a e.search).filter ok)
    let d := leastSad sad b ((around b 2).filter ok)
    some (leastSad sad d ((around d 1).filter ok))

/-- R349: the search over a block's references. -/
def searchBlock (e : Enc) (p : CodedPic) (vs : List MotionVec) (n l col row : Nat) : Option MotionVec :=
  let found := (blockRefs p l).filterMap (fun r => (searchRef e p vs n l col row r).map (fun v =>
    ({ layer := l, col := col, row := row, lower := r.1, back := r.2, dx := v.1, dy := v.2 } : MotionVec)))
  found.foldl (fun (m : Option MotionVec) v => match m with
    | none => some v
    | some q => if Config.sad n l col row v.lower v.dx v.dy < Config.sad n l col row q.lower q.dx q.dy then some v else some q) none

/-- R350: the vector of a block's admissible compose hint. The blocks of the picture's stripe take none. -/
def hintVec (e : Enc) (p : CodedPic) (l col row : Nat) : Option MotionVec :=
  if inStripe e p l col then none
  else
    match p.hints.find? (fun h => h.1 == l && h.2.col == col && h.2.row == row), (blockRefs p l).find? (fun r => !r.1) with
    | some h, some r =>
      if vectorOk e p l col false (4 * h.2.dx, 4 * h.2.dy) then
        some { layer := l, col := col, row := row, lower := false, back := r.2, dx := 4 * h.2.dx, dy := 4 * h.2.dy }
      else none
    | _, _ => none

/-- How a block row is coded: as other rows, exhausted (R354), or as a skip row (R355). -/
inductive RowMode where
  | plain | exhausted | skip
  deriving DecidableEq, Repr

/-- R345, R349, R350, R354, R355: one 16 × 16 block of a row: its vector, none for an intra block, and whether it took its
hint. `intra` says that the encoder codes it as intra by its own choice. -/
def codeBlock (e : Enc) (p : CodedPic) (m : RowMode) (vs : List MotionVec) (n l col row : Nat) (intra : Bool) :
    Option MotionVec × Bool :=
  let back := ((blockRefs p l).find? (fun r => !r.1)).elim 1 (fun r => r.2)
  if m = .skip then (some { layer := l, col := col, row := row, lower := false, back := back, dx := 0, dy := 0 }, false)
  else if inStripe e p l col then (none, false)
  else
    match hintVec e p l col row with
    | some v => (some v, true)
    | none =>
      if intra then (none, false)
      else if m = .exhausted then
        let v := Config.skipVector n l col row
        if (blockRefs p l).any (fun r => !r.1) && vectorOk e p l col false v then
          (some { layer := l, col := col, row := row, lower := false, back := back, dx := v.1, dy := v.2 }, false)
        else (none, false)
      else (searchBlock e p vs n l col row, false)

/-- The 16 × 16 blocks of block row `r` of a segment, row by row. -/
def rowBlocks (e : Enc) (l seg r : Nat) : List (Nat × Nat) :=
  let z := e.sizes.getD l (0, 0)
  let k := blockSize e.codec / 16
  let pt := if e.codec = 5 then part (layerCols e l) e.segments seg else (0, layerCols e l)
  ((List.range k).map (· + r * k)).flatMap (fun y => ((List.range (pt.2 * k)).map (· + pt.1 * k)).map (fun x => (x, y)))
    |>.filter (fun b => decide (b.1 * 16 < z.1) && decide (b.2 * 16 < z.2))

/-- R349, R350: a block row's blocks in order: the picture's vectors with theirs, and the blocks that took their hints.
`intra` lists the places in the row of the blocks that the encoder codes as intra. -/
def codeBlocks (e : Enc) (p : CodedPic) (m : RowMode) (n l seg r : Nat) (intra : List Nat) : List MotionVec × Nat :=
  (rowBlocks e l seg r).zipIdx.foldl (fun a b =>
    let c := codeBlock e p m a.1 n l b.1.1 b.1.2 (intra.contains b.2)
    (a.1 ++ c.1.toList, a.2 + b2n c.2)) (p.vecs, 0)

-- ## Rate control (R352, R353)

/-- R352: bits of a picture period under a layer's cap. -/
def capPp (s : State) (e : Enc) (layer : Nat) : Nat :=
  let x := encSched s e
  e.caps.getD layer 0 * 8000 * x.2.2.1 / x.2.1

/-- R352: repay the debts of a layer: the debts, the budget that is left, and the bits written off. -/
def payDebts (layer pp : Nat) (ds : List Debt) (budget off : Nat) : List Debt × Nat × Nat :=
  match ds with
  | [] => ([], budget, off)
  | d :: rest =>
    if d.layer != layer || d.left == 0 then
      let r := payDebts layer pp rest budget off
      (d :: r.1, r.2)
    else
      let want := min d.left (ceilDiv d.amount 4)
      let take := min want (budget - pp / 2)
      let r := payDebts layer pp rest (budget - take) (off + (want - take))
      ({ d with left := d.left - want } :: r.1, r.2)

/-- R352: whether a picture of `bits` at QP `q0` would exceed a budget at QP `q`: bits × 2^((q0 − q) / h) > budget. -/
def overBudget (bits q0 q h budget : Nat) : Bool :=
  if q ≤ q0 then decide (bits ^ h * 2 ^ (q0 - q) > budget ^ h) else decide (bits ^ h > budget ^ h * 2 ^ (q - q0))

/-- R352: raise QP until the last such picture fits; `n` counts the steps left to QP_MAX. -/
def raiseQp (p : LastPic) (h budget n q : Nat) : Nat :=
  match n with
  | 0 => q
  | n + 1 => if overBudget p.bits p.qp q h budget then raiseQp p h budget n (q + 1) else q

/-- The last picture of a layer of the same temporal layer and kind (R352). -/
def lastLike (e : Enc) (layer temporal : Nat) (key : Bool) : Option LastPic :=
  e.lasts.find? (fun p => p.layer == layer && p.temporal == temporal && p.key == key)

/-- R352 for every layer of a picture: the channel with its debts paid, budgets, QPs, and bits written off. -/
def budgets (s : State) (e : Enc) (temporal : Nat) (key : Bool) (layers : List Nat) : Enc × List Nat × List Nat × Nat :=
  match layers with
  | [] => (e, [], [], 0)
  | l :: rest =>
    let pp := capPp s e l
    let b0 := (if key then 4 * pp else pp) + e.credit.getD l 0
    let d := payDebts l pp e.debts b0 0
    let qp := match lastLike e l temporal key with
      | some p => raiseQp p (stepsH e.codec) d.2.1 (e.qpMax - e.qpTarget) e.qpTarget
      | none => e.qpTarget
    let r := budgets s { e with debts := d.1.filter (fun x => x.left != 0) } temporal key rest
    (r.1, d.2.1 :: r.2.1, qp :: r.2.2.1, d.2.2 + r.2.2.2)

/-- R353: the weights of a segment's rows: bits in the last such picture, or 1. -/
def rowWeights (p : Option LastPic) (rows : List Nat) : List Nat :=
  match p with
  | none => rows.map (fun _ => 1)
  | some q =>
    let ws := rows.map (fun r => q.rows.getD r 0)
    if ws.sum = 0 then rows.map (fun _ => 1) else ws

/-- R354: a segment's next row is an exhausted one. -/
def rowExhausted (e : Enc) (g : Segment) : Bool := e.rowRc && (g.exhausted || decide (g.spent ≥ g.share))

/-- R353, R354: row `r`, the next one of a segment, has taken `n` bits. -/
def codeRow (e : Enc) (w : Option LastPic) (g : Segment) (r n : Nat) : Segment :=
  let out := rowExhausted e g
  let spent := g.spent + n
  let ws := rowWeights w g.rows
  let plan := g.share * (ws.take (g.rowsDone.length + 1)).sum / ws.sum
  let qg :=
    if !e.rowRc || out || g.skips.contains r then g.qg
    else if spent > plan * 11 / 10 then min e.qpMax (g.qg + stepD e.codec)
    else if spent < plan * 9 / 10 then max e.qpTarget (g.qg - stepD e.codec)
    else g.qg
  { g with
    spent := spent, exhausted := out, qg := qg, rowsDone := g.rowsDone ++ [r], rowBits := g.rowBits ++ [(r, n)] }

-- ## Picture starts (R335, R336, R356)

/-- R356: a picture start that is skipped. -/
def skipEnc (s : State) (id : Nat) : State := encCount s id 0x05 1

/-- R335: the canvas has come to the picture of an instant. -/
def canvasReached (c : Canvas) (start : Nat) : Bool := decide (start < c.startOf c.nextNo)

/-- The picture of a canvas that started at an instant. -/
def picAt (c : Canvas) (start : Nat) : Option CanvasPic := c.all.find? (fun p => p.start == start)

/-- What a channel's picture reads: none when a canvas has skipped its picture (R356). -/
def encReads (s : State) (e : Enc) (start : Nat) : Option (List (Option (Nat × Nat))) :=
  if e.fromCanvas then
    let ps := e.srcs.map (fun w => (getCanvas s (hIndex w)).bind (fun c => (picAt c start).map (fun p => (hIndex w, p.no))))
    if ps.any (fun p => p.isNone) then none else some ps
  else some (e.srcs.map (newestSource s))

/-- R357: whether an attempt at a picture may read its sources now. -/
def encReady (s : State) (e : Enc) (p : CodedPic) : Bool :=
  (e.srcs.zip p.sources).all (fun q => match q.2 with
    | some r => sourceReady s q.1 r
    | none => true)

/-- R341 to R356: a picture starts: what it is, its budgets, its sources, its ripeness, and its tasks together. Where the
slots are refused the start is skipped, and nothing has advanced (R408). -/
def startEnc (s : State) (id : Nat) (e0 : Enc) (start : Nat) : State :=
  let e1 := applyPending e0
  match encReads s e1 start with
  | none => skipEnc (setEnc s id e1) id
  | some reads =>
    let k := nextKind e1
    let b := budgets s k.1 k.2.2.1 k.2.1 (List.range k.1.sLayers)
    let p : CodedPic := {
      start := start, key := k.2.1, temporal := k.2.2.1, stripe := k.2.2.2, budgets := b.2.1, qps := b.2.2.1
      writtenOff := b.2.2.2, credit0 := e1.credit, debts0 := e1.debts, sources := reads
      index := e1.coded, slot := freeRef k.1, refNo := (temporalRef k.1 k.2.2.1).map (fun r => r.index)
      hints := reads.zipIdx.flatMap (fun q => (q.1.bind (fun r => if hType (e1.srcs.getD q.2 0) = 7 then canvasPic s r.1 r.2
        else none)).elim [] (fun c => c.hints.map (fun h => (q.2, h))))
      ts := start * 90000 / second % 2 ^ 32, refreshStart := k.2.1 || k.2.2.2 == some 0 }
    let e2 := { b.1 with lastKey := if k.2.1 then some (now s) else b.1.lastKey }
    if !(encReady s e2 p) then setEnc s id { e2 with cur := some { p with redo := true } }
    else
      let a := attemptEnc s id e2 p
      match a.2 with
      | none => a.1
      | some q =>
        let r := requestAll a.1 (segTasks a.1 id e2 q)
        if r.2 then r.1 else skipEnc (slotRefused (setEnc s id e1)) id

/-- R356, R364: a picture start. With canvas sources it comes when the canvases have come to theirs; it waits while the
picture before it is coded and is not yet final. -/
def execEncPictureStart (channel : Nat) (s : State) : Out :=
  .next (
    match getEnc s channel with
    | none => s
    | some e =>
      let start := encStart s e e.nextNo
      let reached := !e.fromCanvas || e.srcs.all (fun w => w == 0 || ((getCanvas s (hIndex w)).map (fun c =>
        canvasReached c start)).getD false)
      if !(running s) || decide (now s < start) || !reached || e.stopping then s
      else
        let e1 := { e with nextNo := e.nextNo + 1 }
        match e.cur with
        | none => if mediaOn s then startEnc (setEnc s channel e1) channel e1 start else setEnc s channel e1
        | some p =>
          if !(mediaOn s) then setEnc s channel e1
          else if !p.redo && !p.joinWait && p.segments.all (fun g => decide (g.rowsDone.length = g.rows.length)) then s
          else skipEnc (setEnc s channel e1) channel)

-- ## Rows (R351, R353 to R355)

/-- R351: in VP8 a row ends after the row above it, another partition's. -/
def aboveCoded (e : Enc) (p : CodedPic) (layer r : Nat) : Bool :=
  e.codec != 3 || r == 0 || p.segments.any (fun x => x.layer == layer && x.rowsDone.contains (r - 1))

/-- R351: the source rows that a block row covers have arrived, and the row above it allows it to be coded. -/
def rowsArrived (s : State) (e : Enc) (p : CodedPic) (layer r : Nat) : Bool :=
  aboveCoded e p layer r &&
  match e.srcs[layer]?, (p.sources.getD layer none) with
  | some w, some src =>
    if hType w = 7 then
      match getCanvas s src.1, canvasPic s src.1 src.2 with
      | some c, some q =>
        !((c.cur.map (fun x => x.no)) == some src.2) || decide (lastSrcRow e.codec c.height r < q.row)
      | _, _ => true
    else true
  | _, _ => true

/-- The next row of a segment. -/
def Segment.next (g : Segment) : Option Nat := g.rows[g.rowsDone.length]?

/-- A block row has been coded. Its SADs are free values of one fresh number. -/
def rowCoded (s : State) (id : Nat) (e : Enc) (p : CodedPic) (g : Segment) (r n : Nat) (intra : List Nat) : State :=
  let mode := if g.skips.contains r then RowMode.skip else if rowExhausted e g then RowMode.exhausted else RowMode.plain
  let bs := codeBlocks e p mode s.fresh g.layer g.seg r intra
  let h := codeRow e (lastLike e g.layer p.temporal p.key) g r n
  let late := g.skips.contains r || decide (now s > blockDue s e p.start g.layer r)
  let q := { p with
    segments := p.segments.map (fun x => if x.layer == g.layer && x.seg == g.seg then h else x)
    late := p.late + b2n late
    exhausted := p.exhausted + b2n (h.exhausted && !(g.skips.contains r))
    vecs := bs.1
    hinted := p.hinted + bs.2 }
  resumeTasks (setEnc (nextFree s) id { e with cur := some q }) .blockAbove (fun k => k / 16 == keyEnc id g.layer 0 / 16)

/-- R349 to R355: a core has coded the next block row of a segment in `nbits` bits, the blocks at the places `intra` of the row
as intra by its own choice. Tasks of its layer that wait for a block of the row above go on (R405). -/
def execEncBlockRow (channel layer segment nbits : Nat) (intra : List Nat) (s : State) : Out :=
  .next (
    match getEnc s channel, runningWith s (keyEnc channel layer segment) with
    | some e, some (id, _) =>
      (match e.cur with
       | none => s
       | some p =>
         match p.segments.find? (fun g => g.layer == layer && g.seg == segment) with
         | none => s
         | some g =>
           match g.next with
           | none => s
           | some r =>
             if !(running s) || p.redo || p.joinWait || decide (id < p.minSeq) || !(rowsArrived s e p layer r) then s
             else rowCoded s channel e p g r nbits intra)
    | _, _ => s)

/-- R355: whether skipping rows of a segment skips blocks of a stripe: every segment reaches over the whole width but an AV1
tile column. -/
def stripeSkipped (e : Enc) (p : CodedPic) (g : Segment) : Bool :=
  match p.stripe with
  | none => false
  | some k =>
    if e.codec != 5 then true
    else
      let cols := ceilDiv (e.sizes.getD g.layer (0, 0)).1 64
      let st := stripeCols cols e.period k
      let pt := part cols e.segments g.seg
      decide (pt.1 < st.2) && decide (st.1 < pt.1 + pt.2)

/-- R355: rows of a segment that no core has started become skip rows. -/
def skipRows (s : State) (id : Nat) (g : Segment) : Segment :=
  let left := g.rows.drop g.rowsDone.length
  let ours := if (runningWith s (keyEnc id g.layer g.seg)).isSome then left.take 1 else []
  { g with skips := g.skips ++ left.filter (fun r => !(ours.contains r) && !(g.skips.contains r)) }

/-- R108, R355: the last row deadline of a channel's top layer. A picture that waits for a join entry has its sources
conceded; the rows of the others that no core has started become skip rows. -/
def encDeadline (s : State) (channel : Nat) : State :=
  match getEnc s channel with
  | none => s
  | some e =>
    match e.cur with
    | none => s
    | some p =>
      if !(running s) || decide (now s < encEmission s e p.start) then s
      else if p.joinWait then
        (sourcesOf s 16 ((encInputs s e p).filterMap (fun r => r.entry))).foldl (fun s x => resolveEntry s x 2) s
      else if p.redo then s
      else
        let gs := p.segments.map (skipRows s channel)
        setEnc s channel { e with cur := some { p with
          segments := gs
          skippedStripe := p.skippedStripe || gs.any (fun g => !g.skips.isEmpty && stripeSkipped e p g) } }

def execEncLastRowDeadline (channel : Nat) (s : State) : Out := .next (encDeadline s channel)

-- ## Final pictures (R352, R358, R365, R366)

/-- The bits a layer has taken, and its rows' bits. -/
def layerBits (p : CodedPic) (layer : Nat) : Nat :=
  ((p.segments.filter (fun g => g.layer == layer)).map (fun g => g.spent)).sum
def layerRows (p : CodedPic) (layer : Nat) : List Nat :=
  let all := (p.segments.filter (fun g => g.layer == layer)).flatMap (fun g => g.rowBits)
  (List.range (all.foldl (fun m r => max m (r.1 + 1)) 0)).map (fun r => ((all.filter (fun x => x.1 == r)).map (·.2)).sum)

/-- R352 at the end of a picture, layer by layer: debts, credit, and what later pictures compare with. -/
def closeLayer (s : State) (e : Enc) (p : CodedPic) (l : Nat) : Enc :=
  let spent := layerBits p l
  let budget := p.budgets.getD l 0
  { e with
    debts := if spent > budget then e.debts ++ [⟨l, spent - budget, spent - budget⟩] else e.debts
    credit := (List.range e.sLayers).map (fun k => if k = l then min (capPp s e l) (budget - spent) else e.credit.getD k 0)
    lasts := ⟨l, p.temporal, p.key, spent, p.qps.getD l 0, layerRows p l⟩
      :: e.lasts.filter (fun x => !(x.layer == l && x.temporal == p.temporal && x.key == p.key)) }

/-- R345, R355: the cycle moves on after a layer-0 picture whose stripe was coded: the channel, and whether a cycle has
been completed. -/
def advance (e : Enc) (p : CodedPic) : Enc × Bool :=
  match p.stripe with
  | none => (e, false)
  | some k =>
    if p.skippedStripe then (e, false)
    else if k + 1 ≥ e.period then ({ e with stripe := 0, restartCycle := false }, true)
    else ({ e with stripe := k + 1 }, false)

/-- R341 to R343: the decode targets for which a picture's packets of layer `l` are marked "switch": every one at a refresh
start, else those of the layer whose temporal layer is the picture's or above. -/
def switchTargets (e : Enc) (p : CodedPic) (l : Nat) : List (Nat × Nat) :=
  if p.refreshStart then pointsUpTo (e.sLayers - 1) (e.tLayers - 1)
  else ((List.range e.tLayers).filter (fun t => decide (p.temporal ≤ t))).map (fun t => (l, t))

/-- R341, R343, R348: what a packet of a picture says of its layers and switches. -/
def encFacts (e : Enc) (p : CodedPic) (first : Bool) (h : RtpFacts) : RtpFacts :=
  let l := min h.s (e.sLayers - 1)
  { h with
    s := l, t := p.temporal, refresh := first && p.refreshStart, key := p.key, sync := decide (0 < p.temporal)
    disposable := decide (e.tLayers > 1) && p.temporal + 1 == e.tLayers
    ddSwitches := if e.codec = 5 || (e.codec = 1 && e.tLayers > 1) then switchTargets e p l else [] }

/-- R358: the packets of a picture to the channel's OUTPUT. -/
def outputPackets (s : State) (e : Enc) (p : CodedPic) (first : Bool) (hs : List RtpFacts) : State :=
  match hs with
  | [] => s
  | h :: rest => outputPackets (producePacket s e.output p.ts (encFacts e p first h) rest.isEmpty p.ripe.flag) e p false rest

/-- R363 to R366: the events of a final picture. -/
def encEvents (s : State) (id : Nat) (e : Enc) (p : CodedPic) : State :=
  let above := ((List.range e.sLayers).map (fun l => layerBits p l - p.budgets.getD l 0)).sum
  let s1 := if p.late > 0 then encEvent s id 0 0x502 (word p.late) else s
  let s2 := if p.exhausted > 0 then encEvent s1 id 1 0 (word above) else s1
  let s3 := if p.key then encEvent s2 id 2 0 (word p.ts) else s2
  if p.writtenOff > 0 then encEvent s3 id 3 0 (word p.writtenOff) else s3

/-- R85, R87, R352, R358: a coded picture that is complete and final: its accounting, its counters and its packets. -/
def finishEnc (s : State) (id : Nat) (e : Enc) (p : CodedPic) (packets : List RtpFacts) : State :=
  let e1 := (List.range e.sLayers).foldl (fun x l => closeLayer s x p l) e
  let a := advance (keepRef e1 p) p
  let bytes := (packets.map (fun h => h.len)).sum
  let e2 := { a.1 with
    cur := none
    firstQp := if p.temporal = 0 then p.qps.getD 0 0 else a.1.firstQp }
  let s1 := [(0x00, 1), (0x01, b2n p.ripe.flag), (0x02, b2n p.recoded), (0x03, p.late), (0x04, p.exhausted), (0x06, b2n p.key),
      (0x07, b2n a.2), (0x0A, p.hinted), (0x0B, bytes), (0x0C, p.writtenOff)].foldl
    (fun s k => encCount s id k.1 k.2) (setEnc s id e2)
  let s2 := updEnc s1 id (fun x => { x with
    counters := Tbl.put (Tbl.put x.counters 0x0D ((e2.debts.map (fun d => d.left)).sum)) 0x0E e2.firstQp })
  let s3 := [(0, 1), (1, b2n p.ripe.flag), (2, b2n p.recoded), (3, p.late), (4, p.exhausted), (5, b2n p.key), (6, bytes)].foldl
    (fun s k => bumpC s (oEncCounter k.1) k.2) s2
  outputPackets (encEvents s3 id e p) e p true packets

/-- R341, R358: a packet has the payload format of the channel's codec with the options that the channel uses: AV1's N bit on
the first packet of a refresh start alone; single NAL units or FU-A, with nal_ref_idc 0 in slices of the top of several
temporal layers; VP8's descriptor with a 15-bit PictureID, TL0PICIDX, TID and Y. -/
def payloadForm (e : Enc) (p : CodedPic) (first : Bool) (h : RtpFacts) : Bool :=
  let b := fun (i : Nat) => (h.bytes.drop (rtpHeader h.bytes)).getD i 0
  if e.codec = 5 then (b 0).getLsbD 3 == (first && p.refreshStart)
  else if e.codec = 1 then
    let t := (b 0).toNat % 32
    (decide (1 ≤ t) && decide (t ≤ 23) || t == 28)
      && (!(decide (e.tLayers > 1) && p.temporal + 1 == e.tLayers && (t == 1 || t == 5 || t == 28)) || (b 0).toNat / 32 % 4 == 0)
  else
    (b 0).getLsbD 7 && (b 1).getLsbD 7 && (b 1).getLsbD 6 && (b 1).getLsbD 5 && (b 2).getLsbD 7
      && (b 5).toNat / 64 == p.temporal && (b 5).getLsbD 5 == decide (0 < p.temporal)

/-- R358: the payloads of some packets fit PAYLOAD_MAX and have the channel's form. Packets that do not are none that the channel
makes, and a row with them changes nothing. -/
def payloadsFit (e : Enc) (p : CodedPic) (hs : List RtpFacts) : Bool :=
  hs.zipIdx.all (fun h => decide (h.1.len - rtpHeader h.1.bytes ≤ e.payloadMax) && payloadForm e p (h.2 == 0) h.1)

def execEncPictureFinal (channel : Nat) (packets : List RtpFacts) (s : State) : Out :=
  .next (
    match getEnc s channel with
    | none => s
    | some e =>
      match e.cur with
      | none => s
      | some p =>
        if !(running s) || p.redo || p.joinWait || !p.ripe.final || !(payloadsFit e p packets)
          || !(p.segments.all (fun g => decide (g.rowsDone.length = g.rows.length))) then s
        else settle (finishEnc s channel e p packets))

-- ## Commands (R337 to R343, R359 to R363)

/-- R340: whether a coding is in the table. -/
def codingOk (codec profile sl tl : Nat) (d10 : Bool) : Bool :=
  decide (1 ≤ tl) && decide (tl ≤ 3) &&
    ((codec == 5 && profile == 0 && decide (1 ≤ sl) && decide (sl ≤ 3))
      || (codec == 1 && (profile == 0 || profile == 3) && sl == 1 && !d10)
      || (codec == 3 && profile == 0 && sl == 1 && !d10))

/-- The codec's largest QP (R352). -/
def qpLargest (codec : Nat) : Nat := if codec = 1 then 51 else if codec = 3 then 127 else 255

/-- R335, R337: the sizes of a channel's layers, lowest first. -/
def layerSizes (s : State) (srcs : List Word) (w h sl : Nat) : List (Nat × Nat) :=
  if srcs.any (fun x => hType x == 7) then
    srcs.map (fun x => ((getCanvas s (hIndex x)).map (fun c => (c.width, c.height))).getD (0, 0))
  else (List.range sl).map (fun l => (w / 2 ^ (sl - 1 - l), h / 2 ^ (sl - 1 - l)))

/-- R337: sizes that break the rules. With decode sources the top layer must halve exactly. -/
def sizesBad (sizes : List (Nat × Nat)) : Bool :=
  sizes.any (fun z => z.1 % 2 == 1 || z.2 % 2 == 1 || decide (z.1 < 16) || decide (3840 < z.1) || decide (z.2 < 16)
    || decide (3840 < z.2) || decide (min z.1 z.2 > 2160))
  || (sizes.zip (sizes.drop 1)).any (fun p => p.2.1 != 2 * p.1.1 || p.2.2 != 2 * p.1.2)

/-- R335: canvases of one channel whose rates or picture starts differ. -/
def schedulesDiffer (s : State) (srcs : List Word) : Bool :=
  let cs := srcs.filterMap (fun x => getCanvas s (hIndex x))
  match cs with
  | [] => false
  | c :: rest => rest.any (fun k => k.fpsNum != c.fpsNum || k.fpsDen != c.fpsDen
      || ((k.origin - c.origin) * c.fpsNum) % ((c.fpsDen * second : Nat) : Int) != 0)

/-- R335: a canvas that has its four channels already, leaving one channel out. -/
def fullCanvas (s : State) (srcs : List Word) (me : Option Nat) : Bool :=
  srcs.any (fun w => hType w == 7
    && decide ((s.units.encs.filter (fun p => some p.1 != me && (p.2.srcs.contains w
      || (match p.2.pendingSrcs with
          | some ws => ws.contains w
          | none => false)))).length ≥ 4))

/-- R345: stripes that do not fit (0x181). -/
def refreshBad (codec : Nat) (sizes : List (Nat × Nat)) (p f : Nat) : Bool :=
  decide (p < 2) || decide (p > leastCols codec sizes) || (f != 0 && (decide (f < 2) || decide (f > p)))

/-- R351: numbers of segments that are not allowed. -/
def segmentsBad (codec : Nat) (sizes : List (Nat × Nat)) (n : Nat) : Bool :=
  decide (n < 1) || decide (n > 8) || (codec == 3 && !(n == 1 || n == 2 || n == 4 || n == 8))
    || (codec == 5 && sizes.any (fun z => decide (n > ceilDiv z.1 64)))
    || (codec == 1 && sizes.any (fun z => decide (n > ceilDiv z.2 16)))

/-- R338: the reservation of a channel in Mpixel/s. -/
def encReserve (sizes : List (Nat × Nat)) (num den : Nat) : Nat :=
  ceilDiv ((sizes.map (fun z => z.1 * z.2)).sum * num) (den * 1000000)

/-- R339: the bytes of a channel's reference slots. -/
def refBytes (codec : Nat) (sizes : List (Nat × Nat)) (tl : Nat) (d10 : Bool) : Nat :=
  (sizes.map (fun z => (tl + 1) * encSlotSize codec d10 z)).sum

/-- R343: an OUTPUT that a channel cannot write (0x108). -/
def outputBad (s : State) (e : Enc) : Bool :=
  match getCtx s e.output with
  | none => true
  | some x => x.kind != 5 || x.codec != e.codec || x.clock != 0 || x.sCount != e.sLayers || x.tCount != e.tLayers
      || (encOf s e.output).isSome
      || ((e.codec == 5 || (e.codec == 1 && decide (e.tLayers > 1))) && x.ddId == 0)

/-- The caps of word 6 of R360, layer 0 first. -/
def capsOf (w : Word) : List Nat := [bits w 15 0, bits w 31 16, bits w 47 32]
def capsBad (w : Word) (sl : Nat) : Bool :=
  (capsOf w).zipIdx.any (fun c => if c.2 < sl then c.1 == 0 else c.1 != 0)

/-- The channel that the parameter block describes (R360). -/
def encOfBlock (s : State) (c : Cmd) (ws : List Word) : Enc :=
  let w := fun (i : Nat) => ws.getD i 0
  let sl := bits (w 4) 39 36
  let srcs := [w 0, w 1, w 2].take (max 1 (min sl 3))
  let canvas := hType (w 0) = 7
  let first := (getCanvas s (hIndex (w 0))).getD { width := 0, height := 0 }
  let num := if canvas then first.fpsNum else bits (w 8) 47 32
  let den := if canvas then first.fpsDen else bits (w 8) 31 16
  let origin := if canvas then first.origin else nearest (now s) (w 9)
  let p := bits (w 4) 23 16
  { srcs := srcs
    output := hIndex (w 3)
    codec := bits (w 4) 47 44
    profile := bits (w 4) 43 40
    sLayers := sl
    tLayers := bits (w 4) 35 32
    depth10 := bitAt (w 4) 31
    rowRc := bitAt (w 4) 30
    reqMode := bits (w 4) 29 28
    segments := bits (w 4) 27 24
    refreshP := p
    search := bits (w 4) 15 8
    eventsEn := bitAt (w 4) 7
    queue := bits (w 4) 5 0
    slot := c.slot
    ring := c.ring
    tag := c.tag
    qpTarget := bits (w 5) 47 40
    qpMax := bits (w 5) 39 32
    payloadMax := bits (w 5) 31 16
    fastP := bits (w 5) 15 8
    caps := capsOf (w 6)
    sizes := layerSizes s srcs (bits (w 7) 47 32) (bits (w 7) 31 16) sl
    fpsNum := num
    fpsDen := den
    origin := origin
    k0 := schedFirst origin num den (now s + durMs 1)
    windowUs := if canvas then first.windowUs else bits (w 10) 47 28
    fill := bits (w 10) 23 0
    credit := List.replicate (max 1 (min sl 3)) 0
    period := p }

/-- R360: bits of the block that must be zero. -/
def encReservedBad (ws : List Word) : Bool :=
  let w := fun (i : Nat) => ws.getD i 0
  bitAt (w 4) 6 || bits (w 5) 7 0 != 0 || bits (w 7) 15 0 != 0 || bits (w 8) 15 0 != 0 || bits (w 10) 27 24 != 0
    || (ws.drop 11).any (fun x => x != 0)

/-- R334, R360: a source as a check. -/
def encSrcCheck (s : State) (w : Word) : Bool × Nat :=
  hObj s [6, 7] w (fun n => if hType w = 6 then decLive s n else canvasLive s n)

/-- R360: values of the block out of range (0x108). -/
def encRange (s : State) (e : Enc) (ws : List Word) : Bool :=
  let w := fun (i : Nat) => ws.getD i 0
  let canvas := hType (w 0) = 7
  e.srcs.any (fun x => hType x != hType (w 0)) || ([w 0, w 1, w 2].drop e.srcs.length).any (fun x => x != 0)
    || outputBad s e || e.reqMode == 3 || segmentsBad e.codec e.sizes e.segments || decide (e.search > 64)
    || decide (e.qpTarget > qpLargest e.codec) || decide (e.qpMax < e.qpTarget) || decide (e.qpMax > qpLargest e.codec)
    || decide (e.payloadMax < 256) || decide (1400 < e.payloadMax) || capsBad (w 6) e.sLayers
    || (if canvas then
          bits (w 7) 47 16 != 0 || bits (w 8) 47 16 != 0 || w 9 != 0 || bits (w 10) 47 28 != 0
            || schedulesDiffer s e.srcs || fullCanvas s e.srcs none
        else fpsBad e.fpsNum e.fpsDen || windowBad e.windowUs e.fpsNum e.fpsDen)

/-- R338: reservations of the channels, and what may be reserved. -/
def encReserved (s : State) : Nat := (s.units.encs.map (fun p => p.2.reserved)).sum
def encLimit (s : State) : Nat := 144 * getF s oEncAdmit 6 0

/-- ENC_CREATE once its block has been read. -/
def encCreateWith (s : State) (c : Cmd) (ws : List Word) : Body :=
  let e0 := encOfBlock s c ws
  let res := encReserve e0.sizes e0.fpsNum e0.fpsDen
  let n := refBytes e0.codec e0.sizes e0.tLayers e0.depth10
  let bad := !(codingOk e0.codec e0.profile e0.sLayers e0.tLayers e0.depth10)
  let e := { e0 with bytes := n, base := (allocate s 4 n).getD 0, reserved := res }
  guarded s ([(encReservedBad ws, 0x101)] ++ e0.srcs.map (encSrcCheck s) ++
      [hObj s [1] (ws.getD 3 0) (ctxNamed s), (e0.eventsEn && noQueue s c.slot e0.queue, 0x112),
       (encRange s e0 ws, 0x108), (sizesBad e0.sizes, 0x162), (bad, 0x180),
       (refreshBad e0.codec e0.sizes e0.refreshP e0.fastP, 0x181), (decide (s.units.encs.length ≥ 4096), 0x200),
       ((allocate s 4 n).isNone, 0x201),
       (decide (res > e0.segments * 600) || decide (encReserved s + res > encLimit s), 0x204),
       (e0.rowRc && decide ((s.units.encs.filter (fun p => p.2.rowRc)).length ≥ 512), 0x205),
       (quarantined s (hIndex (ws.getD 3 0)), 0x401)])
    (let id := Tbl.lowestFree s.units.encs
     .reply (setEnc (overwritten s e.base n) id e) 0 (ownHandle s 8 id) (word res))

def execEncCreate (c : Cmd) (block : HostData) (s : State) : Out :=
  .next (runRing s 0x600 c fun s =>
    guarded s [(reservedBad c 0 [full, full], 0x101), regionCheck s c.slot c.w1,
        (regionBounds s c.slot c.w1 c.w2.toNat 96 false, 0x115), (c.w2.toNat % 64 != 0, 0x118)]
      (match block with
        | .bytes bs => encCreateWith s c (blockWords s c.slot 16 bs)
        | d => hostFailure s c d))

/-- A channel that the host can name. -/
def encLive (s : State) (c : Nat) : Bool :=
  match getEnc s c with
  | some x => !x.stopping
  | none => false

/-- ENC_MODIFY selector 2 on new sources: a kind or a schedule that differs (0x108). -/
def srcsDiffer (s : State) (n : Nat) (e : Enc) (ws : List Word) : Bool :=
  let srcs := ws.take e.srcs.length
  srcs.any (fun x => hType x != hType (e.srcs.headD 0)) || (ws.drop e.srcs.length).any (fun x => x != 0)
    || (e.fromCanvas && (schedulesDiffer s (e.srcs.take 1 ++ srcs) || fullCanvas s srcs (some n)))

/-- New sources whose sizes differ (0x162). -/
def srcSizes (s : State) (e : Enc) (ws : List Word) : Bool :=
  e.fromCanvas && layerSizes s (ws.take e.srcs.length) 0 0 e.sLayers != e.sizes

def execEncModify (c : Cmd) (s : State) : Out :=
  .next (runRing s 0x601 c fun s =>
    let sel := cmdSel c
    let n := hIndex c.w1
    let e := (getEnc s n).getD { srcs := [], output := 0, codec := 0 }
    let ws := [c.w2, c.w3, c.w4]
    let masks := [[full, mask 47 32, full], [full, mask 23 8], [full, full, full, full], [full, 0xBF],
      [full, mask 29 28 + mask 15 8]].getD sel []
    let qt := bits c.w2 47 40
    let qm := bits c.w2 39 32
    guarded s ([(decide (4 < sel), 0x108), (reservedBad c 0xF masks, 0x101), hObj s [8] c.w1 (encLive s)]
        ++ (if sel = 2 then (ws.take e.srcs.length).map (encSrcCheck s) else [])
        ++ [(sel == 3 && bitAt c.w2 7 && noQueue s c.slot (bits c.w2 5 0), 0x112),
        (sel == 0 && (decide (qt > qpLargest e.codec) || decide (qm < qt) || decide (qm > qpLargest e.codec)
          || capsBad c.w3 e.sLayers), 0x108),
        (sel == 2 && srcsDiffer s n e ws, 0x108), (sel == 2 && srcSizes s e ws, 0x162),
        (sel == 1 && refreshBad e.codec e.sizes (bits c.w2 23 16) (bits c.w2 15 8), 0x181),
        (sel == 4 && (bits c.w2 29 28 == 3 || decide (bits c.w2 15 8 > 64)), 0x108)])
      (.reply (updEnc s n (fun e => match sel with
        | 0 => { e with pendingQp := some (qt, qm, capsOf c.w3) }
        | 1 => { e with pendingRefresh := some (bits c.w2 23 16, bits c.w2 15 8) }
        | 2 => { e with pendingSrcs := some (ws.take e.srcs.length) }
        | 3 => { e with eventsEn := bitAt c.w2 7, queue := bits c.w2 5 0, slot := c.slot, ring := c.ring, tag := c.tag }
        | _ => { e with pendingSearch := some (bits c.w2 15 8, bits c.w2 29 28) })) 0 0 0))

def execEncDestroy (c : Cmd) (s : State) : Out :=
  .next (runRing s 0x602 c fun s =>
    let n := hIndex c.w1
    guarded s [(reservedBad c 0 [full], 0x101), hObj s [8] c.w1 (encLive s)]
      (let mine := fun (t : Task) => decide (keyEnc n 0 0 ≤ t.affinity) && decide (t.affinity < keyEnc (n + 1) 0 0)
       let unripe := match (getEnc s n).bind (fun e => e.cur) with
         | some p => p.redo || p.joinWait || !p.ripe.final
         | none => false
       let s1 := updEnc s n (fun e => { e with stopping := true, cur := if unripe then none else e.cur })
       .waits (if unripe then cancelTasks s1 mine else s1) (.encDestroy n)))

def execEncRefresh (c : Cmd) (s : State) : Out :=
  .next (runRing s 0x603 c fun s =>
    let n := hIndex c.w1
    guarded s [(reservedBad c 1 [full], 0x101), hObj s [8] c.w1 (encLive s)]
      (let r := encRequest s n (cmdFlag c 0)
       .reply r.1 0 (word r.2) 0))

end Sys2Proof.Machine
end

