-- ==== Sys2Proof/Machine/Audio.lean ====
section
/-! DEFINITION. Audio: mix groups, ranking, mixes, limiters, frames (R367 to R396), and the audio of spanning conferences
on a member (R480, R484). -/

namespace Sys2Proof.Machine

-- ## Groups, legs and periods

/-- R371: the start of period `m` of a group. -/
def Mix.startOf (g : Mix) (m : Nat) : Nat := schedAt g.origin m (if g.period20 then 50 else 100) 1

/-- Samples of a period at 48 kHz. -/
def Mix.samples (g : Mix) : Nat := if g.period20 then 960 else 480

/-- R371: a period's count in units of a stream's clock. -/
def Mix.clockStep (g : Mix) (clock : Nat) : Nat := clockRate clock * (if g.period20 then 20 else 10) / 1000

/-- The bindings of a group, by leg. -/
def boundLegs (s : State) (g : Nat) : List (Nat × Binding) := s.units.bindings.filter (fun b => b.2.group == g)

/-- The inbound context that a leg is bound by. -/
def Binding.ctxOf (s : State) (b : Binding) : Option (Nat × Stream) :=
  b.inbound.bind (fun c => (getCtx s c).map (fun x => (c, x)))

/-- R374: the legs of a group that are ranked, with their contexts. -/
def rankedLegs (s : State) (g : Nat) : List (Nat × Nat × Stream) :=
  (boundLegs s g).filterMap (fun b =>
    if b.2.mute then none
    else (b.2.ctxOf s).bind (fun x => if x.2.levelId != 0 || b.2.always then some (b.1, x) else none))

/-- R370, R391: seats that a group has or is about to have. -/
def Mix.kMost (m : Mix) : Nat :=
  match m.pendingW2 with
  | some w => max m.k (if bits w 44 40 = 0 then 4 else bits w 44 40)
  | none => m.k

/-- R370: decodes reserved for legs bound with ALWAYS_DECODE, those that wait included. -/
def alwaysOf (s : State) (g : Nat) : Nat :=
  ((boundLegs s g).filter (fun b => b.2.always && !(s.units.pendingBindings.any (fun p => p.1 == b.1)))).length
    + (s.units.pendingBindings.filter (fun p => p.2.2 == g && ((p.2.1.map (fun b => b.always)).getD false))).length

/-- R370: what a group reserves. -/
def mixDecodes (s : State) (g : Nat) (m : Mix) : Nat := m.kMost + 2 + alwaysOf s g
def mixEncodes (m : Mix) : Nat := (m.formats.filter (fun f => f.codec != 0)).length + m.kMost + 1
def decodesReserved (s : State) : Nat := (s.units.mixes.map (fun p => mixDecodes s p.1 p.2)).sum
def encodesReserved (s : State) : Nat := (s.units.mixes.map (fun p => mixEncodes p.2)).sum

/-- The RFC 3551 or Opus CLOCK of a codec (R367). -/
def audioClock (codec : Nat) : Nat := if codec = 8 then 1 else 3

/-- A leg that receives (R373), with its outbound context and format. -/
def receives (s : State) (g leg : Nat) : Option (Nat × Nat) :=
  ((boundLegs s g).find? (fun b => b.1 == leg)).bind (fun b => b.2.outbound.map (fun o => (o, b.2.format)))

-- ## The ranker (R378, R379)

/-- R378: the level of some samples, the number of whole dB below full scale: the greatest L from 0 to 127 with
mean square ≤ 2^46 × 10^(−L/10), in exact arithmetic. -/
def measureLevel (xs : List Int) : Nat :=
  let n := xs.length
  let sum : Nat := (xs.map (fun x => x.natAbs * x.natAbs)).sum
  if n = 0 || sum = 0 then 127
  else ((List.range 128).reverse.find? (fun (l : Nat) => decide ((sum ^ 10 * 10 ^ l : Nat) ≤ (2 ^ 460 * n ^ 10 : Nat)))).getD 0

/-- R378: a sender's new score, its missing mark and the loudness a. -/
structure Scored where
  leg : Nat
  score : Int
  missing : Bool
  a : Nat
  deriving DecidableEq, Repr

def scoreLeg (m : Mix) (p : Nat) (x : Nat × Nat × Stream) : Scored :=
  let j := x.2.2.ajb
  let recent := match j.lastPacket with
    | some t => decide (p ≤ t + m.period) && decide (t < p)
    | none => false
  let a : Nat := match Tbl.get? m.measured x.1 with
    | some l => 127 - l
    | none => match j.level with
      | some l => if m.vadUse && j.vadAllZero then 0 else 127 - l
      | none => 0
  let old := ((m.scores.find? (fun q => q.1 == x.1)).map (·.2)).getD 0
  { leg := x.1, score := old + Int.tdiv (16 * (a : Int) - old) 4, missing := !recent, a := a }

/-- A speaker's place in the order of scores: the greater score first, then the lower leg index, then the member. -/
def before (score : Nat → Int) (a b : Nat) : Bool :=
  decide (score a > score b) || (score a == score b && (decide (a % 131072 < b % 131072)
    || (a % 131072 == b % 131072 && decide (a < b))))

/-- The first of some speakers in an order. -/
def firstOf (lt : Nat → Nat → Bool) (xs : List Nat) : Option Nat :=
  xs.foldl (fun (m : Option Nat) x => match m with
    | none => some x
    | some y => if lt x y then some x else some y) none

/-- The two unseated senders with the greatest scores (R379). -/
def topTwo (score : Nat → Int) (xs : List Nat) : List Nat :=
  match firstOf (before score) xs with
  | none => []
  | some a => a :: (firstOf (before score) (xs.filter (fun x => x != a))).toList

/-- What an evaluation starts from and gives (R379). -/
structure Ballot where
  seats : List Seat
  challengers : List (Nat × Nat)
  deriving DecidableEq, Repr

/-- R379: the speaker of lowest score; of equals the one seated longest. -/
def weakest (score : Nat → Int) (seats : List Seat) : Option Nat :=
  (seats.foldl (fun (m : Option (Nat × Nat)) t => match t.speaker, m with
    | none, m => m
    | some x, none => some (x, t.since)
    | some x, some (y, since) =>
      if score x < score y || (score x == score y && decide (t.since < since)) then some (x, t.since) else some (y, since))
    none).map (·.1)

/-- R379: fill the empty seats, in order, from the challengers. -/
def fillSeats (score : Nat → Int) (floor m : Nat) (seats : List Seat) (free : List Nat) : List Seat × List Nat :=
  match seats with
  | [] => ([], free)
  | t :: rest =>
    let pick := match t.speaker with
      | some _ => none
      | none => (firstOf (before score) free).filter (fun h => decide (score h ≥ 16 * (floor : Int)))
    match pick with
    | some h =>
      let r := fillSeats score floor m rest (free.filter (fun x => x != h))
      ({ t with speaker := some h, since := m, conceded := false } :: r.1, r.2)
    | none =>
      let r := fillSeats score floor m rest free
      (t :: r.1, r.2)

/-- `h`, unless it is seated already, takes the seat of `w`. -/
def takeSeat (seats : List Seat) (h w m : Nat) (conceded : Bool) : List Seat :=
  if seats.any (fun t => t.speaker == some h) then seats else seats.map (fun t => if t.speaker = some w then { t with speaker := some h, since := m, conceded := conceded } else t)

/-- The challenger of greatest run. -/
def topRun (score : Nat → Int) (cs : List (Nat × Nat)) : Option (Nat × Nat) :=
  (firstOf (fun a b =>
    let ra := Tbl.count cs a
    let rb := Tbl.count cs b
    decide (ra > rb) || (ra == rb && before score a b)) (cs.map (·.1))).map (fun h => (h, Tbl.count cs h))

/-- What an evaluation decides. -/
structure Verdict where
  ballot : Ballot
  /-- outcome of the prediction whose boundary is here: 1 confirmed, 2 conceded, 3 discarded -/
  outcome : Option Nat := none
  /-- an open prediction is discarded afterwards -/
  close : Bool := false
  /-- a prediction opens: newcomer, leaver, boundary -/
  opens : Option (Nat × Nat × Nat) := none
  deriving DecidableEq, Repr

/-- R379: the evaluation at the start of period `m` (in a spanning group, for boundary `m`): `pred` is the open
prediction. Conceding is for groups that may concede (R483). -/
def evaluate (k hold hyst floor m : Nat) (score : Nat → Int) (missing gone : Nat → Bool) (senders : List Nat) (b : Ballot)
    (pred : Option (Nat × Nat × Nat)) (concedes : Bool) : Verdict :=
  let s1 := b.seats.map (fun t => match t.speaker with
    | some x => if gone x then { t with speaker := none, conceded := false } else t
    | none => t)
  let cs0 := b.challengers.filter (fun c => senders.contains c.1)
  let f := fillSeats score floor m s1 (cs0.map (·.1))
  let w1 := weakest score f.1
  let cs1 := (cs0.filter (fun c => f.2.contains c.1)).map (fun c =>
    (c.1, match w1 with
      | some w => if decide (score c.1 ≥ score w + 16 * (hyst : Int)) && decide (score c.1 ≥ 16 * (floor : Int)) then c.2 + 1 else 0
      | none => 0))
  let h1 := topRun score cs1
  let here := pred.filter (fun e => decide (e.2.2 ≤ m))
  let outcome := here.map (fun e =>
    let set := e.1 :: (f.1.filterMap (fun t => t.speaker)).filter (fun x => x != e.2.1)
    if h1.any (fun h => h.1 == e.1 && decide (h.2 ≥ hold)) && w1 == some e.2.1 then 1
    else if concedes && set.any missing then 2
    else 3)
  let s2 := match here, outcome, h1, w1 with
    | some e, some o, _, _ => if o = 3 then f.1 else takeSeat f.1 e.1 e.2.1 m (o == 2)
    | _, _, some h, some w => if h.2 ≥ hold then takeSeat f.1 h.1 w m false else f.1
    | _, _, _, _ => f.1
  let seated := s2.filterMap (fun t => t.speaker)
  let cs2 := (topTwo score (senders.filter (fun x => !(seated.contains x)))).map (fun h => (h, Tbl.count cs1 h))
  let w2 := weakest score s2
  let h2 := topRun score cs2
  let left := pred.filter (fun e => decide (m < e.2.2))
  let close := left.any (fun e => h2.map (·.1) != some e.1 || w2 != some e.2.1)
  let opens := match h2, w2 with
    | some h, some w =>
      if (left.isNone || close) && decide (max 1 (hold - 2) ≤ h.2) && decide (h.2 < hold) then some (h.1, w, m + (hold - h.2))
      else none
    | _, _ => none
  { ballot := { seats := s2.take k, challengers := cs2 }, outcome := outcome, close := close, opens := opens }

-- ## Seats

/-- R394, R395: the seat changes of a group are counted and posted. `predicted` is the speaker that a prediction has
seated, with its outcome. -/
def seatEvents (s : State) (g : Nat) (old new : List Seat) (predicted : Option (Nat × Nat)) : State :=
  (old.zip new).foldl (fun s q =>
    if q.1.speaker = q.2.speaker then s
    else
      let by_ := predicted.filter (fun p => q.2.speaker == some p.1)
      let conceded := by_.any (fun p => p.2 == 2)
      let s1 := mixCount (mixCount (mixCount s g 0x03 1) g 0x04 (b2n conceded)) g 0x05 (b2n by_.isNone)
      let w1 := (match q.2.speaker with
        | some x => 2 ^ 47 + x % 131072 * 2 ^ 17
        | none => 0) + (match q.1.speaker with
        | some x => 2 ^ 46 + x % 131072
        | none => 0)
      mixEvent (bumpC s1 (oAudCounter 4) 1) g 0 (b2n conceded) (word w1)) s

/-- The format of a seated leg's own stream: R385 encodes it for receivers only. -/
def seatFormat (s : State) (g : Nat) (m : Mix) (leg : Nat) : Option Format :=
  (receives s g leg).bind (fun r => (m.formats[r.2]?).filter (fun f => f.codec != 0))

/-- R385: a seat context takes the codec of its speaker's format. -/
def dressSeats (s : State) (g : Nat) (m : Mix) : State :=
  m.seats.foldl (fun s t => match t.speaker.bind (seatFormat s g m) with
    | some f => updCtx s t.ctx (fun x => { x with codec := f.codec, clock := audioClock f.codec })
    | none => s) s

-- ## Speaker predictions (R95, R102, R107, R380, R381)

/-- Discard a group's open prediction. -/
def dropPrediction (s : State) (g : Nat) : State :=
  match (getMix s g).bind (fun m => m.prediction) with
  | none => s
  | some e => updMix (resolveEntry s e.entry 3) g (fun m => { m with prediction := none })

/-- Open a prediction; without a free entry none is opened (R107). -/
def openPrediction (s : State) (g h w boundary : Nat) : State :=
  match getMix s g with
  | none => s
  | some m =>
    let o := openEntry s .speaker g (m.startOf boundary)
    match o.2 with
    | none => o.1
    | some e => updMix o.1 g (fun m => { m with prediction := some ⟨e, h, w, boundary⟩ })

/-- R381: a change to a leg that an open prediction names discards it. -/
def legChanged (s : State) (g leg : Nat) : State :=
  match (getMix s g).bind (fun m => m.prediction) with
  | some e => if e.newcomer == leg || e.leaver == leg then dropPrediction s g else s
  | none => s

-- ## Audio jitter buffers at a period start (R375 to R377)

/-- Whether packets held cover [a, b) in playout time, taken in order. -/
def covered (held : List (Int × Int)) (a b : Int) (n : Nat) : Bool :=
  match n with
  | 0 => decide (a ≥ b)
  | n + 1 =>
    if a ≥ b then true
    else
      match held.find? (fun h => decide (h.1 ≤ a) && decide (a < h.2)) with
      | some h => covered held h.2 b n
      | none => false

/-- The playout spans of the packets held. -/
def spansOf (x : Stream) : List (Int × Int) :=
  x.ajb.held.map (fun h =>
    let a := playout x h.1
    (a, a + (h.2 * second / 48000 : Nat)))

/-- R376: the anchor moves by a period. -/
def moveAnchor (s : State) (g c : Nat) (m : Mix) (later : Bool) : State :=
  mixCount (updCtx s c (fun x => { x with ajb := { x.ajb with
    ref := if later then x.ajb.ref + m.period else x.ajb.ref - m.period
    lateRun := 0, deepSince := none } })) g 0x09 1

/-- R375 to R377: a sender's buffer at period start `p`: whether its period is concealed; anchors are moved and what has
been played is let go. -/
def handOver_ (s : State) (g : Nat) (m : Mix) (p : Nat) (quietA : Bool) (c : Nat) : State × Bool :=
  match getCtx s c with
  | none => (s, true)
  | some x0 =>
    let run := if x0.ajb.lateNow then x0.ajb.lateRun + 1 else 0
    let x1 := { x0 with ajb := { x0.ajb with lateRun := run, lateNow := false, level := none, vadAllZero := true } }
    let s1 := setCtx s c x1
    let late := decide (run ≥ 3)
    let s2 := if late then moveAnchor s1 g c m true else s1
    let y := (getCtx s2 c).getD x1
    let spans := spansOf y
    let newest := (spans.map (·.1)).foldl max (p : Int)
    let deep := decide (newest > (p : Int) + (audioJ y m : Nat) + 2 * (m.period : Nat))
    let since := if deep then some (y.ajb.deepSince.getD p) else none
    let s3 := setCtx s2 c { y with ajb := { y.ajb with deepSince := since } }
    let shift := match since with
      | some t => decide (p ≥ t + second) && (quietA || decide (p ≥ t + 3 * second))
      | none => false
    let s4 := if shift then moveAnchor s3 g c m false else s3
    let z := (getCtx s4 c).getD y
    let zs := spansOf z
    let stop : Int := (p : Int) + (m.period : Nat)
    let ok := !late && z.ajb.anchored && covered zs p stop (zs.length + 1)
    let left := (z.ajb.held.zip zs).filter (fun q => decide (q.2.2 > stop))
    (setCtx s4 c { z with ajb := { z.ajb with held := left.map (·.1) } }, !ok)

-- ## Mixes and limiters (R383, R384)

/-- R383: a speaker's samples after IN_GAIN, and after the fade-in of its first period. -/
def gained (gain : Nat) (fade : Bool) (xs : List Int) : List Int :=
  (xs.map (fun (x : Int) => (x * (gain : Int) + 2048) / 4096)).zipIdx.map (fun q =>
    if fade && decide (q.2 < 240) then (2 * q.1 * ((q.2 : Int) + 1) + 240) / 480 else q.1)

/-- Sums of samples, place by place. -/
def addSamples (n : Nat) (xs : List (List Int)) : List Int :=
  (List.range n).map (fun i => (xs.map (fun x => x.getD i 0)).sum)

/-- R384: round(2^23 × 10^(−LIMIT_DB / 20)). -/
def limitThr (db : Nat) : Nat :=
  [8388608, 7476355, 6663308, 5938680, 5292854, 4717261, 4204263, 3747054, 3339565, 2976390, 2652711, 2364231,
    2107123].getD db 8388608

/-- Samples in blocks of 48. -/
def blocksOf (n : Nat) (xs : List Int) : List (List Int) :=
  match n with
  | 0 => []
  | n + 1 => xs.take 48 :: blocksOf n (xs.drop 48)

def peak (b : List Int) : Nat := (b.map (fun x => x.natAbs)).foldl max 0

/-- R384: one sample at gain `g`: the output, and whether it was saturated. -/
def limitSample (g : Nat) (x : Int) : Int × Bool :=
  let y : Int := (x * (g : Int) + 32768) / 65536
  if y > 8388607 then (8388607, true) else if y < -8388608 then (-8388608, true) else (y, false)

/-- What a limiter gives: its gain, samples, samples saturated, and blocks with a gain below 65,536. -/
structure Limited where
  g : Nat
  xs : List Int := []
  sat : Nat := 0
  low : Nat := 0
  deriving DecidableEq, Repr

/-- R384: the limiter over blocks, each with the block after it. -/
def limitBlocks (thr : Nat) (bs : List (List Int)) (l : Limited) : Limited :=
  match bs with
  | [] => l
  | [_] => l
  | b :: c :: rest =>
    let pk := max (peak b) (peak c)
    let target := if pk = 0 then 65536 else min 65536 (thr * 65536 / pk)
    let g := if target < l.g then target else l.g + (target - l.g) / 50
    let out := b.map (limitSample g)
    limitBlocks thr (c :: rest) {
      g := g
      xs := l.xs ++ out.map (·.1)
      sat := l.sat + (out.filter (·.2)).length
      low := l.low + b2n (decide (g < 65536)) }

/-- R384: a mix through its limiter; the last block waits for the next period. `key` names the limiter. -/
def limitMix (s : State) (g key ctx : Nat) (xs : List Int) : State :=
  match getMix s g with
  | none => s
  | some m =>
    let held := (Tbl.get? m.carry key).getD (List.replicate 48 0)
    let bs := held :: blocksOf (m.samples / 48) xs
    let l := limitBlocks (limitThr m.limitDb) bs { g := (Tbl.get? m.gains key).getD 65536 }
    let s1 := setMix s g { m with
      gains := Tbl.put m.gains key l.g
      carry := Tbl.put m.carry key (bs.getLastD [])
      mixes := Tbl.put m.mixes ctx l.xs }
    bumpC (mixCount (mixCount s1 g 0x06 l.sat) g 0x07 l.low) (oAudCounter 5) l.sat

-- ## Frames of a period (R372, R385, R387, R408)

/-- The receivers of a group that take a stream: seated ones their seat's, the others their format's. -/
def takers (s : State) (g : Nat) (m : Mix) (own : Nat) (ctx : Nat) : List Nat :=
  (boundLegs s g).filterMap (fun b => b.2.outbound.bind (fun _ =>
    let seat := m.seats.find? (fun t => t.speaker == some b.1 && t.member == own)
    let stream := match seat with
      | some t => some t.ctx
      | none => (m.formats[b.2.format]?).map (fun f => f.shared)
    if stream == some ctx then some b.1 else none))

/-- R372: when the frames of a period are due, and when they are dropped; one period later in a spanning group (R484). -/
def Mix.due (m : Mix) (start : Nat) : Nat := start + (if m.span.isSome then 2 else 1) * m.period
def Mix.dropAt (m : Mix) (start : Nat) : Nat := start + (if m.span.isSome then 3 else 2) * m.period

/-- The streams that a period's frames are encoded into: each format's SHARED context, and the seats of local receivers. -/
def periodStreams (s : State) (g : Nat) (m : Mix) (own : Nat) : List (Nat × Bool) :=
  (m.formats.filter (fun f => f.codec != 0)).map (fun f => (f.shared, false))
    ++ m.seats.filterMap (fun t => t.speaker.bind (fun x =>
      if t.member == own && (seatFormat s g m x).isSome then some (t.ctx, t.conceded) else none))

/-- The format that a stream of a group is encoded in (R385). -/
def streamFormat (s : State) (g : Nat) (m : Mix) (ctx : Nat) : Option Format :=
  match m.seats.find? (fun t => t.ctx == ctx) with
  | some t => t.speaker.bind (seatFormat s g m)
  | none => m.formats.find? (fun f => f.codec != 0 && f.shared == ctx)

/-- The AUD tasks of a period (R400, R401). -/
def audTask (m : Mix) (start aff : Nat) (serial : Nat) (e : Option Nat) : Task :=
  { cls := clsAud, band := 0, deadline := some (m.due start), affinity := aff, serial := some serial, seq := 0, entry := e }

/-- The tasks of warm-up mixes and encoders under an open prediction (R380). -/
def warmTasks (s : State) (g : Nat) (m : Mix) (p : Nat) : List Task :=
  match m.prediction with
  | none => []
  | some e =>
    audTask m (m.startOf p) (keyMix g) (keyMixPeriod g p) (some e.entry)
      :: (match (seatFormat s g m e.newcomer), m.seats.find? (fun t => t.speaker == some e.leaver) with
          | some _, some t => [audTask m (m.startOf p) (keyStream t.ctx) (keyStream t.ctx) (some e.entry)]
          | _, _ => [])

/-- A frame is dropped (R372): counted, and its event posted. -/
def dropFrames (s : State) (g m n : Nat) : State :=
  if n = 0 then s else mixEvent (bumpC (mixCount s g 0x02 n) (oAudCounter 2) n) g 2 0x502 (word m)

/-- R372, R408: the period's tasks are asked for together, and each stream owes its frame; without the slots the period's
frames are dropped. -/
def oweFrames (s : State) (g : Nat) (m : Mix) (p start own : Nat) (decodes : List Nat) (conceded : Bool) : State :=
  let streams := periodStreams s g m own
  let tasks := decodes.map (fun c => audTask m start (keySender c) (keySender c) none)
    ++ [audTask m start (keyMix g) (keyMixPeriod g p) none]
    ++ streams.map (fun c => audTask m start (keyStream c.1) (keyStream c.1) none)
    ++ warmTasks s g m p
  let r := requestAll s tasks
  if r.2 then
    let owed := streams.filterMap (fun c => (streamFormat s g m c.1).map (fun f => ({
      ctx := c.1, m := p, start := start, legs := takers s g m own c.1, conceded := conceded || c.2
      level := measureLevel ((Tbl.get? ((getMix s g).getD m).mixes c.1).getD [])
      format := f } : Owed)))
    bumpC (mixCount (updMix r.1 g (fun m => { m with owed := m.owed ++ owed })) g 0x00 1) (oAudCounter 0) 1
  else dropFrames r.1 g p streams.length

-- ## Period starts (R372)

/-- R391: parameters that wait for a period start take effect. A lower K empties the seats of the lowest scores. -/
def newParams (m : Mix) (w : Word) : Mix :=
  { m with
    k := if bits w 44 40 = 0 then 4 else bits w 44 40
    hold := if bits w 39 32 = 0 then 4 else bits w 39 32
    hyst := if bits w 31 24 = 0 then 6 else bits w 31 24
    floor := bits w 23 16
    limitDb := bits w 15 12
    vadUse := bitAt w 8 }

/-- Seats kept under a lower K: those of the greatest scores, then empty ones; `n` bounds the removals. -/
def cutSeats (score : Nat → Int) (k n : Nat) (seats : List Seat) : List Seat :=
  match n with
  | 0 => seats
  | n + 1 =>
    if seats.length ≤ k then seats
    else
      match seats.reverse.find? (fun t => t.speaker.isNone) with
      | some t => cutSeats score k n (seats.filter (fun u => u.ctx != t.ctx))
      | none =>
        match weakest score seats with
        | some w => cutSeats score k n (seats.filter (fun u => u.speaker != some w))
        | none => seats.take k

def applyParams (s : State) (g : Nat) : State :=
  match getMix s g with
  | none => s
  | some m =>
    let m1 := { m with
      formats := m.pendingFormat.foldl (fun (fs : List Format) (q : Nat × Format) => fs.set q.1 { q.2 with shared := (fs.getD q.1 q.2).shared }) m.formats
      pendingFormat := [] }
    let m1 := match m1.pendingEvents with
      | some (on, q, slot, ring, tag) => { m1 with eventsEn := on, queue := q, slot := slot, ring := ring, tag := tag, pendingEvents := none }
      | none => m1
    match m1.pendingW2 with
    | none => setMix s g m1
    | some w =>
      let m2 := { newParams m1 w with pendingW2 := none }
      let score := fun x => ((m2.scores.find? (fun q => q.1 == x)).map (·.2)).getD 0
      let kept := cutSeats score m2.k m2.seats.length m2.seats
      let spare := (m2.seats.filter (fun t => !(kept.any (fun u => u.ctx == t.ctx)))).map (fun t => t.ctx)
      let lost := m2.seats.map (fun t => if kept.any (fun u => u.ctx == t.ctx) then t else { t with speaker := none })
      spare.foldl dropCtx (seatEvents (setMix s g { m2 with seats := kept }) g m2.seats lost none)

/-- R373, R374, R381, R392: bindings that wait for the group's period start are applied, and their commands complete. -/
def applyBindings (s : State) (g : Nat) : State :=
  (s.units.pendingBindings.filter (fun p => p.2.2 == g)).foldl (fun s p =>
    let old := Tbl.get? s.units.bindings p.1
    let same := match old, p.2.1 with
      | some a, some b => a.inbound == b.inbound && a.mute == b.mute
      | none, none => true
      | _, _ => false
    let s0 := if same then s else legChanged s g p.1
    let clear := fun (s : State) (o : Option Nat) (on : Bool) => match o with
      | some c => updCtx s c (fun x => { x with audioOut := on, tsOffset := if on then 0 else x.tsOffset })
      | none => s
    let s1 := clear s0 (old.bind (fun b => b.outbound)) false
    let s2 := { s1 with units := { s1.units with
      bindings := match p.2.1 with
        | some b => Tbl.put s1.units.bindings p.1 b
        | none => Tbl.del s1.units.bindings p.1
      pendingBindings := s1.units.pendingBindings.filter (fun q => q.1 != p.1) } }
    let s3 := clear s2 (p.2.1.bind (fun b => b.outbound)) true
    let s4 := if (old.bind (fun b => b.inbound)) == (p.2.1.bind (fun b => b.inbound)) then s3
      else match p.2.1.bind (fun b => b.inbound) with
        | some c => updCtx s3 c (fun x => { x with ajb := {} })
        | none => s3
    completeWhere s4 (fun i => decide (i.wait = .audioLeg p.1)) 0 0 0) s

/-- R393: a group ends. -/
def endMix (s : State) (g : Nat) : State :=
  match getMix s g with
  | none => s
  | some m =>
    let s1 := (m.seats.map (fun t => t.ctx)).foldl dropCtx (dropPrediction s g)
    let s2 := cancelTasks { s1 with units := { s1.units with mixes := Tbl.del s1.units.mixes g } }
      (fun t => t.affinity == keyMix g)
    completeWhere s2 (fun i => decide (i.wait = .mixDestroy g)) 0 0 0

/-- R378: the scores of a group's ranked senders at period start `p`. -/
def scoreAll (s : State) (g : Nat) (m : Mix) (p : Nat) : List Scored := (rankedLegs s g).map (scoreLeg m p)

/-- R379 for a group of one member: empty a seat whose speaker is unbound, muted or silent for 1 s. -/
def seatGone (s : State) (g p : Nat) (leg : Nat) : Bool :=
  match (rankedLegs s g).find? (fun x => x.1 == leg) with
  | none => true
  | some x => match x.2.2.ajb.lastPacket with
    | some t => decide (t + second ≤ p)
    | none => true

/-- R379, R380: the evaluation of a group of one member at the start of period `n`. -/
def rankLocal (s : State) (g n p : Nat) (sc : List Scored) : State :=
  match getMix s g with
  | none => s
  | some m =>
    let score := fun x => ((sc.find? (fun q => q.leg == x)).map (fun q => q.score)).getD 0
    let missing := fun x => ((sc.find? (fun q => q.leg == x)).map (fun q => q.missing)).getD true
    let pred := m.prediction.map (fun e => (e.newcomer, e.leaver, e.boundary))
    let v := evaluate m.k m.hold m.hyst m.floor n score missing (seatGone s g p) (sc.map (fun q => q.leg))
      ⟨m.seats, m.challengers⟩ pred true
    -- a prediction that a time step has conceded keeps that outcome (R58, R81)
    let open_ := m.prediction.map (fun e => Tbl.has s.spec.table e.entry)
    let s1 := match m.prediction, v.outcome with
      | some e, some o => updMix (resolveEntry s e.entry o) g (fun m => { m with prediction := none })
      | _, _ => s
    let seats := if open_ == some false && v.outcome.isSome then
        (match pred with
          | some e => (takeSeat v.ballot.seats e.1 e.2.1 n true).map (fun t =>
              if t.speaker == some e.1 && t.since == n then { t with conceded := true } else t)
          | none => v.ballot.seats)
      else v.ballot.seats
    let outcome := if open_ == some false then v.outcome.map (fun _ => 2) else v.outcome
    let s2 := if v.close then dropPrediction s1 g else s1
    let s3 := updMix s2 g (fun m => { m with
      seats := seats, challengers := v.ballot.challengers, scores := sc.map (fun q => (q.leg, q.score)) })
    let s4 := seatEvents s3 g m.seats seats (outcome.bind (fun o => if o = 3 then none else pred.map (fun e => (e.1, o))))
    match v.opens with
    | some (h, w, b) => openPrediction s4 g h w b
    | none => s4

/-- The conference code of RANK_REPORT and PARTIAL_MIX (R462). -/
def confCode (w : Word) : Nat := hMember w * 2 ^ 14 + hIndex w % 2 ^ 14

/-- R480: a member's report: its K + 2 highest scores. -/
def reportOf (m : Mix) (sc : List Scored) : List Scored :=
  let score := fun x => ((sc.find? (fun q => q.leg == x)).map (fun q => q.score)).getD 0
  let rec pick (n : Nat) (xs : List Nat) : List Nat :=
    match n with
    | 0 => []
    | n + 1 => match firstOf (before score) xs with
      | none => []
      | some a => a :: pick n (xs.filter (fun x => x != a))
  (pick (m.k + 2) (sc.map (fun q => q.leg))).filterMap (fun l => sc.find? (fun q => q.leg == l))

/-- R462: the payload words of a RANK_REPORT. -/
def reportWords (sc : List Scored) : List Word :=
  sc.map (fun q => word (q.score.toNat % 65536 * 2 ^ 32 + b2n q.missing * 2 ^ 31 + q.leg))

/-- R462: word A of a RANK_REPORT. -/
def reportA (m : Mix) (w : Word) : Word :=
  word (m.hold * 2 ^ 40 + m.hyst * 2 ^ 32 + m.floor * 2 ^ 24 + m.k * 2 ^ 19 + confCode w)

/-- R480: the master takes a report. The first one for a later period starts that period's merge. -/
def takeReport (s : State) (code k hold hyst floor member m : Nat) (xs : List (Nat × Int × Bool)) : State :=
  let g := (Tbl.get? s.grn.merges code).getD {}
  let g1 := if m > g.m || g.since = 0 then { g with m := m, merged := false, since := now s } else g
  let g2 := { g1 with
    k := k, hold := hold, hyst := hyst, floor := floor
    seats := if g1.seats.length = k then g1.seats else (List.range k).map (fun i => g1.seats.getD i { ctx := i })
    reports := if m = g1.m then Tbl.put g1.reports member (m, xs) else g1.reports }
  { s with grn := { s.grn with merges := Tbl.put s.grn.merges code g2 } }

/-- R480: send a period's report to the acting master, or take it when this module is the master. -/
def sendReport (s : State) (g n : Nat) (sc : List Scored) : State :=
  match getMix s g with
  | none => s
  | some m =>
    match m.span with
    | none => s
    | some w =>
      let top := reportOf m sc
      if !(inBramble s) then s
      else if s.grn.state = .master then
        takeReport s (confCode w) m.k m.hold m.hyst m.floor (ownMember s) n (top.map (fun q => (q.leg, q.score, q.missing)))
      else (grnSend s 4 s.grn.master false false (reportA m w) (word n) (wordBytes (reportWords top))).1

/-- R482: a seat word, as speaker and member. -/
def seatWord (w : Word) : Option (Nat × Nat) := if bitAt w 47 then some (bits w 16 0, bits w 20 17) else none

/-- R480: the newest decision for the boundary is applied; without one the seats stay. -/
def applyDecision (s : State) (g n : Nat) : State :=
  match getMix s g with
  | none => s
  | some m =>
    match m.decision with
    | none => s
    | some (b, ws) =>
      if b != n then s
      else
        let seats := m.seats.zipIdx.map (fun t => match seatWord (ws.getD t.2 0) with
          | some (leg, member) =>
            if t.1.speaker == some leg && t.1.member == member then t.1
            else { t.1 with speaker := some leg, member := member, since := n, conceded := false }
          | none => { t.1 with speaker := none })
        let chal := [ws.getD m.k 0, ws.getD (m.k + 1) 0].filterMap (fun w =>
          (seatWord w).bind (fun x => if x.2 == ownMember s then some (x.1, 0) else none))
        let by_ := if bits (ws.getD (m.k + 2) 0) 46 45 = 1 then
            ((m.seats.zip seats).find? (fun q => q.1.speaker != q.2.speaker && q.2.since == n)).bind (fun q => q.2.speaker) else none
        seatEvents (setMix s g { m with seats := seats, challengers := chal }) g m.seats seats (by_.map (fun x => (x, 1)))

/-- R382: the senders here that are decoded: seated here, challengers, and those of ALWAYS_DECODE. -/
def decodeSet (s : State) (g : Nat) (m : Mix) (own : Nat) : List Nat :=
  distinct (m.seats.filterMap (fun t => if t.member == own then t.speaker else none) ++ m.challengers.map (·.1)
    ++ ((boundLegs s g).filter (fun b => b.2.always && !b.2.mute && b.2.inbound.isSome)).map (·.1))

/-- A leg's gain (R392). -/
def gainOf (s : State) (leg : Nat) : Nat := ((Tbl.get? s.units.bindings leg).map (fun b => b.gain)).getD 0x1000

/-- R383, R384: the contributions of the seats hosted here, by seat number. -/
def contributions (s : State) (m : Mix) (own n : Nat) (samples : List (Nat × List Int)) : List (Nat × List Int) :=
  m.seats.zipIdx.filterMap (fun t => t.1.speaker.bind (fun x =>
    if t.1.member == own then
      some (t.2, gained (gainOf s x) (t.1.since == n) (((samples.find? (fun q => q.1 == x)).map (·.2)).getD []))
    else none))

/-- R383 to R385: build and limit the mixes of a period from the sum and the own seats' contributions. -/
def buildMixes (s : State) (g : Nat) (m : Mix) (own : Nat) (sum : List Int) (mine : List (Nat × List Int)) : State :=
  let shared := (m.formats.filter (fun f => f.codec != 0)).map (fun f => f.shared)
  let s1 := match shared with
    | c :: _ => limitMix s g 100 c sum
    | [] => s
  let s2 := updMix s1 g (fun m => { m with mixes := match shared with
    | c :: rest => (match Tbl.get? m.mixes c with
      | some xs => rest.foldl (fun t k => Tbl.put t k xs) m.mixes
      | none => m.mixes)
    | [] => m.mixes })
  m.seats.zipIdx.foldl (fun s t => match t.1.speaker with
    | some _ =>
      if t.1.member == own then
        let part := (Tbl.get? mine t.2).getD []
        limitMix s g t.2 t.1.ctx ((List.range m.samples).map (fun i => sum.getD i 0 - part.getD i 0))
      else s
    | none => s) s2

/-- R375 to R378, R382: the buffers hand over a period; decoded senders are measured. The answer adds the contexts decoded
and the number of periods concealed. -/
def handAll (s : State) (g p : Nat) (m : Mix) (sc : List Scored) (active : List Nat) (samples : List (Nat × List Int)) :
    State × List Nat × Nat :=
  let senders := (boundLegs s g).filterMap (fun b => b.2.inbound.map (fun c => (b.1, c)))
  let r := senders.foldl (fun (a : State × List Nat × Nat) x =>
    let low := ((sc.find? (fun q => q.leg == x.1)).map (fun q => decide (q.a < m.floor))).getD true
    let h := handOver_ a.1 g m p low x.2
    if active.contains x.1 then (h.1, a.2.1 ++ [x.2], a.2.2 + b2n h.2) else (h.1, a.2)) (s, [], 0)
  (updMix r.1 g (fun m => { m with
    measured := active.map (fun l => (l, measureLevel (((samples.find? (fun q => q.1 == l)).map (·.2)).getD []))) }), r.2)

/-- R372, R480, R484: period `n`, which starts at `p`, in order. -/
def runPeriod (s : State) (g n p : Nat) (samples : List (Nat × List Int)) : State :=
  match getMix s g with
  | none => s
  | some m0 =>
    let own := if m0.span.isSome then ownMember s else 0
    let sc := scoreAll s g m0 p
    let s1 := if m0.span.isSome then
        sendReport (updMix (applyDecision s g n) g (fun m => { m with scores := sc.map (fun q => (q.leg, q.score)) })) g n sc
      else rankLocal s g n p sc
    match getMix s1 g with
    | none => s1
    | some m1 =>
      let s2 := dressSeats s1 g m1
      let target := decodeSet s2 g m1 own
      let active := target.filter (fun l => m1.decoded.contains l)
      let h := handAll s2 g p m1 sc active samples
      let s3 := bumpC (mixCount (updMix h.1 g (fun m => { m with decoded := target })) g 0x08 h.2.2) (oAudCounter 3) h.2.2
      match getMix s3 g with
      | none => s3
      | some m =>
        let mine := contributions s3 m own n (samples.filter (fun q => active.contains q.1))
        let sum := addSamples m.samples (mine.map (·.2))
        match m.span with
        | none => oweFrames (buildMixes s3 g m own sum mine) g m n p own h.2.1 false
        | some w =>
          let hosts := m.seats.any (fun t => t.speaker.isSome && t.member == own)
          let s4 := if hosts && grnActive s3 && inBramble s3 then
              (grnSend s3 3 0 true false (word (confCode w)) (word n)
                (sum.flatMap (fun x => leBytes 6 (BitVec.ofInt 48 x).toNat))).1
            else s3
          (requestAll (updMix s4 g (fun m => { m with
            own := m.own ++ mine.map (fun q => (n, q.1, q.2))
            partials := if hosts then m.partials ++ [(own, n, false, sum)] else m.partials
            building := m.building ++ [(n, p, m.seats)] }))
            (h.2.1.map (fun c => audTask m p (keySender c) (keySender c) none))).1

/-- R368: decoded audio is mono: a stereo sender gives (L + R) / 2, rounded to nearest, halves upward (DESIGN CHOICE,
assumption 116). -/
def downmix (x : Sound) : List Int :=
  match x with
  | .mono xs => xs
  | .stereo l r => (l.zip r).map (fun p => (p.1 + p.2 + 1) / 2)
def downmixed (samples : List (Nat × Sound)) : List (Nat × List Int) := samples.map (fun x => (x.1, downmix x.2))

/-- R371, R372, R396: a period of a group starts. `samples` are the 48 kHz samples that the decoders give for each decoded
leg, concealed parts included (R368, R377). -/
def execMixPeriodStart (group : Nat) (samples : List (Nat × Sound)) (s : State) : Out :=
  .next (
    match getMix s group with
    | none => s
    | some m =>
      let p := m.startOf m.m
      if !(running s) || decide (now s < p) then s
      else
        let s1 := updMix s group (fun m => { m with m := m.m + 1 })
        if !(mediaOn s) then s1
        else if m.ending then settle (endMix s1 group)
        else settle (runPeriod (applyBindings (applyParams s1 group) group) group m.m p (downmixed samples)))

-- ## Frames (R372, R373, R386, R387)

/-- R373, R387: a frame's packet goes to the receivers of its stream, with a timestamp offset of 0. -/
def serveFrame (a : State × Option (PRec × List Byte)) (o : Owed) : State :=
  match a.2 with
  | none => a.1
  | some r =>
    o.legs.foldl (fun s l => match (Tbl.get? s.units.bindings l).bind (fun b => b.outbound) with
      | some c => forwardRec s c r.1 r.2 o.conceded
      | none => s) a.1

/-- R386: a frame's level, whose V bit is 1 for a loudness of at least FLOOR; only the first packet after a DTX gap
carries the marker. -/
def frameLevel (m : Mix) (o : Owed) : Nat × Bool := (o.level, decide (o.level + m.floor ≤ 127))
def frameMarker (m : Mix) (o : Owed) : Bool := o.format.codec == 8 && o.format.dtx && m.gaps.contains o.ctx

/-- R367, R386: a frame that the encoder of a format gives: one Opus frame of a period, mono and within MAX_BW, or 80 or
160 bytes of G.711 or G.722. With DTX, no bytes are a gap. -/
def frameFits (m : Mix) (f : Format) (bs : List Byte) : Bool :=
  let p := rtpPayload bs
  if p.isEmpty then f.codec == 8 && f.dtx
  else if f.codec = 8 then
    opusCode p == 0 && opusWellFormed p && !((p.getD 0 0).getLsbD 2) && opusFrame (opusConfig p) == m.samples
      && decide (opusBand (opusConfig p) ≤ f.bw)
  else p.length == m.samples / 6

/-- A frame of a stream has been encoded and is final. A frame of no bytes is a DTX gap, which sends nothing. -/
def execMixFrameFinal (group : Nat) (ctx : Nat) (packet : RtpFacts) (s : State) : Out :=
  .next (
    match getMix s group with
    | none => s
    | some m =>
      match m.owed.find? (fun o => o.ctx == ctx) with
      | none => s
      | some o =>
        if !(running s) || !(frameFits m o.format packet.bytes) then s
        else
          let s1 := setMix s group { m with owed := m.owed.erase o }
          if decide (now s ≥ m.dropAt o.start) then dropFrames s1 group o.m 1
          else
            let late := decide (now s > m.due o.start)
            let s2 := if late then mixEvent (bumpC (mixCount s1 group 0x01 1) (oAudCounter 1) 1) group 2 0x502 (word o.m) else s1
            let x := (getCtx s ctx).getD { kind := 5 }
            if (rtpPayload packet.bytes).isEmpty then updMix s2 group (fun m => { m with gaps := ctx :: m.gaps.erase ctx })
            else
              let ts := o.m * m.clockStep x.clock % 2 ^ 32
              let s3 := updMix s2 group (fun m => { m with gaps := m.gaps.erase ctx })
              settle (serveFrame (produceRec s3 ctx ts packet (frameMarker m o) (some (frameLevel m o)) o.conceded) o))

/-- R372: a frame that is not final by p + 2T is dropped. -/
def execMixFrameDrop (group : Nat) (ctx : Nat) (s : State) : Out :=
  .next (
    match getMix s group with
    | none => s
    | some m =>
      match m.owed.find? (fun o => o.ctx == ctx && decide (now s ≥ m.dropAt o.start)) with
      | none => s
      | some o => if running s then dropFrames (setMix s group { m with owed := m.owed.erase o }) group o.m 1 else s)

-- ## Commands (R370, R388 to R393)

/-- A format of the block (R390). -/
def formatOf (shared : Nat) (w : Word) : Format :=
  { shared := shared, codec := bits w 47 44, kbps := bits w 43 32, fec := bitAt w 31, dtx := bitAt w 30, bw := bits w 29 27
    lossPct := bits w 26 20 }

/-- R390: a format word out of range: 0x190 for its codec, 0x108 for the rest. -/
def formatCodecBad (w : Word) : Bool := let c := bits w 47 44; c != 0 && !(decide (8 ≤ c) && decide (c ≤ 11))
def formatBad (w : Word) : Bool :=
  let c := bits w 47 44
  if c = 8 then decide (bits w 43 32 < 6) || decide (510 < bits w 43 32) || decide (bits w 29 27 > 4) || decide (bits w 26 20 > 100)
  else bits w 43 20 != 0

/-- R390: a SHARED context that a format cannot use. -/
def sharedBad (s : State) (conf : Nat) (h w : Word) : Bool :=
  if bits w 47 44 = 0 then h != 0 || w != 0
  else
    match getCtx s (hIndex h) with
    | none => true
    | some x => x.kind != 5 || x.owner != conf || x.codec != bits w 47 44 || x.clock != audioClock (bits w 47 44)
        || (encOf s (hIndex h)).isSome || s.units.mixes.any (fun p => p.2.formats.any (fun f => f.codec != 0 && f.shared == hIndex h))

/-- R389: word 2 out of range, K apart. -/
def w2Bad (w : Word) : Bool :=
  decide (bits w 47 46 > 1) || decide (bits w 39 32 > 50) || decide (bits w 31 24 > 40) || decide (bits w 23 16 > 127)
    || decide (bits w 15 12 > 12)

/-- Make seat contexts: their numbers. -/
def makeSeats (s : State) (conf n : Nat) : State × List Nat :=
  match n with
  | 0 => (s, [])
  | n + 1 =>
    let c := Tbl.lowestFree s.media.streams
    let r := makeSeats (setCtx s c { kind := 5, hidden := true, owner := conf, codec := 8, clock := 1 }) conf n
    (r.1, c :: r.2)

/-- R370: the limits of decodes, encodes and groups. -/
def audFull (s : State) (decodes encodes groups : Nat) : Bool :=
  decide (decodesReserved s + decodes > 16384) || decide (encodesReserved s + encodes > 16384)
    || decide (s.units.mixes.length + groups > 8192)

/-- R370, R388: word 3 of MIX_CREATE and MIX_MODIFY. -/
def mixWord3 (s : State) (g : Nat) : Word :=
  match getMix s g with
  | some m => word (mixDecodes s g m * 2 ^ 16 + mixEncodes m)
  | none => 0

/-- MIX_CREATE's group from word 2, its origin and its formats. -/
def mixOf (s : State) (d : Desc) (slot ring conf : Nat) (ws : List Word) : Mix :=
  let w := d.w2
  let origin := nearest (now s) d.w3
  let base : Mix := newParams { conf := conf, period20 := bits w 47 46 == 1 } w
  { base with
    eventsEn := bitAt w 7, queue := bits w 5 0, slot := slot, ring := ring, tag := descTag d, origin := origin
    m := (schedFirst origin (if bits w 47 46 = 1 then 50 else 100) 1 (now s + durMs 1)).toNat
    formats := (List.range 4).map (fun i => formatOf (hIndex (ws.getD i 0)) (ws.getD (4 + i) 0)) }

/-- R476, R480: the parameters that the first MIX_JOIN fixes at the home member. -/
def joinParams (w2 : Word) : Word := word (bits w2 47 16 * 2 ^ 16)

/-- R487: join a group to a spanning conference whose home is here: 0, or the status of the refusal. -/
def joinHome (s : State) (conf member : Nat) (w2 w3 : Word) : State × Nat :=
  match getConf s conf with
  | none => (s, 0x104)
  | some c =>
    if !c.span || c.shadowOf.isSome then (s, 0x108)
    else
      match c.mixParams with
      | some p => if p = (joinParams w2, w3) then
          ({ s with media := { s.media with confs := Tbl.put s.media.confs conf { c with
            joined := if c.joined.contains member then c.joined else c.joined ++ [member] } } }, 0)
        else (s, 0x108)
      | none => ({ s with media := { s.media with confs := Tbl.put s.media.confs conf { c with
          mixParams := some (joinParams w2, w3), joined := [member] } } }, 0)

/-- The checks of MIX_CREATE against its format block. -/
def mixChecks (s : State) (w2 : Word) (conf : Nat) (ws : List Word) : List (Bool × Nat) :=
  let pairs := (List.range 4).map (fun i => (ws.getD i 0, ws.getD (4 + i) 0))
  let k := if bits w2 44 40 = 0 then 4 else bits w2 44 40
  let n := (pairs.filter (fun p => bits p.2 47 44 != 0)).length
  [(pairs.any (fun p => bits p.2 47 44 != 0 && bits p.2 19 0 != 0), 0x101)]
  ++ (pairs.filter (fun p => bits p.2 47 44 != 0)).map (fun p => hObj s [1] p.1 (ctxNamed s))
  ++ [(w2Bad w2 || bits (ws.getD 4 0) 47 44 == 0 || s.units.mixes.any (fun p => p.2.conf == conf && !p.2.ending)
        || pairs.any (fun p => sharedBad s conf p.1 p.2)
        || pairs.any (fun p => bits p.2 47 44 != 0 && !(formatCodecBad p.2) && formatBad p.2)
        || decide ((distinct ((pairs.filter (fun p => p.2 != 0)).map (fun p => hIndex p.1))).length < n), 0x108),
      (pairs.any (fun p => formatCodecBad p.2), 0x190), (decide (k > 16), 0x191),
      (decide (s.media.streams.length + k > 5242880), 0x200),
      (decide (s.media.streams.length + k > contextCapacity s), 0x201),
      (audFull s (k + 2) (n + k + 1) 1, 0x206)]

/-- MIX_CREATE once its checks have passed and its conference has been joined. -/
def mixMake (s : State) (d : Desc) (slot ring conf : Nat) (span : Option Word) (ws : List Word) : Body :=
  let g := Tbl.lowestFree s.units.mixes
  let m := mixOf s d slot ring conf ws
  let r := makeSeats s conf m.k
  let s1 := setMix r.1 g { m with seats := r.2.map (fun c => { ctx := c }), span := span }
  .reply s1 0 (ownHandle s1 10 g) (mixWord3 s1 g)

/-- MIX_CREATE on another member's conference, when MIX_JOIN has been acknowledged: the checks hold again then. -/
def mixFinish (s : State) (d : Desc) (slot ring : Nat) (ws : List Word) : Body :=
  let conf := (confOf s d.w1).getD noCtx
  guarded s (mixChecks s d.w2 conf ws) (mixMake s d slot ring conf (some d.w1) ws)

def execMixCreate (c : Cmd) (block : HostData) (s : State) : Out :=
  .next (runRing s 0x700 c fun s =>
    let remote := ofMember s 3 c.w1
    let conf := (confOf s c.w1).getD noCtx
    guarded s [(reservedBad c 0 [full, mask 47 46 + mask 44 12 + 0x1BF, full, full, full], 0x101),
        hMay s 3 c.w1 (confNamed s), (bitAt c.w2 7 && noQueue s c.slot (bits c.w2 5 0), 0x112), regionCheck s c.slot c.w4,
        (regionBounds s c.slot c.w4 c.w5.toNat 48 false, 0x115), (c.w5.toNat % 64 != 0, 0x118)]
      (match block with
        | .bytes bs =>
          let ws := blockWords s c.slot 8 bs
          guarded s (mixChecks s c.w2 conf ws)
            (if remote then
              let r := peerSend s (hMember c.w1) 0xA85 0 c.w1 c.w2 c.w3 none
              .waits r.1 (.peer r.2 (cmdDesc 0x700 c) ws)
            else if ((getConf s conf).map (fun x => x.span)).getD false then
              let j := joinHome s conf (ownMember s) c.w2 c.w3
              if j.2 = 0 then mixMake j.1 (cmdDesc 0x700 c) c.slot c.ring conf (some c.w1) ws else .fail s j.2
            else mixMake s (cmdDesc 0x700 c) c.slot c.ring conf none ws)
        | d => hostFailure s c d))

/-- A mix group that the host can name. -/
def mixLive (s : State) (g : Nat) : Bool :=
  match getMix s g with
  | some m => !m.ending
  | none => false

def execMixModify (c : Cmd) (s : State) : Out :=
  .next (runRing s 0x701 c fun s =>
    let sel := cmdSel c
    let g := hIndex c.w1
    let m := (getMix s g).getD { conf := 0 }
    let k := if bits c.w2 44 40 = 0 then 4 else bits c.w2 44 40
    let more := k - m.kMost
    let fi := bits c.w2 1 0
    let masks := [[full, mask 44 12 + 0x100], [full, 3, mask 47 20], [full, 0xBF]].getD sel []
    guarded s [(decide (2 < sel), 0x108), (reservedBad c 0xF masks, 0x101), hObj s [10] c.w1 (mixLive s),
        (sel == 2 && bitAt c.w2 7 && noQueue s c.slot (bits c.w2 5 0), 0x112),
        (sel == 0 && w2Bad c.w2, 0x108),
        (sel == 1 && (bits c.w3 47 44 == 0 || ((m.formats.getD fi { shared := 0, codec := 0 }).codec != bits c.w3 47 44
          && !(formatCodecBad c.w3)) || (!(formatCodecBad c.w3) && formatBad c.w3)), 0x108),
        (sel == 1 && formatCodecBad c.w3, 0x190), (sel == 0 && decide (k > 16), 0x191),
        (sel == 0 && decide (s.media.streams.length + more > 5242880), 0x200),
        (sel == 0 && decide (s.media.streams.length + more > contextCapacity s), 0x201),
        (sel == 0 && audFull s more more 0, 0x206)]
      (let s1 := match sel with
        | 0 =>
          let r := makeSeats s m.conf (k - m.seats.length)
          updMix r.1 g (fun m => { m with pendingW2 := some c.w2, seats := m.seats ++ r.2.map (fun c => { ctx := c }) })
        | 1 => updMix s g (fun m => { m with pendingFormat := m.pendingFormat ++ [(fi, formatOf 0 c.w3)] })
        | _ => updMix s g (fun m => { m with
            pendingEvents := some (bitAt c.w2 7, bits c.w2 5 0, c.slot, c.ring, c.tag) })
       .reply s1 0 0 (mixWord3 s1 g)))

def execMixDestroy (c : Cmd) (s : State) : Out :=
  .next (runRing s 0x702 c fun s =>
    let g := hIndex c.w1
    guarded s [(reservedBad c 0 [full], 0x101), hObj s [10] c.w1 (mixLive s),
        (!(boundLegs s g).isEmpty || s.units.pendingBindings.any (fun p => p.2.2 == g && p.2.1.isSome), 0x105)]
      (.waits (updMix s g (fun m => { m with ending := true })) (.mixDestroy g)))

/-- R392: the binding that AUDIO_LEG_SET describes. -/
def bindingOf (c : Cmd) : Binding :=
  { group := hIndex c.w2
    inbound := if c.w3 = 0 then none else some (hIndex c.w3)
    outbound := if c.w4 = 0 then none else some (hIndex c.w4)
    gain := bits c.w5 47 32
    format := bits c.w5 25 24
    always := bitAt c.w5 2
    mute := bitAt c.w5 1 }

/-- R392: the cases of 0x108. -/
def bindingBad (s : State) (leg : Nat) (b : Binding) (c : Cmd) : Bool :=
  let conf := (getLeg s leg).map (fun l => l.conf)
  let m := getMix s b.group
  let f := m.bind (fun m => (m.formats[b.format]?).filter (fun f => f.codec != 0))
  (m.map (fun m => m.conf)) != conf || decide (b.gain > 0x4000) || f.isNone
    || (c.w3 != 0 && (kindOf s (hIndex c.w3) != 1 || ownerOf s (hIndex c.w3) != leg))
    || (c.w4 != 0 && (kindOf s (hIndex c.w4) != 3 || ownerOf s (hIndex c.w4) != leg
        || some (codecOf s (hIndex c.w4)) != f.map (fun f => f.codec) || (subOf s (hIndex c.w4)).isSome))

/-- R392: INBOUND has a non-audio codec, or another CLOCK. -/
def inboundBad (s : State) (c : Cmd) : Bool :=
  c.w3 != 0 && (match getCtx s (hIndex c.w3) with
    | some x => !(audioCodec x.codec) || x.clock != audioClock x.codec
    | none => false)

def execAudioLegSet (c : Cmd) (s : State) : Out :=
  .next (runRing s 0x703 c fun s =>
    let leg := hIndex c.w1
    let b := bindingOf c
    let old := Tbl.get? s.units.bindings leg
    let wait := s.units.pendingBindings.find? (fun p => p.1 == leg)
    let had := match wait with
      | some p => (p.2.1.map (fun b => b.always)).getD false
      | none => (old.map (fun b => b.always)).getD false
    let on := c.w2 != 0
    guarded s [(reservedBad c 0 [full, full, full, full, mask 47 32 + mask 25 24 + 6], 0x101), hObj s [2] c.w1 (legLive s),
        if on then hObj s [10] c.w2 (mixLive s) else (false, 0),
        if c.w3 = 0 then (false, 0) else hObj s [1] c.w3 (ctxNamed s),
        if c.w4 = 0 then (false, 0) else hObj s [1] c.w4 (ctxNamed s),
        (on && bindingBad s leg b c, 0x108), (on && inboundBad s c, 0x190),
        (on && b.always && !had && audFull s 1 0 0, 0x206),
        ((c.w3 != 0 && quarantined s (hIndex c.w3)) || (c.w4 != 0 && quarantined s (hIndex c.w4)), 0x401)]
      (let s1 := completeWhere s (fun i => decide (i.wait = .audioLeg leg)) 0 1 0
       let g := if on then some b.group else match wait, old with
         | some p, _ => some p.2.2
         | none, some o => some o.group
         | none, none => none
       let s2 := { s1 with units := { s1.units with
         pendingBindings := s1.units.pendingBindings.filter (fun p => p.1 != leg) } }
       match g with
       | none => .reply s2 0 0 0
       | some k =>
         .waits { s2 with units := { s2.units with
           pendingBindings := s2.units.pendingBindings ++ [(leg, if on then some b else none, k)] } } (.audioLeg leg)))

end Sys2Proof.Machine
end

