-- ==== Sys2Proof/Machine/Errors.lean ====
section
/-! DEFINITION. Resolving speculations (R81, R108, R111 to R113), the scheduler's core events (R402, R405, R411), and
diagnostics and statistics (R503, R510, R559). -/

namespace Sys2Proof.Machine

-- ## Speculations

/-- R81, R95: an entry that reaches its commit deadline. A concealment is conceded. A layer prefetch is judged at its
switch instant. A prediction is judged by the evaluation for its boundary, which takes precedence (R82), so its own
deadline changes nothing here; a join entry has none (R90). A concealment stays open to a confirmation for the rest of the
TIME cycle (R82). -/
def execSpecCommitDeadline (entry : Nat) (s : State) : Out :=
  .next (match Tbl.get? s.spec.table entry with
    | none => s
    | some e =>
      if (e.deadline.map (fun d => decide (d ≤ now s))).getD false then
        match e.cls with
        | .concealment => concedeLater s entry
        | .prefetch => settle (resolvePrefetch s e.owner false)
        | .speaker => s
        | .join => s
      else s)

/-- R82: the concealments whose deadline came in this TIME cycle and that nothing confirmed are conceded, in the order of
their deadlines, those armed first before the others (R56). -/
def concedeDue (s : State) : State :=
  if s.spec.conceding.isEmpty then s
  else
    settle (((entriesDue s).filter (fun p => s.spec.conceding.contains p.1)).foldl (fun s p => resolveEntry s p.1 2)
      { s with spec := { s.spec with conceding := [] } })

/-- R314, R336, R363: the pictures that the TIME cycle has brought are seen from the next one on, and the requests of the cycle
act. -/
def showNewest (s : State) : State :=
  let ds := s.units.decs.filter (fun p => p.2.before.isSome)
  let s1 : State := { s with units := { s.units with
    decs := s.units.decs.map (fun p => (p.1, { p.2 with before := none }))
    canvases := s.units.canvases.map (fun p => (p.1, { p.2 with before := none }))
    encs := s.units.encs.map (fun p => (p.1, { p.2 with
      keyPending := p.2.keyPending || p.2.keyNew, restartPending := p.2.restartPending || p.2.restartNew
      keyNew := false, restartNew := false })) } }
  ds.foldl (fun s p => prunePics s p.1) s1

/-- The end of a TIME cycle: what waits for it happens, and time passes by one cycle. -/
def endCycle (s : State) : State := idle (showNewest (concedeDue s))

/-- R108: consumers that wait for a join entry proceed once one is free. -/
def execJoinEntryFreed (s : State) : Out :=
  .next (if !(s.spec.joinWaiters.isEmpty) && decide (openJoins s < 32768) then settle (redoAll s) else s)

/-- R112, R113: the value of a counter; "open now" is a gauge. -/
def specValue (s : State) (cls ctr : Nat) : Nat :=
  if ctr = 6 then (s.spec.table.filter (fun e => e.2.cls.code == cls)).length
  else Tbl.count s.spec.counters (16 * cls + ctr)

/-- R111: STAT_RIPENESS. -/
def execStatRipeness (c : Cmd) (s : State) : Out :=
  .next (runRing s 0xB20 c fun s =>
    let cls := bits c.w1 3 0
    let ctr := bits c.w1 7 4
    guarded s [(reservedBad c 0 [full], 0x101),
        (bits c.w1 47 9 != 0 || decide (cls > 5) || decide (ctr > 6), 0x1B0)]
      (.reply (if bitAt c.w1 8 && ctr != 6 then
          { s with spec := { s.spec with counters := Tbl.del s.spec.counters (16 * cls + ctr) } } else s)
        0 (word (specValue s cls ctr)) 0))

-- ## Cores

/-- R402: the task that a core runs ends. -/
def execTaskEnd (core : Fin 152) (s : State) : Out := .next (settle (endOn s core))

/-- The channel, picture and next block row of the segment with an affinity key (R401). -/
def keyRow (s : State) (key : Nat) : Option (Enc × CodedPic × Nat × Nat) :=
  if 8 * 2 ^ 60 ≤ key ∧ key < 9 * 2 ^ 60 then
    (getEnc s (key % 2 ^ 60 / 256)).bind (fun e => e.cur.bind (fun p =>
      (p.segments.find? (fun g => g.layer == key % 256 / 16 && g.seg == key % 16)).bind (fun g =>
        g.next.map (fun r => (e, p, g.layer, r)))))
  else none

/-- R405: whether the task with an affinity key must wait for a cause. The spec does not say which pages a task reads: it must
wait for one when any page is held (DEDUCED, assumption 117). -/
def mustYield (s : State) (key : Nat) (why : YieldReason) : Bool :=
  match why with
  | .heldPage => !(s.units.held.isEmpty)
  | .poolSlot => decide (6 * 2 ^ 60 ≤ key) && decide (key < 7 * 2 ^ 60)
      && ((getDec s (key % 2 ^ 60)).map (fun x => (poolSlot x).isNone)).getD false
  | .blockAbove => ((keyRow s key).map (fun x => !(aboveCoded x.1 x.2.1 x.2.2.1 x.2.2.2))).getD false
  | .sourceRows => ((keyRow s key).map (fun x => !(rowsArrived s x.1 x.2.1 x.2.2.1 x.2.2.2)
      && aboveCoded x.1 x.2.1 x.2.2.1 x.2.2.2)).getD false

/-- R412: a task that yields because its core stops is ready again at once, and waits on a list. -/
def yieldStopped (s : State) (k id : Nat) : State :=
  let s1 := yieldOn s k .heldPage
  match getTask s1 id with
  | none => s1
  | some t => place s1 id { t with why := none }

/-- R405, R412: the task that a core runs yields when it must wait, or when its core is to stop. -/
def execTaskYield (core : Fin 152) (why : YieldReason) (s : State) : Out :=
  .next (settle (
    match (getCore s core).running.bind (fun id => (getTask s id).map (fun t => (id, t))) with
    | none => s
    | some x =>
      if mustYield s x.2.affinity why then yieldOn s core why
      else if (getCore s core).stopped then yieldStopped s core x.1
      else s))

/-- The cores of a class in service. -/
def liveCores (s : State) (cls : Nat) : List Nat := (coresOf cls).filter (fun k => !(getCore s k).out)

/-- R411: a core leaves service: its list moves to its class list, and its running task is to start again. -/
def coreOut (s : State) (k : Nat) : State :=
  let s1 := stopBusy s k
  let c := getCore s1 k
  let s2 := putCore s1 k { c with out := true, running := none, list := [] }
  let s3 := c.list.foldl (fun s id => match getTask s id with
    | some t => toClass s id t
    | none => s) s2
  let s4 := match c.running.bind (fun id => (getTask s3 id).map (fun t => (id, t))) with
    | some x => place s3 x.1 { x.2 with core := none, fault := some k }
    | none => s3
  askWoken s4

/-- R411, R493, R501: a core reports a fault. -/
def execCoreFault (core : Fin 152) (s : State) : Out :=
  let k : Nat := core
  let cls := coreClass k
  let e : ErrSpec :=
    { code := 256 * (9 + cls) + 1, cls := 3, inst := k, a := word cls, lasts := (getCore s k).running.isSome
      last := !(getCore s k).out && (liveCores s cls).length == 1, gone := (getCore s k).out }
  .next (
    if (getCore s k).out then (if escalates s e then raiseUnit s e else s)
    else
      let s1 := raiseUnit s e
      if e.last then s1 else settle (coreOut s1 k))

-- ## Diagnostics (R503, R510, R559)

/-- The unit that a test names, when it is out of service. -/
def testUnit (s : State) (test : Nat) (w : Word) : Option TestUnit :=
  if test = 1 then
    let e := Fin.ofNat 2 (bits w 0 0)
    if (getEngine s e).out then some (.engine e) else none
  else if test = 2 then
    let l := Fin.ofNat 1024 (bits w 9 0)
    if (getLane s l).failed then some (.lane l) else none
  else if test = 3 then
    if h : bits w 7 0 < 152 then (if (getCore s (bits w 7 0)).out then some (.core ⟨bits w 7 0, h⟩) else none) else none
  else none

/-- R510: how long a self-test runs, in ms. -/
def testMs (u : TestUnit) : Nat :=
  match u with
  | .engine _ => 10
  | .lane _ => 1
  | .core _ => 20

/-- The bits of word 2 that a listed test reads. -/
def testMask (test : Nat) : Nat := [0, 1, 0x3FF, 0xFF].getD test 7

/-- R510: DIAG_RUN. A TEST record is raised without any action. -/
def execDiagRun (c : Cmd) (s : State) : Out :=
  .next (runRing s 0xB10 c fun s =>
    let test := bits c.w1 7 0
    let cls := bits c.w2 2 0
    guarded s [(!([1, 2, 3, 16].contains test), 0x108), (reservedBad c 1 [0xFF, testMask test], 0x101)]
      (if test = 16 then
        (if cls < 1 || cls > 4 then .fail s 0x108
         else .reply (raiseErr s { code := 0x1210, cls := cls }) 0 0 0)
       else
        match testUnit s test c.w2 with
        | none => .fail s 0x108
        | some u =>
          if s.err.tests.any (fun t => t.1 == u) then .fail s 0x108
          else
            .waits { s with err := { s.err with tests := s.err.tests ++ [(u, now s + durMs (testMs u))] } }
              (.selfTest u (cmdFlag c 0))))

/-- R503: a unit that has passed returns to service, and UNIT_RETURNED is raised. -/
def unitReturns (s : State) (u : TestUnit) : State :=
  match u with
  | .engine e =>
    let s1 := setEngine s e { getEngine s e with out := false }
    raiseErr s1 { code := 0x1202, cls := 1, inst := e }
  | .lane l =>
    let s1 := setF (setLane s l { getLane s l with failed := false }) (oCipLaneFail (l / 32)) (l % 32) (l % 32) 0
    raiseErr s1 { code := 0x1202, cls := 1, inst := l, a := word (2 ^ 16) }
  | .core k =>
    let s1 := ask (putCore s k { getCore s k with out := false }) k
    raiseErr s1 { code := 0x1202, cls := 1, inst := k, a := word (2 * 2 ^ 16) }

/-- R559: a self-test ends, with the code that its command reports. -/
def execSelfTestDone (u : TestUnit) (result : BitVec 2) (s : State) : Out :=
  .next (
    if s.err.tests.any (fun t => t.1 == u && decide (t.2 ≤ now s)) then
      let s1 : State := { s with err := { s.err with tests := s.err.tests.filter (fun t => t.1 != u) } }
      let ret := s.hci.inflight.any (fun i => decide (i.wait = .selfTest u true))
      let s2 := if ret && result == 0 then unitReturns s1 u else s1
      completeWhere s2 (fun i => decide (i.wait = .selfTest u true) || decide (i.wait = .selfTest u false)) 0
        (word result.toNat) 0
    else s)

/-- R310, R333, R366, R395: the counters and gauges of an object, and which of them are gauges. -/
def statCounter (s : State) (ty n sel : Nat) : Option (Nat × Bool) :=
  if ty = 6 then (getDec s n).bind (fun x =>
    if sel ≤ 0x09 then some (Tbl.count x.counters sel, false)
    else if sel = 0x0A then some (x.gauge.2, true)
    else if sel = 0x0B then some (x.bytes, true)
    else if sel = 0x0C then some (x.waiting.length, true)
    else none)
  else if ty = 7 then (getCanvas s n).bind (fun x =>
    if sel ≤ 7 then some (Tbl.count x.counters sel, sel == 7) else none)
  else if ty = 8 then (getEnc s n).bind (fun x =>
    if sel ≤ 0x0E then some (Tbl.count x.counters sel, decide (sel ≥ 0x0D)) else none)
  else (getMix s n).bind (fun x =>
    if sel ≤ 0x0A then some (Tbl.count x.counters sel, false)
    else if sel = 0x0B then some ((x.seats.filter (fun t => t.speaker.isSome)).length, true)
    else if sel = 0x0C then some (mixDecodes s n x, true)
    else if sel = 0x0D then some (mixEncodes x, true)
    else none)

/-- The counters that STAT_READ's CLEAR sets to 0. -/
def statClear (s : State) (ty n sel : Nat) : State :=
  if ty = 6 then updDec s n (fun x => { x with counters := Tbl.del x.counters sel })
  else if ty = 7 then updCanvas s n (fun x => { x with counters := Tbl.del x.counters sel })
  else if ty = 8 then updEnc s n (fun x => { x with counters := Tbl.del x.counters sel })
  else updMix s n (fun x => { x with counters := Tbl.del x.counters sel })

/-- Whether an object that STAT_READ names exists. -/
def statLive (s : State) (ty n : Nat) : Bool :=
  if ty = 6 then decLive s n else if ty = 7 then canvasLive s n else if ty = 8 then encLive s n else mixLive s n

/-- R510: STAT_READ. -/
def execStatRead (c : Cmd) (s : State) : Out :=
  .next (runRing s 0xB00 c fun s =>
    let ty := hType c.w1
    let n := hIndex c.w1
    let v := statCounter s ty n (bits c.w2 7 0)
    guarded s [(reservedBad c 0 [full, 0x1FF], 0x101), hObj s [6, 7, 8, 10] c.w1 (statLive s ty), (v.isNone, 0x1B1)]
      (.reply (if bitAt c.w2 8 && !((v.map (·.2)).getD false) then statClear s ty n (bits c.w2 7 0) else s) 0
        (word ((v.map (·.1)).getD 0)) 0))

end Sys2Proof.Machine
end

