-- ==== Sys2Proof/Machine/Memory.lean ====
section
/-! DEFINITION. Module memory (chapter 15): errors, scrub and sparing (R437 to R444, R504 to R506), the partition
(R179, R445, R446), and the commands of the Preserve and memory (R456 to R459). -/

namespace Sys2Proof.Machine

-- ## Uncorrectable units (R440, R504 to R506)

/-- A pattern of bytes over the 64 bytes of a unit, in phase with a plane's base. -/
def fillUnit (u base : Nat) (pat : List Byte) : List Byte :=
  (List.range 64).map (fun k => pat.getD ((u - base + k) % pat.length) 0)

/-- R504: mid-grey in a decode pool's unit, as R301 gives it. -/
def greyUnit (pxf : Nat) : List Byte := if pxf = 1 then List.replicate 64 128 else (List.range 64).map (fun k => if k % 2 = 0 then 0 else 2)

/-- The areas (R302) whose samples a unit of a picture holds. -/
def unitAreas (pl : Planes) (width height u : Nat) : List Nat :=
  let bpp := pxfBytes pl.pxf
  let chroma := decide (pl.chroma ≤ u)
  let off := if chroma then u - pl.chroma else u - pl.luma
  let y := off / pl.stride * (if chroma then 2 else 1)
  let x := off % pl.stride / bpp
  if u < pl.luma || height ≤ y || width ≤ x then []
  else distinct [areaOf width x y, areaOf width (min (width - 1) (x + 64 / bpp - 1)) y]

/-- R504 for a decode pool: the unit's samples become mid-grey, and its areas are tainted. -/
def greyOut (s : State) (d u : Nat) : State :=
  match getDec s d with
  | none => s
  | some x =>
    let hit := x.pics.filter (fun p => decide (x.slotBase p.slotNo + 512 ≤ u) && decide (u < x.slotBase p.slotNo + x.slotSize))
    if hit.isEmpty then s
    else
      let areas := fun (p : Pic) => unitAreas (slotPlanes x.pxf (x.slotBase p.slotNo) x.maxW x.maxH) p.width p.height u
      let s1 : State := { s with memory := { s.memory with dram := writeBytes s.memory.dram u (greyUnit x.pxf) } }
      updDec s1 d (fun x => { x with pics := x.pics.map (fun p =>
        if hit.any (fun q => q.no == p.no) then { p with taint := distinct (p.taint ++ areas p) } else p) })

/-- R504 for a canvas: its buffer shows BACKGROUND for the unit's samples. -/
def backgroundUnit (s : State) (id u : Nat) : State :=
  match getCanvas s id with
  | none => s
  | some c =>
    let k := (u - c.base) / c.bufBytes
    let pl := c.planes k
    let bg := fillPx c.background
    let two := fun (f : Nat → List Byte) (a b : Nat) => f a ++ f b
    let pat : List Byte :=
      if c.pxf = 1 then (if pl.chroma ≤ u then two (fun v => leBytes 1 (out8 v)) bg.c1 bg.c2 else leBytes 1 (out8 bg.c0))
      else if c.pxf = 2 then (if pl.chroma ≤ u then two (fun v => leBytes 2 (out10 v)) bg.c1 bg.c2 else leBytes 2 (out10 bg.c0))
      else leBytes 6 (pxWord bg).toNat
    let base := if c.pxf ≤ 2 && decide (pl.chroma ≤ u) then pl.chroma else pl.luma
    if u < pl.luma then s
    else { s with memory := { s.memory with dram := writeBytes s.memory.dram u (fillUnit u base pat) } }

/-- R504: an object of the contexts, or of the keys, meters and shapers, is quarantined. A context lies at 512 times its
index (assumption 41); which context a unit of the second region belongs to is a free value. -/
def quarantine (s : State) (region u : Nat) : State × Word :=
  let mark := fun (s : State) (c : Nat) => (updCtx s c (fun x => { x with quarantined := true }), ownHandle s 1 c)
  if region = 0 then
    (let c := u / 512
     if (getCtx s c).isSome then mark s c else (s, 0))
  else
    let keyed := s.media.streams.filter (fun p => !(keysOf p.2).isEmpty)
    match keyed[(freeVal s 24).toNat % keyed.length]? with
    | some p => mark (nextFree s) p.1
    | none => (s, 0)

/-- One of some things, or none of them: which one a unit belongs to, where the manual gives no layout, is a free value
(assumption 41). -/
def pick {α : Type} (s : State) (xs : List α) : State × Option α :=
  (nextFree s, xs[(freeVal s 24).toNat % (xs.length + 1)]?)

/-- R504 for the packet buffers: the packet is dropped and counted as lost in its context. -/
def losePacket (s : State) : State :=
  match pick s (s.media.streams.filter (fun p => p.2.jb.any (fun b => !b.seqs.isEmpty))) with
  | (s1, none) => s1
  | (s1, some p) => ctxCount (updCtx s1 p.1 (fun x => { x with jb := loseFirst x.jb })) p.1 0x02 1
where
  /-- the first packet held is no longer there -/
  loseFirst (js : List JbPic) : List JbPic :=
    match js with
    | [] => []
    | j :: rest => if j.seqs.isEmpty then j :: loseFirst rest
      else { j with seqs := j.seqs.drop 1, marker := if j.marker == j.seqs.head? then none else j.marker } :: rest

/-- R372, R504: the frames that a group owes for its earliest period are dropped. -/
def dropPeriod (s : State) (g : Nat) : State :=
  match (getMix s g).bind (fun m => m.owed.head?) with
  | none => s
  | some o =>
    let n := (((getMix s g).map (fun m => m.owed.filter (fun q => q.m == o.m))).getD []).length
    dropFrames (updMix s g (fun m => { m with owed := m.owed.filter (fun q => q.m != o.m) })) g o.m n

/-- R408, R504: what the owner of a task does when it is cancelled: a decode waits; a canvas picture, and an encode picture
with all its segments, is skipped; a group drops the period's frames. -/
def taskLost (s : State) (t : Task) : State :=
  let k := t.affinity % 2 ^ 60
  if t.cls = clsDec then
    { s with sched := { s.sched with waiting := s.sched.waiting ++ [⟨t.cls, t.band, { t with state := .delayed, started := false }⟩] } }
  else if t.cls = clsCmp then
    match (getCanvas s k).bind (fun c => c.cur.map (fun p => p.no)) with
    | some n => skipCanvas (updCanvas s k (fun c => { c with cur := none })) k n
    | none => s
  else if t.cls = clsEnc then
    cancelTasks (skipEnc (updEnc s (k / 256) (fun e => { e with cur := none })) (k / 256))
      (fun u => u.cls == clsEnc && u.affinity % 2 ^ 60 / 256 == k / 256)
  else
    match s.units.mixes.find? (fun p => (t.affinity / 2 ^ 60 == 10 && p.1 == k) || p.2.owed.any (fun o => o.ctx == k)) with
    | some p => dropPeriod s p.1
    | none => s

/-- R397, R504 for the task and DMA tables: the task whose slot holds the unit is cancelled, and its owner acts as on a
refusal; behind the slots, a programmed set fails its next trigger. A task that runs is not stopped (R410). -/
def loseTable (s : State) (u : Nat) : State :=
  if u - (regionAt s 7).1 < 128 * slotsTotal then
    match pick s (s.sched.tasks.filter (fun p => decide (p.2.state ≠ .running))) with
    | (s1, none) => s1
    | (s1, some p) => taskLost (removeTask (bumpF s1 oTskCount 15 0 1) p.1) p.2
  else
    match pick s (((List.range 248).map (· + 8)).filter (fun k => getF s (oDmaChCfg k) 19 18 == 2)) with
    | (s1, none) => s1
    | (s1, some k) => { s1 with dma := { s1.dma with
        chans := Tbl.put s1.dma.chans k { (Tbl.get? s1.dma.chans k).getD {} with setLost := true } } }

/-- R504 for the audio region: a group's frame is dropped. -/
def loseAudio (s : State) : State :=
  match pick s (s.units.mixes.filter (fun p => !p.2.owed.isEmpty)) with
  | (s1, none) => s1
  | (s1, some p) => dropPeriod s1 p.1

/-- The objects of a region that hold a unit, with their handles. -/
def unitOwner (s : State) (u : Nat) : Option (Nat × Nat) :=
  let holds := fun (base bytes : Nat) => decide (base ≤ u) && decide (u < base + bytes)
  ((s.units.decs.find? (fun p => holds p.2.base p.2.bytes)).map (fun p => (6, p.1))).orElse (fun _ =>
    ((s.units.canvases.find? (fun p => holds p.2.base (p.2.memBufs * p.2.bufBytes))).map (fun p => (7, p.1))).orElse (fun _ =>
      (s.units.encs.find? (fun p => holds p.2.base p.2.bytes)).map (fun p => (8, p.1))))

/-- R504, R506: what an uncorrectable unit brings about. A unit of the Preserve waits for its reader (R505). -/
def uncorrectable (s : State) (u : Nat) : State :=
  let region := regionOfAddr s u
  let st := stackOf s u
  let s1 := bumpF { s with memory := { s.memory with
    poison := if s.memory.poison.contains u then s.memory.poison else s.memory.poison ++ [u]
    uncorrectable := Tbl.put s.memory.uncorrectable st (satAdd 28 (Tbl.count s.memory.uncorrectable st) 1) } } oMemCount 47 32 1
  if region = 9 then s1
  else
    let q : State × Word :=
      if region ≤ 1 then quarantine s1 region u
      else if region = 2 then (losePacket s1, 0)
      else if region = 5 then (loseAudio s1, 0)
      else if region = 7 then (settle (loseTable s1 u), 0)
      else
        match unitOwner s1 u with
        | some (6, d) => (greyOut s1 d u, ownHandle s1 6 d)
        | some (7, c) => (backgroundUnit s1 c u, ownHandle s1 7 c)
        | some (_, e) => (updEnc s1 e (fun x => { x with keyPending := true }), ownHandle s1 8 e)
        | none => (s1, 0)
    let e : ErrSpec := {
      code := 0x0F01, cls := if region = 6 then 4 else 2, inst := st, obj := q.2, a := word u, b := word region
      conceded := concededAt s u 64 }
    raiseUnit q.1 e

-- ## Corrected errors, dies and sparing (R439, R441 to R443)

/-- How long the copy of a stack takes: 128 GiB at 32 GB/s (R443). -/
def copyDur : Nat := ceilDiv (2 ^ 37 * second) 32000000000

/-- R443: begin copying a physical stack to the spare. -/
def startSparing (s : State) (stack : Nat) : State :=
  { s with memory := { s.memory with spare := .copying, spared := stack, copyPct := 0, copyStart := now s } }

/-- A physical stack is in service: none of 0 to 15 that the spare has replaced. -/
def stackServes (s : State) (stack : Nat) : Bool :=
  decide (stack < 16) && !(s.memory.spare = .inUse && s.memory.spared == stack)

/-- R441: a die of a stack is marked failed. -/
def dieFailed (s : State) (stack die : Nat) : State :=
  let s1 := setF s (oMemCorr stack) die die 1
  let s2 := raiseErr (bumpF s1 oMemCount 31 16 1) { code := 0x0F02, cls := 1, inst := stack, a := word die }
  if getB s2 oMemCtrl 9 && s2.memory.spare = .idle && stackServes s2 stack then startSparing s2 stack else s2

/-- R439, R441: a corrected error in a unit, within one die. -/
def corrected (s : State) (u die : Nat) : State :=
  let st := stackOf s u
  let s1 := bumpF s (oMemCorr st) 47 16 1
  let recent := (s1.memory.dieErrors.filter (fun e => decide (e.1 + second > now s))).filter
    (fun e => e.2 != (st, die, u)) ++ [(now s, st, die, u)]
  let s2 : State := { s1 with memory := { s1.memory with dieErrors := recent } }
  let units := (recent.filter (fun e => e.2.1 == st && e.2.2.1 == die)).length
  if units > getF s oMemCtrl 23 16 && !(getB s (oMemCorr st) die) then dieFailed s2 st die else s2

/-- R442: the patrol reads the next unit; a pass ends at the last unit of memory. -/
def execScrubRead (found : EccFind) (s : State) : Out :=
  .next (
    if getF s oMemCtrl 31 24 = 0 || !(running s) then s
    else
      let u := s.memory.patrol
      let s1 := match found with
        | .clean => s
        | .corrected die => corrected s u die
        | .uncorrectable => uncorrectable s u
      let last := decide (u + 64 ≥ 2 ^ 41)
      let s2 : State := { s1 with memory := { s1.memory with patrol := if last then 0 else u + 64 } }
      if last then bumpF s2 oMemCount 15 0 1 else s2)

/-- MEM_CTRL.SPARE_GO (R443). -/
def spareGoWrite (s : State) (stack : Nat) : State × IStatus :=
  if s.memory.spare = .idle && stackServes s stack then (startSparing s stack, .ok) else (s, .refused)

def execSpareGo (stack : Fin 32) (s : State) : Out :=
  .next (setupItem s (spareGoWrite s stack))

/-- R443: the copy is complete: the spare takes over, and MRAM records it. -/
def execSparingDone (s : State) : Out :=
  .next (
    if s.memory.spare = .copying && decide (s.memory.copyStart + copyDur ≤ now s) then
      let s1 : State := { s with
        memory := { s.memory with
          spare := .inUse
          copyPct := 100 }
        mram := if mramWritable s then { s.mram with spared := some s.memory.spared } else s.mram }
      raiseErr s1 { code := 0x0F03, cls := 1, inst := s.memory.spared }
    else s)

-- ## The partition (R179, R445, R446)

/-- The value of a partition register that a commit would put into effect. -/
def partVal (s : State) (o : Nat) : Word := (Tbl.get? s.shadow o).getD (regRaw s o)

/-- A meter or shaper entry that is enabled or that something names (R445). -/
def meterHeld (s : State) (k : Nat) : Bool :=
  ((Tbl.get? s.media.meters k).map (fun m => m.en)).getD false || s.media.streams.any (fun p => p.2.meter == some k)
def shaperHeld (s : State) (k : Nat) : Bool :=
  (getShaper s k).en || s.media.legs.any (fun p => p.2.shaper == some k)

/-- Numbers of the meters and shapers that count as allocations. -/
def metersHeld (s : State) : List Nat :=
  (distinct (s.media.meters.map (·.1) ++ s.media.streams.filterMap (fun p => p.2.meter))).filter (meterHeld s)
def shapersHeld (s : State) : List Nat :=
  (distinct (s.media.shapers.map (·.1) ++ s.media.legs.filterMap (fun p => p.2.shaper))).filter (shaperHeld s)

/-- R445: whether region `r` holds an allocation. -/
def holdsAny (s : State) (r : Nat) : Bool :=
  s.hci.windows.any (fun w => regionOfAddr s w.2.addr == r) ||
  (if r = 0 then !(s.media.streams.isEmpty && s.media.confs.isEmpty && s.media.legs.isEmpty)
   else if r = 1 then decide (keysHeld s > 0) || !(metersHeld s).isEmpty || !(shapersHeld s).isEmpty
   else if r = 3 then !s.units.decs.isEmpty
   else if r = 4 then !(s.units.canvases.isEmpty && s.units.encs.isEmpty)
   else if r = 5 then !s.units.mixes.isEmpty
   else if r = 7 then s.sched.tasks.any (fun t => t.2.cls != clsCtl)
   else false)

/-- R445: an allocation of region `r` would lie outside it after the commit. -/
def wouldSpill (s : State) (r : Nat) (new : Nat × Nat) : Bool :=
  if r = 0 then s.media.streams.any (fun p => decide ((p.1 + 1) * 512 > new.2))
  else if r = 1 then decide (48 * 2 ^ 20 + 128 * keysHeld s > new.2)
  else if r = 5 then !s.units.mixes.isEmpty && new.2 == 0
  else if r = 3 || r = 4 then
    (allocations s).any (fun a => decide (0 < a.2) && inside (regionAt s r) a.1 a.2 && !(inside new a.1 a.2))
  else false

/-- R445: least sizes of regions 0 to 7. -/
def partMin : List Nat := [partUnit, partUnit, 16 * partUnit, 0, 0, 0, 0, partUnit]

/-- R445: a rule of this chapter is broken. -/
def partBroken (s : State) (new : List (Nat × Nat)) : Bool :=
  (List.range 8).any (fun r => decide ((new.getD r (0, 0)).2 < partMin.getD r 0))
  || (List.range 8).any (fun r => holdsAny s r && (new.getD r (0, 0)).1 != (regionAt s r).1)
  || (List.range 8).any (fun r => wouldSpill s r (new.getD r (0, 0)))
  || s.hci.windows.any (fun w => new.getD (regionOfAddr s w.2.addr) (0, 0) != regionAt s (regionOfAddr s w.2.addr))

/-- R179: the outcome of a commit. -/
def partCheck (s : State) : Nat :=
  let a := partVal s oGlbPartA
  let b := partVal s oGlbPartB
  let c := partVal s oGlbPartC
  if s.oxvan.partApplying then 6
  else if s.power.st ≠ .quiet || s.power.target.isSome then 2
  else if bits c 5 0 > 42 then 4
  else if (partSizes a b c).sum > preserveBase c then 3
  else if partBroken s (partRegions a b c) then 5
  else 7

/-- GLB_PART_COMMIT.GO (R179): RESULT takes the outcome. After a commit refused with 0x6 the earlier one goes on being
applied, and what R446 says of the time in which RESULT reads 0x7 holds until it is in effect (DEDUCED, assumption
42). -/
def partCommitWrite (s : State) : State × IStatus :=
  let r := partCheck s
  ({ s with oxvan := { s.oxvan with partResult := r, partApplying := s.oxvan.partApplying || r == 7 } },
    if r = 7 then .ok else .refused)

def execPartCommit (s : State) : Out :=
  .next (setupItem s (partCommitWrite s))

/-- R446: memory that a region newly holds reads as zero. -/
def zeroNew (old new : List (Nat × Nat)) (a : Nat) : Bool :=
  ((List.range 8) ++ [9]).any (fun r => inside (new.getD r (0, 0)) a 1 && !(inside (old.getD r (0, 0)) a 1))

/-- R446: an accepted partition takes effect. -/
def execPartApplied (s : State) : Out :=
  .next (
    if s.oxvan.partApplying then
      let old := partition s
      let regs := [oGlbPartA, oGlbPartB, oGlbPartC]
      let s1 := regs.foldl (fun s o => setRaw s o (partVal s o)) s
      let new := partition s1
      let s2 : State := { s1 with
        shadow := s1.shadow.filter (fun p => !(regs.contains p.1))
        oxvan := { s1.oxvan with partResult := 1, partApplying := false }
        memory := { s1.memory with
          dram := s1.memory.dram.filter (fun c => !(zeroNew old new c.1))
          poison := s1.memory.poison.filter (fun u => !(zeroNew old new u)) } }
      if (new.getD 9 (0, 0)).2 = (old.getD 9 (0, 0)).2 then s2
      else
        { s2 with
          memory := { s2.memory with recs := [] }
          media := { s2.media with streams := s2.media.streams.map (fun p =>
            (p.1, { p.2 with refreshes := [], switchPts := [] })) } }
    else s)

-- ## Commands (R456 to R459)

/-- R419: the regions that a module-memory endpoint may lie in; the Preserve as a source only. -/
def endpointRegions (src : Bool) : List Nat := if src then [2, 3, 4, 5, 9] else [2, 3, 4, 5]

/-- The BT48 value of an instant, for comparing receive times as the record headers hold them. -/
def t48 (t : Nat) : Nat := t / 2 ^ 52

/-- R457: the records that an export takes before LIMIT, their bytes, those skipped as poisoned, and whether more is
selected. -/
structure Export where
  bytes : List Byte := []
  taken : Nat := 0
  skipped : Nat := 0
  more : Bool := false

/-- R457: copy records in Preserve order up to LIMIT. -/
def exportRecs (s : State) (limit : Nat) (rs : List PRec) (x : Export) : State × Export :=
  match rs with
  | [] => (s, x)
  | r :: rest =>
    match readRec s r.pos with
    | (s1, none) => exportRecs s1 limit rest { x with skipped := x.skipped + 1 }
    | (s1, some r) =>
      let n := 48 * recRows r.len
      if x.bytes.length + n > limit then (s1, { x with more := true })
      else exportRecs s1 limit rest { x with bytes := x.bytes ++ dramRead s1 (rowAddr s1 r.pos) n, taken := x.taken + 1 }

/-- R457: where an export starts (an instant, or a position when `byPos`), or none for 0x1C0. -/
def exportFrom (s : State) (x : Stream) (byPos refresh : Bool) (w : Word) (to_ : Nat) : Option Nat :=
  if byPos then
    (if (heldRec s (nearPos s w)).isSome then some (nearPos s w) else none)
  else
    let t := deadlineAt (nearest (now s) w)
    let start : Option Nat :=
      if refresh then ((heldRefreshes s x).find? (fun r => decide (t48 r.time ≤ t48 t))).map (fun r => r.time) else some t
    match start with
    | none => none
    | some f =>
      let oldest := s.memory.recs.head?.map (fun r => t48 r.time)
      if t48 f > t48 to_ || (oldest.map (fun o => decide (t48 f < o))).getD false then none else some f

/-- R457: PRESERVE_EXPORT. The operand `host` is what became of its writes to a host region. -/
def execPreserveExport (c : Cmd) (host : HostData) (s : State) : Out :=
  .next (runRing s 0x900 c fun s =>
    let n := hIndex c.w1
    let x := (getCtx s n).getD { kind := 0 }
    let byPos := cmdFlag c 1
    let to_ := min (deadlineAt (nearest (now s) c.w3)) (now s)
    let from_ := exportFrom s x byPos (cmdFlag c 0) c.w2 to_
    let sel := (ownRecs s n).filter (fun r => from_.isSome && decide (t48 r.time ≤ t48 to_)
      && (if byPos then decide (from_.getD 0 < r.pos) else decide (t48 (from_.getD 0) ≤ t48 r.time)))
    let r := exportRecs s (bits c.w6 31 0) sel {}
    let k := r.2.bytes.length
    guarded s [(reservedBad c 3 [full, full, full, full, full, 0xFFFFFFFF], 0x101),
        hObj s [1] c.w1 (ctxNamed s), (!(x.kind == 1 || x.kind == 5), 0x108),
        (if c.w4 = 0 then (false, 0) else regionCheck s c.slot c.w4),
        (bits c.w6 31 0 == 0 || (byPos && cmdFlag c 0), 0x108),
        (c.w4 != 0 && regionBounds s c.slot c.w4 c.w5.toNat k true, 0x115), (c.w5.toNat % 64 != 0, 0x118),
        (c.w4 == 0 && !(insideAny s (endpointRegions false) c.w5.toNat k), 0x1A2), (from_.isNone, 0x1C0),
        (x.quarantined, 0x401)]
      (let w3 := word (b2n r.2.more * 2 ^ 47 + r.2.taken % 2 ^ 23 * 2 ^ 24 + r.2.skipped % 2 ^ 24)
       let s1 := prsCount r.1 pExportBytes k
       if c.w4 = 0 then .reply (dramWrite s1 c.w5.toNat r.2.bytes) 0 (word k) w3
       else
         match host with
         | .bytes _ => .reply (regionWrite s1 c.slot (hIndex c.w4 % 1024) c.w5.toNat r.2.bytes) 0 (word k) w3
         | d => hostFailure s c d))

/-- R458: PRESERVE_QUERY. -/
def execPreserveQuery (c : Cmd) (s : State) : Out :=
  .next (runRing s 0x901 c fun s =>
    let sel := bits c.w2 7 0
    let n := hIndex c.w1
    let x := (getCtx s n).getD { kind := 0 }
    let recs := ownRecs s n
    let pts := heldRefreshes s x
    let time := fun (r : Option PRec) => ((r.map (fun r => bt48 r.time)).getD 0)
    guarded s [(decide (sel > 3), 0x108), (reservedBad c 0 [if sel = 3 then 0 else full, 0x1FFF], 0x101),
        (if sel = 3 then (false, 0) else hObj s [1] c.w1 (ctxNamed s)),
        (sel == 1 && pts[bits c.w2 12 8]?.isNone, 0x1C0), (decide (sel < 3) && x.quarantined, 0x401)]
      (if sel = 0 then .reply s 0 (time recs.head?) (time recs.getLast?)
       else if sel = 1 then
         (let p := pts[bits c.w2 12 8]?
          .reply s 0 ((p.map (fun r => bt48 r.time)).getD 0) (word ((p.map (fun r => r.pos)).getD 0)))
       else if sel = 2 then .reply s 0 (word pts.length) 0
       else .reply s 0 (time s.memory.recs.head?) (word s.memory.writePos)))

/-- R459: the state of a physical stack. -/
def stackState (s : State) (n : Nat) : Nat :=
  match s.memory.spare with
  | .copying => if n = 16 then 4 else if n = s.memory.spared then 1 else 0
  | .inUse => if n = 16 then 3 else if n = s.memory.spared then 2 else 0
  | _ => if n = 16 then 4 else 0

/-- R459: bytes in use in a region, as far as the manual gives sizes. -/
def regionUse (s : State) (r : Nat) : Nat :=
  let windows := ((s.hci.windows.filter (fun w => regionOfAddr s w.2.addr == r)).map (fun w => w.2.len)).sum
  if r = 0 then windows + 512 * s.media.streams.length
  else if r = 1 then windows + 32 * (metersHeld s).length + 64 * (shapersHeld s).length + 128 * keysHeld s
  else if r = 3 then windows + (s.units.decs.map (fun p => p.2.bytes)).sum
  else if r = 4 then
    windows + (s.units.canvases.map (fun p => p.2.memBufs * p.2.bufBytes + (p.2.holds.map (fun h => h.bytes)).sum)).sum
      + (s.units.encs.map (fun p => p.2.bytes)).sum
  else if r = 9 then (s.memory.recs.map (fun q => 48 * recRows q.len)).sum
  else if r = 8 || r = 10 then 0
  else windows

/-- Regions whose use includes bytes that the manual does not state: the module's own contents and tables, and a mix
group's audio memory. Their use is a free value (assumption 43). -/
def useOpen (s : State) (r : Nat) : Bool := r == 6 || r == 7 || (r == 5 && !s.units.mixes.isEmpty)

/-- R459: MEM_QUERY. -/
def execMemQuery (c : Cmd) (s : State) : Out :=
  .next (runRing s 0x902 c fun s =>
    let sel := bits c.w1 7 0
    guarded s [(!(decide (sel ≤ 0x10) || (decide (0x20 ≤ sel) && decide (sel ≤ 0x2A))), 0x108), (reservedBad c 0 [0xFF], 0x101)]
      (if sel ≤ 0x10 then
        .reply s 0 (word (getF s (oMemCorr sel) 47 16))
          (word (getF s (oMemCorr sel) 15 0 * 2 ^ 32 + stackState s sel * 2 ^ 28 + Tbl.count s.memory.uncorrectable sel))
       else
        let r := sel - 0x20
        if useOpen s r then .reply (nextFree s) 0 (freeVal s 48) (word (regionAt s r).2)
        else .reply s 0 (word (regionUse s r)) (word (regionAt s r).2)))

end Sys2Proof.Machine
end

