-- ==== Sys2Proof/Machine/Dma.lean ====
section
/-! DEFINITION. The DMA engine (R414 to R436): shapes and their checks, submitted transfers, moving and completing,
programmed channels with their triggers and windows, and frames to and from peers (R486). -/

namespace Sys2Proof.Machine

-- ## Shapes (R416, R417)

/-- R416: the element size in bytes of a SWAP, or of a reshuffle. -/
def Shape.elemBytes (x : Shape) : Nat := (if x.op = 1 then [6, 6, 3, 2, 4] else [1, 2, 3, 4, 6]).getD x.elem 1

/-- INTERLEAVE or DEINTERLEAVE. -/
def Shape.reshuffle (x : Shape) : Bool := x.op == 2 || x.op == 3

/-- Whether the source side (or the destination side) is the planar one. -/
def Shape.planar (x : Shape) (src : Bool) : Bool := if src then x.op == 2 else x.op == 3

/-- The end of a transfer that `src` selects. -/
def Shape.side (x : Shape) (src : Bool) : Endpoint := if src then x.src else x.dst

/-- R417: the line length of a side. -/
def Shape.lineLen (x : Shape) (src : Bool) : Nat := if x.planar src then x.length / x.planes else x.length

/-- The pieces of line `i` at a side: address and length. -/
def Shape.segs (x : Shape) (src : Bool) (i : Nat) : List (Nat × Nat) :=
  let e := x.side src
  let a := e.addr + i * e.stride
  if x.planar src then (List.range x.planes).map (fun k => (a + k * x.planeStride, x.length / x.planes))
  else [(a, x.length)]

/-- The address of a side and the length to the end of its footprint. -/
def Shape.extent (x : Shape) (src : Bool) : Nat × Nat :=
  let e := x.side src
  (e.addr, (x.lines - 1) * e.stride + (if x.planar src then (x.planes - 1) * x.planeStride else 0) + x.lineLen src)

/-- R416: one element of a SWAP. -/
def swapElem (elem : Nat) (bs : List Byte) : List Byte := if elem = 1 then bs.drop 3 ++ bs.take 3 else bs.reverse

/-- R416: the effect on one line: its bytes in the order of the source side, to the order of the destination side (a
planar side in the order of its planes). -/
def Shape.line (x : Shape) (bs : List Byte) : List Byte :=
  let e := x.elemBytes
  let at_ := fun (j : Nat) => (bs.drop (j * e)).take e
  let total := x.length / e
  let n := total / x.planes
  if x.op = 0 then bs
  else if x.op = 1 then (List.range total).flatMap (fun j => swapElem x.elem (at_ j))
  else if x.op = 2 then (List.range total).flatMap (fun q => at_ (q % x.planes * n + q / x.planes))
  else (List.range total).flatMap (fun q => at_ (q % n * x.planes + q / n))

/-- R416: a reserved operation or element, or a wrong number of planes. -/
def Shape.opBad (x : Shape) : Bool :=
  decide (x.op > 3) || (x.op == 0 && x.elem != 0) || decide (x.elem > 4)
    || (if x.reshuffle then decide (x.planes < 2) || decide (x.planes > 16) else x.planes != 0)

/-- R417: the rules that give 0x108. -/
def Shape.sizeBad (x : Shape) : Bool :=
  x.length == 0 || x.lines == 0
    || (decide (x.lines > 1) && (decide (x.src.stride < x.lineLen true) || decide (x.dst.stride < x.lineLen false)))
    || (if x.reshuffle then decide (x.planeStride < x.length / x.planes) else x.planeStride != 0)

/-- R417: the rules that give 0x118. -/
def Shape.alignBad (x : Shape) : Bool :=
  (x.op == 1 && x.length % x.elemBytes != 0) || (x.reshuffle && x.length % (x.planes * x.elemBytes) != 0)

/-- R420: whether the two sides are compared: both in module memory, in one host region, or on one peer. -/
def Shape.sameSpace (x : Shape) : Bool :=
  x.src.kind == x.dst.kind && (x.src.kind == 0 || (x.src.kind == 1 && x.src.sel == x.dst.sel)
    || (x.src.kind == 2 && x.src.sel % 16 == x.dst.sel % 16))

/-- R420: the footprints share a byte. -/
def Shape.footprintsMeet (x : Shape) : Bool :=
  x.sameSpace && (List.range x.lines).any (fun i => (List.range x.lines).any (fun j =>
    (x.segs true i).any (fun a => (x.segs false j).any (overlaps a))))

/-- R420: an overlap that is refused with 0x1A1. -/
def Shape.overlapBad (x : Shape) : Bool :=
  x.footprintsMeet &&
    (if x.op = 0 then !(x.lines == 1 || x.src.stride == x.dst.stride)
     else if x.op = 1 then !(x.src.addr == x.dst.addr && x.src.stride == x.dst.stride)
     else true)

/-- R420: the engine copies an overlapping COPY from its last line when the destination lies above the source. -/
def Shape.nth (x : Shape) (k : Nat) : Nat :=
  if x.op = 0 && x.sameSpace && decide (x.dst.addr > x.src.addr) && x.footprintsMeet then x.lines - 1 - k else k

/-- The shape that DMA_SUBMIT words 1 to 6, or the registers of a channel, describe (R424). -/
def shapeOf (w1 w2 w3 w4 w5 w6 : Word) : Shape :=
  { op := bits w1 47 44, elem := bits w1 43 41, planes := bits w1 40 36
    src := { kind := bits w1 35 34, sel := bits w1 31 22, addr := w2.toNat, stride := bits w5 47 24 }
    dst := { kind := bits w1 33 32, sel := bits w1 21 12, addr := w3.toNat, stride := bits w5 23 0 }
    length := bits w4 47 16, lines := bits w4 15 0, planeStride := w6.toNat }

-- ## Endpoints (R418, R419)

/-- The host region of a side, when there is one. -/
def sideRegion (s : State) (slot : Nat) (e : Endpoint) : Option Region := Tbl.get? (getSlot s slot).regions e.sel

/-- 0x114: a host region that does not exist. -/
def noRegion (s : State) (slot : Nat) (e : Endpoint) : Bool := e.kind == 1 && (sideRegion s slot e).isNone

/-- 0x116: a host region that is being removed. -/
def regionLeaving (s : State) (slot : Nat) (e : Endpoint) : Bool :=
  e.kind == 1 && ((sideRegion s slot e).map (fun r => r.removing)).getD false

/-- 0x115: a host side outside its region or against its permission. -/
def hostSideBad (s : State) (slot : Nat) (x : Shape) (src : Bool) : Bool :=
  let e := x.side src
  e.kind == 1 && ((sideRegion s slot e).map (fun r =>
    decide ((x.extent src).1 + (x.extent src).2 > r.len) || !(if src then r.moduleRead else r.moduleWrite))).getD true

/-- 0x1A2: a module side outside the regions of R419, or a destination of kind 0b11. -/
def moduleSideBad (s : State) (x : Shape) (src : Bool) : Bool :=
  let e := x.side src
  (!src && e.kind == 3) || (e.kind == 0 && !(insideAny s (endpointRegions src) (x.extent src).1 (x.extent src).2))

/-- 0x108: a side whose SEL or kind is no value of R418, or a peer that is this module. -/
def sideSelBad (s : State) (x : Shape) (src : Bool) : Bool :=
  let e := x.side src
  (src && e.kind == 3) || (e.kind == 0 && e.sel != 0) || (e.kind == 2 && decide (e.sel > 15))
    || (e.kind == 2 && inBramble s && e.sel % 16 == ownMember s)

/-- 0x1D0: a peer endpoint outside a bramble. -/
def peerOutside (s : State) (x : Shape) : Bool := !(inBramble s) && (x.src.kind == 2 || x.dst.kind == 2)

-- ## Channels

def getChan (s : State) (ch : Nat) : Chan := (Tbl.get? s.dma.chans ch).getD {}
def setChan (s : State) (ch : Nat) (c : Chan) : State :=
  { s with dma := { s.dma with chans := Tbl.put s.dma.chans ch c } }
def updChan (s : State) (ch : Nat) (f : Chan → Chan) : State := setChan s ch (f (getChan s ch))
def getXfer (s : State) (id : Nat) : Option Xfer := Tbl.get? s.dma.xfers id
def setXfer (s : State) (id : Nat) (x : Xfer) : State :=
  { s with dma := { s.dma with xfers := Tbl.put s.dma.xfers id x } }

/-- R414: the class of a channel, and whether it is enabled. -/
def chClass (s : State) (ch : Nat) : Nat := if ch < 8 then 3 else getF s (oDmaChCfg ch) 19 18
def chEn (s : State) (ch : Nat) : Bool := getB s (oDmaChCfg ch) 17
def chSlot (s : State) (ch slot : Nat) : Bool := getB s (oDmaChCfg ch) (8 + slot)

/-- R431: the single slot of a PROGRAMMED channel. -/
def progSlot (s : State) (ch : Nat) : Option Nat :=
  match (List.range 8).filter (chSlot s ch) with
  | [n] => some n
  | _ => none

/-- The transfers of a channel in order. -/
def chXfers (s : State) (ch : Nat) : List (Nat × Xfer) :=
  (getChan s ch).xfers.filterMap (fun id => (getXfer s id).map (fun x => (id, x)))
def Xfer.queued (x : Xfer) : Bool := x.state = .queued
def chQueued (s : State) (ch : Nat) : Nat := ((chXfers s ch).filter (fun p => p.2.queued)).length
def chFlying (s : State) (ch : Nat) : Nat := ((chXfers s ch).filter (fun p => !p.2.queued)).length

/-- Count triggers or requests: LATE [47:32], OVERRUN [31:16], REFUSED [15:0] of DMA_EVENTS. -/
def dmaOverrun (s : State) : State := bumpF s oDmaEvents 31 16 1
def dmaRefused (s : State) : State := bumpF s oDmaEvents 15 0 1

/-- R423, R57: an arming instant is armed; it fires late when the cycle before this one had reached it. -/
def armDma (s : State) (t : Nat) : State := bumpF (armEvent s t) oDmaEvents 47 32 (b2n (decide (t ≤ lastCycle s)))

/-- R423: the transfer at the head of a channel has its arming time armed. -/
def reachHead (s : State) (ch : Nat) : State :=
  match (chXfers s ch).find? (fun p => p.2.queued) with
  | none => s
  | some p =>
    match p.2.armAt with
    | none => s
    | some t => if p.2.armed then s else armDma (setXfer s p.1 { p.2 with armed := true }) t

-- ## Pages and data (R89, R93, R94)

/-- A line of a transfer touches a held page of module memory. -/
def lineHeld (s : State) (x : Shape) (i : Nat) : Bool :=
  (x.src.kind == 0 && (x.segs true i).any (fun a => !(heldBy s a.1 a.2).isEmpty))
    || (x.dst.kind == 0 && (x.segs false i).any (fun a => !(heldBy s a.1 a.2).isEmpty))

/-- The numbers of the lines that a transfer may move now, in the order in which it moves them. -/
def Xfer.ready (x : Xfer) : List Nat := (List.range (x.granted - x.linesDone)).map (fun k => x.shape.nth (x.linesDone + k))

/-- R93, R94: the emission deadline of what a transfer reads. -/
def emissionOf (s : State) (x : Xfer) : Option Nat := if x.shape.dst.kind = 0 then x.armAt else some (x.armAt.getD (now s))

/-- R89: a transfer that reaches held pages waits, and pulls the entries behind what it reads forward. -/
def reachPages (s : State) (id : Nat) (x : Xfer) : State :=
  let held := x.ready.any (lineHeld s x.shape)
  let s1 := setXfer s id { x with state := if held then .waitingPage else .moving }
  match emissionOf s x with
  | none => s1
  | some d =>
    if x.shape.src.kind = 0 then
      x.ready.foldl (fun s i => (x.shape.segs true i).foldl (fun s a => pullHeld s a.1 a.2 d) s) s1
    else s1

/-- The pieces of a range of at most 8,192 bytes (R486). -/
def frames8k (a n : Nat) : List (Nat × Nat) :=
  (List.range (ceilDiv n 8192)).map (fun k => (a + 8192 * k, min 8192 (n - 8192 * k)))

/-- R486: the B word of a frame of a transfer. -/
def xferB (id n : Nat) : Word := word (id % 2 ^ 24 * 2 ^ 24 + n)

/-- Ask for the source bytes of lines: RDMA READ of a host region, DMA_READ of a peer. -/
def askLines (s : State) (id : Nat) (x : Xfer) (lines : List Nat) : State :=
  let e := x.shape.src
  lines.foldl (fun s i => (x.shape.segs true i).foldl (fun s a =>
    if e.kind = 1 then
      (match sideRegion s x.slot e with
       | some r => sendRoce s x.slot (.readReq (r.addr + word a.1) a.2 r.rkey)
       | none => s)
    else if e.kind = 2 then
      (frames8k a.1 a.2).foldl (fun s f => (grnSendAcked s 8 (e.sel % 16) (word f.1) (xferB id f.2) [] none (some id)).1) s
    else s) s) s

/-- R429: `n` more lines are granted to a transfer, which begins or goes on. -/
def grantLines (s : State) (id n : Nat) : State :=
  match getXfer s id with
  | none => s
  | some x =>
    let y := { x with granted := min x.shape.lines (x.granted + n) }
    let new := (List.range (y.granted - x.granted)).map (fun k => x.shape.nth (x.granted + k))
    askLines (reachPages s id y) id y new

/-- The bytes of a line as the source side holds them. -/
def lineIn (s : State) (x : Xfer) (i : Nat) : List Byte :=
  if x.shape.src.kind = 1 then x.hostBytes.take x.shape.length
  else
    (x.shape.segs true i).flatMap (fun a =>
      if x.shape.src.kind = 2 then readBytes x.got a.1 a.2 else dramRead s a.1 a.2)

/-- Write bytes `off` to `off` + `n` of line `i` at the destination; `bs` is the whole line. -/
def lineOut (s : State) (id : Nat) (x : Xfer) (i off n : Nat) (bs : List Byte) : State :=
  let len := x.shape.lineLen false
  ((x.shape.segs false i).zipIdx).foldl (fun s p =>
    let lo := max off (p.2 * len)
    let a := p.1.1 + (lo - p.2 * len)
    let piece := (bs.take (min (off + n) ((p.2 + 1) * len))).drop lo
    let e := x.shape.dst
    if piece.isEmpty then s
    else if e.kind = 0 then dramWrite s a piece
    else if e.kind = 1 then regionWrite s x.slot e.sel a piece
    else
      (frames8k a piece.length).foldl (fun s f =>
        (grnSendAcked s 7 (e.sel % 16) (word f.1) (xferB id 0) ((piece.drop (f.1 - a)).take f.2) none (some id)).1) s) s

/-- Count bytes that a transfer has written. -/
def countBytes (s : State) (ch n : Nat) : State :=
  bumpC (updChan s ch (fun c => { c with bytes := (c.bytes + n) % 2 ^ 48 })) oDmaBytes n

/-- The poisoned unit that a source line touches (R440). -/
def poisonOf (s : State) (x : Xfer) (i : Nat) : Option Nat :=
  if x.shape.src.kind = 0 then s.memory.poison.find? (fun u => (x.shape.segs true i).any (overlaps (u, 64))) else none

/-- The next line of a transfer, when it may be read and written now: granted, its source bytes here, on no held page and not
poisoned. -/
def Xfer.nextLine (s : State) (x : Xfer) : Option Nat :=
  match x.ready.head? with
  | none => none
  | some i =>
    let here := if x.shape.src.kind = 1 then decide (x.shape.length ≤ x.hostBytes.length)
      else if x.shape.src.kind = 2 then decide ((x.linesDone + 1) * x.shape.length ≤ x.gotBytes) else true
    if here && !(lineHeld s x.shape i) && (poisonOf s x i).isNone then some i else none

/-- Bytes of the granted lines that a transfer has still to write. -/
def Xfer.bytesLeft (x : Xfer) : Nat := (x.granted - x.linesDone) * x.shape.length - x.off

/-- Move up to `n` bytes of a transfer's granted lines. A line is read whole before any of it is written; `fuel` bounds the
lines. -/
def moveBytes (s : State) (id fuel n : Nat) : State :=
  match fuel, getXfer s id with
  | 0, _ => s
  | _, none => s
  | fuel + 1, some x =>
    if n = 0 then s
    else
      match x.line with
      | none =>
        (match x.nextLine s with
         | none => s
         | some i =>
           let flag := x.shape.src.kind == 0 && (x.shape.segs true i).any (fun a => concededAt s a.1 a.2)
           let y := { x with
             line := some (x.shape.line (lineIn s x i)), off := 0, conceded := x.conceded || flag
             hostBytes := x.hostBytes.drop x.shape.length }
           moveBytes (setXfer s id y) id fuel n)
      | some bs =>
        let k := min n (x.shape.length - x.off)
        let s1 := lineOut s id x (x.shape.nth x.linesDone) x.off k bs
        let y := if x.off + k < x.shape.length then { x with off := x.off + k, written := x.written + k }
          else { x with off := 0, line := none, linesDone := x.linesDone + 1, written := x.written + k }
        moveBytes (countBytes (setXfer s1 id y) x.ch k) id fuel (n - k)

/-- Lines and half-lines that `moveBytes` can take at most. -/
def Xfer.moveFuel (x : Xfer) : Nat := 2 * (x.granted - x.linesDone) + 2

-- ## The order of service (R435)

/-- A transfer of which a byte can be moved now. -/
def canMove (s : State) (x : Xfer) : Bool :=
  !x.queued && (x.line.isSome || (x.nextLine s).isSome) && decide (0 < x.bytesLeft)

/-- The oldest transfer of a channel that can be moved. -/
def chNext (s : State) (ch : Nat) : Option Nat := ((chXfers s ch).find? (fun p => canMove s p.2)).map (·.1)

/-- The next of some channels in a round: the first above the one served last, else the lowest. -/
def roundNext (chs : List Nat) (last : Nat) : Option Nat := (chs.find? (fun c => decide (last < c))).orElse (fun _ => chs.head?)

/-- R435: the channel that the engine serves next: of the highest PRIO level with something to move, round-robin. What the
control channels carry is moved at once (R415), so that none of it ever waits behind another channel. -/
def nextChannel (s : State) : Option Nat :=
  let able := ((List.range 248).map (· + 8)).filter (fun c => (chNext s c).isSome)
  [3, 2, 1, 0].foldl (fun (m : Option Nat) k => m.orElse (fun _ =>
    roundNext (able.filter (fun c => getF s (oDmaChCfg c) 21 20 == k)) (s.dma.turns.getD k 0))) none

/-- R435: one unit of 4 KiB of a channel's oldest transfer is moved. -/
def serveChannel (s : State) (ch : Nat) : State :=
  match chNext s ch with
  | none => s
  | some id =>
    let s1 := moveBytes s id (((getXfer s id).map Xfer.moveFuel).getD 0) 4096
    { s1 with dma := { s1.dma with turns := s1.dma.turns.set (getF s (oDmaChCfg ch) 21 20) ch } }

/-- R435: the engine serves channels, unit by unit, until transfer `id` has nothing that can be moved; `n` bounds the units. -/
def serveUntil (s : State) (id n : Nat) : State :=
  match n with
  | 0 => s
  | n + 1 =>
    if ((getXfer s id).map (canMove s)).getD false then
      match nextChannel s with
      | none => s
      | some ch => serveUntil (serveChannel s ch) id n
    else s

/-- Serve until a transfer has moved what it can. -/
def serveXfer (s : State) (id : Nat) : State := serveUntil s id ((s.dma.xfers.map (fun p => p.2.bytesLeft)).sum)

-- ## Programmed channels (R428 to R433)

/-- The registers of a channel's description, in order (R432). -/
def setRegs (ch : Nat) : List Nat :=
  [oDmaChOp ch, oDmaChSrc ch, oDmaChDst ch, oDmaChSize ch, oDmaChStride ch, oDmaChPlane ch, oDmaChArm ch, oDmaChTrig ch,
   oDmaChPeriod ch, oDmaChWindow ch]

/-- The shape of a channel's active set. -/
def activeShape (s : State) (ch : Nat) : Shape :=
  shapeOf (regRaw s (oDmaChOp ch)) (regRaw s (oDmaChSrc ch)) (regRaw s (oDmaChDst ch)) (regRaw s (oDmaChSize ch))
    (regRaw s (oDmaChStride ch)) (regRaw s (oDmaChPlane ch))

def chKind (s : State) (ch : Nat) : Nat := getF s (oDmaChTrig ch) 47 46
def chBurst (s : State) (ch : Nat) : Nat := getF s (oDmaChTrig ch) 15 0
def chPeriodUs (s : State) (ch : Nat) : Nat := getF s (oDmaChPeriod ch) 47 16
def chOpenUs (s : State) (ch : Nat) : Nat := getF s (oDmaChWindow ch) 47 24
def chCloseUs (s : State) (ch : Nat) : Nat := getF s (oDmaChWindow ch) 23 0

/-- A PROGRAMMED channel that runs. -/
def progRuns (s : State) (ch : Nat) : Bool := chClass s ch == 2 && chEn s ch

/-- R431: a trigger starts no transfer: its slot is not BOUND, or its set names a region that is gone, or no set that a
commit would accept is in effect. -/
def trigBlocked (s : State) (ch : Nat) : Bool :=
  let x := activeShape s ch
  match progSlot s ch with
  | none => true
  | some n =>
    (getSlot s n).phase ≠ .bound || noRegion s n x.src || noRegion s n x.dst || regionLeaving s n x.src
      || regionLeaving s n x.dst || x.opBad || x.sizeBad || x.alignBad

/-- R427: word 3 of a record. -/
def dmaWord3 (generation ch : Nat) (cancelled : Bool) : Word := word (generation % 2 ^ 24 * 2 ^ 24 + ch * 2 ^ 8 + b2n cancelled)

/-- R428: a trigger starts a transfer with `n` lines granted, or is refused (R431). -/
def startProg (s : State) (ch n : Nat) (armAt : Option Nat) : State :=
  if trigBlocked s ch then dmaRefused s
  else if (getChan s ch).setLost then
    -- R504: the set was lost to an uncorrectable error
    postEvent (updChan s ch (fun c => { c with setLost := false })) ((progSlot s ch).getD 0) (getF s (oDmaChCfg ch) 5 0)
      (BitVec.ofNat 24 (0xD00000 + ch)) 0 0x401 0 (dmaWord3 (getChan s ch).generation ch false)
  else
    let id := s.dma.nextId
    let x : Xfer := { ch := ch, shape := activeShape s ch, slot := (progSlot s ch).getD 0, armAt := armAt, armed := true
                      generation := (getChan s ch).generation, burst := chBurst s ch, state := .moving }
    let s1 := setXfer { s with dma := { s.dma with nextId := id + 1 } } id x
    grantLines (updChan s1 ch (fun c => { c with xfers := c.xfers ++ [id] })) id n

/-- A trigger that fires while a transfer runs waits, up to 64. -/
def pendTrigger (s : State) (ch : Nat) : State :=
  if (getChan s ch).pendingTrig < 64 then updChan s ch (fun c => { c with pendingTrig := c.pendingTrig + 1 })
  else dmaOverrun s

/-- R428: an ARM or CHAIN trigger of a channel. -/
def fireTrigger (s : State) (ch : Nat) (armAt : Option Nat) : State :=
  if (getChan s ch).xfers.isEmpty then startProg s ch (activeShape s ch).lines armAt else pendTrigger s ch

/-- A transfer of module memory moves what is granted as soon as no page is held (R429). -/
def moveGranted (s : State) (id : Nat) : State :=
  match getXfer s id with
  | none => s
  | some x =>
    if x.shape.src.kind = 0 then serveXfer s id else s

/-- R429: a request that counts: it starts a transfer, or moves the next BURST lines of the one that runs. -/
def takeRequest (s : State) (ch : Nat) : State :=
  match (chXfers s ch).head? with
  | none =>
    let s1 := startProg s ch (chBurst s ch) none
    match (getChan s1 ch).xfers.head? with
    | some id => moveGranted s1 id
    | none => s1
  | some p =>
    if p.2.granted < p.2.shape.lines then moveGranted (grantLines s p.1 p.2.burst) p.1 else pendTrigger s ch

/-- Pending triggers go on once a transfer has ended; `n` bounds them. -/
def servePending (s : State) (ch n : Nat) : State :=
  match n with
  | 0 => s
  | n + 1 =>
    let c := getChan s ch
    if c.pendingTrig = 0 || !(progRuns s ch) then s
    else
      let s1 := setChan s ch { c with pendingTrig := c.pendingTrig - 1 }
      if chKind s ch = 1 then
        (match (chXfers s ch).head? with
         | some p => if p.2.granted < p.2.shape.lines then servePending (takeRequest s1 ch) ch n else s
         | none => servePending (takeRequest s1 ch) ch n)
      else if c.xfers.isEmpty then servePending (startProg s1 ch (activeShape s ch).lines none) ch n
      else s

/-- R428: the channels that a completion of channel `ch` triggers. -/
def chained (s : State) (ch : Nat) : List Nat :=
  ((List.range 248).map (· + 8)).filter (fun k => progRuns s k && chKind s k == 2 && getF s (oDmaChTrig k) 23 16 == ch)

/-- R425 to R427, R431: a transfer leaves its channel and its record is posted. -/
def closeXfer (s : State) (id : Nat) (x : Xfer) (status : Nat) (cancelled : Bool) : State :=
  let s1 : State := { s with
    dma := { s.dma with xfers := Tbl.del s.dma.xfers id }
    grn := { s.grn with unacked := s.grn.unacked.filter (fun u => u.xfer != some id) } }
  let s2 := bumpC (updChan s1 x.ch (fun c => { c with xfers := c.xfers.erase id })) oDmaTransfers 1
  let w3 := dmaWord3 x.generation x.ch cancelled
  if x.cmd.isSome then completeWhere s2 (fun i => decide (i.wait = .dma id)) status (word x.written) w3
  else if getB s (oDmaChCfg x.ch) 16 && status == 0 then s2
  else postEvent s2 x.slot (getF s (oDmaChCfg x.ch) 5 0) (BitVec.ofNat 24 (0xD00000 + x.ch)) 0 status (word x.written) w3

/-- R426, R436: every transfer ends with 0x402 and the bytes that it has written; pending triggers are discarded. -/
def abortXfers (s : State) : State :=
  s.dma.xfers.foldl (fun s p => closeXfer s p.1 p.2 0x402 false)
    { s with dma := { s.dma with chans := s.dma.chans.map (fun p => (p.1, { p.2 with pendingTrig := 0, heldReq := 0 })) } }

/-- R425 to R428, R431: a transfer ends, and what waits for it goes on. -/
def endXfer (s : State) (id status : Nat) (cancelled : Bool) : State :=
  match getXfer s id with
  | none => s
  | some x =>
    let s3 := closeXfer s id x status cancelled
    let s4 := if status ≤ 1 then (chained s3 x.ch).foldl (fun s k => fireTrigger s k none) s3 else s3
    settle (reachHead (servePending s4 x.ch 65) x.ch)

-- ## Submitting (R421 to R424)

/-- R421: the SUBMIT channels open to a slot. -/
def submitOpen (s : State) (slot ch : Nat) : Bool := chClass s ch == 1 && chEn s ch && chSlot s ch slot

/-- R421: the channel that CHANNEL 0 chooses. -/
def chooseChannel (s : State) (slot : Nat) : Option Nat :=
  (((List.range 248).map (· + 8)).filter (submitOpen s slot)).foldl (fun (m : Option Nat) ch => match m with
    | none => some ch
    | some b => if chQueued s ch < chQueued s b then some ch else some b) none

/-- R421, R424: DMA_SUBMIT. -/
def execDmaSubmit (c : Cmd) (s : State) : Out :=
  .next (runRing s 0x800 c fun s =>
    let x := shapeOf c.w1 c.w2 c.w3 c.w4 c.w5 c.w6
    let slot : Nat := c.slot
    let named := bits c.w1 7 0
    let ch := if named = 0 then chooseChannel s slot else some named
    guarded s [(reservedBad c 3 [mask 47 12 + 0xFF, full, full, full, full, full, full], 0x101),
        (noRegion s slot x.src || noRegion s slot x.dst, 0x114), (named != 0 && !(submitOpen s slot named), 0x1A0),
        (x.opBad || x.sizeBad || sideSelBad s x true || sideSelBad s x false, 0x108),
        (hostSideBad s slot x true || hostSideBad s slot x false, 0x115), (x.alignBad, 0x118), (x.overlapBad, 0x1A1),
        (moduleSideBad s x true || moduleSideBad s x false, 0x1A2), (peerOutside s x, 0x1D0),
        (regionLeaving s slot x.src || regionLeaving s slot x.dst, 0x116),
        ((ch.map (fun k => decide (chQueued s k ≥ 64))).getD true, 0x208)]
      (let k := ch.getD 0
       let id := s.dma.nextId
       let y : Xfer := { ch := k, shape := x, slot := slot, cmd := some id, fence := cmdFlag c 0
                         armAt := if cmdFlag c 1 then some (deadlineAt (nearest (now s) c.w7)) else none }
       let s1 := setXfer { s with dma := { s.dma with nextId := id + 1 } } id y
       .waits (reachHead (updChan s1 k (fun c => { c with xfers := c.xfers ++ [id] })) k) (.dma id)))

/-- R422, R423: the transfer at the head of a SUBMIT channel starts. -/
def startHead (s : State) (k : Nat) : State :=
  let flying := (chXfers s k).filter (fun p => !p.2.queued)
  match (chXfers s k).find? (fun p => p.2.queued) with
  | none => s
  | some p =>
    let due := match p.2.armAt with
      | some t => decide (t ≤ now s)
      | none => true
    if running s && chEn s k && due && decide (flying.length < 4) && !(flying.any (fun q => q.2.fence))
        && (flying.isEmpty || !p.2.fence) then
      let s1 := setXfer s p.1 { p.2 with state := .moving }
      settle (reachHead (grantLines s1 p.1 p.2.shape.lines) k)
    else s

def execDmaTransferStart (ch : Fin 256) (s : State) : Out := .next (startHead s ch)

/-- R440: a source found uncorrectable: the record of R504 and the transfer's end. -/
def failPoisoned (s : State) (id u : Nat) : State := endXfer (uncorrectable s u) id 0x401 false

/-- R425: a transfer whose lines have all moved completes, once a peer has acknowledged every byte. -/
def finishXfer (s : State) (id : Nat) : State :=
  match getXfer s id with
  | none => s
  | some x =>
    if x.linesDone ≥ x.shape.lines && !(s.grn.unacked.any (fun u => u.xfer == some id)) then
      endXfer s id (b2n x.conceded) false
    else s

/-- R426, R440: what stops a transfer that can move no byte now: a poisoned unit under its next source line ends it, and a held
page makes it wait. -/
def stopped (s : State) (id : Nat) : State :=
  match getXfer s id with
  | none => s
  | some x =>
    match x.ready.head? with
    | none => finishXfer s id
    | some i =>
      if x.line.isSome then s
      else if lineHeld s x.shape i then reachPages s id x
      else
        match poisonOf s x i with
        | some u => failPoisoned s id u
        | none => s

/-- R425, R426, R435: the engine moves the lines granted to a transfer, those of other transfers before and between its units
as the order of service has it; with the last of them it completes. `host` is what the access to a host source brought: the
bytes of those lines in order. -/
def execDmaTransferDone (id : Nat) (host : HostData) (s : State) : Out :=
  .next (
    match getXfer s id with
    | none => s
    | some x =>
      if x.queued || !(running s) then s
      else if x.shape.src.kind = 1 then
        (match host with
         | .bytes bs =>
           if bs.length < (x.granted - x.linesDone) * x.shape.length then s
           else stopped (serveXfer (setXfer s id { x with hostBytes := bs }) id) id
         | .denied => endXfer s id 0x301 false
         | .timeout => endXfer s id 0x404 false)
      else if x.shape.src.kind = 2 && decide (x.gotBytes < x.granted * x.shape.length) then s
      else stopped (serveXfer s id) id)

/-- `n` free bytes. -/
def freeBytes (s : State) (n : Nat) : State × List Byte :=
  match n with
  | 0 => (s, [])
  | n + 1 =>
    let r := freeBytes (nextFree s) n
    (r.1, freeVal s 8 :: r.2)

/-- Move the next `n` bytes of a transfer that stops before its end. What a host source had brought is a free value. -/
def movePrefix (s : State) (id n : Nat) : State :=
  match getXfer s id with
  | none => s
  | some x =>
    let fill := if x.shape.src.kind = 1 then freeBytes s ((n / x.shape.length + 1) * x.shape.length) else (s, x.hostBytes)
    moveBytes (setXfer fill.1 id { x with hostBytes := fill.2 }) id x.moveFuel n

/-- R426: the status of each cause, and whether a transfer can meet it. -/
def causeStatus (c : DmaCause) : Nat :=
  match c with
  | .memory => 0x401
  | .hostRefused => 0x301
  | .hostTimeout => 0x404
  | .peer => 0x403
def causeFits (x : Xfer) (c : DmaCause) : Bool :=
  match c with
  | .memory => x.shape.src.kind == 0
  | .peer => x.shape.src.kind == 2 || x.shape.dst.kind == 2
  | _ => x.shape.src.kind == 1 || x.shape.dst.kind == 1

/-- R426: an error stops a transfer. Bytes written before it stay written. -/
def execDmaTransferError (id : Nat) (cause : DmaCause) (written : Nat) (s : State) : Out :=
  .next (
    match getXfer s id with
    | none => s
    | some x =>
      if x.queued || !(causeFits x cause) then s
      else
        let n := min (written - x.written) x.bytesLeft
        let s1 := movePrefix s id n
        let unit := ((x.ready[(x.off + n) / x.shape.length]?).bind (fun i => (x.shape.segs true i).head?)).map (fun a => a.1 / 64 * 64)
        endXfer (match cause, unit with
          | .memory, some u => uncorrectable s1 u
          | _, _ => s1) id (causeStatus cause) false)

/-- R424: one transfer of DMA_CANCEL: a transfer in progress stops at the end of a line; which one is a free value. -/
def cancelXfer (s : State) (id : Nat) (x : Xfer) : State :=
  if x.queued then endXfer s id 0 true
  else
    let lines := max (b2n x.line.isSome) ((freeVal s 16).toNat % (x.granted - x.linesDone + 1))
    endXfer (movePrefix (nextFree s) id (lines * x.shape.length - x.off)) id 0 true

/-- R424: DMA_CANCEL. -/
def execDmaCancel (c : Cmd) (s : State) : Out :=
  .next (runRing s 0x801 c fun s =>
    let ch := bits c.w1 7 0
    let mine := (chXfers s ch).filter (fun p => p.2.slot == (c.slot : Nat) && p.2.cmd.isSome)
    guarded s [(reservedBad c 0 [0xFF], 0x101), (chClass s ch != 1, 0x1A0)]
      (.reply (mine.foldl (fun s p => cancelXfer s p.1 p.2) s) 0 (word mine.length) 0))

/-- R424: DMA_QUERY. A control channel, or one that is OFF, is not set up. -/
def execDmaQuery (c : Cmd) (s : State) : Out :=
  .next (runRing s 0x802 c fun s =>
    let ch := bits c.w1 7 0
    guarded s [(reservedBad c 0 [0xFF], 0x101), (chClass s ch == 0 || chClass s ch == 3, 0x1A0)]
      (.reply s 0 (word ((getChan s ch).generation * 2 ^ 24 + chFlying s ch * 2 ^ 19 + chQueued s ch))
        (word (getChan s ch).bytes)))

-- ## Schedules, commits and enables (R428, R430, R432 to R434)

/-- Instant `k` of a channel's grid, `us` into the period (R428, R430). -/
def gridAt (s : State) (ch k us : Nat) : Nat := deadlineAt ((getChan s ch).armOrigin + durUs (k * chPeriodUs s ch + us))

/-- The first k whose instant lies strictly after an instant; none for a one-shot that has passed (R433). -/
def gridAfter (origin : Int) (periodUs us t : Nat) : Option Nat :=
  if origin + durUs us > t then some 0
  else if periodUs = 0 then none
  else some (ceilDiv (((t : Int) - origin).toNat * 1000000 / second + 1 - us) periodUs)

/-- R433, R434: arm the schedule and the window of the active set from now on. -/
def armChannel (s : State) (ch : Nat) : State :=
  let c := getChan s ch
  let kind := chKind s ch
  setChan s ch { c with
    armK := if kind = 0 then gridAfter c.armOrigin (chPeriodUs s ch) 0 (now s) else none
    windowOpen := false
    windowK := if kind = 1 && chCloseUs s ch != 0 then gridAfter c.armOrigin (chPeriodUs s ch) (chOpenUs s ch) (now s) else none }

/-- The pending set of a channel: the value that a commit would put into effect. -/
def pendVal (s : State) (o : Nat) : Word := (Tbl.get? s.shadow o).getD (regRaw s o)
def pendShape (s : State) (ch : Nat) : Shape :=
  shapeOf (pendVal s (oDmaChOp ch)) (pendVal s (oDmaChSrc ch)) (pendVal s (oDmaChDst ch)) (pendVal s (oDmaChSize ch))
    (pendVal s (oDmaChStride ch)) (pendVal s (oDmaChPlane ch))

/-- R432: CHAIN_SRC links from `src` on lead back to `ch`; `n` bounds them. -/
def chainBack (s : State) (ch n src : Nat) : Bool :=
  match n with
  | 0 => true
  | n + 1 =>
    if src = ch then true
    else if chClass s src == 2 && chKind s src == 2 then chainBack s ch n (getF s (oDmaChTrig src) 23 16) else false

/-- R428 to R430, R432: the pending trigger, window or chain breaks a rule. -/
def trigBad (s : State) (ch : Nat) : Bool :=
  let t := pendVal s (oDmaChTrig ch)
  let period := bits (pendVal s (oDmaChPeriod ch)) 47 16
  let opens := bits (pendVal s (oDmaChWindow ch)) 47 24
  let closes := bits (pendVal s (oDmaChWindow ch)) 23 0
  bits t 47 46 == 3 || decide (bits t 45 43 > 5) || bits t 15 0 == 0
    || (closes != 0 && (period == 0 || decide (closes ≤ opens) || decide (closes > period)))
    || (bits t 47 46 == 2 && (decide (bits t 23 16 < 8) || chainBack s ch 256 (bits t 23 16)))

/-- R432: the RESULT of a commit. -/
def commitResult (s : State) (ch : Nat) : Nat :=
  let x := pendShape s ch
  let slot := progSlot s ch
  let n := slot.getD 0
  if chClass s ch ≠ 2 then 2
  else if x.opBad then 3
  else if slot.isNone || noRegion s n x.src || noRegion s n x.dst || regionLeaving s n x.src || regionLeaving s n x.dst
      || sideSelBad s x true || sideSelBad s x false || hostSideBad s n x true || hostSideBad s n x false
      || moduleSideBad s x true || moduleSideBad s x false || peerOutside s x then 4
  else if x.sizeBad || x.alignBad then 5
  else if x.overlapBad then 6
  else if trigBad s ch then 7
  else 1

/-- R428: an instant of a channel's ARM schedule fires. -/
def fireArm (s : State) (k : Nat) : State :=
  match (getChan s k).armK with
  | none => s
  | some j =>
    let t := gridAt s k j 0
    if running s && progRuns s k && decide (t ≤ now s) then
      let s1 := updChan s k (fun c => { c with armK := if chPeriodUs s k = 0 then none else some (j + 1) })
      settle (fireTrigger s1 k (some t))
    else s

/-- R432, R433: a write of DMA_CH_COMMIT with GO = 1. A change of the trigger's kind, of ARM_AT, PERIOD_US or the window
forms a new schedule; a change of another field does not. An instant of the old grid that has come fires under the old set. -/
def dmaCommitWrite (s0 : State) (ch : Nat) : State × IStatus :=
  let r := commitResult s0 ch
  let s := if r = 1 then fireArm s0 ch else s0
  let s1 := setRaw s oDmaChCommitStatus (word (r * 2 ^ 8 + ch))
  if r ≠ 1 then (s1, .refused)
  else
    let changed := [oDmaChArm ch, oDmaChWindow ch].any (fun o => pendVal s o != regRaw s o)
      || bits (pendVal s (oDmaChTrig ch)) 47 46 != chKind s ch
      || bits (pendVal s (oDmaChPeriod ch)) 47 16 != chPeriodUs s ch
    let s2 := (setRegs ch).foldl (fun s o => setRaw s o (pendVal s o)) s1
    let s3 : State := { s2 with shadow := s2.shadow.filter (fun p => !((setRegs ch).contains p.1)) }
    let s4 := updChan s3 ch (fun c => { c with generation := (c.generation + 1) % 2 ^ 24 })
    (if changed then
      (let s5 := updChan s4 ch (fun c => { c with armOrigin := nearest (now s) (regRaw s4 (oDmaChArm ch)) })
       if chEn s5 ch then armChannel s5 ch else s5)
     else s4, .ok)

def execDmaChCommit (ch : Fin 256) (s : State) : Out :=
  .next (setupItem s (dmaCommitWrite s ch))

/-- R414, R434: a write of DMA_CHn_CFG. Setting EN arms the active set; clearing it discards pending triggers. -/
def dmaCfgWrite (s : State) (ch : Nat) (v : Word) : State × IStatus :=
  let old := regRaw s (oDmaChCfg ch)
  if ch < 8 || bits v 19 18 == 3 || (bitAt old 17 && bits v 19 18 != bits old 19 18) then (s, .refused)
  else
    let s1 := setRaw s (oDmaChCfg ch) (word (bits v 21 8 * 2 ^ 8 + bits v 5 0))
    if bitAt v 17 && !(bitAt old 17) then
      (if chClass s1 ch = 2 then armChannel s1 ch else s1, .ok)
    else if bitAt old 17 && !(bitAt v 17) then
      (updChan s1 ch (fun c => { c with pendingTrig := 0, heldReq := 0, armK := none, windowOpen := false, windowK := none }), .ok)
    else (s1, .ok)

def execDmaChannelEnable (ch : Fin 256) (v : Word) (s : State) : Out :=
  .next (setupItem s (dmaCfgWrite s ch v))

def execDmaArmTrigger (ch : Fin 256) (s : State) : Out := .next (fireArm s ch)

/-- R429: the number of a request source, and whether its object exists. -/
def reqCode (src : ReqSrc) : Nat :=
  match src with
  | .canvasRow => 1
  | .canvasPicture => 2
  | .decodePicture => 3
  | .mixPeriod => 4
  | .ppsIn => 5
def reqExists (s : State) (src : ReqSrc) (obj : Nat) : Bool :=
  match src with
  | .canvasRow => canvasLive s obj
  | .canvasPicture => canvasLive s obj
  | .decodePicture => decLive s obj
  | .mixPeriod => mixLive s obj
  | .ppsIn => true

/-- R430: a request outside its window is held or dropped; another counts. -/
def channelRequest (s : State) (ch : Nat) : State :=
  let c := getChan s ch
  if chCloseUs s ch = 0 || c.windowOpen then takeRequest s ch
  else if getB s (oDmaChPeriod ch) 0 || decide (c.heldReq ≥ 64) then dmaOverrun s
  else setChan s ch { c with heldReq := c.heldReq + 1 }

/-- R429: the channels that a request line feeds. -/
def reqChannels (s : State) (src : ReqSrc) (obj : Nat) : List Nat :=
  ((List.range 248).map (· + 8)).filter (fun k =>
    progRuns s k && chKind s k == 1 && getF s (oDmaChTrig k) 45 43 == reqCode src
      && (decide (src = .ppsIn) || getF s (oDmaChTrig k) 39 24 == obj))

/-- R429: an event raises a request on each channel that names it. In Quiet, the sources that stop there raise none
(R436). -/
def execDmaRequest (src : ReqSrc) (obj : Nat) (s : State) : Out :=
  .next (
    if reqExists s src obj && (s.power.st = .active || (s.power.st = .quiet && src = .ppsIn)) then
      settle ((reqChannels s src obj).foldl channelRequest s)
    else s)

/-- Requests held until a window opened. -/
def takeHeld (s : State) (ch n : Nat) : State :=
  match n with
  | 0 => s
  | n + 1 => takeHeld (takeRequest s ch) ch n

/-- R430: a window opens. -/
def openWindow (s : State) (k : Nat) : State :=
  let c := getChan s k
  match c.windowK with
  | none => s
  | some j =>
    if running s && progRuns s k && !c.windowOpen && decide (gridAt s k j (chOpenUs s k) ≤ now s) then
      settle (takeHeld (setChan s k { c with windowOpen := true, heldReq := 0 }) k c.heldReq)
    else s

def execDmaWindowOpen (ch : Fin 256) (s : State) : Out := .next (openWindow s ch)

/-- R430: a window closes: a transfer with lines still to move completes with 0x502, and pending requests go. -/
def closeWindow (s : State) (k : Nat) : State :=
  let c := getChan s k
  match c.windowK with
  | none => s
  | some j =>
    if running s && c.windowOpen && decide (gridAt s k j (chCloseUs s k) ≤ now s) then
      let s1 := setChan s k { c with windowOpen := false, windowK := some (j + 1), pendingTrig := 0 }
      settle (match (chXfers s1 k).head? with
        | some p => if p.2.linesDone < p.2.shape.lines then endXfer s1 p.1 0x502 false else s1
        | none => s1)
    else s

def execDmaWindowClose (ch : Fin 256) (s : State) : Out := .next (closeWindow s ch)

-- ## Peers (R486)

/-- Answer a frame of an acked kind (R462): kind and SEQ acked, status, and a record for a peer message. -/
def sendAck (s : State) (dst kind seq status : Nat) (record : List Byte) : State :=
  (grnSend s 0xA dst false false (word (kind * 2 ^ 44 + seq)) (word status) record).1

end Sys2Proof.Machine
end

