-- ==== Sys2Proof/Machine/Time.lean ====
section
/-! DEFINITION. The time base (chapter 02): INCR and offset steps, time events, PTP measurements, PPS and 10 MHz. -/

namespace Sys2Proof.Machine

-- ## Time events (R68, R70, R78)

/-- Post a time event to every subscribed connection; `n` counts slots down. OFFSET_SAMPLE and PPS_IN records are dropped
at once where there is no room (R70). -/
def timeEvent (s : State) (kind port : Nat) (w1 rest : Word) (n : Nat) : State :=
  match n with
  | 0 => s
  | n + 1 =>
    let s1 := timeEvent s kind port w1 rest n
    match (getSlot s1 n).timeSub with
    | none => s1
    | some sub =>
      if (sub.mask / 2 ^ kind) % 2 = 0 then s1
      else
        let r := mkRec s1 sub.tag sub.ring 0 w1 (word (kind * 2 ^ 44 + port * 2 ^ 40 + bits rest 39 0))
        if kind = 0 || kind = 2 then postOrDrop s1 n sub.queue sub.tag sub.ring r else postRec s1 n sub.queue sub.tag sub.ring r

/-- The port code of no port (R68). -/
def noPort : Nat := 15

-- ## INCR (R48 to R52)

/-- R49: a value of INCR that is refused. -/
def incrBad (v : Word) : Bool := decide (v.toNat < 94352882327736) || decide (94541776987050 < v.toNat)

/-- R48: from this TIME cycle on, bridge time advances by the new INCR, with no step. -/
def TimeBase.reanchor (t : TimeBase) (v : Word) : TimeBase :=
  { t with
    offset := t.offset + ((t.raw : Int) - (t.anchor : Int)) * (t.incr : Int)
    anchor := t.raw
    incr := v.toNat }

/-- R48, R51, R70: a new INCR takes effect, is stored in MRAM and reported. -/
def setIncr (s : State) (v : Word) : State :=
  let s1 := { noteTime s with time := s.time.reanchor v }
  let s2 := if mramWritable s then { s1 with mram := { s1.mram with incr := some v.toNat } } else s1
  timeEvent s2 8 noPort v 0 8

/-- R52, R174: an Oxvan write of TB_INCR. In the cycle of a TIME_SET_INCR command it counts as applied before the command,
whichever comes first: it is reported, and the command's value remains. -/
def tbIncrWrite (s : State) (v : Word) : State × IStatus :=
  if incrBad v then (s, .refused)
  else if (thisCycle s).incrCmd then (timeEvent s 8 noPort v 0 8, .ok)
  else (setIncr s v, .ok)

/-- R52: TIME_SET_INCR takes effect; the cycle keeps its value. -/
def cmdSetIncr (s : State) (v : Word) : State :=
  let s1 := setIncr s v
  { s1 with cyc := { thisCycle s1 with incrCmd := true } }

-- ## Steps (R53 to R61)

/-- R53: the amount of a step in 2^-76 s. -/
def stepAmount (sec frac : Word) : Int := sec.toInt * (second : Int) + ((frac.toNat * 2 ^ 28 : Nat) : Int)

/-- R54: a step that the module refuses: one whose magnitude exceeds TB_STEP_MAX. A step of amount 0 never does, so it needs
no FORCE with MAX_US = 0 either (DESIGN CHOICE, assumption 95). -/
def stepTooLarge (s : State) (amount : Int) (force : Bool) : Bool :=
  s.time.isSet && decide (s.power.st = .active) && !force
    && decide (amount.natAbs * 1000000 > getF s oTbStepMax 23 0 * second)

/-- The step passes over a deadline: it lies after the old time and before the new one. -/
def passed (old new d : Nat) : Bool := decide (old < d) && decide (d < new)

/-- A one-shot event that a step can pass over (R56, R203, R423, R428, R430). -/
inductive OneShot where
  /-- the commit deadline of an entry -/
  | commit (entry : Nat)
  /-- the wake-up of a delayed task -/
  | wakeUp (task : Nat)
  /-- the row deadline of a canvas, and of a layer of an encode channel -/
  | canvasRow (canvas row : Nat)
  | encRow (channel layer row : Nat)
  /-- the arming time at the head of a DMA channel, a one-shot ARM instant, and the edges of a window -/
  | dmaArm (ch : Nat)
  | armOnce (ch : Nat)
  | windowOpen (ch : Nat)
  | windowClose (ch : Nat)
  /-- the change time of a gate list -/
  | gateChange (port : Nat)
  deriving DecidableEq, Repr

/-- Events in deadline order; equal deadlines keep their order. -/
def insertDue (x : OneShot × Nat) (xs : List (OneShot × Nat)) : List (OneShot × Nat) :=
  match xs with
  | [] => [x]
  | y :: rest => if x.2 < y.2 then x :: y :: rest else y :: insertDue x rest

/-- The rows of the pictures in progress with their deadlines: canvases and encode channels. -/
def rowEvents (s : State) : List (OneShot × Nat) :=
  s.units.canvases.flatMap (fun c => match c.2.cur with
    | none => []
    | some p => ((List.range c.2.rows).filter (fun r => decide (p.row ≤ r))).map (fun r =>
        (.canvasRow c.1 r, c.2.rowDue p.start r)))
  ++ s.units.encs.flatMap (fun c => match c.2.cur with
    | none => []
    | some p => p.segments.flatMap (fun g => (g.rows.filter (fun r => !(g.rowsDone.contains r))).map (fun r =>
        (.encRow c.1 g.layer r, blockDue s c.2 p.start g.layer r))))

/-- The arming times, one-shot ARM instants and next window edges of the DMA channels. An edge that has fired is behind
`windowK`, and fires no second time (R60). -/
def dmaEvents (s : State) : List (OneShot × Nat) :=
  s.dma.chans.flatMap (fun p =>
    ((chXfers s p.1).filter (fun x => x.2.queued && x.2.armed)).filterMap (fun x => x.2.armAt.map (fun t => (.dmaArm p.1, t)))
    ++ (match p.2.armK with
        | some j => if chPeriodUs s p.1 = 0 then [(.armOnce p.1, gridAt s p.1 j 0)] else []
        | none => []))

/-- The edges of a channel's window that a step passes over, from the next one on. -/
def edgeEvents (s : State) (new : Nat) : List (OneShot × Nat) :=
  s.dma.chans.flatMap (fun p => match p.2.windowK with
    | none => []
    | some j =>
      let n := ceilDiv ((new - gridAt s p.1 j 0) * 1000000) (second * max 1 (chPeriodUs s p.1)) + 1
      (List.range n).flatMap (fun k =>
        (if k = 0 && p.2.windowOpen then [] else [(.windowOpen p.1, gridAt s p.1 (j + k) (chOpenUs s p.1))])
          ++ [(.windowClose p.1, gridAt s p.1 (j + k) (chCloseUs s p.1))]))

/-- The change times of committed gate lists. -/
def changeEvents (s : State) : List (OneShot × Nat) :=
  [0, 1].filterMap (fun p => (getMac s p).admin.map (fun g => (.gateChange p, g.start)))

/-- R58: the one-shot events that a step passes over, in deadline order. -/
def passedEvents (s : State) (old new : Nat) : List (OneShot × Nat) :=
  (((entriesDue s).map (fun p => (OneShot.commit p.1, p.2.deadline.getD 0))
    ++ (s.sched.tasks.filterMap (fun p =>
        if p.2.state = .delayed then p.2.notBefore.map (fun t => (OneShot.wakeUp p.1, t)) else none))
    ++ rowEvents s ++ dmaEvents s ++ edgeEvents s new ++ changeEvents s).filter (fun e => passed old new e.2)).foldl
    (fun acc x => insertDue x acc) []

/-- R58: an entry that a step passes over is conceded. A speaker prediction waits on, final, for its evaluation. -/
def concedePassed (s : State) (e : Nat) : State :=
  match Tbl.get? s.spec.table e with
  | none => s
  | some en =>
    match en.cls with
    | .prefetch => resolvePrefetch s en.owner true
    | .concealment => concedeLater s e
    | .speaker => resolveEntry s e 2
    | .join => s

/-- R58: an event fires at once. -/
def fireOneShot (s : State) (e : OneShot) : State :=
  match e with
  | .commit k => concedePassed s k
  | .wakeUp t => tryReady (bumpF s oTskCount 47 32 1) t
  | .canvasRow c r => canvasDeadline s c r
  | .encRow c l r => if lastEncRow s c l r then encDeadline s c else s
  | .dmaArm ch => startHead (bumpF s oDmaEvents 47 32 1) ch
  | .armOnce ch => fireArm (bumpF s oDmaEvents 47 32 1) ch
  | .windowOpen ch => openWindow (bumpF s oDmaEvents 47 32 1) ch
  | .windowClose ch => closeWindow (bumpF s oDmaEvents 47 32 1) ch
  | .gateChange p => gateChange s p
where
  /-- the last row of a channel's top layer, whose deadline is the emission deadline -/
  lastEncRow (s : State) (c l r : Nat) : Bool :=
    match getEnc s c with
    | none => false
    | some e => l + 1 == e.sLayers && r + 1 == ceilDiv (e.sizes.getD l (0, 0)).2 (blockSize e.codec)

/-- The number of instants before `t` of a grid that begins at an origin plus `us`. -/
def gridBefore (origin : Int) (periodUs us t : Nat) : Nat :=
  if origin + durUs us ≥ t then 0
  else if periodUs = 0 then 1
  else ceilDiv (((t : Int) - 1 - origin).toNat * 1000000 / second + 1 - us) periodUs

/-- R59: where a periodic schedule stands after a forward step, from the number of the occurrence that would have begun
next: the occurrence that contains the new time, and how many are skipped and whether one is started late. -/
structure Moved where
  next : Nat
  skipped : Nat := 0
  late : Nat := 0
  deriving DecidableEq, Repr

/-- R59 for a grid whose occurrence `cur` is the last that has begun at the new time. `startsAt` says that it begins there
exactly. -/
def moveTo (next cur : Nat) (startsAt : Bool) : Moved :=
  if cur < next then { next := next } else { next := cur, skipped := cur - next, late := b2n (!startsAt) }

/-- R59: mix groups. The started period itself runs at MIX_PERIOD_START, which is due at once. -/
def moveMixes (s : State) (new : Nat) : State × Nat × Nat :=
  s.units.mixes.foldl (fun (a : State × Nat × Nat) p =>
    let m := p.2
    if (new : Int) < m.origin then a
    else
      let k := ((new : Int) - m.origin).toNat * (if m.period20 then 50 else 100) / second
      let v := moveTo m.m k (m.startOf k == new)
      (setMix a.1 p.1 { m with m := v.next }, a.2.1 + v.skipped, a.2.2 + v.late)) (s, 0, 0)

/-- R59: the periodic ARM schedules of channels (R428): the instant that contains the new time fires at once. -/
def moveArms (s : State) (new : Nat) : State × Nat × Nat :=
  s.dma.chans.foldl (fun (a : State × Nat × Nat) p =>
    let per := chPeriodUs s p.1
    match p.2.armK with
    | none => a
    | some j =>
      let n := gridBefore p.2.armOrigin per 0 (new + 1)
      if per = 0 || n = 0 then a
      else
        let v := moveTo j (n - 1) (gridAt s p.1 (n - 1) 0 == new)
        let s1 := setChan a.1 p.1 { getChan a.1 p.1 with armK := some v.next }
        (if j ≤ n - 1 then fireArm s1 p.1 else s1, a.2.1 + v.skipped, a.2.2 + v.late)) (s, 0, 0)

/-- The place in a cycle's entries that `ns` falls in, and how far before it the entry begins. -/
def entryOf (es : List Gate) (ns : Nat) : Nat × Nat :=
  match es with
  | [] => (0, 0)
  | e :: rest => if ns < e.intervalNs || rest.isEmpty then (0, ns) else
    let r := entryOf rest (ns - e.intervalNs)
    (r.1 + 1, r.2)

/-- R59: a gate list moves to the entry that contains an instant: the MAC, entries skipped, and entries started late. -/
def moveGate (m : Mac) (t : Nat) : Mac × Nat × Nat :=
  match m.oper with
  | none => (m, 0, 0)
  | some g =>
    let es := g.cycle
    let cur := es.getD m.entryIndex { gates := 255, intervalNs := 0 }
    if es.isEmpty || g.cycleNs = 0 || t < g.start + durNs (m.entryNs + cur.intervalNs) then (m, 0, 0)
    else
      let pos := (t - g.start) * 1000000000 / second
      let at_ := entryOf es (pos % g.cycleNs)
      let started := pos / g.cycleNs * es.length + at_.1 - (m.entryNs / g.cycleNs * es.length + m.entryIndex)
      let start := g.start + durNs (pos - at_.2)
      ({ m with entryNs := pos - at_.2, entryIndex := at_.1, gates := (es.getD at_.1 cur).gates }, started - 1,
        if started = 0 then 0 else b2n (decide (start < t)))

/-- R59, R203: a port's gate list. Up to a change time that the step reaches, the old list moves; the new list then starts
with its first entry at the change time, which the step passes over or lands in like any other. -/
def movePort (s : State) (port old new : Nat) : State × Nat × Nat :=
  let m := getMac s port
  match m.oper with
  | none => (s, 0, 0)
  | some g =>
    -- the list has just begun: its first entry is the occurrence at its start
    let fresh := b2n (passed old new g.start && m.entryNs == 0 && m.entryIndex == 0)
    let r := moveGate m new
    let moved := decide (0 < r.2.1) || decide (r.1.entryNs ≠ m.entryNs)
    (setMac s port r.1, r.2.1 + (if moved then fresh else 0), r.2.2 + (if moved then 0 else fresh))

/-- The entries of a list that a change within the step ends: those that the step passes over before the change time. -/
def moveBefore (s : State) (port new : Nat) : State × Nat × Nat :=
  match (getMac s port).admin with
  | some g => if g.start < new then (let r := moveGate (getMac s port) (g.start - 1)
                                     (setMac s port r.1, r.2.1 + r.2.2, 0)) else (s, 0, 0)
  | none => (s, 0, 0)

/-- R75: whether PPS OUT pulses. -/
def ppsOn (s : State) : Bool := getB s oTbPpsOut 20 && s.time.isSet && s.time.released

/-- Raise PPS OUT for a whole second. -/
def ppsRise (s : State) (sec : Nat) : State :=
  emit { s with time := { s.time with ppsHigh := true, ppsSecond := some sec } } (.ppsOut true)

/-- Drive PPS OUT low. -/
def ppsLow (s : State) : State :=
  if s.time.ppsHigh then emit { s with time := { s.time with ppsHigh := false } } (.ppsOut false) else s

/-- PPS OUT starts to pulse: the next whole second is the first to rise. -/
def ppsArm (s : State) : State :=
  { s with time := { s.time with ppsSecond := some ((now s - 1) / second) } }

/-- R59: PPS OUT after a forward step. -/
def movePps (s : State) (new : Nat) : State × Nat × Nat :=
  match s.time.ppsSecond with
  | none => (s, 0, 0)
  | some k =>
    let sec := new / second
    if !(ppsOn s) || sec ≤ k then (s, 0, 0) else (ppsRise s sec, sec - k - 1, b2n (new % second != 0))

/-- The new OFFSET takes effect (R53). -/
def TimeBase.step (t : TimeBase) (amount : Int) : TimeBase := { t with offset := t.offset + amount, isSet := true }

/-- R58, R59, R61: what a forward step from `old` fires, skips and counts: the state, one-shot events fired late, and
occurrences skipped. -/
def stepForward (s : State) (old : Nat) : State × Nat × Nat :=
  let new := now s
  let es := passedEvents s old new
  let b0 := moveBefore s 0 new
  let b1 := moveBefore b0.1 1 new
  let fired := es.foldl (fun s e => fireOneShot s e.1) b1.1
  let s1 := askWoken fired
  let late := es.length
  let m := moveMixes s1 new
  let a := moveArms m.1 new
  let g0 := movePort a.1 0 old new
  let g1 := movePort g0.1 1 old new
  let p := movePps g1.1 new
  let skipped := b0.2.1 + b1.2.1 + m.2.1 + a.2.1 + g0.2.1 + g1.2.1 + p.2.1
  let started := m.2.2 + a.2.2 + g0.2.2 + g1.2.2 + p.2.2
  let s2 := lateEvents p.1 (late + started)
  (settle (if skipped = 0 then s2 else raiseBit (bumpF s2 oTbEventCount 31 16 skipped) oTbStatus 5), late, skipped)

/-- R53 to R61: a step takes effect. A backward step fires nothing (R60). The answer adds the late one-shot events and the
skipped occurrences. -/
def applyStep (s : State) (sec frac : Word) : State × Nat × Nat :=
  let amount := stepAmount sec frac
  let old := now s
  let s0 : State := { noteTime s with time := s.time.step amount }
  let s1 := if s.time.isSet then s0 else ppsArm s0
  let r := if amount > 0 then stepForward s1 old else (s1, 0, 0)
  (timeEvent r.1 7 noPort sec 0 8, r.2)

/-- R174: a TIME_STEP command's step; the cycle keeps its amount. -/
def cmdStep (s : State) (sec frac : Word) : State × Nat × Nat :=
  let r := applyStep s sec frac
  let c := thisCycle r.1
  ({ r.1 with cyc := { c with cmdStep := c.cmdStep + stepAmount sec frac } }, r.2)

/-- R53, R174: capture bridge time. The write counts as applied before the steps that commands make in the same cycle. -/
def snapWrite (s : State) : State :=
  let t := (((now s : Int) - (thisCycle s).cmdStep) % (2 ^ 124 : Int)).toNat
  setRaw (setRaw s oTbSnapSec (bt96Sec t)) oTbSnapFrac (bt96Frac t)

/-- R53, R54: STEP_GO, with FORCE and SNAP as the same write gives them. A refused step changes nothing. -/
def stepGoWrite (s : State) (force snap : Bool) : State × IStatus :=
  let sec := regRaw s oTbStepSec
  let frac := regRaw s oTbStepFrac
  if stepTooLarge s (stepAmount sec frac) force then (s, .refused)
  else
    let s1 := (applyStep s sec frac).1
    (if snap then snapWrite s1 else s1, .ok)

-- ## Commands (R77, R78)

def execTimeRead (c : Cmd) (s : State) : Out :=
  .next (runRing s 0x100 c fun s =>
    guarded s [(reservedBad c 0 [], 0x101)] (.reply s 0 (bt96Sec (now s)) (bt96Frac (now s))))

def execTimeSetIncr (c : Cmd) (s : State) : Out :=
  .next (runRing s 0x101 c fun s =>
    guarded s [(reservedBad c 0 [full], 0x101), (incrBad c.w1, 0x130)]
      (.reply (cmdSetIncr s c.w1) 0 (word s.time.incr) 0))

def execTimeStep (c : Cmd) (s : State) : Out :=
  .next (runRing s 0x102 c fun s =>
    let r := cmdStep s c.w1 c.w2
    guarded s [(reservedBad c 1 [full, full], 0x101), (stepTooLarge s (stepAmount c.w1 c.w2) (cmdFlag c 0), 0x131)]
      (.reply r.1 0 (word r.2.1) (word r.2.2)))

def execTimeSubscribe (c : Cmd) (s : State) : Out :=
  .next (runRing s 0x103 c fun s =>
    let sl := getSlot s c.slot
    let q := bits c.w1 5 0
    let mask := bits c.w2 8 0
    guarded s [(reservedBad c 0 [0x3F, 0x1FF], 0x101), (mask != 0 && noQueue s c.slot q, 0x132)]
      (.reply (setSlot s c.slot { sl with
        timeSub := if mask = 0 then none else some { queue := q, mask := mask, tag := c.tag, ring := c.ring } }) 0 0 0))

/-- R77, R78: only the data ports raise PATH_STEP, so the flag of a Grinal port is never set. -/
def execTimePathAck (c : Cmd) (s : State) : Out :=
  .next (runRing s 0x104 c fun s =>
    let p := bits c.w1 3 0
    let was := decide (p < 2) && getB s oTbStatus (10 + p)
    guarded s [(reservedBad c 0 [0xF], 0x101), (decide (3 < p), 0x133)]
      (.reply (if was then setF s oTbStatus (10 + p) (10 + p) 0 else s) 0 (word (b2n was)) 0))

-- ## Register writes

def execStepGo (force snap : Bool) (s : State) : Out :=
  .next (setupItem s (stepGoWrite s force snap))

def execSnap (s : State) : Out := .next (setupItem s (snapWrite s, .ok))

def execTbIncrWrite (v : Word) (s : State) : Out :=
  .next (setupItem s (tbIncrWrite s v))

-- ## PTP (R65 to R73)

/-- R79's states that measure an offset (R69). -/
def following (st : BitVec 4) : Bool := st = 8 || st = 9

/-- A port takes a state: R72's reference value and TB_STATUS.HOLDOVER follow. -/
def setPtpState (s : State) (port : Nat) (st : BitVec 4) : State :=
  let p := getPtp s port
  let left := following p.state && !(following st)
  let s1 := setPtp s port { p with
    state := st
    refValid := p.refValid && !left
    master := if left then none else p.master
    syncWaiting := if left then [] else p.syncWaiting
    syncDiff := if left then none else p.syncDiff }
  { s1 with time := { s1.time with holdover := !(s1.time.ptp0.state = 9 || s1.time.ptp1.state = 9) } }

/-- A write of TB_PTP_Pn that is refused. -/
def ptpPortBad (v : Word) : Bool :=
  let log := fun (x : Nat) => decide (5 ≤ x) && decide (x ≤ 8)
  decide (bits v 23 20 < 2) || log (bits v 19 16) || log (bits v 15 12) || log (bits v 11 8) || bits v 4 3 == 3

/-- TB_PTP_Pn: the port returns to INITIALIZING, or is DISABLED. -/
def ptpPortWrite (s : State) (port : Nat) (v : Word) : State × IStatus :=
  if ptpPortBad v then (s, .refused)
  else
    let s1 := setRaw s (oTbPtpPort port) (v &&& word 0xFFFF1F)
    let s2 := setPtpState s1 port (if bitAt v 0 then 1 else 3)
    (setPtp s2 port { getPtp s2 port with
      syncWaiting := [], reqSent := none, lastAnnounce := now s, lastSync := now s, lastDelayReq := now s, lastAnnounceSent := now s }, .ok)

def execPtpPortWrite (port : Fin 2) (v : Word) (s : State) : Out :=
  .next (setupItem s (ptpPortWrite s port v))

/-- A signed log2 interval field as a duration. -/
def logDur (f : Nat) : Nat := if f < 8 then second * 2 ^ f else second / 2 ^ (16 - f)

/-- x / 2^n to the nearest whole number, a half upwards. -/
def roundShift (x : Int) (n : Nat) : Int := (x + 2 ^ (n - 1)) / 2 ^ n

/-- R67: a PTP time in nanoseconds as bridge time. -/
def ptpToBt (ns : Int) : Int :=
  (ns / 1000000000) * (second : Int) + roundDiv ((ns % 1000000000) * 2 ^ 48) 1000000000 * 2 ^ 28
where
  roundDiv (a b : Int) : Int := (2 * a + b) / (2 * b)

/-- A correctionField, in 2^-16 ns, as a duration. -/
def correctionToBt (c : Int) : Int := c * (second : Int) / 65536000000000

/-- R65: a port takes a message of its own domain; another is dropped and counted. -/
def ptpTaken (s : State) (port : Nat) (domain : BitVec 8) : Bool :=
  running s && (getMac s port).link && getB s (oTbPtpPort port) 0 && domain.toNat == getF s oTbCtrl 13 6
def ptpDrop (s : State) (port : Nat) : State :=
  if running s && (getMac s port).link && getB s (oTbPtpPort port) 0 then
    setPtp s port { getPtp s port with dropped := (getPtp s port).dropped + 1 }
  else s

/-- R69: an offset in 2^-40 s, saturated. -/
def offsetField (x : Int) : Int := max (-2 ^ 47) (min (2 ^ 47 - 1) (roundShift x 36))

/-- A delay in 2^-32 s, for [38:0] of word 3; a negative one stands as 0 (DESIGN CHOICE, assumption 96). -/
def delayField (x : Int) : Nat := (roundShift x 44).toNat % 2 ^ 39

/-- R69, R72: one OFFSET_SAMPLE; a port in UNCALIBRATED then reaches SLAVE (R73). -/
def offsetSample (s : State) (port : Nat) (rx origin correction : Int) : State :=
  let p := getPtp s port
  let diff := rx - ptpToBt origin - correctionToBt correction
  let off := diff - p.delay
  let pend := p.pending || getB s oTbStatus (10 + port)
  let s1 := setPtp s port { p with syncDiff := some diff }
  setPtpState (timeEvent s1 0 port (BitVec.ofInt 48 (offsetField off)) (word (b2n pend * 2 ^ 39 + delayField p.delay)) 8)
    port 9

/-- R64, R69: a Sync, stamped as it is received: a two-step one waits for its Follow_Up. -/
def execPtpSync (port : Fin 2) (domain : BitVec 8) (seq : BitVec 16) (twoStep : Bool) (origin correction : Int) (s : State) :
    Out :=
  .next (
    let p := getPtp s port
    let rx : Int := rxStamp s port
    if !(ptpTaken s port domain) then ptpDrop s port
    else if !(following p.state) then s
    else if twoStep then
      setPtp s port { p with syncWaiting := p.syncWaiting.filter (fun w => w.1 != seq) ++ [(seq, rx, correction)] }
    else offsetSample s port rx origin correction)

/-- R69: the Follow_Up of a Sync that waits, by sequenceId. -/
def execPtpFollowUp (port : Fin 2) (id : PtpId) (origin correction : Int) (s : State) : Out :=
  .next (
    if !(ptpTaken s port id.domain) then ptpDrop s port
    else
      let p := getPtp s port
      match p.syncWaiting.find? (fun w => w.1 == id.seq) with
      | none => s
      | some w =>
        offsetSample (setPtp s port { p with syncWaiting := p.syncWaiting.filter (fun w => w.1 != id.seq) }) port w.2.1 origin
          (w.2.2 + correction))

/-- R71, R72: a new mean path delay. -/
def pathDelay (s : State) (port : Nat) (m : Int) : State :=
  let p := { getPtp s port with delay := m }
  let thresh := getF s oTbStepThresh 23 0
  let dev := m - p.ref
  if !p.refValid then setPtp s port { p with ref := m, refValid := true }
  else if thresh != 0 && decide (dev.natAbs * 1000000000 > thresh * second) then
    if p.pending && decide (dev.sign = (p.prev - p.ref).sign) then
      let new := (m + p.prev) / 2
      let s1 := setPtp s port { p with ref := new, pending := false }
      timeEvent (raiseBit s1 oTbStatus (10 + port)) 1 port (BitVec.ofInt 48 (roundShift new 44))
        (word (2 ^ 39 + delayField p.ref)) 8
    else setPtp s port { p with pending := true, prev := m }
  else setPtp s port { p with pending := false, ref := p.ref + dev / 8 }

/-- R65, R69: a mean path delay from a response to the port's request: of the end-to-end mechanism, with the latest Sync's
difference, or of the peer-to-peer one. `received` and `sent` are the responder's times in ns, and `sent` is `received`
where the response carries the turnaround in its correction. A response to no request of the port's does nothing. -/
def measuredDelay (s : State) (port : Nat) (received sent correction : Int) (reqAt : Nat) : Option Int :=
  let p := getPtp s port
  let corr := correctionToBt correction
  if getB s (oTbPtpPort port) 1 then
    some (((rxStamp s port : Int) - reqAt - (ptpToBt sent - ptpToBt received) - corr) / 2)
  else p.syncDiff.map (fun d => (d + (ptpToBt received - corr - reqAt)) / 2)

def execPtpDelayResp (port : Fin 2) (id : PtpId) (m : PtpDelay) (s : State) : Out :=
  .next (
    let p := getPtp s port
    if !(ptpTaken s port id.domain) then ptpDrop s port
    else
      match p.reqSent with
      | none => s
      | some (n, at_) =>
        if n ≠ id.seq.toNat then s
        else
          let s1 := setPtp s port { p with reqSent := none }
          match measuredDelay s1 port m.received m.sent m.correction at_ with
          | some d => pathDelay s1 port d
          | none => s1)

/-- R73, R79: states to which the best master clock algorithm takes a port. SLAVE is reached through UNCALIBRATED. -/
def bmcState (s : State) (cur st : BitVec 4) : BitVec 4 :=
  if st = 9 then (if following cur then 9 else 8)
  else if st = 5 || st = 6 then (if getB s oTbCtrl 14 then cur else st)
  else if st = 4 || st = 7 || st = 8 then st
  else cur

/-- R73: an Announce, and the state that the best master clock algorithm gives the port (its choice is IEEE 1588's). A port
that is to follow takes the sender as its master; only its master's Announce restarts its timeout. -/
def execPtpAnnounce (port : Fin 2) (domain : BitVec 8) (clockIdentity : BitVec 64) (state : BitVec 4) (s : State) : Out :=
  .next (
    if !(ptpTaken s port domain) then ptpDrop s port
    else
      let p := getPtp s port
      let st := bmcState s p.state state
      let found := st = 8 && !(following p.state) && s.time.holdover
      let own := p.master.isNone || p.master = some clockIdentity
      let s1 := setPtpState (setPtp s port { p with lastAnnounce := if own then now s else p.lastAnnounce }) port st
      let s2 := if following st && p.master.isNone then
        setPtp s1 port { getPtp s1 port with master := some clockIdentity } else s1
      if found then timeEvent s2 4 port (clockIdentity.setWidth 48) 0 8 else s2)

/-- R73: no Announce for ANNOUNCE_TIMEOUT intervals. A port that has no master goes where IEEE 1588 takes it: LISTENING when
slave-only, else MASTER. -/
def execAnnounceTimeout (port : Fin 2) (s : State) : Out :=
  .next (
    let p := getPtp s port
    let r := regRaw s (oTbPtpPort port)
    if !(running s) || !(bitAt r 0) || decide (now s < p.lastAnnounce + bits r 23 20 * logDur (bits r 19 16))
        || !(following p.state || p.state = 1 || p.state = 4 || p.state = 7) then s
    else
      let s1 := setPtpState (setPtp s port { p with lastAnnounce := now s }) port (if getB s oTbCtrl 14 then 4 else 6)
      if p.state = 9 && s1.time.holdover then timeEvent s1 3 port 0 0 8 else s1)

/-- R557: the time base holds a PTP message until its transmit queue has room. -/
def sendPtp (s : State) (port : Nat) (m : PtpOut) : State :=
  { s with time := { s.time with ptpOut := s.time.ptpOut ++ [(port, m)] } }

/-- R65: one-step is not used over UDP over IPv6. -/
def oneStep (s : State) (port : Nat) : Bool :=
  let r := regRaw s (oTbPtpPort port)
  bitAt r 2 && bits r 4 3 != 2

/-- R65, R66: a port sends a message when its interval has passed. -/
def execPtpMessageTimer (port : Fin 2) (kind : PtpSend) (s : State) : Out :=
  .next (
    let p := getPtp s port
    let r := regRaw s (oTbPtpPort port)
    let req := { p with lastDelayReq := now s, reqSeq := (p.reqSeq + 1) % 65536, reqSent := none }
    if !(running s) || !(getMac s port).link || !(bitAt r 0) then s
    else
      match kind with
      | .sync =>
        if p.state != 6 || decide (now s < p.lastSync + logDur (bits r 15 12)) then s
        else sendPtp (setPtp s port { p with lastSync := now s, syncSeq := (p.syncSeq + 1) % 65536 }) port
          (.sync p.syncSeq (oneStep s port) none)
      | .announce =>
        if p.state != 6 || decide (now s < p.lastAnnounceSent + logDur (bits r 19 16)) then s
        else sendPtp (setPtp s port { p with lastAnnounceSent := now s, announceSeq := (p.announceSeq + 1) % 65536 }) port
          (.announce p.announceSeq (regRaw s oTbPtpClock))
      | .delayReq =>
        if bitAt r 1 || !(following p.state) || decide (now s < p.lastDelayReq + logDur (bits r 11 8)) then s
        else sendPtp (setPtp s port req) port (.delayReq p.reqSeq)
      | .pdelayReq =>
        if !(bitAt r 1) || decide (p.state.toNat < 4) || decide (now s < p.lastDelayReq + logDur (bits r 11 8)) then s
        else sendPtp (setPtp s port req) port (.pdelayReq p.reqSeq))

/-- R66: Delay_Resp and Pdelay_Resp carry the receive time of the request, from bridge time. A two-step Pdelay_Resp is
followed by its time of sending, a one-step one carries its turnaround. -/
def execPtpDelayReq (port : Fin 2) (domain : BitVec 8) (seq : BitVec 16) (peer : Bool) (s : State) : Out :=
  .next (
    let st := (getPtp s port).state
    let rx := rxStamp s port
    if !(ptpTaken s port domain) then ptpDrop s port
    else if peer then
      if getB s (oTbPtpPort port) 1 && decide (4 ≤ st.toNat) then
        sendPtp s port (.pdelayResp seq.toNat (oneStep s port) rx none)
      else s
    else if !(getB s (oTbPtpPort port) 1) && st = 6 then sendPtp s port (.delayResp seq.toNat (btToPtp rx))
    else s)

-- ## PPS and 10 MHz (R74 to R76)

/-- R74: an edge of the selected polarity is stamped; one that comes within 500 ms of the last stamped one is ignored and
counted. -/
def execPpsInEdge (falling : Bool) (s : State) : Out :=
  .next (
    if !s.time.released || !(getB s oTbCtrl 1) || falling != getB s oTbCtrl 2 then s
    else
      let soon := match s.time.lastPpsIn with
        | some t => decide (t ≤ now s) && decide (now s < t + durMs 500)
        | none => false
      if soon then bumpF s oTbEventCount 15 0 1
      else
        timeEvent (raiseBit { s with time := { s.time with lastPpsIn := some (now s) } } oTbStatus 6) 2 noPort
          (bt96Frac (now s)) 0 8)

/-- R75, R60: PPS OUT rises at the whole second after the last one at which it rose. -/
def execPpsOutRise (s : State) : Out :=
  .next (
    match s.time.ppsSecond with
    | none => s
    | some k => if ppsOn s && decide (k < now s / second) then ppsRise s (now s / second) else s)

def execPpsOutFall (s : State) : Out :=
  .next (
    match s.time.ppsSecond with
    | none => s
    | some k => if s.time.ppsHigh && decide (now s ≥ k * second + durUs (getF s oTbPpsOut 19 0)) then ppsLow s else s)

/-- R76: the oscillator's control value now: from the value at the start of its slewing towards the signal, by at most
0.05 ppm/s, within ±50 ppm. It stands still while nothing steers it. -/
def oscNow (s : State) : Rat :=
  let t := s.time
  if t.ref10 = .acquiring || t.ref10 = .locked then
    let most : Rat := ((now s - t.slewFrom : Nat) : Rat) / second / 20
    let want := max (-50) (min 50 t.refPpm)
    if want ≥ t.oscPpm then min want (t.oscPpm + most) else max want (t.oscPpm - most)
  else t.oscPpm

/-- R76: the time base stops steering the oscillator, whose control value stays as it is. -/
def freezeOsc (s : State) (st : Ref10) : State :=
  { s with time := { s.time with ref10 := st, oscPpm := oscNow s, slewFrom := now s, refFrom := now s } }

/-- R76: how far a valid signal at 10 MHz IN lies from 10 MHz, in ppm: within 20 ppm, and the spec says no more, so it is a
free value (assumption 113), in steps of 10^-4 ppm. -/
def signalPpm (v : BitVec 24) : Rat := (((v.toNat % 400001 : Nat) : Int) - 200000 : Int) / (10000 : Rat)

/-- R76: 10 MHz IN has been valid for 10 ms: the oscillator starts towards it. -/
def execRef10Valid (s : State) : Out :=
  .next (
    if s.time.released && getB s oTbCtrl 0 && (s.time.ref10 = .off || s.time.ref10 = .frozen)
        && decide (s.time.refFrom + durMs 10 ≤ now s) then
      { nextFree s with time := { s.time with ref10 := .acquiring, refPpm := signalPpm (freeVal s 24), slewFrom := now s } }
    else s)

/-- R76: the instant from which the difference has stayed within 0.01 ppm: the slewing has run at 0.05 ppm/s. -/
def withinFrom (t : TimeBase) : Nat :=
  let e := t.refPpm - t.oscPpm
  let far : Rat := max e (-e) - 1 / 100
  t.slewFrom + (if far ≤ 0 then 0 else (far * 20 * second).ceil.toNat)

/-- R76: the difference has stayed within 0.01 ppm for 2 s. -/
def execRef10Locked (s : State) : Out :=
  .next (
    if s.time.ref10 = .acquiring && decide (withinFrom s.time + durS 2 ≤ now s) then
      timeEvent { s with time := { s.time with ref10 := .locked } } 5 noPort 0 0 8
    else s)

/-- R76: four edges are missing, or the signal has left ±20 ppm. -/
def execRef10Lost (s : State) : Out :=
  .next (
    if s.time.ref10 = .acquiring || s.time.ref10 = .locked then timeEvent (freezeOsc s .frozen) 6 noPort 0 0 8 else s)

end Sys2Proof.Machine
end

