-- ==== Sys2Proof/Machine/Bramble.lean ====
section
/-! DEFINITION. Brambles (chapter 16): receiving Grinal frames, links, roster and roles, bramble time, spanning
conferences, mirrors, speaker decisions across members, DMA for peers, and peer messages. -/

namespace Sys2Proof.Machine

-- ## Receiving (R461 to R467)

/-- This module's member number as set up (R468). -/
def grnId (s : State) : Nat := getF s oGrnCfg 3 0
/-- The configured role: 0 MEMBER, 1 MASTER, 2 BACKUP. -/
def grnRole (s : State) : Nat := getF s oGrnCfg 5 4
def updGrnPort (s : State) (p : Nat) (f : GrnPort → GrnPort) : State := setGrnPort s p (f (getGrnPort s p))

/-- R463: a received frame with a good CRC that is dropped. `open_` marks the kinds taken from outside the roster. -/
def grnBad (s : State) (f : GrnFrame) (open_ : Bool) : Bool :=
  f.version != 1 || decide (10 < f.kind.toNat) || f.ttl == 0 || decide (f.payload.length > 9216) || !f.lengthOk
    || (!open_ && !(inRoster s f.src.toNat))

/-- R463: count a received frame. The answer is whether it goes on. A row brings frames of its own kind and of no kind; others
have their own rows. -/
def grnReceive (s : State) (f : GrnFrame) (kind : Nat) (open_ : Bool) : State × Bool :=
  let p := b2n f.west
  if !(running s) || !(getGrnPort s p).link || (f.kind.toNat != kind && decide (f.kind.toNat ≤ 10)) then (s, false)
  else if !f.crcOk then (grnPortCount s p gCrcErr 1, false)
  else
    let s1 := grnPortCount s p gRx 1
    if grnBad s f open_ then (grnPortCount s1 p gDropped 1, false) else (s1, true)

/-- R464 to R466: pass a frame on in its direction, or back where that port is wrapped. A frame whose TTL comes to 0 is
dropped and counted. -/
def grnPass (s : State) (f : GrnFrame) : State :=
  if f.ttl == 1 then grnPortCount s (b2n f.west) gDropped 1
  else
    let way := leavesBy s (!f.west)
    grnEmit s { f with west := way.1, ttl := f.ttl - 1, dirWest := way.1, wrapped := f.wrapped || way.2 }

/-- R465: the ACK that a frame of a kind has been given, when it was taken before. -/
def grnSeen (s : State) (f : GrnFrame) (kind : Nat) : Option (Nat × List Byte) :=
  ((((Tbl.get? s.grn.seen (16 * f.src.toNat + kind)).getD []).find? (fun x => x.1 == f.seq.toNat)).map (·.2))

/-- Remember that a frame has been taken, with its answer; the newest 4,096 of a source and kind are kept. -/
def grnNote (s : State) (f : GrnFrame) (kind status : Nat) (record : List Byte) : State :=
  let k := 16 * f.src.toNat + kind
  let old := (Tbl.get? s.grn.seen k).getD []
  { s with grn := { s.grn with seen := Tbl.put s.grn.seen k (((f.seq.toNat, status, record) :: old).take 4096) } }

/-- R464, R465: take in a frame of a forwarded kind. The answer is whether this module acts on it; `f` is the frame as it
goes on. A broadcast is taken once and stripped by its sender. -/
def grnTake (s : State) (f : GrnFrame) (kind : Nat) (open_ : Bool) : State × Bool :=
  let r := grnReceive s f kind open_
  if !r.2 || !(grnActive s) then (r.1, false)
  else if f.bcast then
    if f.src.toNat = grnId s then (r.1, false)
    else
      let s1 := grnPass r.1 f
      if (grnSeen s f kind).isSome then (s1, false) else (grnNote s1 f kind 0 [], true)
  else if f.dst.toNat = grnId s then (r.1, true)
  else (grnPass r.1 f, false)

/-- R465, R467: a frame of an acked kind: a duplicate is acked again; another is acted on, acked and remembered. -/
def grnAcked (s : State) (f : GrnFrame) (kind : Nat) (act : State → State × Nat × List Byte) : State :=
  let r := grnTake s f kind false
  if !r.2 then r.1
  else if f.bcast then (act r.1).1
  else
    match grnSeen r.1 f kind with
    | some a => sendAck r.1 f.src.toNat kind f.seq.toNat a.1 a.2
    | none =>
      let t := act r.1
      sendAck (grnNote t.1 f kind t.2.1 t.2.2) f.src.toNat kind f.seq.toNat t.2.1 t.2.2

-- ## Links (R464, R466)

/-- HELLO_SEND: every 2 µs on each port. -/
def helloSend (s : State) (p : Nat) : State :=
  let g := getGrnPort s p
  if !(running s) || !g.link || decide (now s < g.lastHelloSent + durUs 2) then s
  else
    let seq := nextSeqOfKind s 0
    let info := g.helloSeq % 2 ^ 24 * 2 ^ 24 + b2n (grnActive s) * 64 + grnRole s * 16 + grnId s
    let tx := bt96Frac (grnTxStamp s p)
    let s1 := setGrnPort { s with grn := { s.grn with seqs := Tbl.put s.grn.seqs 0 ((seq + 1) % 2 ^ 24) } } p
      { g with lastHelloSent := now s, helloTx := tx, helloTxSeq := seq }
    grnEmit s1 (grnOwn s1 (p == 1, false) 0 0 false false g.helloRx tx seq
      (leBytes 6 (Config.baseMac + word (3 + p)).toNat ++ leBytes 6 info))

def execHelloSend (west : Bool) (s : State) : Out := .next (helloSend s (b2n west))

/-- R464: half of the round trip without the neighbour's time, in 2^-48 s: t1 and t4 are this module's times, t2 and t3
the neighbour's. -/
def helloDelay (t1 t2 t3 t4 : Word) : Nat := ((((t4 - t1) - (t3 - t2)).toInt) / 2).toNat

/-- R464, R466: a HELLO from the neighbour, stamped at the cage. -/
def execHello (f : GrnFrame) (age : Nat) (s : State) : Out :=
  .next (
    let p := b2n f.west
    let received := bt96Frac (grnRxStamp s p age)
    let r := grnReceive s f 0 true
    if !r.2 then r.1
    else
      let info := leNat ((f.payload.drop 6).take 6)
      let joined := (info / 64) % 2 == 1
      updGrnPort r.1 p (fun g => { g with
        delays := if info / 2 ^ 24 = g.helloTxSeq then (helloDelay g.helloTx f.a f.b received :: g.delays).take 16
          else g.delays
        lastHello := now s
        helloRx := received
        helloSeq := f.seq.toNat
        neighbour := info % 16
        neighbourValid := joined
        neighbourMac := word (leNat (f.payload.take 6))
        presentSince := if joined then some (g.presentSince.getD (now s)) else none }))

/-- R464: the link delay in 2^-48 s, and in ps. -/
def GrnPort.delay (g : GrnPort) : Nat := if g.delays.isEmpty then 0 else g.delays.sum / g.delays.length
def GrnPort.delayPs (g : GrnPort) : Nat := g.delay * 10 ^ 12 / 2 ^ 48

def execGrinalLinkUp (west : Bool) (s : State) : Out :=
  .next (
    let p := b2n west
    let g := getGrnPort s p
    if grnPowered s p && g.plug = 2 && !g.link then
      setGrnPort s p { g with link := true, linkUpAt := now s, lastHello := now s, delays := [], presentSince := none }
    else s)

/-- R466: five consecutive HELLOs have been missed, or the last one carried JOINED 0. -/
def helloAbsent (s : State) (g : GrnPort) : Bool :=
  decide (now s ≥ g.lastHello + durUs 10) || (g.presentSince.isNone && decide (g.lastHello > g.linkUpAt))

/-- R466: a link is absent: an enabled module wraps the port. -/
def execGrinalLinkAbsent (west : Bool) (linkDown : Bool) (s : State) : Out :=
  .next (
    let p := b2n west
    let g := getGrnPort s p
    if !(running s) || !(linkDown || !g.link || helloAbsent s g) then s
    else
      let s1 := if linkDown then grnLinkOff s p else updGrnPort s p (fun g => { g with presentSince := none })
      if grnActive s && !g.wrapped then
        brambleEvent (grnPortCount (updGrnPort s1 p (fun g => { g with wrapped := true })) p gWraps 1) 2 (word (2 + p)) 8
      else s1)

/-- R466: the wrap ends once the link has been present for 1 ms without a break. -/
def execUnwrap (west : Bool) (s : State) : Out :=
  .next (
    let p := b2n west
    let g := getGrnPort s p
    match g.presentSince with
    | none => s
    | some t =>
      if running s && g.wrapped && g.link && decide (now s ≥ t + durMs 1) && !(helloAbsent s g) then
        brambleEvent (setGrnPort s p { g with wrapped := false }) 3 (word (2 + p)) 8
      else s)

-- ## Roster and roles (R468 to R473)

/-- GRN_TIMERS.LOSS_MS and BEACON_US as durations. -/
def lossDur (s : State) : Nat := durMs (getF s oGrnTimers 31 16)
def beaconNo (s : State) (t : Nat) : Nat := t * 1000000 / (second * max 1 (getF s oGrnTimers 47 32))

/-- A roster as a bit mask. -/
def rosterMask (ms : List Nat) : Nat := ((distinct ms).map (fun m => 2 ^ m)).sum

/-- R488, R489: the roster, master and epoch become these; what changed is posted while the module is in the roster. -/
def setRoster (s : State) (roster master epoch : Nat) (listed : Bool) : State :=
  let s1 := { s with grn := { s.grn with roster := roster, master := master, epoch := epoch % 2 ^ 24 } }
  let s2 := if listed && decide (s.grn.roster ≠ roster) then brambleEvent s1 0 (word roster) 8 else s1
  if listed && decide (s.grn.master ≠ master || s.grn.roster = 0) then brambleEvent s2 1 (word master) 8 else s2

/-- R469: the role that a JOIN carries: a configured master that found an acting one joins as backup until the operator
reclaims (R473). -/
def joinRole (s : State) : Nat := if s.grn.asBackup then (if s.grn.reclaiming then 1 else 2) else grnRole s

/-- R469, R487: broadcast a JOIN. -/
def sendJoin (s : State) : State :=
  let s1 := { s with grn := { s.grn with lastJoin := now s } }
  (grnSend s1 6 0 true false 0 0
    (descBytes { w0 := word (0xA86 * 2 ^ 36), w1 := word (joinRole s * 16 + grnId s) })).1

def execJoinRepeat (s : State) : Out :=
  .next (
    if grnActive s && s.grn.state != .master && s.grn.state != .disabled && decide (s.grn.beacons > 0)
        && decide (now s ≥ s.grn.lastJoin + durMs 10) then sendJoin s
    else s)

/-- R489: a conflict is posted. -/
def conflict (s : State) (kind : Nat) : State := brambleEvent s 4 (word kind) 8

/-- R470: a JOIN with the number of a roster member, from another MAC address. -/
def joinClash (s : State) (id : Nat) (mac : Word) : Bool :=
  id == grnId s || (inRoster s id && (match Tbl.get? s.grn.macs id with
    | some m => m != mac
    | none => false))

/-- R487: the words of the descriptor that a PEER frame carries, its opcode and its flags. -/
def peerWord (f : GrnFrame) (i : Nat) : Word := wordAt f.payload i
def peerOp (f : GrnFrame) : Nat := bits (peerWord f 0) 47 36
def peerFlags (f : GrnFrame) : Nat := bits (peerWord f 0) 35 24

/-- R469, R470: a JOIN is heard; the master refuses one that clashes. A member joins at the master's next beacon. -/
def execJoin (f : GrnFrame) (mac : Word) (s : State) : Out :=
  .next (
    let r := grnTake s f 6 true
    if !r.2 || peerOp f != 0xA86 then r.1
    else
      let id := bits (peerWord f 1) 3 0
      let s1 := r.1
      if s1.grn.state = .master && joinClash s1 id mac then
        conflict (sendAck s1 id 6 f.seq.toNat 0x105 []) 0
      else { s1 with grn := { s1.grn with
        heard := Tbl.put s1.grn.heard id (now s)
        macs := Tbl.put s1.grn.macs id mac
        roles := Tbl.put s1.grn.roles id (bits (peerWord f 1) 5 4) } })

/-- The members whose JOIN came within the last LOSS_MS, and this one (R472). -/
def heardNow (s : State) : List Nat :=
  distinct (grnId s :: (s.grn.heard.filter (fun p => decide (now s < p.2 + lossDur s))).map (·.1))

/-- R468, R473: the acting backup of a roster: the lowest member that joined as BACKUP; under an acting master, one that was
not in the roster at the takeover. -/
def backupOf (s : State) (ms : List Nat) : Option Nat :=
  ms.find? (fun m => Tbl.get? s.grn.roles m == some 2 && !(s.grn.acting && s.grn.barred.contains m))

/-- R465: the ring order: ascending member numbers from this module on (DESIGN CHOICE, assumption 45). -/
def ringOrder (roster : Nat) : List Nat := members roster

/-- R461, R462: send a beacon that names a master. -/
def sendBeacon (s : State) (master : Nat) : State :=
  let ms := members s.grn.roster
  let b := backupOf s ms
  let order := ringOrder s.grn.roster
  let s1 := { s with grn := { s.grn with backup := b, order := order, lastBeaconSent := now s } }
  let word_ := s.grn.roster * 2 ^ 32 + master * 2 ^ 28 + b.getD 0 * 2 ^ 24 + b2n b.isSome * 2 ^ 23
  let ring := (order.zipIdx.map (fun q => q.1 * 16 ^ q.2)).sum
  let at_ := grnTxStamp s (b2n (leavesBy s false).1)
  (grnSend s1 1 0 true false (word word_) 0
    (leBytes 6 (bt96Sec at_).toNat ++ leBytes 6 (bt96Frac at_).toNat ++ leBytes 6 0 ++ leBytes 8 ring)).1

/-- This module becomes the master of a roster (R472, R473), with EPOCH incremented. -/
def becomeMaster (s : State) (roster : Nat) (acting : Bool) : State :=
  setRoster { s with grn := { s.grn with
    state := .master
    acting := acting
    asBackup := false
    reclaiming := false
    backup := none
    barred := if acting then (members s.grn.roster).filter (fun m => m != s.grn.master) else []
    -- the next whole multiple of BEACON_US is the first to send
    lastBeaconSent := now s } } roster (grnId s) (s.grn.epoch + 1) true

/-- A module without a bramble that hears of it (R471). -/
def detach (s : State) : State := { s with grn := { s.grn with state := .detached } }

/-- R469, R472, R473: the master's beacon at a whole multiple of BEACON_US. A configured master that has heard no beacon for
LOSS_MS becomes master (assumption 46). -/
def execBeaconSend (s : State) : Out :=
  .next (
    if !(grnActive s) then s
    else if s.grn.state = .joining then
      if grnRole s = 1 && !s.grn.asBackup && decide (now s ≥ s.grn.lastBeacon + lossDur s)
          && decide (beaconNo s (s.grn.lastBeacon + lossDur s) < beaconNo s (now s)) then
        let s1 := becomeMaster s (2 ^ grnId s) false
        sendBeacon s1 (grnId s)
      else s
    else if s.grn.state != .master || decide (beaconNo s (now s) ≤ beaconNo s s.grn.lastBeaconSent) then s
    else
      let ms := members s.grn.roster
      let known := heardNow s
      if 2 * (ms.filter known.contains).length < ms.length then detach s
      else
        match (known.find? (fun m => m != grnId s && ms.contains m && s.grn.acting && Tbl.get? s.grn.roles m == some 1)) with
        | some m =>
          let s1 := sendBeacon s m
          { s1 with grn := { s1.grn with state := .member, acting := false, master := m, lastBeacon := now s, barred := [] } }
        | none =>
          let roster := rosterMask (ms ++ known)
          let s1 := if roster = s.grn.roster then s else setRoster s roster (grnId s) (s.grn.epoch + 1) true
          sendBeacon s1 (grnId s))

/-- R469: the master removes a member after LOSS_MS without a JOIN from it. -/
def execMemberLoss (m : Fin 16) (s : State) : Out :=
  .next (
    let k : Nat := m
    let last := (Tbl.get? s.grn.heard k).getD 0
    if grnActive s && s.grn.state = .master && inRoster s k && k != grnId s && decide (now s ≥ last + lossDur s) then
      let s1 := setRoster s (rosterMask ((members s.grn.roster).filter (fun x => x != k))) (grnId s) (s.grn.epoch + 1) true
      { s1 with grn := { s1.grn with seen := s1.grn.seen.filter (fun p => p.1 / 16 != k) } }
    else s)

/-- R471, R472: no beacon for LOSS_MS: the acting backup counts the members it has heard and takes over, or the module is
DETACHED. -/
def execBeaconLoss (s : State) : Out :=
  .next (
    if !(grnActive s) || !(s.grn.state = .member || s.grn.state = .detached)
        || decide (now s < s.grn.lastBeacon + lossDur s) then s
    else
      let known := heardNow s
      if s.grn.backup = some (grnId s) && decide (2 * known.length > (members s.grn.roster).length) then
        grnCount (becomeMaster s (rosterMask known) true) gTakeovers 1
      else detach s)

/-- R473: GRN_CFG.RECLAIM at a configured master that joined as backup; ignored elsewhere. -/
def reclaimWrite (s : State) : State :=
  if grnActive s && grnRole s = 1 && s.grn.asBackup && s.grn.state = .member then
    { s with grn := { s.grn with reclaiming := true } }
  else s

def execReclaim (s : State) : Out := .next (setupItem s (reclaimWrite s, .ok))

/-- R469, R490: membership starts or ends with GRN_CFG.EN. -/
def joinStart (s : State) : State :=
  { s with grn := { s.grn with
    state := .joining
    lastBeacon := now s
    beacons := 0
    asBackup := false
    reclaiming := false
    heard := []
    macs := []
    roles := []
    seen := [] } }
def leaveBramble (s : State) : State :=
  { s with grn := { s.grn with
    state := .disabled
    roster := 0
    master := 0
    backup := none
    order := []
    acting := false
    asBackup := false
    reclaiming := false
    barred := [] } }

/-- GRN_CFG: ROLE 0b11 is refused, and so is a new ROLE or MEMBER_ID while EN is 1. -/
def grnCfgWrite (s : State) (v : Word) : State × IStatus :=
  let old := regRaw s oGrnCfg
  if bits v 5 4 = 3 || (bitAt old 6 && (bits v 5 0 != bits old 5 0)) then (s, .refused)
  else
    let s1 := setRaw s oGrnCfg (v &&& word 0x7F)
    let s2 := if bitAt v 6 && !(bitAt old 6) then joinStart s1
      else if bitAt old 6 && !(bitAt v 6) then leaveBramble s1
      else s1
    (if bitAt v 7 then reclaimWrite s2 else s2, .ok)

def execGrnEnable (v : Word) (s : State) : Out :=
  .next (setupItem s (grnCfgWrite s v))

-- ## Bramble time and beacons (R469 to R475)

/-- R474: the OFFSET_SAMPLE of a beacon: the master's time at arrival is ORIGIN + CORR + the arrival link's delay. -/
def beaconSample (s : State) (f : GrnFrame) : State :=
  let p := b2n f.west
  let origin := leNat (f.payload.take 6) * second + leNat ((f.payload.drop 6).take 6) * 2 ^ 28
  let path := leNat ((f.payload.drop 12).take 6) + (getGrnPort s p).delay
  let off := (grnRxStamp s p 0 : Int) - ((origin + path * 2 ^ 28 : Nat) : Int)
  timeEvent s 0 (2 + p) (BitVec.ofInt 48 (offsetField off)) (word (delayField ((path * 2 ^ 28 : Nat) : Int))) 8

/-- R474: the frame as it goes on: CORR grows by the arrival link's delay and the residence time, which is a free value of
at most 250 ns. -/
def beaconOn (s : State) (f : GrnFrame) : State × GrnFrame :=
  let corr := leNat ((f.payload.drop 12).take 6)
  let stay := (freeVal s 17).toNat % 70369
  let grown := leBytes 6 (corr + (getGrnPort s (b2n f.west)).delay + stay)
  (nextFree s, { f with payload := f.payload.take 12 ++ grown ++ f.payload.drop 18 })

/-- R465: the ring order that a beacon carries. -/
def beaconRing (f : GrnFrame) (n : Nat) : List Nat :=
  let v := leNat ((f.payload.drop 18).take 8)
  (List.range n).map (fun i => v / 16 ^ i % 16)

/-- R469 to R474: what a beacon brings to a module that is not master. -/
def takeBeacon (s : State) (f : GrnFrame) : State :=
  let me := grnId s
  let roster := bits f.a 47 32
  let master := bits f.a 31 28
  let listed := (members roster).contains me
  let s1 := { s with grn := { s.grn with lastBeacon := now s, beacons := s.grn.beacons + 1 } }
  if s.grn.state = .conflict then s1
  else if master = me && s.grn.reclaiming then
    becomeMaster { s1 with grn := { s1.grn with epoch := f.epoch.toNat } } roster false
  else
    let s2 := { s1 with grn := { s1.grn with
      order := beaconRing f (members roster).length
      backup := if bitAt f.a 23 then some (bits f.a 27 24) else none
      acting := !((Tbl.get? s.grn.roles master).all (fun r => r == 1))
      asBackup := grnRole s = 1
      seen := s1.grn.seen.filter (fun p => (members roster).contains (p.1 / 16)) } }
    let s3 := if listed then
        let t := setRoster s2 roster master f.epoch.toNat true
        { t with grn := { t.grn with state := .member } }
      else
        let t := setRoster s2 roster master f.epoch.toNat false
        { t with grn := { t.grn with state := .joining } }
    let s4 := if listed && s3.grn.beacons % 16 = 0 then beaconSample s3 f else s3
    if !listed && decide (now s ≥ s.grn.lastJoin + durMs 10) then sendJoin s4 else s4

/-- R465, R470, R474: a beacon passes on with CORR grown, and is taken once. -/
def execBeacon (f : GrnFrame) (s : State) : Out :=
  .next (
    let r := grnReceive s f 1 true
    if !r.2 || !(grnActive s) || f.src.toNat = grnId s then r.1
    else
      let g := beaconOn r.1 f
      let s1 := grnPass g.1 g.2
      if (grnSeen s f 1).isSome then s1
      else
        let s2 := grnNote s1 f 1 0 []
        if s2.grn.state = .master then
          if grnId s > f.src.toNat then
            conflict { s2 with grn := { s2.grn with state := .conflict, acting := false } } 1
          else s2
        else takeBeacon s2 f)

-- ## ACKs (R467)

/-- What a command that waited on a peer does once the peer has agreed. -/
def peerGo (s : State) (i : Inflight) (d : Desc) (block : List Word) : Body :=
  let op := descOpcode d
  if op = 0x220 then legCreateFinish s d
  else if op = 0x223 then layersFinish s d
  else if op = 0x400 then decFinish s d i.slot i.ring
  else mixFinish s d i.slot i.ring block

/-- R476: a command that the peer refused, or that no peer answered, ends; a mirror made for it is released. -/
def peerEnd (s : State) (i : Inflight) (d : Desc) (status : Nat) : State :=
  let w := if descOpcode d = 0x223 then some d.w3 else if descOpcode d = 0x400 then some d.w1 else none
  let s1 := completeInflight s i status 0 0
  settle (match w.bind (mirrorFor s1) with
    | some c => releaseMirror s1 c
    | none => s1)

/-- The command that waits for the ACK of a peer message. -/
def peerWaiting (s : State) (seq : Nat) : Option (Inflight × Desc × List Word) :=
  s.hci.inflight.findSome? (fun i => match i.wait with
    | .peer q d b => if q = seq then some (i, d, b) else none
    | _ => none)

/-- An acked frame has ended with a status: its command or its transfer goes on. -/
def unackedEnd (s : State) (u : Unacked) (status : Nat) : State :=
  let s1 := { s with grn := { s.grn with unacked := s.grn.unacked.erase u } }
  match u.xfer with
  | some id => if status = 0 then finishXfer s1 id else endXfer s1 id status false
  | none =>
    if u.kind != 6 then s1
    else
      match peerWaiting s1 u.seq with
      | none => s1
      | some (i, d, b) =>
        if status != 0 then peerEnd s1 i d status
        else
          match peerGo s1 i d b with
          | .reply s2 st w1 w3 => settle (completeInflight s2 i st w1 w3)
          | .waits s2 _ => s2

/-- R467, R470, R479: an ACK. One that refuses a JOIN puts this module into CONFLICT. Word 1 of the record of a
PRESERVE_FETCH is the number that the source no longer held (assumption 47). -/
def execAck (f : GrnFrame) (s : State) : Out :=
  .next (
    let r := grnTake s f 0xA false
    if !r.2 then r.1
    else
      let kind := bits f.a 47 44
      let status := bits f.b 11 0
      match r.1.grn.unacked.find? (fun u => u.kind == kind && u.seq == bits f.a 23 0 && u.dst == f.src.toNat) with
      | some u =>
        let gone_ := if kind = 6 && status = 0 && u.payload.take 6 == leBytes 6 (0xA84 * 2 ^ 36) then
            (wordAt f.payload 1).toNat else 0
        unackedEnd (grnCount r.1 gFetchGone gone_) u status
      | none =>
        if kind = 6 && status = 0x105 && r.1.grn.state = .joining then
          conflict { r.1 with grn := { r.1.grn with state := .conflict } } 0
        else r.1)

/-- R467: an acked frame is sent again with its SEQ, or its operation ends with 0x403. -/
def execAckTimeout (seq : BitVec 24) (s : State) : Out :=
  .next (
    match s.grn.unacked.find? (fun u => u.seq == seq.toNat && decide (now s ≥ u.due)) with
    | none => s
    | some u =>
      if !(running s) then s
      else if u.resends < getF s oGrnTimers 3 0 then
        let way := leavesBy s (goesWest s u.dst)
        let s1 := { s with grn := { s.grn with unacked := s.grn.unacked.map (fun x =>
          if x = u then { x with resends := x.resends + 1, due := now s + durUs (getF s oGrnTimers 15 4) } else x) } }
        grnEmit s1 (grnOwn s1 way u.kind u.dst false u.conceded u.a u.b u.seq u.payload)
      else unackedEnd (grnCount s gPeerTimeouts 1) u 0x403)

-- ## Peer messages (R487)

/-- The bytes of the completion record that answers a peer message. -/
def peerRecord (s : State) (f : GrnFrame) (status : Nat) (w1 : Word) : List Byte :=
  let r := mkRec s ((peerWord f 0).setWidth 24) 0 status w1 0
  wordBytes [r.w0, r.w1, r.w2, r.w3]

/-- A peer message of opcode `op`: `act` answers its effect, status and word 1. An opcode that the table does not list is
answered with 0x100; a listed one has its own row. -/
def peerMsg (s : State) (f : GrnFrame) (op : Nat) (act : State → State × Nat × Word) : State :=
  if peerOp f != op && decide (0xA80 ≤ peerOp f) && decide (peerOp f ≤ 0xA86) then s
  else
    settle (grnAcked s f 6 (fun s =>
      let r := if peerOp f = op then act s else (s, 0x100, 0)
      (r.1, r.2.1, peerRecord r.1 f r.2.1 r.2.2)))

/-- An own object that a peer names: its number, or none (0x104). -/
def ownNamed (s : State) (ty : Nat) (w : Word) (ex : Nat → Bool) : Option Nat :=
  if hType w = ty && hMember w = ownMember s && ex (hIndex w) then some (hIndex w) else none

/-- R476, R477. -/
def confAttach (s : State) (member : Nat) (w : Word) : State × Nat × Word :=
  match (ownNamed s 3 w (confNamed s)).bind (fun n => (getConf s n).map (fun c => (n, c))) with
  | none => (s, 0x104, 0)
  | some (n, c) =>
    if !c.span then (s, 0x108, 0)
    else ({ s with media := { s.media with confs := Tbl.put s.media.confs n { c with
        attached := if c.attached.contains member then c.attached else c.attached ++ [member] } } }, 0, 0)

def execConfAttach (f : GrnFrame) (s : State) : Out :=
  .next (peerMsg s f 0xA80 (fun s => confAttach s f.src.toNat (peerWord f 1)))

def confDetach (s : State) (member : Nat) (w : Word) : State × Nat × Word :=
  match (ownNamed s 3 w (confNamed s)).bind (fun n => (getConf s n).map (fun c => (n, c))) with
  | none => (s, 0x104, 0)
  | some (n, c) =>
    ({ s with media := { s.media with confs := Tbl.put s.media.confs n { c with
        attached := c.attached.filter (fun x => x != member)
        joined := c.joined.filter (fun x => x != member) } } }, 0, 0)

def execConfDetach (f : GrnFrame) (s : State) : Out :=
  .next (peerMsg s f 0xA81 (fun s => confDetach s f.src.toNat (peerWord f 1)))

/-- A source that a peer may read: an INBOUND_MEDIA or PRODUCED context that the host can name. -/
def sourceNamed (s : State) (c : Nat) : Bool := ctxNamed s c && (kindOf s c == 1 || kindOf s c == 5)

/-- R478: a member subscribes to a source here, or ends its subscription with 0xFF. -/
def streamSubscribe (s : State) (member : Nat) (w1 w2 : Word) : State × Nat × Word :=
  match ownNamed s 1 w1 (sourceNamed s) with
  | none => (s, 0x104, 0)
  | some c =>
    let rest := fun (x : Stream) => x.remote.filter (fun r => r.1 != member)
    if bits w2 7 0 = 0xFF then (updCtx s c (fun x => { x with remote := rest x }), 0, 0)
    else if bits w2 7 4 ≥ spatialCount s c || bits w2 3 0 ≥ temporalCount s c then (s, 0x143, 0)
    else (updCtx s c (fun x => { x with remote := rest x ++ [(member, bits w2 7 4, bits w2 3 0)] }), 0, 0)

def execStreamSubscribe (f : GrnFrame) (s : State) : Out :=
  .next (peerMsg s f 0xA82 (fun s => streamSubscribe s f.src.toNat (peerWord f 1) (peerWord f 2)))

/-- R479: a request from a member is handled as a leg's own (R226, R347). -/
def execKeyPictureRequest (f : GrnFrame) (s : State) : Out :=
  .next (peerMsg s f 0xA83 (fun s =>
    match ownNamed s 1 (peerWord f 1) (sourceNamed s) with
    | none => (s, 0x104, 0)
    | some c => (keyRequest s c (peerFlags f % 2 == 1), 0, 0)))

/-- R479: the packets of a source that the Preserve still holds go to a member as MEDIA; the others are counted. -/
def fetchFor (s : State) (member c first n : Nat) : State × Nat :=
  match n with
  | 0 => (s, 0)
  | n + 1 =>
    let r := match (ownRecs s c).find? (fun r => r.seq == first) with
      | some x => readRec s x.pos
      | none => (s, none)
    let t := match r.2 with
      | some x =>
        if mediaOn s then
          ((grnSend r.1 2 member false x.conceded (ownHandle s 1 c) (word x.seq) (dramRead r.1 (rowAddr r.1 x.pos + 48) x.len)).1, 0)
        else (r.1, 0)
      | none => (r.1, 1)
    let u := fetchFor t.1 member c (first + 1) n
    (u.1, t.2 + u.2)

def execPreserveFetch (f : GrnFrame) (s : State) : Out :=
  .next (peerMsg s f 0xA84 (fun s =>
    match ownNamed s 1 (peerWord f 1) (sourceNamed s) with
    | none => (s, 0x104, 0)
    | some c =>
      let n := bits (peerWord f 3) 6 0
      if n = 0 || n > 64 then (s, 0x108, 0)
      else
        let r := fetchFor s f.src.toNat c (peerWord f 2).toNat n
        (r.1, 0, word r.2)))

def execMixJoin (f : GrnFrame) (s : State) : Out :=
  .next (peerMsg s f 0xA85 (fun s =>
    match ownNamed s 3 (peerWord f 1) (confNamed s) with
    | none => (s, 0x104, 0)
    | some n =>
      let r := joinHome s n f.src.toNat (peerWord f 2) (peerWord f 3)
      (r.1, r.2, 0)))

-- ## Mirrors (R478, R479)

/-- R478: a packet of a mirror joins stage 5 with its arrival time here. -/
def execMedia (f : GrnFrame) (h : RtpFacts) (s : State) : Out :=
  .next (
    let r := grnTake s f 2 false
    if !r.2 || !(mediaOn s) then r.1
    else
      match (mirrorFor r.1 f.a).bind (fun c => (getCtx r.1 c).map (fun x => (c, x))) with
      | none => r.1
      | some (c, x) =>
        let ext := f.b.toNat
        if heldAlready r.1 c x ext then r.1
        else
          let s1 := ctxCount (ctxCount r.1 c 0x00 1) c 0x01 f.payload.length
          match getCtx s1 c with
          | none => s1
          | some y => settle (storePacket s1 c y (now s) ext (8 * plainFrame f.payload.length)
              { h with bytes := f.payload } f.conceded))

/-- The first missing numbers of a mirror that lie one after the other, 64 at most. -/
def runFrom (first : Nat) (xs : List Nat) (n : Nat) : Nat :=
  match n with
  | 0 => 0
  | n + 1 => if xs.contains first then runFrom (first + 1) xs n + 1 else 0

/-- R479: numbers missing for 2 ms are fetched, once. -/
def execMirrorGapTimeout (ctx : Nat) (s : State) : Out :=
  .next (
    match getCtx s ctx with
    | none => s
    | some x =>
      match x.mirrorOf with
      | none => s
      | some h =>
        let due := (x.missing.filter (fun m => m.nacks == 0 && decide (now s ≥ m.seenAt + durMs 2))).map (fun m => m.seq)
        match due.head? with
        | none => s
        | some q0 =>
          let first := due.foldl min q0
          let n := runFrom first due 64
          if !(mediaOn s) || !(grnActive s) || !(inRoster s (hMember h)) then s
          else
            let s1 := updCtx s ctx (fun x => { x with missing := x.missing.map (fun m =>
              if decide (first ≤ m.seq) && decide (m.seq < first + n) then { m with nacks := 1, lastNack := now s } else m) })
            (peerSend (grnCount s1 gMirrorGaps n) (hMember h) 0xA84 0 h (word first) (word n) none).1)

-- ## Audio across members (R480 to R484)

/-- The spanning groups of a conference code here. -/
def spanGroups (s : State) (code : Nat) : List (Nat × Mix) :=
  s.units.mixes.filter (fun p => match p.2.span with
    | some w => confCode w == code
    | none => false)

/-- R462: the reports of a RANK_REPORT payload. -/
def reportsOf (bs : List Byte) : List (Nat × Int × Bool) :=
  ((bytesWords (bs.length / 6) bs).take 18).map (fun w => (bits w 16 0, ((bits w 47 32 : Nat) : Int), bitAt w 31))

def execRankReport (f : GrnFrame) (s : State) : Out :=
  .next (
    let r := grnTake s f 4 false
    if !r.2 || r.1.grn.state != .master then r.1
    else takeReport r.1 (bits f.a 17 0) (bits f.a 23 19) (bits f.a 47 40) (bits f.a 39 32) (bits f.a 31 24) f.src.toNat
      f.b.toNat (reportsOf f.payload))

/-- R483: a decision's prediction word at the group that hosts the predicted speaker: the outcome for this boundary, and an
entry when a prediction is open there. A prediction that the master no longer holds is discarded. -/
def followPrediction (s : State) (g b : Nat) (w : Word) : State :=
  match getMix s g with
  | none => s
  | some m =>
    let s1 := match m.prediction with
      | none => s
      | some e =>
        if e.boundary = b then
          updMix (resolveEntry s e.entry (if bits w 46 45 = 1 then 1 else 3)) g (fun m => { m with prediction := none })
        else if bitAt w 47 && e.newcomer == bits w 16 0 && bits w 20 17 == ownMember s && e.boundary == b + bits w 28 21 then s
        else dropPrediction s g
    match getMix s1 g with
    | none => s1
    | some m =>
      if !(bitAt w 47) || bits w 20 17 != ownMember s || m.prediction.isSome || (receives s1 g (bits w 16 0)).isNone then s1
      else openPrediction s1 g (bits w 16 0) (((m.seats[bits w 44 41]?).bind (fun t => t.speaker)).getD 0) (b + bits w 28 21)

/-- R480, R482: a decision for boundary `b` reaches the groups of a conference here. -/
def decide_ (s : State) (code b : Nat) (ws : List Word) : State :=
  (spanGroups s code).foldl (fun s p =>
    followPrediction (updMix s p.1 (fun m => { m with decision := some (b, ws) })) p.1 b (ws.getD (p.2.k + 2) 0)) s

/-- R471, R480: a decision of the master; a module that is not a member applies none. -/
def execSeatDecision (f : GrnFrame) (s : State) : Out :=
  .next (
    let r := grnTake s f 5 false
    if !r.2 || r.1.grn.state != .member || f.src.toNat != r.1.grn.master then r.1
    else settle (decide_ r.1 (bits f.a 17 0) f.b.toNat (bytesWords (f.payload.length / 6) f.payload)))

/-- A speaker across members: member × 2^17 + leg. -/
def spanSpeaker (member leg : Nat) : Nat := member * 131072 + leg

/-- R480: the last scores of every sender that the roster's members have reported, with the missing mark. -/
def mergedScores (s : State) (g : Merge) : List (Nat × Int × Bool) :=
  (g.reports.filter (fun r => inRoster s r.1)).flatMap (fun r =>
    r.2.2.map (fun x => (spanSpeaker r.1 x.1, x.2.1, x.2.2 || r.2.1 != g.m)))

/-- R379, R481: a seated speaker whose seat is emptied: its member has left the roster; or that member's report for the
period has room and does not list it; or it has been missing for 1 s. -/
def mergeGone (s : State) (g : Merge) (periods : Nat) (x : Nat) : Bool :=
  let member := x / 131072
  !(inRoster s member) || decide (Tbl.count g.silent x ≥ periods)
    || (match Tbl.get? g.reports member with
        | some r => r.1 == g.m && decide (r.2.length < g.k + 2) && !(r.2.any (fun y => y.1 == x % 131072))
        | none => false)

/-- R482: the words of a decision. -/
def speakerWord (x : Option Nat) : Word :=
  match x with
  | some v => word (2 ^ 47 + v / 131072 * 2 ^ 17 + v % 131072)
  | none => 0
def decisionWords (g : Merge) (b : Nat) (outcome : Option Nat) : List Word :=
  let out := match outcome with
    | some 1 => 1
    | some _ => 2
    | none => 0
  let pred := match g.prediction with
    | some (h, w, at_) =>
      2 ^ 47 + (g.seats.findIdx (fun t => t.speaker == some w)) % 16 * 2 ^ 41 + (at_ - b) % 256 * 2 ^ 21
        + h / 131072 * 2 ^ 17 + h % 131072
    | none => 0
  (g.seats.map (fun t => speakerWord t.speaker)).take g.k
    ++ [speakerWord (g.challengers[0]?.map (·.1)), speakerWord (g.challengers[1]?.map (·.1)), word (pred + out * 2 ^ 45)]

/-- R480: whether the master may merge the reports of a period now: T/2 after its start, which a group of its own tells; a
master without one may merge from the first report on (assumption 48). -/
def mergeDue (s : State) (code : Nat) (g : Merge) : Bool :=
  match (spanGroups s code).head? with
  | some p => decide (now s ≥ p.2.startOf g.m + p.2.period / 2)
  | none => decide (now s ≥ g.since)

/-- R480 to R482: the master merges and evaluates for boundary m + 1, and broadcasts its decision. -/
def execSeatMerge (group : Nat) (s : State) : Out :=
  .next (
    match Tbl.get? s.grn.merges group with
    | none => s
    | some g =>
      if !(grnActive s) || s.grn.state != .master || g.merged || !(mergeDue s group g) then s
      else
        let xs := mergedScores s g
        let score := fun v => ((xs.find? (fun x => x.1 == v)).map (fun x => x.2.1)).getD 0
        let missing := fun v => ((xs.find? (fun x => x.1 == v)).map (fun x => x.2.2)).getD true
        let seated := g.seats.filterMap (fun t => t.speaker)
        let silent := (seated.filter missing).foldl (fun t v => Tbl.put t v (Tbl.count g.silent v + 1)) []
        let periods := if ((spanGroups s group).head?.map (fun p => p.2.period20)).getD true then 50 else 100
        let g1 := { g with silent := silent }
        let v := evaluate g.k g.hold g.hyst g.floor (g.m + 1) score missing (mergeGone s g1 periods) (xs.map (·.1))
          ⟨g.seats, g.challengers⟩ g.prediction false
        let kept := if v.outcome.isSome || v.close then none else g.prediction
        let g2 : Merge := { g1 with
          merged := true
          seats := v.ballot.seats
          challengers := v.ballot.challengers
          prediction := match v.opens with
            | some p => some p
            | none => kept }
        let ws := decisionWords g2 (g.m + 1) v.outcome
        let s1 := { s with grn := { s.grn with merges := Tbl.put s.grn.merges group g2 } }
        settle (decide_ (grnSend s1 5 0 true false (word group) (word (g.m + 1)) (wordBytes ws)).1 group (g.m + 1) ws))

/-- R483: without a decision by T/4 before the boundary, the prediction is discarded. -/
def execDecisionMissing (group : Nat) (s : State) : Out :=
  .next (
    match getMix s group with
    | none => s
    | some m =>
      match m.span, m.prediction with
      | some _, some e =>
        if running s && decide (now s + m.period / 4 ≥ m.startOf e.boundary) && (m.decision.map (·.1)) != some e.boundary then
          settle (dropPrediction s group)
        else s
      | _, _ => s)

/-- R462: the samples of a partial sum. -/
def samplesOf (bs : List Byte) : List Int := (bytesWords (bs.length / 6) bs).map (fun w => w.toInt)

/-- R484: a partial sum of a member is held for the mixes of its period. -/
def execPartialMix (f : GrnFrame) (s : State) : Out :=
  .next (
    let r := grnTake s f 3 false
    if !r.2 || !(mediaOn s) then r.1
    else (spanGroups r.1 (bits f.a 17 0)).foldl (fun s p =>
      if decide (f.b.toNat + 2 < p.2.m) || p.2.partials.any (fun q => q.1 == f.src.toNat && q.2.1 == f.b.toNat) then s
      else updMix s p.1 (fun m => { m with
        partials := m.partials ++ [(f.src.toNat, f.b.toNat, f.conceded, samplesOf f.payload)] })) r.1)

/-- R484: the mixes of a period are built from the partial sums of the members that host its seated speakers; one that has
not come counts as silence. -/
def buildSpan (s : State) (g : Nat) (m : Mix) (n p : Nat) (seats : List Seat) : State :=
  let hosts := distinct (seats.filterMap (fun t => t.speaker.map (fun _ => t.member)))
  let got := hosts.filterMap (fun h => m.partials.find? (fun q => q.1 == h && q.2.1 == n))
  let m1 := { m with seats := seats }
  let own := ownMember s
  let mine := (m.own.filter (fun q => q.1 == n)).map (fun q => (q.2.1, q.2.2))
  let s1 := grnCount s gPartialMissing (hosts.length - got.length)
  let s2 := updMix s1 g (fun m => { m with
    building := m.building.filter (fun q => q.1 != n)
    partials := m.partials.filter (fun q => decide (n < q.2.1))
    own := m.own.filter (fun q => decide (n < q.1)) })
  oweFrames (buildMixes s2 g m1 own (addSamples m.samples (got.map (fun q => q.2.2.2))) mine) g m1 n p own []
    (got.any (fun q => q.2.2.1))

/-- R484: during period m + 1, as soon as every partial sum is there or at its start plus T/4. -/
def execPartialMixDeadline (group : Nat) (s : State) : Out :=
  .next (
    match getMix s group with
    | none => s
    | some m =>
      match m.building with
      | [] => s
      | (n, p, seats) :: _ =>
        let hosts := distinct (seats.filterMap (fun t => t.speaker.map (fun _ => t.member)))
        let all := hosts.all (fun h => m.partials.any (fun q => q.1 == h && q.2.1 == n))
        let start := m.startOf (n + 1)
        if mediaOn s && decide (now s ≥ start) && (all || decide (now s ≥ start + m.period / 4)) then
          settle (buildSpan s group m n p seats)
        else s)

-- ## DMA for peers (R486)

/-- R419, R486: the bytes of a peer's write lie in the regions that DMA may write. -/
def execDmaWrite (f : GrnFrame) (s : State) : Out :=
  .next (grnAcked s f 7 (fun s =>
    if insideAny s (endpointRegions false) f.a.toNat f.payload.length then (dramWrite s f.a.toNat f.payload, 0, [])
    else (s, 0x1A2, [])))

/-- R486: a peer's read is acknowledged and served; one that meets held pages waits for them and pulls their entries forward
(R89, R93). -/
def execDmaRead (f : GrnFrame) (s : State) : Out :=
  .next (
    let n := bits f.b 13 0
    settle (grnAcked s f 8 (fun s =>
      if n = 0 || n > 8192 || !(insideAny s (endpointRegions true) f.a.toNat n) then (s, 0x1A2, [])
      else
        let r : PeerRead := { member := f.src.toNat, addr := f.a.toNat, len := n, number := bits f.b 47 24 }
        if (heldBy s r.addr r.len).isEmpty then (sendData s r, 0, [])
        else
          let s1 := pullHeld s r.addr r.len (now s)
          ({ s1 with dma := { s1.dma with peerReads := s1.dma.peerReads ++ [r] } }, 0, []))))

/-- R486: bytes that a peer sends for a transfer. -/
def execDmaData (f : GrnFrame) (s : State) : Out :=
  .next (
    let r := grnTake s f 9 false
    if !r.2 then r.1
    else
      match r.1.dma.xfers.find? (fun p => p.1 % 2 ^ 24 == bits f.b 47 24 && p.2.shape.src.kind == 2
          && p.2.shape.src.sel % 16 == f.src.toNat) with
      | none => r.1
      | some (id, x) => setXfer r.1 id { x with
          got := writeBytes x.got f.a.toNat f.payload
          gotBytes := x.gotBytes + f.payload.length
          conceded := x.conceded || f.conceded })

-- ## Query (R488)

def execBrambleQuery (c : Cmd) (s : State) : Out :=
  .next (runRing s 0xA00 c fun s =>
    let sel := bits c.w1 7 0
    let masks := [[0xFF], [0xFF, 1], [0xFF, 0x7F]].getD sel []
    let sl := getSlot s c.slot
    let q := bits c.w2 5 0
    let g := getGrnPort s (bits c.w2 0 0)
    guarded s [(decide (2 < sel), 0x108), (reservedBad c 0 masks, 0x101),
        (sel == 2 && bitAt c.w2 6 && noQueue s c.slot q, 0x112), (!(inBramble s), 0x1D0)]
      (match sel with
        | 0 => .reply s 0 (word (s.grn.roster * 2 ^ 32 + s.grn.master * 2 ^ 28 + s.grn.backup.getD 0 * 2 ^ 24
            + b2n s.grn.backup.isSome * 2 ^ 23 + grnId s)) (word s.grn.epoch)
        | 1 => .reply s 0 (word g.delayPs) (word (b2n g.neighbourValid * 16 + g.neighbour))
        | _ => .reply (setSlot s c.slot { sl with
            brambleSub := if bitAt c.w2 6 then some { queue := q, mask := 0, tag := c.tag, ring := c.ring } else none })
            0 0 0))

end Sys2Proof.Machine
end

