-- ==== Sys2Proof/Machine/MgmtPort.lean ====
section
/-! DEFINITION. The management port (R163 to R169, R208 to R211): frames in, what they are, and frames out. -/

namespace Sys2Proof.Machine

/-- MGMT is up in every state but Off and Starting; during a start its link comes up in phase 4 (R521). -/
def mgmtOn (s : State) : Bool := s.power.st ≠ .off && s.power.st ≠ .starting

/-- MGMT has a link and the module answers on it. -/
def mgmtAnswers (s : State) : Bool := mgmtOn s && s.mgmt.link

/-- The clock of MGMT and Oxvan, in 2^-76 s: bridge time (R32), and in Windfall mode, where the time base does not run, the
always-on controller's clock. -/
def mgmtTime (s : State) : Nat := if s.power.st = .windfall then s.power.aon * second / 800000000 else now s

-- ## The link (R210)

/-- R210: the speed and duplex of the link with a partner that has the given abilities, at 10, 100 and 1000 Mbit/s full
duplex and at 10 and 100 Mbit/s half duplex, the lowest speed in bit 0: with AUTONEG 1 the highest
that both ends have, by the order of Clause 28; else what MGT_CTRL forces, which at 1000 Mbit/s is negotiated as 1000BASE-T
full duplex. None where no link forms. -/
def mgmtSpeed (s : State) (full : BitVec 3) (half : BitVec 2) : Option (BitVec 2 × Bool) :=
  if getB s oMgtCtrl 0 then
    if getB s oMgtCtrl 8 && full.getLsbD 2 then some (2, false)
    else if getB s oMgtCtrl 7 && full.getLsbD 1 then some (1, false)
    else if getB s oMgtCtrl 6 && half.getLsbD 1 then some (1, true)
    else if getB s oMgtCtrl 5 && full.getLsbD 0 then some (0, false)
    else if getB s oMgtCtrl 4 && half.getLsbD 0 then some (0, true) else none
  else if getF s oMgtCtrl 2 1 = 2 then (if full.getLsbD 2 then some (2, false) else none)
  else some (BitVec.ofNat 2 (getF s oMgtCtrl 2 1), getB s oMgtCtrl 3)

/-- Half duplex, where R211 holds; it never runs at 1000 Mbit/s. -/
def mgmtHalf (s : State) : Bool := s.mgmt.half && s.mgmt.speed != 2

/-- At full duplex the frames that wait leave in order. -/
def mgmtFlush (s : State) : State :=
  if s.mgmt.link && !(mgmtHalf s) then
    emits { s with mgmt := { s.mgmt with queue := [], attempt := 0 } } (s.mgmt.queue.map Emission.mgmt)
  else s

/-- A frame is to be sent. Without a link it waits for one (DESIGN CHOICE, assumption 109). -/
def mgmtSend (s : State) (f : MgmtOut) : State := mgmtFlush { s with mgmt := { s.mgmt with queue := s.mgmt.queue ++ [f] } }

def execMgmtLinkChange (up : Bool) (full : BitVec 3) (half : BitVec 2) (s : State) : Out :=
  .next (
    if s.power.st = .off then s
    else
      let m := { s.mgmt with link := false, attempt := 0, backoffUntil := none }
      match up, mgmtSpeed s full half with
      | true, some r => mgmtFlush { s with mgmt := { m with link := true, speed := r.1, half := r.2 } }
      | _, _ => { s with mgmt := m })

-- ## Addresses and frames in (R163, R164, R169, R208, R209)

/-- R209: the link-local address of BASE_MAC: fe80::/64 with the modified EUI-64 identifier. -/
def linkLocal : Nat :=
  let mac := Config.baseMac.toNat
  0xFE80 * 2 ^ 112 + ((mac / 2 ^ 24) ^^^ 0x020000) * 2 ^ 40 + 0xFFFE * 2 ^ 24 + mac % 2 ^ 24

/-- The global IPv6 address while it is enabled. -/
def mgmtGlobal6 (s : State) : Option Nat :=
  if getB s oMgtIp6C 32 then
    some (getF s oMgtIp6C 31 0 * 2 ^ 96 + (regRaw s oMgtIp6B).toNat * 2 ^ 48 + (regRaw s oMgtIp6A).toNat)
  else none

/-- R209: the addresses of MGMT. -/
def mgmtOwns (s : State) (a : Addr) : Bool :=
  if a.v6 then a.bits.toNat == linkLocal || mgmtGlobal6 s == some a.bits.toNat
  else getB s oMgtIp4 32 && a.bits.toNat == getF s oMgtIp4 31 0

/-- R208: the Ethernet destinations that MGMT accepts: its own, broadcast, and the solicited-node addresses of its IPv6
addresses. -/
def mgmtMacOk (s : State) (m : Word) : Bool :=
  m == Config.baseMac || m == word (2 ^ 48 - 1)
    || (linkLocal :: (mgmtGlobal6 s).toList).any (fun a => m == word (0x3333FF000000 + a % 2 ^ 24))

/-- An Oxvan message of a datagram of at least 16 bytes with right MAGIC and VERSION (R164, R165). -/
structure OxMsg where
  station : Station
  /-- the Ethernet source and the MGMT address that the reply goes to and from -/
  mac : Word
  own : Addr
  port : BitVec 16
  type : BitVec 8
  session : BitVec 32
  seq : BitVec 32
  count : Nat
  len : Nat
  /-- every reserved byte, STATUS and ISTATUS is zero -/
  clean : Bool
  items : List OxItem
  deriving DecidableEq, Repr

/-- Bytes `i` to `i` + `n` - 1 as a number, least significant first. -/
def leAt (bs : List Byte) (i n : Nat) : Nat := leNat ((bs.drop i).take n)

/-- R165: the item of 16 bytes at a place, and whether its ISTATUS and reserved bytes are zero. -/
def oxItemAt (bs : List Byte) (i : Nat) : OxItem × Bool :=
  ({ op := BitVec.ofNat 8 (leAt bs i 1), offset := BitVec.ofNat 24 (leAt bs (i + 2) 3), value := word (leAt bs (i + 6) 6) },
    leAt bs (i + 1) 1 == 0 && leAt bs (i + 5) 1 == 0 && leAt bs (i + 12) 4 == 0)

/-- R164: the message that a datagram spells. -/
def oxMsgOf (mac : Word) (src own : Addr) (sport dport : BitVec 16) (bs : List Byte) : OxMsg :=
  let its := (List.range ((bs.length - 16) / 16)).map (fun k => oxItemAt bs (16 + 16 * k))
  { station := { addr := src, port := sport }, mac := mac, own := own, port := dport
    type := BitVec.ofNat 8 (leAt bs 3 1), session := BitVec.ofNat 32 (leAt bs 4 4), seq := BitVec.ofNat 32 (leAt bs 8 4)
    count := leAt bs 12 1, len := bs.length, clean := leAt bs 13 3 == 0 && its.all (·.2), items := its.map (·.1) }

/-- What MGMT makes of a frame: it ignores it, drops it and counts it in a field of MGT_COUNT or in GLB_OXVAN_COUNT, or
processes it. -/
inductive MgmtTake where
  | ignored
  | badFcs
  | dropped
  | oxDropped
  | oxvan (m : OxMsg)
  | arp (target : Addr)
  | echo (src dst : Addr) (data : List Byte)
  deriving DecidableEq, Repr

/-- R163, R164, R166, R169, R208: what MGMT makes of a frame. -/
def mgmtTake (s : State) (f : MgmtFrame) : MgmtTake :=
  let port := BitVec.ofNat 16 s.oxvan.port
  if !f.fcsOk then .badFcs
  else if f.body = .pause then .ignored
  else if !(mgmtMacOk s f.dst) then .dropped
  else
    match f.body with
    | .udp src dst sport dport bs =>
      if !(mgmtOwns s dst) || dport ≠ port then .dropped
      else if bs.length < 16 || leAt bs 0 3 ≠ 0x01584F || leAt bs 3 1 ≥ 0x80 then .oxDropped
      else .oxvan (oxMsgOf f.src src dst sport dport bs)
    | .fragment (some p) => if p = port then .oxDropped else .dropped
    | .arp target => if mgmtOwns s target then .arp target else .ignored
    | .echo src dst data => if mgmtOwns s dst && getB s oMgtCtrl 9 then .echo src dst data else .dropped
    | _ => .dropped

/-- The rows of MGMT below carry a frame that MGMT makes of what the row names; another frame changes nothing there, and is
carried by its own row (DESIGN CHOICE, assumption 109). -/
def execMgmtArp (f : MgmtFrame) (s : State) : Out :=
  .next (
    if !(mgmtAnswers s) then s
    else
      match mgmtTake s f with
      | .arp target => mgmtSend s { dst := f.src, body := .arpReply target }
      | _ => s)

/-- R208: echo is answered while ECHO is 1, and otherwise dropped and counted. -/
def execMgmtEcho (f : MgmtFrame) (s : State) : Out :=
  .next (
    if !(mgmtAnswers s) then s
    else
      match f.body, mgmtTake s f with
      | _, .echo src dst data => mgmtSend s { dst := f.src, body := .echoReply dst src data }
      | .echo _ _ _, .dropped => bumpF s oMgtCount 35 24 1
      | _, _ => s)

/-- R208: every other frame is dropped and counted; a bad FCS has its own count. -/
def execMgmtDrop (f : MgmtFrame) (s : State) : Out :=
  .next (
    if !(mgmtAnswers s) then s
    else
      match mgmtTake s f with
      | .badFcs => bumpF s oMgtCount 47 36 1
      | .dropped => bumpF s oMgtCount 35 24 1
      | _ => s)

-- ## Half duplex (R211)

/-- R211: a slot of 512 bit times at 10 or 100 Mbit/s, in ns. -/
def slotNs (speed : BitVec 2) : Nat := if speed = 0 then 51200 else 5120

/-- The frame in front leaves the queue, and the next one's attempts begin. -/
def mgmtNext (s : State) : State :=
  { s with mgmt := { s.mgmt with queue := s.mgmt.queue.drop 1, attempt := 0, backoffUntil := none } }

/-- R211: one attempt to send the frame in front. While carrier is sensed it defers; collisions occur only at 10 and 100
Mbit/s half duplex. -/
def execMgmtTransmit (c : Collision) (s : State) : Out :=
  .next (
    let m := s.mgmt
    if !(mgmtAnswers s) || m.backoffUntil.isSome then s
    else if !(mgmtHalf s) then mgmtFlush s
    else
      match m.queue, c with
      | [], _ => s
      | _, .busy => s
      | f :: _, .none => emit (mgmtNext s) (.mgmt f)
      | _, .late => bumpF (emit (mgmtNext s) .mgmtJam) oMgtCount 23 12 1
      | _, .early =>
        let a := m.attempt + 1
        if a ≥ 16 then bumpF (emit (mgmtNext s) .mgmtJam) oMgtCount 11 0 1
        else
          let r := (freeVal s 10).toNat % 2 ^ min a 10
          nextFree (emit { s with mgmt := { m with
            attempt := a, backoffUntil := some (mgmtTime s + durNs (r * slotNs m.speed)) } } .mgmtJam))

def execMgmtBackoffExpiry (s : State) : Out :=
  .next (
    match s.mgmt.backoffUntil with
    | some t => if mgmtTime s ≥ t then { s with mgmt := { s.mgmt with backoffUntil := none } } else s
    | none => s)

end Sys2Proof.Machine
end

