-- ==== Sys2Proof/Machine/Power.lean ====
section
/-! DEFINITION. Power states and transitions (R516 to R519), starts (R514, R520 to R524), supplies, fans and heat (R507,
R508, R551, R554), and the panel (R525, R547, R548). -/

namespace Sys2Proof.Machine

-- ## Entering Quiet (R114, R412, R518)

/-- The open entries of a source class, in order of their numbers. -/
def openOfClass (s : State) (c : SpecClass) : List Nat := (s.spec.table.filter (fun p => p.2.cls = c)).map (·.1)

/-- R114: every open entry is resolved in one cycle: concealments are conceded, predictions and prefetches discarded, and
join entries resolve with them. -/
def resolveAll (s : State) : State :=
  let s1 := (openOfClass s .concealment).foldl (fun s e => resolveEntry s e 2) s
  let s2 := (s1.units.mixes.map (·.1)).foldl dropPrediction s1
  let s3 := (s2.media.streams.map (·.1)).foldl dropPrefetch s2
  { s3 with grn := { s3.grn with
    merges := s3.grn.merges.map (fun p => (p.1, { p.2 with prediction := none })) } }

/-- R518: the transmit queues and the leg shapers are empty. -/
def drained (s : State) : Bool :=
  txWaiting s.mac0 == 0 && txWaiting s.mac1 == 0 && s.media.shapers.all (fun p => p.2.queue.isEmpty)

/-- A power state takes effect and the transition in progress ends; a class 4 error's handling ends with it (R500). -/
def arrive (s : State) (st : PState) : State :=
  endHandling { s with power := { s.power with
    st := st
    target := none } } 0x1305 0

/-- R114, R364, R412, R518: GLB_STATE reads Quiet. -/
def enterQuiet (s : State) : State :=
  let s1 := settle (stopCores (resolveAll s))
  arrive { s1 with units := { s1.units with
    encs := s1.units.encs.map (fun p => (p.1, { p.2 with resumed := true })) } } .quiet

-- ## Leaving Quiet (R328, R364, R396)

/-- Starts of pictures and periods up to now have been passed over, and audio jitter buffers anchor anew. -/
def passOver (s : State) : State :=
  let t := now s
  let ahead := fun (n : Nat) (first k0 : Int) => max n (first - k0).toNat
  { s with
    units := { s.units with
      canvases := s.units.canvases.map (fun p =>
        (p.1, { p.2 with nextNo := ahead p.2.nextNo (schedFirst p.2.origin p.2.fpsNum p.2.fpsDen t) p.2.k0 }))
      encs := s.units.encs.map (fun p =>
        let x := encSched s p.2
        (p.1, { p.2 with nextNo := ahead p.2.nextNo (schedFirst x.1 x.2.1 x.2.2.1 t) p.2.k0 }))
      mixes := s.units.mixes.map (fun p =>
        (p.1, { p.2 with m := ahead p.2.m (schedFirst p.2.origin (if p.2.period20 then 50 else 100) 1 t) 0 })) }
    media := { s.media with
      streams := s.media.streams.map (fun p => (p.1, { p.2 with ajb := { p.2.ajb with anchored := false } })) } }

/-- R518: GLB_STATE reads Active. -/
def enterActive (s : State) : State := startCores (passOver (arrive s .active))

-- ## Dormant (R41, R115, R146, R412, R436, R447, R519)

/-- Counters that read 0 after a wake from Dormant. -/
def wakeCounters : List Reg :=
  [.macCounter, .strCounter, .cipCounter, .decCounter, .cmpCounter, .encCounter, .audCounter, .tskCount, .tskStatus,
    .tskCoreWait, .tskCoreLoad, .tskClassWait, .dmaBytes, .dmaTransfers, .dmaEvents, .prsCounter, .grnPortCounter,
    .grnCounter]
def isWakeCounter (o : Nat) : Bool :=
  match regAt o with
  | some (d, _, _) => wakeCounters.contains d.reg
  | none => false

/-- R259: the packets that the lanes and their queues have lost give up their tickets. -/
def Replay.asleep (r : Replay) : Replay := { r with doneTicket := r.nextTicket, givenUp := [] }

/-- A stream context, leg and conference after a wake: what the packet buffers and the lost groups held is gone. -/
def Stream.asleep (x : Stream) : Stream :=
  { x with
    jb := []
    jbReleased := none
    jbTs := none
    replay := x.replay.asleep
    replayRtx := x.replayRtx.asleep
    ajb := {}
    audioOut := false
    sub := x.sub.map (fun b => { b with prefetch := none }) }
def Conf.asleep (c : Conf) : Conf :=
  { c with
    mixParams := none
    joined := [] }

/-- The packet path keeps its objects and which units are out of service. -/
def Media_.asleep (m : Media_) : Media_ :=
  { m with
    engine0 := { out := m.engine0.out }
    engine1 := { out := m.engine1.out, turn := 1 }
    confs := m.confs.map (fun p => (p.1, p.2.asleep))
    streams := m.streams.map (fun p => (p.1, p.2.asleep))
    legs := m.legs.map (fun p => (p.1, { p.2 with held := [] }))
    shapers := m.shapers.map (fun p => (p.1, { p.2 with queue := [] }))
    groups := []
    fb0 := {}
    fb1 := {}
    gateTurn := 0
    gateNext := 0
    lanes := m.lanes.map (fun p => (p.1, { failed := p.2.failed }))
    jobs := []
    engineIn := [] }

/-- A data-port MAC that has stopped: it keeps its gate lists and the plug-in in its cage. -/
def Mac.asleep (m : Mac) : Mac :=
  { module_ := m.module_
    oper := m.oper
    admin := m.admin
    adminRegs := m.adminRegs
    gates := m.gates
    entryNs := m.entryNs
    entryIndex := m.entryIndex
    neverFits := m.neverFits }

/-- A channel without its transfers, triggers and requests. -/
def Chan.asleep (c : Chan) : Chan :=
  { c with
    xfers := []
    pendingTrig := 0
    heldReq := 0
    windowOpen := false }

/-- R41, R412, R436, R447: what is left when the domains have stopped. Conferences, legs, contexts with their keys and
the Preserve stay; DRAM keeps its bytes. -/
def stopDomains (s : State) : State :=
  let seats := s.units.mixes.flatMap (fun p => p.2.seats.map (fun t => t.ctx))
  let s1 := seats.foldl dropCtx s
  { s1 with
    spec := {}
    mac0 := s1.mac0.asleep
    mac1 := s1.mac1.asleep
    media := s1.media.asleep
    units := {}
    sched := { cores := s1.sched.cores.map (fun p => (p.1, { out := p.2.out })) }
    dma := {
      nextId := s1.dma.nextId
      chans := s1.dma.chans.map (fun p => (p.1, p.2.asleep)) }
    grn := { s1.grn with
      east := s1.grn.east.cold
      west := s1.grn.west.cold
      unacked := []
      merges := [] }
    err := { s1.err with
      tests := []
      handling := s1.err.handling.filter (fun h => decide (h.code / 256 = 0x13)) } }

/-- LINK of both data ports falls. -/
def dropLinks (s : State) : State :=
  [0, 1].foldl (fun s p =>
    if (getMac s p).link then emit (linkFalls s p false false) (.linkLevel p false) else s) s

/-- R282: the packets that the lanes have in work when the domains are about to stop end: VOID, and FLUSH_DONE is raised. What a
packet already popped in part would reach stops as well. -/
def finishLanes (s : State) : State :=
  s.media.lanes.foldl (fun s p => if (getLane s p.1).busy then endPacket s p.1 .void false else s) s

/-- R146: what is left of the host's connections ends, and their last frames are sent. -/
def closeHost (s : State) : State := sendLast (sendLast (abortHost (abortXfers s)) 0) 1

/-- R146, R519: Dormant is entered once the commands that have begun have had their time: connections, lanes, bramble, memory,
domains, in this order. -/
def enterDormant (s : State) : State :=
  arrive (stopDomains (dropLinks (leaveBramble (finishLanes (flushAll (closeHost s)))))) .dormant

/-- R146: a transition to Dormant, or to a restart, begins: fetching stops, and a fetched command that has not begun completes
with 0x402. Begun commands run on until the transition ends (assumption 6). -/
def beginLeaving (s : State) (st : PState) : State :=
  let s1 := completeFetched s 0x402
  { s1 with power := { s1.power with target := some st } }

/-- Entry to Dormant begins. -/
def beginDormant (s : State) : State := beginLeaving s .dormant

/-- A Grinal cage at a wake; one that waits for its retry after a CMIS error waits on (R185). -/
def grnWake (s : State) (p : Nat) : State :=
  if ((getGrnPort s p).cmisRetryAt.map (fun t => decide (now s < t))).getD false then s else grnPlugInit s p

/-- Units that a wake, or a start, sets going under the register values in effect: cages, the bramble, channels. -/
def bringUp (s : State) : State :=
  let s1 := [0, 1].foldl (fun s p =>
    grnWake (if ((getMac s p).cmisRetryAt.map (fun t => decide (now s < t))).getD false then s else plugInit s p) p) s
  let s2 := if getB s1 oGrnCfg 6 then joinStart s1 else s1
  ((List.range 248).map (· + 8)).foldl (fun s k =>
    if chEn s k && chClass s k == 2 then
      armChannel s k
    else s) s2

/-- R41, R516: a wake. -/
def wake (s : State) (st : PState) : State :=
  let s1 := arrive { s with
    regs := s.regs.filter (fun p => !(isWakeCounter p.1))
    sched := { s.sched with
      lastTick := now s
      lastWindow := now s }
    power := { s.power with hotDormant := false } } st
  let s2 := bringUp s1
  if st = .quiet then stopCores s2 else s2

-- ## Requests (R177, R516, R517)

/-- The module is Dormant after THERMAL_CRITICAL and the processor stays above 95 °C. -/
def tooHot (s : State) : Bool := s.power.hotDormant && decide (s.power.procDc > 950)

/-- A transition towards a state begins. -/
def headFor (s : State) (st : PState) : State := { s with power := { s.power with target := some st } }

/-- R146, R516: a restart that a request asks for. It begins when the transition ends. -/
def requestedRestart (s : State) : State := beginLeaving s .starting

/-- R523, R525: arm the next start for Windfall mode; an arm by the button stays the button's. -/
def armWindfall (s : State) : State :=
  { s with mram := { s.mram with armed := some (s.mram.armed.getD false) } }

/-- GLB_STATE_REQ. -/
def stateReqWrite (s : State) (r : Nat) : State × IStatus :=
  let p := s.power
  if !([2, 3, 4, 6, 7].contains r) then (s, .refused)
  else if p.powerFailAt.isSome || p.target.isSome || s.oxvan.partApplying then (s, .state)
  else if r = p.st.code then (s, .ok)
  else
    match p.st, r with
    | .active, 3 => (headFor s .quiet, .ok)
    | .quiet, 2 => (headFor s .active, .ok)
    | .dormant, 2 => if tooHot s then (s, .state) else (headFor s .active, .ok)
    | .dormant, 3 => if tooHot s then (s, .state) else (headFor s .quiet, .ok)
    | .active, 4 => (beginDormant s, .ok)
    | .quiet, 4 => (beginDormant s, .ok)
    | .windfall, 6 =>
      (requestedRestart { s with mram := { s.mram with
        failCount := 0
        historyValid := true } }, .ok)
    | .windfall, 7 => (requestedRestart (armWindfall s), .ok)
    | .off, _ => (s, .state)
    | .starting, _ => (s, .state)
    | .windfall, _ => (s, .state)
    | _, 6 => (requestedRestart s, .ok)
    | _, 7 => (requestedRestart (armWindfall s), .ok)
    | _, _ => (s, .state)

/-- A GLB_STATE_REQ item, in every state in which Oxvan is answered. -/
def stateItem (s : State) (r : Nat) : State :=
  if setupOpen s then (let x := stateReqWrite s r
                       emit x.1 (.itemStatus x.2))
  else s

def execStateReqActive (s : State) : Out := .next (stateItem s 2)
def execStateReqQuiet (s : State) : Out := .next (stateItem s 3)
def execStateReqDormant (s : State) : Out := .next (stateItem s 4)
def execStateReqRestart (s : State) : Out := .next (stateItem s 6)
def execStateReqWindfall (s : State) : Out := .next (stateItem s 7)

/-- R516, R518: a transition ends. A transition to Quiet cannot end before everything queued has been sent. After
POWER_FAIL none ends (R517). -/
def execStateTransitionDone (s : State) : Out :=
  .next (
    if s.power.powerFailAt.isSome then s else
    match s.power.target with
    | none => s
    | some .dormant => enterDormant s
    | some .starting => restart (closeHost s)
    | some .quiet =>
      if s.power.st = .dormant then wake s .quiet
      else if drained s then enterQuiet s
      else s
    | some .active => if s.power.st = .dormant then wake s .active else enterActive s
    | some _ => s)

-- ## Windfall mode (R523, R528)

/-- The MGT address registers, which alone take the profile's values in Windfall mode. -/
def mgtAddresses : List Nat := [oMgtIp4, oMgtIp6A, oMgtIp6B, oMgtIp6C]

def enterWindfall (s : State) (reason : Nat) : State :=
  { s with
    regs := (s.mram.profile.getD []).filter (fun p => mgtAddresses.contains p.1)
    power := { s.power with
      st := .windfall
      target := none
      pwrOk := true
      runningB := false }
    mram := { s.mram with windfallReason := reason } }

-- ## A start (R520 to R523, R526)

/-- An image slot, B or A. -/
def getImage (s : State) (b : Bool) : ImageSlot := if b then s.mram.slotB else s.mram.slotA
def setImage (s : State) (b : Bool) (x : ImageSlot) : State :=
  if b then { s with mram := { s.mram with slotB := x } } else { s with mram := { s.mram with slotA := x } }

/-- R526: the little-endian number in `n` bytes of an image header from byte `i` on. -/
def imageField (bs : List Byte) (i n : Nat) : Nat := leNat ((bs.drop i).take n)

/-- R526: the body of an image, as its header gives its length. -/
def imageBody (bs : List Byte) : List Byte := (bs.drop 1024).take (imageField bs 8 4)

/-- R526: the checks of an image, in the order of REASON of SEC_FW_STATUS: the first that fails, or 0. -/
def imageReason (minSvn : Nat) (bs : List Byte) : Nat :=
  let zero := fun (i n : Nat) => ((bs.drop i).take n).all (fun b => b == 0)
  if bs.take 4 != [0x50, 0x58, 0x46, 0x57] || decide (1024 + imageField bs 8 4 > 167772160)
      || decide (bs.length < 1024 + imageField bs 8 4) || !(zero 15 1) || !(zero 19 13) || !(zero 448 576) then 1
  else if imageField bs 4 2 ≠ 9 then 2
  else if (bs.drop 32).take 32 ≠ sha256 (imageBody bs) then 3
  else if !(Config.fwSigned (bs.take 64) ((bs.drop 64).take 384)) then 4
  else if imageField bs 6 2 < minSvn then 5
  else 0

/-- R526: the check of a slot. The image that the module came with, which no write has replaced, passes but for its security
version (assumption 111); a slot that cannot be read back fails. -/
def slotReason (s : State) (b readback : Bool) : Nat :=
  if !readback then 6
  else
    match (getImage s b).bytes with
    | none => if (getImage s b).svn < s.mram.minSvn then 5 else 0
    | some bs => imageReason s.mram.minSvn bs

/-- What a check of a stored image leaves known of it. -/
def ImageSlot.checked (x : ImageSlot) (ok : Bool) : ImageSlot :=
  match x.bytes with
  | none => { x with valid := ok }
  | some bs => { x with
      valid := ok
      major := imageField bs 12 1
      minor := imageField bs 13 1
      patch := imageField bs 14 1
      build := some (BitVec.ofNat 24 (imageField bs 16 3))
      svn := imageField bs 6 2 % 4096 }

/-- R522: the cause of failure that the image gives, 0 when none. -/
def imageCause (s : State) (b readback : Bool) : Nat :=
  if (getImage s b).empty then 1
  else if slotReason s b readback = 0 then 0
  else if slotReason s b readback = 5 then 2
  else 1

/-- R444, R522: the stacks whose training fails and that nothing has replaced yet. -/
def untrained (s : State) (f : StartFacts) : List Nat :=
  (distinct f.trainFailed).filter (fun k => decide (k < 16) && s.mram.spared != some k)

/-- R522: the spare can be used: it trains, and it stands for no stack. -/
def spareFree (s : State) (f : StartFacts) : Bool := s.mram.spared.isNone && !(f.trainFailed.contains 16)

/-- R522: cause 0x03. -/
def trainingFails (s : State) (f : StartFacts) : Bool :=
  decide ((untrained s f).length ≥ 2) || ((untrained s f).length == 1 && !(spareFree s f))

/-- R521, phase 3: the map of spared stacks. -/
def mapSpare (s : State) (f : StartFacts) : State :=
  match s.mram.spared, untrained s f with
  | some k, _ => { s with memory := { s.memory with
      spare := .inUse
      spared := k
      copyPct := 100 } }
  | none, k :: _ => { s with
      memory := { s.memory with
        spare := .inUse
        spared := k
        copyPct := 100 }
      mram := { s.mram with spared := some k } }
  | none, [] =>
    if f.trainFailed.contains 16 then { s with memory := { s.memory with spare := .unusable } } else s

/-- R50: release of the time base at 0 s. -/
def releaseTime (s : State) : State :=
  let stored := match s.mram.incr with
    | some v => if incrBad (word v) then none else some (word v).toNat
    | none => none
  { s with time := {
      released := true
      incr := stored.getD 94447329657393
      incrFromMram := stored.isSome } }

/-- R178: the profile's values take the place of the reset values, and the units they set going go. The ARM_AT of a channel's
set is received here, and converted once (R55). -/
def applyProfile (s : State) : State :=
  let s1 : State := { s with regs := s.mram.profile.getD [] }
  let s2 : State := { s1 with oxvan := {
    port := getF s1 oGlbOxvanCfg 31 16
    profileApplied := s.mram.profile.isSome } }
  let s2 := ((List.range 248).map (· + 8)).foldl (fun s k =>
    if regRaw s (oDmaChArm k) = 0 then s
    else updChan s k (fun c => { c with armOrigin := nearest (now s) (regRaw s (oDmaChArm k)) })) s2
  let s3 := [0, 1].foldl (fun s p => if getB s (oTbPtpPort p) 0 then setPtpState s p 1 else s) s2
  [0, 1].foldl (fun s p => if getB s (oMacGateCtrl p) 9 then (gateCommitWrite s p).1 else s) s3

/-- R522, R523: a failed start: it is counted and the module restarts. -/
def failStart (s : State) (cause : Nat) : State := restart (countFailedStart s cause)

/-- R521 to R523: run the start from a slot, up to the bring-up of the data ports. -/
def runStart (s : State) (f : StartFacts) (b : Bool) : State :=
  let cause := imageCause s b f.readback
  let s1 := if (getImage s b).empty then s else setImage s b ((getImage s b).checked (cause == 0))
  if cause ≠ 0 then failStart s1 cause
  else if trainingFails s1 f then failStart s1 3
  else
    let s2 := nextFree { s1 with
      power := { s1.power with
        pwrOk := true
        runningB := b
        runningSvn := (getImage s1 b).svn
        bodyHash := match (getImage s1 b).bytes with
          | some bs => imageField bs 32 32
          | none => (freeVal s1 256).toNat }
      mram := { s1.mram with windfallReason := 0 } }
    plugInit (plugInit (applyProfile (mapSpare (releaseTime s2) f)) 0) 1

/-- R523: neither copy of the boot history is valid: what it held is open. -/
def lostHistory (s : State) : State :=
  let v := freeVal s 57
  nextFree { s with mram := { s.mram with
    historyValid := false
    startCount := bits' v 23 0
    failCount := bits' v 27 24
    lastFail := bits' v 35 28
    minSvn := bits' v 47 36
    preferredB := bits' v 48 48 == 1
    armed := if bits' v 49 49 = 1 then some (bits' v 50 50 == 1) else none } }
where
  bits' (v : BitVec 57) (hi lo : Nat) : Nat := v.toNat / 2 ^ lo % 2 ^ (hi + 1 - lo)

/-- R514, R523: the rails are valid, or the restart instant has come: the start chooses what to run. -/
def startModule (s0 : State) (f : StartFacts) : State :=
  let s : State := { s0 with power := { s0.power with startAt := s0.power.aon, identityOk := f.identityOk, railsUp := true } }
  if f.historyLost || !s.mram.historyValid then enterWindfall (if f.historyLost then lostHistory s else s) 4
  else
    let s1 : State := { s with mram := { s.mram with startCount := min 0xFFFFFF (s.mram.startCount + 1) } }
    match s1.mram.armed with
    | some button =>
      enterWindfall { s1 with mram := { s1.mram with armed := none } } (if button then 2 else 3)
    | none =>
      if s1.mram.failCount ≥ 3 then enterWindfall s1 1
      else runStart s1 f (if s1.mram.failCount = 2 then !s1.mram.preferredB else s1.mram.preferredB)

/-- Supply `k`. -/
def getPsu (s : State) (k : Nat) : Supply := if k = 0 then s.power.psu0 else s.power.psu1
def setPsu (s : State) (k : Nat) (x : Supply) : State :=
  if k = 0 then { s with power := { s.power with psu0 := x } } else { s with power := { s.power with psu1 := x } }

/-- A supply that has mains: it powers the module when its airflow code fits (R551). What it measures is open. -/
def Supply.fed (x : Supply) (s : State) : Supply :=
  let v := (freeVal s 40).toNat
  { x with
    inOk := true
    outOk := x.codeOk
    inputW := v % 2 ^ 16
    inputDv := v / 2 ^ 16 % 2 ^ 16
    tempC := v / 2 ^ 32
    workingSince := if x.codeOk then some s.power.aon else none }

/-- R514, R516: mains reaches an inlet: an Off module is on its way to start. -/
def mainsReach (s : State) (k : Nat) : State :=
  let s1 := nextFree (setPsu s k ((getPsu s k).fed s))
  if s1.power.st = .off && (getPsu s1 k).outOk then
    { s1 with power := { s1.power with st := .starting } }
  else s1

def execMainsOn (inlet : Fin 2) (s : State) : Out :=
  .next (if (getPsu s inlet).present && !(getPsu s inlet).inOk then mainsReach s inlet else s)

/-- A fan that runs: it is at its commanded speed, which is open. -/
def Fan.runs (x : Fan) (s : State) (k : Nat) : Fan :=
  if x.present && x.codeOk && !x.failed then
    { x with
      ok := true
      rpm := (Config.free 16 (s.fresh + k)).toNat }
  else x

/-- The fans run. -/
def startFans (s : State) : State :=
  { s with
    fresh := s.fresh + 6
    power := { s.power with fans := s.power.fans.zipIdx.map (fun p => p.1.runs s p.2) } }

def execPwrOk (f : StartFacts) (s : State) : Out :=
  .next (if s.power.st = .starting && !s.power.pwrOk then startModule (startFans s) f else s)

/-- R515, R520: a start's bound of 2.0 s has not passed. -/
def withinStart (s : State) : Bool := decide (s.power.aon < s.power.startAt + aonUs 2000000)

/-- R516, R520: the start completes. -/
def becomeReady (s : State) : State :=
  let s1 : State := { s with power := { s.power with
    readyAt := some s.power.aon
    confirmed := false
    moduleErr := false
    hotDormant := s.power.critical } }
  if s1.power.critical || decide (s1.power.procDc > 950) then enterDormant s1
  else if getB s1 oPwrCtrl 1 then stopCores (bringUp (arrive s1 .quiet))
  else bringUp (arrive s1 .active)

def execReady (s : State) : Out :=
  .next (if s.power.st = .starting && s.power.pwrOk && withinStart s then becomeReady s else s)

/-- R522: cause 0x04. -/
def execReadyTimeout (s : State) : Out :=
  .next (if s.power.st = .starting && s.power.pwrOk && !(withinStart s) then failStart s 4 else s)

/-- R524: 60 s since ready without a MODULE-class error. -/
def execStartConfirmed (s : State) : Out :=
  .next (
    if s.power.readyAt.isSome && !(sinceReady s) && !s.power.moduleErr && !s.power.confirmed && mramWritable s then
      { s with
        power := { s.power with confirmed := true }
        mram := { s.mram with
          failCount := 0
          preferredB := s.power.runningB
          minSvn := max s.mram.minSvn s.power.runningSvn } }
    else s)

/-- R492: a MODULE-class error whose code names no other action. -/
def execModuleErrorRestart (code instanceNo : BitVec 16) (detailA detailB : Word) (s : State) : Out :=
  .next (
    if s.power.st = .off || code = 0x1305 || code = 0x1306 then s
    else moduleAction (raiseErr s
      { code := code.toNat, cls := 4, inst := instanceNo.toNat, a := detailA, b := detailB }))

-- ## Loss of power (R507, R512, R513)

/-- R507, R513: no supply has input any more. -/
def losePower (s : State) : State :=
  if s.power.st = .off || s.power.powerFailAt.isSome then s
  else raiseErr { s with power := { s.power with powerFailAt := some s.power.aon } }
    { code := 0x1306, cls := 4, lasts := true }

def execPowerFail (s : State) : Out :=
  .next (losePower { s with power := { s.power with
    psu0 := { s.power.psu0 with inOk := false }
    psu1 := { s.power.psu1 with inOk := false } } })

/-- R513: writes to MRAM that were requested in time are complete. -/
def Mram.settled (m : Mram) : Mram :=
  { m with keyRecs := m.keyRecs.map (fun r =>
    match r.writing with
    | some (a, b) => { r with media := a, rtx := b, writing := none }
    | none => r) }

/-- R512, R513: the rails drop, 8 ms after POWER_FAIL at the earliest, and the module is Off. -/
def execRailsDrop (s : State) : Out :=
  .next (
    match s.power.powerFailAt with
    | none => s
    | some t =>
      if s.power.aon < t + aonUs 8000 then s
      else
        let off := fun (x : Supply) => ({ present := x.present, codeOk := x.codeOk, failed := x.failed } : Supply)
        let s1 := coldState s {
          psu0 := off s.power.psu0
          psu1 := off s.power.psu1
          fans := s.power.fans.map (fun x => { present := x.present, codeOk := x.codeOk, failed := x.failed })
          aon := s.power.aon }
        { s1 with mram := s1.mram.settled })

-- ## Supplies and fans (R507, R508, R551, R554)

/-- The remaining fans are commanded to a higher speed (R508). -/
def speedUp (s : State) : State := { s with power := { s.power with fansRaised := true } }

/-- What the supplies measure once the input or output of supply `k` has changed: without input it draws nothing, and
how much the one that carries the module draws, like the voltage of a lost input, is open. -/
def remeasure (s : State) (k : Nat) : State :=
  let v := (freeVal s 48).toNat
  let x := getPsu s k
  let y := getPsu s (1 - k)
  nextFree (setPsu (setPsu s k { x with
    inputW := if x.inOk then v % 2 ^ 16 else 0
    inputDv := if x.inOk then x.inputDv else v / 2 ^ 16 % 2 ^ 16 })
    (1 - k) { y with inputW := if y.outOk then v / 2 ^ 32 else y.inputW })

/-- SUPPLY_FAILED of a supply, or the loss of power when no other supply carries the module. -/
def supplyOut (s : State) (k : Nat) (x : Supply) (outputFault inputLost : Bool) : State :=
  let s1 := remeasure (setPsu s k x) k
  if s.power.st = .off then s1
  else if (getPsu s1 (1 - k)).outOk then
    raiseUnit (speedUp s1) { code := 0x1301, cls := 3, inst := k, a := word (b2n outputFault * 2 + b2n inputLost), lasts := true }
  else losePower s1

def execSupplyFailed (k : Fin 2) (outputFault inputLost removed : Bool) (s : State) : Out :=
  .next (
    let x := getPsu s k
    if !x.present || !(outputFault || inputLost || removed) then s
    else
      let y : Supply := { x with
        present := !removed
        inOk := x.inOk && !inputLost && !removed
        outOk := false
        failed := true
        workingSince := none }
      supplyOut s k y (outputFault || removed) (inputLost || removed))

/-- R514, R551: a supply is inserted. One with the wrong airflow code keeps its output off. -/
def execSupplyInserted (k : Fin 2) (codeOk mains : Bool) (s : State) : Out :=
  .next (
    let x := getPsu s k
    if x.present then s
    else
      let y : Supply := { present := true, codeOk := codeOk, failed := x.failed || !codeOk }
      let s1 := setPsu s k y
      let s2 := if mains then mainsReach s1 k else s1
      if codeOk || s2.power.st = .off then s2 else supplyOut s2 k (getPsu s2 k) true (!mains))

/-- R507: mains returns to the inlet of a supply while the other powers the module. -/
def execSupplyInputRestored (k : Fin 2) (s : State) : Out :=
  .next (
    let x := getPsu s k
    if x.present && !x.inOk && s.power.st ≠ .off && (getPsu s (1 - k)).outOk then mainsReach s k else s)

/-- Fan `k`. -/
def getFan (s : State) (k : Nat) : Fan := s.power.fans.getD k {}
def setFan (s : State) (k : Nat) (x : Fan) : State :=
  { s with power := { s.power with fans := s.power.fans.set k x } }

/-- FAN_FAILED of a fan (R508). -/
def fanOut (s : State) (k : Nat) (x : Fan) (rpm : Nat) : State :=
  let s1 := setFan s k x
  if s.power.st = .off then s1
  else raiseUnit (speedUp s1) { code := 0x1302, cls := 3, inst := k, a := word rpm, lasts := true }

def execFanFailed (f : Fin 6) (rpm : BitVec 16) (removed : Bool) (s : State) : Out :=
  .next (
    let x := getFan s f
    if !x.present then s
    else
      let n := if removed then 0 else rpm.toNat
      fanOut s f { x with
        present := !removed
        ok := false
        rpm := n
        failed := true
        workingSince := none } n)

/-- R551, R554: a fan module is inserted. One with the wrong airflow code is not run. -/
def execFanInserted (f : Fin 6) (codeOk : Bool) (s : State) : Out :=
  .next (
    let x := getFan s f
    if x.present then s
    else if !codeOk then fanOut s f { present := true, codeOk := false, failed := true } 0
    else if s.power.st = .off then setFan s f { present := true }
    else
      nextFree (setFan s f {
        present := true
        ok := true
        rpm := (freeVal s 16).toNat
        failed := x.failed
        workingSince := some s.power.aon }))

/-- R507: a failed supply or fan has been replaced and has worked for 10 s. -/
def execRedundancyRestored (fan : Bool) (k : Fin 6) (s : State) : Out :=
  .next (
    let worked := fun (o : Option Nat) => match o with
      | some t => decide (t + aonUs 10000000 ≤ s.power.aon)
      | none => false
    let e : ErrSpec := { code := 0x1303, cls := 1, inst := k, a := word (b2n fan) }
    if fan then
      (if (getFan s k).failed && worked (getFan s k).workingSince then
        raiseErr (setFan s k { getFan s k with failed := false }) e
       else s)
    else if decide (k.val < 2) && (getPsu s k).failed && worked (getPsu s k).workingSince then
      raiseErr (setPsu s k { getPsu s k with failed := false }) e
    else s)

/-- A fan that runs and is at its new commanded speed, which is open. -/
def Fan.faster (x : Fan) (s : State) (k : Nat) : Fan :=
  if x.ok then { x with rpm := (Config.free 16 (s.fresh + k)).toNat } else x

/-- The running fans are at their new speed. -/
def fanSpeeds (s : State) : State :=
  { s with
    fresh := s.fresh + 6
    power := { s.power with fans := s.power.fans.zipIdx.map (fun p => p.1.faster s p.2) } }

/-- R500: the remaining fans have reached their new speed. -/
def execFanSpeedReached (s0 : State) : Out :=
  .next (
    let s := fanSpeeds s0
    if !s0.power.fansRaised then s0
    else
      { s with err := { s.err with
        handling := s.err.handling.filter (fun h => !(h.code == 0x1301 || h.code == 0x1302)) }
               power := { s.power with fansRaised := false } })

-- ## Heat (R508, R516, R517)

/-- The temperatures that the always-on controller measures. -/
def measured (s : State) (proc inlet : BitVec 16) : State :=
  { s with power := { s.power with
    procDc := proc.toNat
    inletDc := inlet.toNat } }

def execThermalWarning (proc inlet : BitVec 16) (s : State) : Out :=
  .next (
    let s1 := measured s proc inlet
    if s.power.st = .off then s
    else if decide (proc.toNat > 950) || decide ((s.power.fans.filter (fun x => !x.ok)).length ≥ 2) then
      raiseErr s1 { code := 0x1304, cls := 3, a := word proc.toNat, b := word inlet.toNat }
    else s1)

/-- R508, R517: what THERMAL_CRITICAL does in each state; after POWER_FAIL the service goes on. -/
def overheat (s : State) : State :=
  let s1 : State := { s with power := { s.power with
    critical := true
    hotDormant := true } }
  if s.power.powerFailAt.isSome then s1 else
  match s.power.st, s.power.target with
  | .starting, _ => s1
  | _, some .starting => s1
  | _, some .dormant => s1
  | .dormant, some _ => arrive s1 .dormant
  | .dormant, none => s1
  | _, _ => beginDormant s1

def execThermalCritical (proc inlet : BitVec 16) (s : State) : Out :=
  .next (
    if s.power.st = .off then s
    else
      let s1 := measured s proc inlet
      if proc.toNat ≤ 1050 then s1
      else
        let s2 := raiseErr s1 { code := 0x1305, cls := 4, a := word proc.toNat, b := word inlet.toNat, lasts := running s }
        if s.power.st = .windfall then s2 else overheat s2)

-- ## The WINDFALL button (R525, R548, R549)

def execWindfallButtonPress (s : State) : Out :=
  .next (
    if s.power.st = .off || s.power.st = .windfall || s.power.buttonAt.isSome then s
    else { s with power := { s.power with
      buttonAt := some s.power.aon
      buttonArmed := false } })

/-- How long the button has been held, in always-on cycles. -/
def heldFor (s : State) : Nat :=
  match s.power.buttonAt with
  | some t => s.power.aon - t
  | none => 0

/-- R548: feedback from 1 s on. -/
def feedbackOn (s : State) : Bool :=
  s.power.buttonAt.isSome && s.power.st != .windfall && s.power.st != .off && decide (heldFor s ≥ aonUs 1000000)

def execWindfallButtonFeedback (s : State) : Out :=
  .next (if feedbackOn s && !s.power.buttonArmed then emit s (.statusBlink true false) else s)

/-- R525: 8 s. -/
def execWindfallButtonArm (s : State) : Out :=
  .next (
    if feedbackOn s && decide (heldFor s ≥ aonUs 8000000) && !s.power.buttonArmed then
      emit { s with
        power := { s.power with buttonArmed := true }
        mram := if mramWritable s then { s.mram with armed := some true } else s.mram } (.statusBlink true true)
    else s)

def execWindfallButtonRelease (s : State) : Out :=
  .next (
    if s.power.buttonAt.isNone then s
    else
      let s1 : State := { s with power := { s.power with
        buttonAt := none
        buttonArmed := false } }
      if feedbackOn s then emit s1 (.statusBlink false false) else s1)

-- ## The lamp test (R547)

/-- PWR_LED.LAMP_TEST: green, amber and blue for 1 s each; a write during a test restarts it. -/
def lampTestWrite (s : State) : State :=
  emit { s with power := { s.power with lampFrom := some s.power.aon } } (.lamps true)

def execLampTest (s : State) : Out :=
  .next (if setupOpen s then emit (lampTestWrite s) (.itemStatus .ok) else s)

def execLampTestEnd (s : State) : Out :=
  .next (
    match s.power.lampFrom with
    | some t =>
      if s.power.aon < t + aonUs 3000000 then s
      else emit { s with power := { s.power with lampFrom := none } } (.lamps false)
    | none => s)

end Sys2Proof.Machine
end

