-- ==== Sys2Proof/Machine/Security.lean ====
section
/-! DEFINITION. Firmware update (R530 to R532), key-encryption keys (R533), identity and attestation (R535, R536). -/

namespace Sys2Proof.Machine

-- ## Firmware update (R530, R531)

/-- SEC_FW_STATUS.STATE. -/
def FwState.code (f : FwState) : Nat :=
  match f with
  | .idle => 0
  | .receiving => 1
  | .verifying => 2
  | .verified => 3
  | .failed => 4
  | .activated => 5

/-- BEGIN and REVERIFY are allowed. -/
def FwState.rests (f : FwState) : Bool := f = .idle || f = .verified || f = .failed || f = .activated

/-- R530: an operation names the running slot; in Windfall mode no slot runs. -/
def isRunningSlot (s : State) (b : Bool) : Bool := s.power.st != .windfall && s.power.runningB == b

/-- Change the update's state. -/
def setSec (s : State) (f : Sec → Sec) : State := { s with sec := f s.sec }

/-- BEGIN. -/
def fwBeginWrite (s : State) (slotB : Bool) (length : Nat) : State × IStatus :=
  if !s.sec.fw.rests || isRunningSlot s slotB || decide (length < 1024) || decide (length > 167772160) then (s, .refused)
  else
    (setSec (setImage s slotB { valid := false, empty := true, major := 0, minor := 0, patch := 0, svn := 0, bytes := some [] })
      (fun x => { x with
        fw := .receiving
        reason := 0
        slotB := slotB
        received := 0
        length := length
        staged := []
        reverify := false }), .ok)

/-- SEC_FW_DATA: 6 bytes; bytes beyond LENGTH are received and discarded. -/
def fwDataWrite (s : State) (v : Word) : State × IStatus :=
  if s.sec.fw ≠ .receiving || decide (4194304 - s.sec.staged.length < 6) then (s, .state)
  else
    (setSec s (fun x => { x with
      received := x.received + 6
      staged := x.staged ++ (wordLe v).take (x.length - x.received) }), .ok)

/-- VERIFY. -/
def fwVerifyWrite (s : State) : State × IStatus :=
  if s.sec.fw ≠ .receiving || decide (s.sec.received < s.sec.length) || !s.sec.staged.isEmpty then (s, .refused)
  else (setSec s (fun x => { x with fw := .verifying }), .ok)

/-- ACTIVATE: an MRAM write. -/
def fwActivateWrite (s : State) : State × IStatus :=
  if s.sec.fw ≠ .verified then (s, .refused)
  else
    let b := s.sec.slotB
    let s1 := setImage s b { getImage s b with
      valid := true
      empty := false }
    let s2 : State := if mramWritable s then { s1 with mram := { s1.mram with
      preferredB := b
      failCount := 0 } } else s1
    (setSec s2 (fun x => { x with fw := .activated }), .ok)

/-- ABORT. -/
def fwAbortWrite (s : State) : State × IStatus :=
  (setSec s (fun x => { x with
    fw := .idle
    reason := 0
    staged := [] }), .ok)

/-- REVERIFY. -/
def fwReverifyWrite (s : State) (slotB : Bool) : State × IStatus :=
  if !s.sec.fw.rests || isRunningSlot s slotB || !(getImage s slotB).valid then (s, .refused)
  else
    (setSec s (fun x => { x with
      fw := .verifying
      reason := 0
      slotB := slotB
      reverify := true }), .ok)

/-- SEC_FW_CTRL. -/
def fwCtrlWrite (s : State) (v : Word) : State × IStatus :=
  match bits v 47 44 with
  | 0 => (s, .ok)
  | 1 => fwBeginWrite s (bitAt v 40) (bits v 31 0)
  | 2 => fwVerifyWrite s
  | 3 => fwActivateWrite s
  | 4 => fwAbortWrite s
  | 5 => fwReverifyWrite s (bitAt v 40)
  | _ => (s, .refused)

/-- A SEC item, reached in every state in which Oxvan is answered (R529). -/
def secItem (s : State) (r : State × IStatus) : State := if setupOpen s then emit r.1 (.itemStatus r.2) else s

def execFwBegin (slotB : Bool) (length : BitVec 32) (s : State) : Out := .next (secItem s (fwBeginWrite s slotB length.toNat))
def execFwData (v : Word) (s : State) : Out := .next (secItem s (fwDataWrite s v))
def execFwVerify (s : State) : Out := .next (secItem s (fwVerifyWrite s))
def execFwActivate (s : State) : Out := .next (secItem s (fwActivateWrite s))
def execFwAbort (s : State) : Out := .next (secItem s (fwAbortWrite s))
def execFwReverify (slotB : Bool) (s : State) : Out := .next (secItem s (fwReverifyWrite s slotB))

/-- R530: the check ends. A written slot stays empty until ACTIVATE marks it valid; a stored one is valid as its last
check says. -/
def execFwVerifyDone (readback : Bool) (s : State) : Out :=
  .next (
    if s.sec.fw ≠ .verifying then s
    else
      let b := s.sec.slotB
      let r := slotReason s b readback
      let s1 := if s.sec.reverify then setImage s b ((getImage s b).checked (r == 0))
        else if r = 0 then setImage s b { (getImage s b).checked false with empty := true }
        else s
      setSec s1 (fun x => { x with
        fw := if r = 0 then .verified else .failed
        reason := r }))

/-- R531: the staged bytes have been programmed. -/
def execFlashProgramDone (s : State) : Out :=
  .next (
    if s.sec.fw ≠ .receiving then s
    else
      let b := s.sec.slotB
      setSec (setImage s b { getImage s b with bytes := some (((getImage s b).bytes.getD []) ++ s.sec.staged) })
        (fun x => { x with staged := [] }))

-- ## Key-encryption keys (R533)

/-- The 36 bytes of the key words. -/
def kekBytes (s : State) : List Byte := s.sec.kekWords.flatMap (fun w => leBytes 6 w.toNat)

/-- LOAD: bytes beyond the key's length must be zero. -/
def kekLoadWrite (s : State) (slot : Nat) (len256 : Bool) : State × IStatus :=
  let n := if len256 then 32 else 16
  if ((kekBytes s).drop n).any (fun b => b != 0) then (s, .refused)
  else
    (setSec s (fun x => { x with
      kekWords := [0, 0, 0, 0, 0, 0]
      keks := Tbl.put x.keks slot ((kekBytes s).take n) }), .ok)

/-- CLEAR. -/
def kekClearWrite (s : State) (slot : Nat) : State × IStatus :=
  (setSec s (fun x => { x with keks := Tbl.del x.keks slot }), .ok)

/-- SEC_KEK_CTRL. -/
def kekCtrlWrite (s : State) (v : Word) : State × IStatus :=
  if bitAt v 47 && bitAt v 46 then (s, .refused)
  else if bitAt v 47 then kekLoadWrite s (bits v 2 0) (bitAt v 45)
  else if bitAt v 46 then kekClearWrite s (bits v 2 0)
  else (s, .ok)

def execKekLoad (slot : Fin 8) (len256 : Bool) (s : State) : Out := .next (secItem s (kekLoadWrite s slot len256))
def execKekClear (slot : Fin 8) (s : State) : Out := .next (secItem s (kekClearWrite s slot))

-- ## Identity and attestation (R535, R536)

/-- R536: the quote's body. -/
def quoteBody (s : State) (nonce : List Byte) : List Byte :=
  let profile := match s.mram.profile with
    | some p => sha256 (Config.profileRecord p)
    | none => List.replicate 32 0
  [0x50, 0x58, 0x51, 0x01] ++ leBytes 2 9 ++ leBytes 6 Config.serial.toNat ++ leBytes 6 (releaseWord s).toNat
    ++ [BitVec.ofNat 8 (b2n s.power.runningB), BitVec.ofNat 8 s.power.st.code] ++ leBytes 2 s.power.runningSvn
    ++ leBytes 2 s.mram.minSvn ++ leBytes 6 (bt48 (now s)).toNat ++ [0, 0] ++ leBytes 32 s.power.bodyHash ++ profile ++ nonce

/-- R536: body and signature. -/
def quote (s : State) (nonce : List Byte) : List Byte :=
  let b := quoteBody s nonce
  b ++ (List.range 384).map (fun i => Config.quoteSig b i)

/-- R535: IDENTITY_READ. `host` is what became of its write to the host region. -/
def execIdentityRead (c : Cmd) (host : HostData) (s : State) : Out :=
  .next (runRing s 0xC00 c fun s =>
    let mid := bitAt c.w3 0
    let bytes := Config.cert mid
    let n := bytes.length
    guarded s [(reservedBad c 0 [full, full, 1, full], 0x101), regionCheck s c.slot c.w1]
      (if c.w4.toNat < n then .reply s 0x108 (word n) 0
       else
         guarded s [(regionBounds s c.slot c.w1 c.w2.toNat n true, 0x115), (c.w2.toNat % 64 != 0, 0x118),
             (mid && !s.power.identityOk, 0x305)]
           (match host with
             | .bytes _ => .reply (regionWrite s c.slot (hIndex c.w1 % 1024) c.w2.toNat bytes) 0 (word n) 0
             | d => hostFailure s c d)))

/-- R535, R536: ATTEST_QUOTE. -/
def execAttestQuote (c : Cmd) (request : HostData) (s : State) : Out :=
  .next (runRing s 0xC01 c fun s =>
    guarded s [(reservedBad c 0 [full, full, full], 0x101), regionCheck s c.slot c.w1,
        (regionBounds s c.slot c.w1 c.w2.toNat 64 false || regionBounds s c.slot c.w1 c.w3.toNat 512 true, 0x115),
        (c.w2.toNat % 64 != 0 || c.w3.toNat % 64 != 0, 0x118)]
      (match request with
        | .bytes b =>
          guarded s [(((b.drop 32).take 32).any (fun x => x != 0), 0x1E0), (!s.power.identityOk, 0x305)]
            (.reply (regionWrite s c.slot (hIndex c.w1 % 1024) c.w3.toNat (quote s (b.take 32))) 0 512 0)
        | d => hostFailure s c d))

end Sys2Proof.Machine
end

