-- ==== Sys2Proof/Machine/SetUp.lean ====
section
/-! DEFINITION. Set-up (chapter 05): what every register reads, what a write of it does, the stored profile, and the Oxvan
protocol. -/

namespace Sys2Proof.Machine

-- ## The Seed table (R157 to R160)

/-- R159: TYPE, BASE, COUNT, STRIDE, CAP_A and CAP_B of the unit entries. -/
def unitEntries : List (List Nat) :=
  [ [0x01, 0x000000, 1, 0, 0, 0],
    [0x02, 0x010000, 1, 0, 0x020000000000, 4194304],
    [0x03, 0x020000, 1, 0, 0x55E63B88C231, 800000000],
    [0x04, 0x030000, 1, 0, 8 * 2 ^ 40 + 64 * 2 ^ 32 + 64 * 2 ^ 24 + 4096, 256],
    [0x05, 0x040000, 2, 0x10000, 400000, 8],
    [0x06, 0x060000, 1, 0, 1000, 0],
    [0x07, 0x080000, 2, 0, 170000000, 750000000],
    [0x08, 0x0A0000, 1024, 0, 256 * 2 ^ 32 + 128 * 2 ^ 16 + 16, 0],
    [0x09, 0x0C0000, 32, 0, 1000000000, 0x1F],
    [0x0A, 0x0D0000, 16, 0, 2000000000, 3 * 2 ^ 8 + 8],
    [0x0B, 0x0E0000, 24, 0, 600000000, 0x15],
    [0x0C, 0x0F0000, 64, 0, 0x7, 0],
    [0x0D, 0x100000, 1, 0, 262144, 152],
    [0x0E, 0x110000, 256, 0, 0, 0],
    [0x0F, 0x120000, 17, 0, 137438953472, 1],
    [0x10, 0x130000, 1, 0, 1344, 32],
    [0x11, 0x140000, 2, 0, 16, 0],
    [0x12, 0x150000, 1, 0, 48, 0],
    [0x13, 0x160000, 1, 0, 2, 6],
    [0x14, 0x170000, 1, 0, 1, 0] ]

/-- R149, R160: index width and maximum of the object types 0x01 to 0x0F. -/
def capacities : List (Nat × Nat) :=
  [ (23, 5242880), (17, 131072), (14, 16384), (20, 1048576), (18, 262144), (14, 16384), (12, 4096), (12, 4096), (4, 16),
    (13, 8192), (9, 512), (9, 512), (13, 8192), (8, 256), (8, 256) ]

/-- R158: register `j` (E0 to E3) of Seed table entry `i`. -/
def seedEntryWord (i j : Nat) : Word :=
  if i < 20 then
    let e := unitEntries.getD i []
    let f := fun k => e.getD k 0
    match j with
    | 0 => word (f 0 * 2 ^ 40 + 1 * 2 ^ 32 + f 1)
    | 1 => word (f 2 * 2 ^ 32 + f 3)
    | 2 => word (f 4)
    | _ => word (f 5)
  else
    let ty := i - 19
    let c := capacities.getD (ty - 1) (0, 0)
    match j with
    | 0 => word (0xC0 * 2 ^ 40 + 1 * 2 ^ 32)
    | 1 => word (ty * 2 ^ 40 + c.1 * 2 ^ 32)
    | 2 => word c.2
    | _ => word (if ty = 8 then 512 else 0)

-- ## Reading (R10)

/-- Bits of a register that its fields of some access codes cover. -/
def accMask (d : RegDef) (as : List Acc) : Word :=
  (d.fields.filter (fun f => as.contains f.acc)).foldl (fun w f => putBits w f.hi f.lo (2 ^ 48 - 1)) 0

/-- A mask with bit n set where a test of n < 8 holds. -/
def mask8 (p : Nat → Bool) : Nat := ((List.range 8).map (fun n => if p n then 2 ^ n else 0)).sum

/-- STATE of GRN_STATUS. -/
def GrnState.code (g : GrnState) : Nat :=
  match g with
  | .disabled => 0
  | .joining => 1
  | .member => 2
  | .master => 3
  | .conflict => 4
  | .detached => 5

/-- GRN_STATUS. -/
def grnStatus (s : State) : Word :=
  let g := s.grn
  word (g.roster * 2 ^ 32 + g.master * 2 ^ 28 + g.backup.getD 0 * 2 ^ 24 + b2n g.backup.isSome * 2 ^ 23
    + b2n g.acting * 2 ^ 22 + g.state.code * 2 ^ 16 + b2n g.east.wrapped * 2 ^ 3 + b2n g.west.wrapped * 2 ^ 2
    + b2n g.east.link * 2 + b2n g.west.link)

/-- REF10_STATE. -/
def Ref10.code (r : Ref10) : Nat :=
  match r with
  | .off => 0
  | .acquiring => 1
  | .locked => 2
  | .frozen => 3

/-- TB_STATUS: its W1C bits are stored. -/
def tbStatus (s : State) : Word :=
  let t := s.time
  word (t.ptp1.state.toNat * 2 ^ 16 + t.ptp0.state.toNat * 2 ^ 12 + getF s oTbStatus 11 10 * 2 ^ 10 + b2n t.holdover * 2 ^ 9
    + t.ref10.code * 2 ^ 7 + getF s oTbStatus 6 5 * 2 ^ 5 + b2n t.incrFromMram * 2 ^ 4 + b2n t.isSet * 2 ^ 3)

/-- HCI_STATUS. A resuming slot is still suspended (R556). -/
def hciStatus (s : State) : Word :=
  let ph := fun n => (getSlot s n).phase
  let susp := fun n => match ph n with
    | .suspended _ => true
    | .awaitRtu r _ => r
    | _ => false
  word (mask8 (fun n => ph n = .bound) * 2 ^ 16 + mask8 susp * 2 ^ 8 + mask8 (fun n => (getSlot s n).connected))

/-- MACn_STATUS. -/
def macStatus (s : State) (p : Nat) : Word :=
  let m := getMac s p
  word (getF s (oMacStatus p) 16 16 * 2 ^ 16 + plugShown s m.plug m.plugAt * 2 ^ 12 + b2n m.link * 2 ^ 11 + b2n m.localFault * 2 ^ 10
    + b2n m.remoteFault * 2 ^ 9 + mask8 (fun c => (Tbl.get? m.paused c).isSome))

/-- STR_ENGINE: which engine serves which port (R34, R502). -/
def strEngine (s : State) : Word :=
  let up0 := !s.media.engine0.out
  let up1 := !s.media.engine1.out
  word (b2n up1 * 8 + b2n (up1 && !up0) * 4 + b2n (up0 && !up1) * 2 + b2n up0)

/-- DMA_CHn_STATUS. -/
def dmaStatus (s : State) (n : Nat) : Word :=
  let c := getChan s n
  let xs := c.xfers.filterMap (fun i => Tbl.get? s.dma.xfers i)
  let flying := xs.filter (fun x => x.state != .queued)
  let st :=
    if 8 ≤ n && !(getB s (oDmaChCfg n) 17) then 3
    else if xs.any (fun x => x.state == .moving) then 1
    else if xs.any (fun x => x.state == .waitingPage || x.armAt.isSome) then 2
    else 0
  word (c.generation * 2 ^ 24 + st * 2 ^ 22 + flying.length * 2 ^ 19
    + b2n ((setRegs n).any (fun o => (Tbl.get? s.shadow o).isSome)) * 2 ^ 18 + c.pendingTrig * 2 ^ 7
    + (xs.filter (fun x => x.state == .queued && x.cmd.isSome)).length)

/-- TSK_COREk_STATE. -/
def coreState (s : State) (k : Nat) : Word :=
  let c := getCore s k
  word ((if c.out then 2 else if c.stopped then 3 else if c.running.isSome then 1 else 0) * 2 ^ 8 + c.list.length)

/-- MEM_STATUS: COPY_PCT grows with the copy. -/
def memStatus (s : State) : Word :=
  let m := s.memory
  match m.spare with
  | .idle => 0
  | .copying => word (min 100 ((now s - m.copyStart) * 100 / copyDur) * 2 ^ 16 + 1 * 2 ^ 14 + m.spared * 2 ^ 4)
  | .inUse => word (100 * 2 ^ 16 + 2 * 2 ^ 14 + m.spared * 2 ^ 4)
  | .unusable => word (3 * 2 ^ 14)

/-- GRN_PORTp. -/
def grnPortWord (s : State) (p : Nat) : Word :=
  let g := getGrnPort s p
  word (min g.delayPs 0xFFFFFF * 2 ^ 24 + g.neighbour * 2 ^ 20 + b2n g.neighbourValid * 2 ^ 19 + plugShown s g.plug g.plugAt * 2 ^ 15
    + b2n g.link * 2 ^ 14) ||| (regRaw s (oGrnPort p) &&& word 0x2003)

/-- Word `w` of an error record. -/
def ERec.wordAt (r : ERec) (w : Nat) : Word := ([r.w0, r.w1, r.w2, r.w3, r.w4, r.w5, r.w6, r.w7] : List Word).getD w 0

/-- PWR_STATUS. -/
def pwrStatus (s : State) : Word :=
  let fans := ((List.range 6).map (fun f =>
    let x := getFan s f
    b2n (x.present && x.ok) * 2 ^ (6 + f))).sum
  let psu := fun (p : Supply) => b2n p.present * 4 + b2n p.inOk * 2 + b2n p.outOk
  word (fans + psu s.power.psu1 * 8 + psu s.power.psu0)

/-- SEC_BOOT. -/
def secBoot (s : State) : Word :=
  let m := s.mram
  word (m.windfallReason * 2 ^ 40 + m.lastFail * 2 ^ 32 + m.failCount * 2 ^ 28
    + b2n (s.power.runningB && s.power.st != .windfall) * 2 ^ 27 + b2n m.preferredB * 2 ^ 26 + b2n m.armed.isSome * 2 ^ 25
    + b2n s.power.confirmed * 2 ^ 24 + m.startCount)

/-- SEC_SLOT_A and B, and the SVN of each in SEC_SECURITY. -/
def secSlot (s : State) (k : Nat) : Word :=
  let i := getImage s (k == 1)
  word (b2n i.valid * 2 ^ 47 + i.major * 2 ^ 16 + i.minor * 2 ^ 8 + i.patch)
def slotSvn (i : ImageSlot) : Nat := if i.empty then 0 else i.svn

/-- SEC_ID_FPw: bytes 6w to 6w + 5 of the SHA-256 of the device certificate, the least significant first. -/
def idFingerprint (w : Nat) : Word := word (beNat ((((sha256 (Config.cert false)) ++ zeros 4).drop (6 * w)).take 6).reverse)

/-- What a register reads (R10): instances `i`, `j` of definition `d` at offset `o`. Fields that report a unit's state are
composed from it; the others read their stored values, and WO fields read 0. -/
def readReg (s : State) (d : RegDef) (i j o : Nat) : Word :=
  let live := fun (w : Word) => w
  match d.reg with
  | .seedRelease => releaseWord s
  | .seedSerial => Config.serial
  | .seedEntry => seedEntryWord i j
  | .glbIdent => Config.baseMac
  | .glbState =>
    word ((s.power.target.getD s.power.st).code * 2 ^ 8 + b2n s.power.target.isSome * 2 ^ 7 + s.power.st.code)
  | .glbProfile =>
    word (s.mram.saveCount * 2 ^ 32 + b2n s.mram.profile.isSome * 2 ^ 7 + b2n s.oxvan.profileApplied * 2 ^ 6
      + b2n s.oxvan.saving.isSome * 2 ^ 5)
  | .glbPartStatus =>
    word (b2n ([oGlbPartA, oGlbPartB, oGlbPartC].any (fun x => (Tbl.get? s.shadow x).isSome) || s.oxvan.partApplying)
      * 2 ^ 8 + s.oxvan.partResult)
  | .glbOxvanCfg => putBits (regRaw s o) 0 0 (b2n s.oxvan.session.isSome)
  | .tbStatus => tbStatus s
  | .tbIncr => word s.time.incr
  | .hciStatus => hciStatus s
  | .macStatus => macStatus s i
  | .cipCounter => word ((regRaw s o).toNat + (if i = 7 then stallsDue s else 0))
  | .macUcValid => regRaw s o ||| 1
  | .mgtStatus => word (b2n s.mgmt.link * 8 + s.mgmt.speed.toNat * 2 + b2n s.mgmt.half)
  | .strEngine => strEngine s
  | .strContexts => word (contextCapacity s * 2 ^ 23 + s.media.streams.length)
  | .cipKeys => word (keyCapacity s * 2 ^ 24 + keysHeld s)
  | .cipPersist => word s.mram.keyRecs.length
  | .cipFlushStatus => live (word (getF s o 11 11 * 2 ^ 11 + b2n (flushBusy s) * 2 ^ 10 + s.media.flushLane))
  | .decLoad => word (decLimit s * 2 ^ 24 + decReserved s)
  | .decContexts => word s.units.decs.length
  | .cmpLoad =>
    word ((s.units.canvases.map (fun c => ceilDiv (c.2.width * c.2.height * c.2.fpsNum) (c.2.fpsDen * 1000000))).sum)
  | .cmpCanvases => word s.units.canvases.length
  | .encLoad => word (encLimit s * 2 ^ 24 + encReserved s)
  | .encChannels => word ((s.units.encs.filter (fun e => e.2.rowRc)).length * 2 ^ 13 + s.units.encs.length)
  | .audLoad => word (decodesReserved s * 2 ^ 32 + encodesReserved s * 2 ^ 16 + s.units.mixes.length)
  | .tskStatus => word (getF s o 37 19 * 2 ^ 19 + s.sched.tasks.length)
  | .tskClassStatus =>
    word ((s.sched.tasks.filter (fun t => t.2.cls == i)).length * 2 ^ 19 + (s.sched.classLists.getD i []).length)
  | .tskClassDepths =>
    word ((s.sched.tasks.filter (fun t => t.2.cls == i && t.2.state == .delayed)).length * 2 ^ 19
      + (s.sched.waiting.filter (fun r => r.cls == i)).length)
  | .tskCoreState => coreState s i
  | .tskCoreSteals => word ((getCore s i).made * 2 ^ 24 + (getCore s i).stolen)
  | .dmaChStatus => dmaStatus s i
  | .memStatus => memStatus s
  | .prsStatus => word s.memory.writePos
  | .prsSpan =>
    match s.memory.recs with
    | [] => 0
    | r :: _ => word (min ((now s - r.time) * 1000 / second) 0xFFFFFF)
  | .prsBlocks => word (prsBlocks s)
  | .grnStatus => grnStatus s
  | .grnEpoch => word s.grn.epoch
  | .grnPort => grnPortWord s i
  | .errStatus => live (word (getF s o 7 4 * 2 ^ 4 + b2n s.media.engine1.out * 2 + b2n s.media.engine0.out))
  | .errSeq => word s.err.nextSeq
  | .errMlogCount => word (0x1000 * 2 ^ 16 + s.mram.log.length)
  | .errMlogW =>
    match s.mram.log[getF s oErrMlogIndex 11 0]? with
    | some r => r.wordAt i
    | none => 0
  | .errLastW => ((s.err.last.map (fun r => r.wordAt i)).getD 0)
  | .pwrStatus => pwrStatus s
  | .pwrSupply =>
    let p := getPsu s i
    word (p.inputW * 2 ^ 32 + p.inputDv * 2 ^ 16 + p.tempC * 2 ^ 8)
  | .pwrFan => word (if (getFan s i).present then (getFan s i).rpm else 0)
  | .pwrTemp => word (s.power.procDc * 2 ^ 16 + s.power.inletDc)
  | .secBoot => secBoot s
  | .secSecurity =>
    word (s.mram.minSvn * 2 ^ 36 + slotSvn s.mram.slotA * 2 ^ 24 + slotSvn s.mram.slotB * 2 ^ 12 + b2n s.power.identityOk)
  | .secSlot => secSlot s i
  | .secFwStatus =>
    word (s.sec.fw.code * 2 ^ 44 + s.sec.reason * 2 ^ 40 + b2n s.sec.slotB * 2 ^ 39 + s.sec.received % 2 ^ 32)
  | .secFwSpace => word (4194304 - s.sec.staged.length)
  | .secKekStatus => word (mask8 (fun n => Tbl.has s.sec.keks n))
  | .secIdFp => idFingerprint i
  | _ => regRaw s o &&& accMask d [.ro, .rw, .w1c, .rwc]

-- ## Writing

/-- A write of fields without behaviour of their own, by their access codes (R10, R12). A W1C bit that the module has set in
this cycle stays set (R11). -/
def plainWrite (s : State) (d : RegDef) (o : Nat) (v : Word) : State :=
  let rw := accMask d [.rw]
  let w1c := accMask d [.w1c] &&& ~~~(raisedNow s o)
  let rwc := accMask d [.rwc]
  let s1 := setRaw s o ((regRaw s o &&& ~~~rw &&& ~~~(v &&& w1c)) ||| (v &&& rw))
  if rwc = 0 then s1 else { s1 with shadow := Tbl.put s1.shadow o ((regRaw s o &&& ~~~rwc) ||| (v &&& rwc)) }

/-- A plain write that the module refuses in some cases; a refused write changes no field. -/
def checked (s : State) (d : RegDef) (o : Nat) (v : Word) (bad : Bool) : State × IStatus :=
  if bad then (s, .refused) else (plainWrite s d o v, .ok)

/-- The captured profile (R178): every RW field and RWC value in effect, but for counters, TB_STEP and TB_INCR. -/
def Reg.inProfile (r : Reg) : Bool :=
  !(([.glbOxvanCount, .tbEventCount, .hciCount, .mgtCount, .tskStatus, .tskCount, .tskCoreSteals, .dmaEvents, .memCount,
    .errCount, .tbStepSec, .tbStepFrac, .tbIncr] : List Reg).contains r)

/-- R178: the values a save captures, by offset; only values that differ from reset are listed. -/
def captureProfile (s : State) : List (Nat × Word) :=
  s.regs.filterMap (fun p =>
    match regAt p.1 with
    | none => none
    | some (d, i, j) =>
      let m := accMask d [.rw, .rwc]
      let v := (p.2 &&& m) ||| (regReset d i j &&& ~~~m)
      if d.reg.inProfile && v != regReset d i j then some (p.1, v) else none)

/-- GLB_PROFILE (R178, R529). With SAVE and CLEAR both 1 the profile ends invalid. -/
def profileWrite (s : State) (v : Word) : State × IStatus :=
  let save := bitAt v 0
  let clear := bitAt v 1
  if !save && !clear then (s, .ok)
  else if s.oxvan.saving.isSome || (save && s.power.st = .windfall) then (s, .state)
  else ({ s with oxvan := { s.oxvan with saving := some (if clear then none else some (captureProfile s)) } }, .ok)

/-- R178: the save or clear is complete. -/
def profileDone (s : State) : State :=
  match s.oxvan.saving with
  | none => s
  | some what =>
    let s1 : State := { s with oxvan := { s.oxvan with saving := none } }
    if !(mramWritable s) then s1
    else
      match what with
      | none => { s1 with mram := { s1.mram with profile := none } }
      | some p => { s1 with mram := { s1.mram with
          profile := some p
          saveCount := min (s1.mram.saveCount + 1) 0xFFFF } }

/-- The session has ended: the port that UDP_PORT names takes effect. -/
def endSession (s : State) : State :=
  { s with oxvan := { s.oxvan with
    session := none
    addressChanged := false
    port := getF s oGlbOxvanCfg 31 16 } }

/-- The idle time of the open session has reached IDLE_S (R170). -/
def idleOver (s : State) : Bool :=
  match s.oxvan.session with
  | none => false
  | some x => decide (x.idleFrom + durS (getF s oGlbOxvanCfg 15 8) ≤ mgmtTime s)

/-- R170: a session whose time is over ends and is counted. -/
def expire (s : State) : State := if idleOver s then bumpF (endSession s) oGlbOxvanCount 11 0 1 else s

/-- GLB_OXVAN_CFG: the idle limit applies at once, the port when no session is open. -/
def oxvanCfgSet (s : State) (d : RegDef) (v : Word) : State × IStatus :=
  if bits v 31 16 = 0 || bits v 15 8 = 0 then (s, .refused)
  else
    let s1 := expire (plainWrite s d oGlbOxvanCfg v)
    (if s1.oxvan.session.isNone then { s1 with oxvan := { s1.oxvan with port := bits v 31 16 } } else s1, .ok)

/-- TB_CTRL: with REF10_EN 0 the oscillator runs free at its last control value. STEP_GO and SNAP act before the fields are stored; a refused step refuses the write. -/
def tbCtrlSet (s : State) (d : RegDef) (v : Word) : State × IStatus :=
  if bits v 13 6 ≥ 128 then (s, .refused)
  else
    let s1 := plainWrite s d oTbCtrl v
    let s2 := if bitAt v 0 && getB s oTbCtrl 0 then s1
      else if bitAt v 0 then { s1 with time := { s1.time with refFrom := now s } }
      else freezeOsc s1 .off
    if bitAt v 4 then
      let r := stepGoWrite s2 (bitAt v 5) (bitAt v 3)
      if r.2 = .refused then (s, .refused) else r
    else (if bitAt v 3 then snapWrite s2 else s2, .ok)

/-- TB_PPS_OUT (R75). -/
def ppsOutSet (s : State) (d : RegDef) (v : Word) : State × IStatus :=
  if bits v 19 0 = 0 || bits v 19 0 ≥ 1000000 then (s, .refused)
  else
    let s1 := plainWrite s d oTbPpsOut v
    (if bitAt v 20 && !(getB s oTbPpsOut 20) then ppsArm s1
     else if !(bitAt v 20) then ppsLow s1
     else s1, .ok)

/-- HCI_SLOTn_CFG: EN 0 closes a connected or suspended slot without hold (R145), and one that waits for its RTU, since a
connection exists only in an enabled slot (R119). -/
def slotCfgSet (s : State) (d : RegDef) (n o : Nat) (v : Word) : State × IStatus :=
  let s1 := plainWrite s d o v
  let held := match (getSlot s n).phase with
    | .bound => true
    | .unbound => true
    | .suspended _ => true
    | .awaitRtu _ _ => true
    | _ => false
  (if !(bitAt v 0) && held then
     closeSlot (if (getSlot s n).connected then sendRoce s1 n .cmDreq else s1) n none
   else s1, .ok)

/-- MACn_CTRL: EN and CAGE_EN switch the cage's power (R183, R185). -/
def macCtrlSet (s : State) (d : RegDef) (p o : Nat) (v : Word) : State × IStatus :=
  if bits v 45 32 < 4224 || bits v 45 32 > 9216 || bits v 3 2 ≥ 2 then (s, .refused)
  else
    let s1 := plainWrite s d o v
    if cagePowered s1 p = cagePowered s p then (s1, .ok)
    else
      (plugInit (if cagePowered s p && (getMac s1 p).link then emit (linkFalls s1 p false false) (.linkLevel p false) else s1) p,
        .ok)

/-- GRN_PORTp: EN and CAGE_EN switch the cage's power; LINK_CHANGED is W1C. -/
def grnPortSet (s : State) (d : RegDef) (p o : Nat) (v : Word) : State × IStatus :=
  let s1 := plainWrite s d o v
  if grnPowered s1 p = grnPowered s p then (s1, .ok)
  else (grnPlugInit (if grnPowered s p then grnLinkOff s1 p else s1) p, .ok)

/-- MGT_CTRL: any write restarts the link (R210). -/
def mgtCtrlSet (s : State) (d : RegDef) (v : Word) : State × IStatus :=
  if (bitAt v 0 && bits v 8 4 == 0) || bits v 2 1 == 3 || (bits v 2 1 == 2 && bitAt v 3) then (s, .refused)
  else
    let s1 := plainWrite s d oMgtCtrl v
    (emit { s1 with mgmt := { s1.mgmt with
      link := false
      attempt := 0
      backoffUntil := none } } .mgmtRestart, .ok)

/-- The MGMT address on which the open session arrived (R212): none while its register is not enabled. -/
def sessionAddress (s : State) : Option Nat :=
  match s.oxvan.session with
  | none => none
  | some x =>
    match x.via with
    | .v4 => if getB s oMgtIp4 32 then some (getF s oMgtIp4 31 0) else none
    | .global6 => mgmtGlobal6 s
    | .linkLocal => some 0

/-- MGT_IP4 and MGT_IP6: a change of the session's own address is noted (R212). -/
def mgtAddressSet (s : State) (d : RegDef) (o : Nat) (v : Word) : State × IStatus :=
  let s1 := plainWrite s d o v
  (if sessionAddress s1 = sessionAddress s then s1
   else { s1 with oxvan := { s1.oxvan with addressChanged := true } }, .ok)

/-- MEM_CTRL with SPARE_GO (R443). -/
def memCtrlSet (s : State) (d : RegDef) (v : Word) : State × IStatus :=
  if bits v 23 16 = 0 then (s, .refused)
  else if bitAt v 8 then
    let r := spareGoWrite (plainWrite s d oMemCtrl v) (bits v 4 0)
    if r.2 = .refused then (s, .refused) else r
  else (plainWrite s d oMemCtrl v, .ok)

/-- Guaranteed slots of all classes when class `c` asks for `r` (R406). -/
def reserveSum (s : State) (c r : Nat) : Nat :=
  ((List.range 5).map (fun k => if k = c then r else reserveOf s k)).sum

/-- What a write of a register does (R10, and the register's own Effect column). -/
def writeReg (s : State) (d : RegDef) (i o : Nat) (v : Word) : State × IStatus :=
  match d.reg with
  | .glbStateReq => stateReqWrite s (bits v 3 0)
  | .glbProfile => profileWrite s v
  | .glbPartA => if s.oxvan.partApplying then (s, .state) else (plainWrite s d o v, .ok)
  | .glbPartB => if s.oxvan.partApplying then (s, .state) else (plainWrite s d o v, .ok)
  | .glbPartC => if s.oxvan.partApplying then (s, .state) else (plainWrite s d o v, .ok)
  | .glbPartCommit => if bitAt v 0 then partCommitWrite s else (s, .ok)
  | .glbOxvanCfg => oxvanCfgSet s d v
  | .tbCtrl => tbCtrlSet s d v
  | .tbIncr => tbIncrWrite s v
  | .tbPpsOut => ppsOutSet s d v
  | .tbPtpPort => ptpPortWrite s i v
  | .hciCnp => checked s d o v (bits v 47 32 == 0 || bits v 31 16 == 0 || bits v 15 0 == 0)
  | .hciSlotCfg => slotCfgSet s d i o v
  | .macCtrl => macCtrlSet s d i o v
  | .macVlan => checked s d o v (bits v 11 0 == 0xFFF)
  | .macUcValid => (plainWrite s d o (v ||| 1), .ok)
  | .macUc => checked s d o v (bitAt v 40)
  | .macFc => checked s d o v (bits v 3 2 == 3 || bits v 1 0 == 3)
  | .macGateCommit => if bitAt v 0 then gateCommitWrite s i else (s, .ok)
  | .mgtCtrl => mgtCtrlSet s d v
  | .mgtIp4 => mgtAddressSet s d o v
  | .mgtIp6A => mgtAddressSet s d o v
  | .mgtIp6B => mgtAddressSet s d o v
  | .mgtIp6C => mgtAddressSet s d o v
  | .strFallback => (fillFallback s (fillFallback s (plainWrite s d o v) 0) 1, .ok)
  | .strRtcp => checked s d o v (bits v 15 0 == 0)
  | .strFeedback => checked s d o v (bits v 47 32 == 0 || bits v 31 16 == 0)
  | .cipCtrl => checked s d o v (decide (bits v 14 8 > 64))
  | .cipWarnSrtp => checked s d o v (v == 0)
  | .cipWarnSrtcp => checked s d o v (bits v 30 0 == 0)
  | .cipFlush => if bitAt v 10 then cipFlushWrite s (bits v 9 0) else (s, .ok)
  | .decAdmit => checked s d o v (decide (bits v 6 0 > 100))
  | .encAdmit => checked s d o v (decide (bits v 6 0 > 100))
  | .tskCtrl =>
    let r := checked s d o v (decide (bits v 47 32 < 250))
    -- R407: the first tick of a new grid is the first one after the write
    if getF r.1 oTskCtrl 47 32 = getF s oTskCtrl 47 32 then r
    else ({ r.1 with sched := { r.1.sched with lastTick := now s } }, r.2)
  | .tskClassCfg => checked s d o v (decide (reserveSum s i (bits v 18 0) > 262144))
  | .tskCoreSteals => (putCore s i { getCore s i with made := bits v 47 24, stolen := bits v 23 0 }, .ok)
  | .dmaChCommit => if bitAt v 8 then dmaCommitWrite s (bits v 7 0) else (s, .ok)
  | .dmaChCfg => dmaCfgWrite s i v
  | .memCtrl => memCtrlSet s d v
  | .grnCfg => grnCfgWrite s v
  | .grnTimers =>
    checked s d o v (decide (bits v 47 32 < 100) || decide (bits v 47 32 > 10000) || decide (bits v 31 16 < 10)
      || bits v 15 4 == 0)
  | .grnPort => grnPortSet s d i o v
  | .errCtrl =>
    checked s d o v (bits v 6 4 == 0 || decide (bits v 6 4 > 4) || bits v 2 0 == 0 || decide (bits v 2 0 > 4))
  | .pwrLed => (if bitAt v 2 then lampTestWrite (plainWrite s d o v) else plainWrite s d o v, .ok)
  | .secFwCtrl => fwCtrlWrite s v
  | .secFwData => fwDataWrite s v
  | .secKekCtrl => kekCtrlWrite s v
  | .secKekW => (setSec s (fun x => { x with kekWords := x.kekWords.set i v }), .ok)
  | _ => (plainWrite s d o v, .ok)

-- ## Items (R155, R168, R173, R529)

/-- R529: the registers that Oxvan reaches in Windfall mode. -/
def Reg.inWindfall (r : Reg) : Bool :=
  ([.seedId, .seedMember, .seedRelease, .seedSerial, .seedFormats, .seedEntry, .glbIdent, .glbState, .glbStateReq,
    .glbOxvanCfg, .glbOxvanCount, .glbProfile, .mgtCtrl, .mgtStatus, .mgtIp4, .mgtIp6A, .mgtIp6B, .mgtIp6C, .mgtCount,
    .errSeq, .errMlogCount, .errMlogIndex, .errMlogW, .pwrCtrl, .pwrStatus, .pwrSupply, .pwrFan, .pwrTemp, .pwrLed,
    .secBoot, .secSecurity, .secSlot, .secFwCtrl, .secFwData, .secFwStatus, .secFwSpace, .secKekCtrl, .secKekW,
    .secKekStatus, .secIdFp] : List Reg).contains r

/-- R155, R529: the register that an access to an offset reaches, or why it fails. The header offsets of the Seed table
that no register takes read as zero (R157): `none`. -/
def reach (s : State) (off : Nat) : Except IStatus (Option (RegDef × Nat × Nat)) :=
  if off % 8 ≠ 0 then .error .align
  else if 0x28 ≤ off && off ≤ 0x38 then .ok none
  else
    match regAt off with
    | none => .error .unmapped
    | some r => if s.power.st = .windfall && !r.1.reg.inWindfall then .error .state else .ok (some r)

/-- A WRITE of one register through Oxvan. -/
def itemWrite (s : State) (off : Nat) (v : Word) : State × IStatus :=
  match reach s off with
  | .error e => (s, e)
  | .ok none => (s, .ok)
  | .ok (some (d, i, _)) => writeReg s d i off v

/-- The value that a register reads, if an access reaches one. -/
def itemRead (s : State) (off : Nat) : Option Word :=
  match reach s off with
  | .error _ => none
  | .ok none => some 0
  | .ok (some (d, i, j)) => some (readReg s d i j off)

/-- Run one item (R165, R173): the state, its status, and the register's read value after it. A value that no rule gives
(an access that reached no register) is free. -/
def runItem (s : State) (x : OxItem) : State × IStatus × Word :=
  let off := x.offset.toNat
  if x.op = 1 then
    match reach s off, itemRead s off with
    | .error e, _ => (nextFree s, e, freeVal s 48)
    | .ok _, v => (s, .ok, v.getD 0)
  else if x.op = 2 then
    let r := itemWrite s off x.value
    match itemRead r.1 off with
    | some v => (r.1, r.2, v)
    | none => (nextFree r.1, r.2, freeVal r.1 48)
  else (nextFree s, .opInvalid, freeVal s 48)

/-- R173: the items of a batch in order; after a failure the others do not run. -/
def runItems (s : State) (failed : Bool) (xs : List OxItem) : State × Bool × List (OxItem × IStatus) :=
  match xs with
  | [] => (s, failed, [])
  | x :: rest =>
    if failed then
      let r := runItems (nextFree s) true rest
      (r.1, r.2.1, ({ x with value := freeVal s 48 }, .notRun) :: r.2.2)
    else
      let a := runItem s x
      let r := runItems a.1 (a.2.1 != .ok) rest
      (r.1, r.2.1, ({ x with value := a.2.2 }, a.2.1) :: r.2.2)

-- ## Messages (R163 to R172)

/-- The values of R167 and R168. -/
def MStatus.code (m : MStatus) : Nat :=
  match m with
  | .ok => 0
  | .busy => 1
  | .noSession => 2
  | .sequence => 3
  | .format => 4
  | .itemFailed => 6
def IStatus.code (i : IStatus) : Nat :=
  match i with
  | .ok => 0
  | .unmapped => 1
  | .align => 2
  | .refused => 3
  | .state => 4
  | .notRun => 5
  | .opInvalid => 6

/-- R164, R165: the bytes of a reply. -/
def OxReply.bytes (r : OxReply) : List Byte :=
  [0x4F, 0x58, 0x01, r.type] ++ leBytes 4 r.session.toNat ++ leBytes 4 r.seq.toNat
    ++ [BitVec.ofNat 8 r.items.length, BitVec.ofNat 8 r.status.code, 0, 0]
    ++ r.items.flatMap (fun x => [x.1.op, BitVec.ofNat 8 x.2.code] ++ leBytes 3 x.1.offset.toNat ++ [0]
      ++ leBytes 6 x.1.value.toNat ++ [0, 0, 0, 0])

/-- A reserved TYPE below 0x80 (R166). -/
def badType (t : BitVec 8) : Bool := t == 0 || decide (5 ≤ t.toNat)

/-- R167: the message breaks a rule of FORMAT. -/
def msgMalformed (m : OxMsg) : Bool :=
  m.len != 16 + 16 * m.count || decide (m.count > 64) || !m.clean || m.session == 0 || (m.type != 2 && m.count != 0)
    || badType m.type

/-- Send a reply from the address and port that the message was sent to, to its source (R163). -/
def sendOx (s : State) (m : OxMsg) (r : OxReply) : State :=
  mgmtSend s { dst := m.mac, body := .udp m.own m.station.addr m.port m.station.port r.bytes }

/-- A reply with no items: the request's TYPE with bit 7 set, and its SESSION (R166). -/
def reply (s : State) (m : OxMsg) (st : MStatus) (seq : BitVec 32) : State :=
  sendOx s m { type := m.type ||| 0x80, session := m.session, seq := seq, status := st }

/-- The open session is the message's own (R170, R172). -/
def msgOwn (m : OxMsg) (s : State) : Bool :=
  match s.oxvan.session with
  | none => false
  | some x => x.id == m.session && x.station == m.station

/-- The idle time of the open session restarts (R170). -/
def touch (s : State) : State :=
  { s with oxvan := { s.oxvan with session := s.oxvan.session.map (fun x => { x with idleFrom := mgmtTime s }) } }

/-- A message of TYPE `own`, or of a reserved TYPE, is taken while Oxvan is answered: a session whose time is over ends first,
and FORMAT comes before the session (R167). -/
def withMsg (s : State) (f : MgmtFrame) (own : BitVec 8) (g : OxMsg → State → State) : State :=
  if !(mgmtAnswers s) then s
  else
    match mgmtTake s f with
    | .oxvan m =>
      if m.type ≠ own && !(badType m.type) then s
      else
        let s1 := expire s
        if msgMalformed m then reply s1 m .format m.seq else g m s1
    | _ => s

/-- The MGMT address on which a session arrives (R212). -/
def viaOf (a : Addr) : MgmtVia := if !a.v6 then .v4 else if a.bits.toNat = linkLocal then .linkLocal else .global6

/-- R170: OPEN. -/
def openSession (m : OxMsg) (s : State) : State :=
  if s.oxvan.session.isSome && !(msgOwn m s) then reply (bumpF s oGlbOxvanCount 23 12 1) m .busy m.seq
  else
    let x : Session :=
      { id := m.session, station := m.station, via := viaOf m.own, last := m.seq, stored := none, idleFrom := mgmtTime s }
    reply { s with oxvan := { s.oxvan with session := some x } } m .ok m.seq

def execOxvanOpen (f : MgmtFrame) (s : State) : Out := .next (withMsg s f 1 openSession)

/-- R212: once the reply has been sent, the session ends when its own address was changed. -/
def afterReply (s : State) : State := if s.oxvan.addressChanged then endSession s else s

/-- R171, R173: a BATCH that runs. -/
def runBatch (s : State) (m : OxMsg) : State :=
  let r := runItems s false m.items
  let st : MStatus := if r.2.1 then .itemFailed else .ok
  let rep : OxReply := { type := m.type ||| 0x80, session := m.session, seq := m.seq, status := st, items := r.2.2 }
  let s1 : State := { r.1 with oxvan := { r.1.oxvan with
    session := r.1.oxvan.session.map (fun x => { x with
      last := m.seq
      stored := some rep }) } }
  afterReply (sendOx (touch s1) m rep)

/-- R171: BATCH. -/
def batch (m : OxMsg) (s : State) : State :=
  match s.oxvan.session with
  | none => reply s m .noSession m.seq
  | some x =>
    if !(msgOwn m s) then reply s m .noSession m.seq
    else if m.seq = x.last + 1 then runBatch s m
    else if m.seq = x.last then
      match x.stored with
      | some rep => sendOx (touch s) m rep
      | none => reply (touch s) m .ok m.seq
    else reply (bumpF s oGlbOxvanCount 35 24 1) m .sequence x.last

def execOxvanBatch (f : MgmtFrame) (s : State) : Out := .next (withMsg s f 2 batch)

/-- R172: CLOSE. -/
def execOxvanClose (f : MgmtFrame) (s : State) : Out :=
  .next (withMsg s f 3 fun m s => if msgOwn m s then reply (endSession s) m .ok m.seq else reply s m .noSession m.seq)

/-- R172: PING. -/
def execOxvanPing (f : MgmtFrame) (s : State) : Out :=
  .next (withMsg s f 4 fun m s => if msgOwn m s then reply (touch s) m .ok m.seq else reply s m .noSession m.seq)

/-- R163, R166, R169: datagrams that are dropped without a reply. -/
def execOxvanDrop (f : MgmtFrame) (s : State) : Out :=
  .next (
    if mgmtAnswers s && decide (mgmtTake s f = .oxDropped) then bumpF s oGlbOxvanCount 47 36 1 else s)

/-- R170: the open session has been idle for IDLE_S. -/
def execSessionExpiry (s : State) : Out := .next (expire s)

-- ## Rows that write one register

/-- A write of one register by a row of its own, answered as an item. -/
def regItem (s : State) (off : Nat) (v : Word) : State :=
  if setupOpen s then
    let r := itemWrite s off v
    afterReply (emit r.1 (.itemStatus r.2))
  else s

def execRegisterWrite (offset : Nat) (v : Word) (s : State) : Out := .next (regItem s offset v)
def execProfileSave (s : State) : Out := .next (regItem s oGlbProfile 1)
def execProfileClear (s : State) : Out := .next (regItem s oGlbProfile 2)
def execProfileSaveDone (s : State) : Out := .next (profileDone s)
def execOxvanCfgWrite (v : Word) (s : State) : Out := .next (regItem s oGlbOxvanCfg v)
def execMgtCtrlWrite (v : Word) (s : State) : Out := .next (regItem s oMgtCtrl v)

/-- MGT_IP4 and MGT_IP6_A to C, in the order of their offsets. -/
def execMgtAddressWrite (reg : Fin 4) (v : Word) (s : State) : Out := .next (regItem s (oMgtIp4 + 8 * reg) v)

/-- A write of EN 0 that leaves the other fields as they are. -/
def execSlotDisable (slot : Fin 8) (s : State) : Out :=
  .next (regItem s (oHciSlotCfg slot) (putBits (regRaw s (oHciSlotCfg slot)) 0 0 0))
def execGateCommit (port : Fin 2) (s : State) : Out := .next (regItem s (oMacGateCommit port) 1)
def execCipFlush (lane : Fin 1024) (s : State) : Out := .next (regItem s oCipFlush (word (1024 + lane.val)))

end Sys2Proof.Machine
end

