-- ==== Sys2Proof/Machine/Dispatch.lean ====
section
/-! DEFINITION. One arm for each command: a direct call of its meaning. -/

namespace Sys2Proof.Machine

/-- The effect of one command on everything but the queue of waiting commands. -/
def exec (i : Instr) (s : State) : Host.Outcome State Fault Refusal :=
  match i with
  | .nop c => Sys2Proof.Machine.execNop c s
  | .ringCreate c => Sys2Proof.Machine.execRingCreate c s
  | .ringDestroy c => Sys2Proof.Machine.execRingDestroy c s
  | .cqCreate c => Sys2Proof.Machine.execCqCreate c s
  | .cqDestroy c => Sys2Proof.Machine.execCqDestroy c s
  | .regionAdd c => Sys2Proof.Machine.execRegionAdd c s
  | .regionRemove c => Sys2Proof.Machine.execRegionRemove c s
  | .windowOpen c => Sys2Proof.Machine.execWindowOpen c s
  | .windowClose c => Sys2Proof.Machine.execWindowClose c s
  | .barrier c => Sys2Proof.Machine.execBarrier c s
  | .connInfo c => Sys2Proof.Machine.execConnInfo c s
  | .timeRead c => Sys2Proof.Machine.execTimeRead c s
  | .timeSetIncr c => Sys2Proof.Machine.execTimeSetIncr c s
  | .timeStep c => Sys2Proof.Machine.execTimeStep c s
  | .timeSubscribe c => Sys2Proof.Machine.execTimeSubscribe c s
  | .timePathAck c => Sys2Proof.Machine.execTimePathAck c s
  | .confCreate c => Sys2Proof.Machine.execConfCreate c s
  | .confDestroy c => Sys2Proof.Machine.execConfDestroy c s
  | .streamCreate c => Sys2Proof.Machine.execStreamCreate c s
  | .streamModify c => Sys2Proof.Machine.execStreamModify c s
  | .streamDestroy c => Sys2Proof.Machine.execStreamDestroy c s
  | .streamQuery c => Sys2Proof.Machine.execStreamQuery c s
  | .legCreate c => Sys2Proof.Machine.execLegCreate c s
  | .legModify c => Sys2Proof.Machine.execLegModify c s
  | .legDestroy c => Sys2Proof.Machine.execLegDestroy c s
  | .legLayers c => Sys2Proof.Machine.execLegLayers c s
  | .meterSet c => Sys2Proof.Machine.execMeterSet c s
  | .shaperSet c => Sys2Proof.Machine.execShaperSet c s
  | .keyInstall c blob => Sys2Proof.Machine.execKeyInstall c blob s
  | .keyRetire c => Sys2Proof.Machine.execKeyRetire c s
  | .keyQuery c => Sys2Proof.Machine.execKeyQuery c s
  | .cipherJob c block source => Sys2Proof.Machine.execCipherJob c block source s
  | .decCreate c => Sys2Proof.Machine.execDecCreate c s
  | .decModify c => Sys2Proof.Machine.execDecModify c s
  | .decDestroy c => Sys2Proof.Machine.execDecDestroy c s
  | .decRequestIntra c => Sys2Proof.Machine.execDecRequestIntra c s
  | .canvasCreate c => Sys2Proof.Machine.execCanvasCreate c s
  | .canvasSetLayers c records => Sys2Proof.Machine.execCanvasSetLayers c records s
  | .canvasDestroy c => Sys2Proof.Machine.execCanvasDestroy c s
  | .encCreate c block => Sys2Proof.Machine.execEncCreate c block s
  | .encModify c => Sys2Proof.Machine.execEncModify c s
  | .encDestroy c => Sys2Proof.Machine.execEncDestroy c s
  | .encRefresh c => Sys2Proof.Machine.execEncRefresh c s
  | .mixCreate c block => Sys2Proof.Machine.execMixCreate c block s
  | .mixModify c => Sys2Proof.Machine.execMixModify c s
  | .mixDestroy c => Sys2Proof.Machine.execMixDestroy c s
  | .audioLegSet c => Sys2Proof.Machine.execAudioLegSet c s
  | .dmaSubmit c => Sys2Proof.Machine.execDmaSubmit c s
  | .dmaCancel c => Sys2Proof.Machine.execDmaCancel c s
  | .dmaQuery c => Sys2Proof.Machine.execDmaQuery c s
  | .preserveExport c host => Sys2Proof.Machine.execPreserveExport c host s
  | .preserveQuery c => Sys2Proof.Machine.execPreserveQuery c s
  | .memQuery c => Sys2Proof.Machine.execMemQuery c s
  | .brambleQuery c => Sys2Proof.Machine.execBrambleQuery c s
  | .statRead c => Sys2Proof.Machine.execStatRead c s
  | .diagRun c => Sys2Proof.Machine.execDiagRun c s
  | .statRipeness c => Sys2Proof.Machine.execStatRipeness c s
  | .identityRead c host => Sys2Proof.Machine.execIdentityRead c host s
  | .attestQuote c request => Sys2Proof.Machine.execAttestQuote c request s
  | .confAttach m => Sys2Proof.Machine.execConfAttach m s
  | .confDetach m => Sys2Proof.Machine.execConfDetach m s
  | .streamSubscribe m => Sys2Proof.Machine.execStreamSubscribe m s
  | .keyPictureRequest m => Sys2Proof.Machine.execKeyPictureRequest m s
  | .preserveFetch m => Sys2Proof.Machine.execPreserveFetch m s
  | .mixJoin m => Sys2Proof.Machine.execMixJoin m s
  | .join m mac => Sys2Proof.Machine.execJoin m mac s
  | .hello f age => Sys2Proof.Machine.execHello f age s
  | .beacon f => Sys2Proof.Machine.execBeacon f s
  | .media f h => Sys2Proof.Machine.execMedia f h s
  | .partialMix f => Sys2Proof.Machine.execPartialMix f s
  | .rankReport f => Sys2Proof.Machine.execRankReport f s
  | .seatDecision f => Sys2Proof.Machine.execSeatDecision f s
  | .dmaWrite f => Sys2Proof.Machine.execDmaWrite f s
  | .dmaRead f => Sys2Proof.Machine.execDmaRead f s
  | .dmaData f => Sys2Proof.Machine.execDmaData f s
  | .ack f => Sys2Proof.Machine.execAck f s
  | .helloSend west => Sys2Proof.Machine.execHelloSend west s
  | .beaconSend => Sys2Proof.Machine.execBeaconSend s
  | .joinRepeat => Sys2Proof.Machine.execJoinRepeat s
  | .memberLoss m => Sys2Proof.Machine.execMemberLoss m s
  | .beaconLoss => Sys2Proof.Machine.execBeaconLoss s
  | .reclaim => Sys2Proof.Machine.execReclaim s
  | .ackTimeout seq => Sys2Proof.Machine.execAckTimeout seq s
  | .grinalLinkAbsent west linkDown => Sys2Proof.Machine.execGrinalLinkAbsent west linkDown s
  | .unwrap west => Sys2Proof.Machine.execUnwrap west s
  | .grinalLinkUp west => Sys2Proof.Machine.execGrinalLinkUp west s
  | .mirrorGapTimeout ctx => Sys2Proof.Machine.execMirrorGapTimeout ctx s
  | .seatMerge group => Sys2Proof.Machine.execSeatMerge group s
  | .decisionMissing group => Sys2Proof.Machine.execDecisionMissing group s
  | .partialMixDeadline group => Sys2Proof.Machine.execPartialMixDeadline group s
  | .grnEnable v => Sys2Proof.Machine.execGrnEnable v s
  | .cmReq port r => Sys2Proof.Machine.execCmReq port r s
  | .rtu slot => Sys2Proof.Machine.execRtu slot s
  | .rtuTimeout slot => Sys2Proof.Machine.execRtuTimeout slot s
  | .mraRepeat slot => Sys2Proof.Machine.execMraRepeat slot s
  | .dreq slot => Sys2Proof.Machine.execDreq slot s
  | .rdmaErrorNak slot => Sys2Proof.Machine.execRdmaErrorNak slot s
  | .rdmaRetryExhausted slot => Sys2Proof.Machine.execRdmaRetryExhausted slot s
  | .holdExpiry slot => Sys2Proof.Machine.execHoldExpiry slot s
  | .cnpReceived slot => Sys2Proof.Machine.execCnpReceived slot s
  | .recoveryPeriodEnd slot => Sys2Proof.Machine.execRecoveryPeriodEnd slot s
  | .ecnCePacket slot => Sys2Proof.Machine.execEcnCePacket slot s
  | .windowRdmaRead slot addr len rkey => Sys2Proof.Machine.execWindowRdmaRead slot addr len rkey s
  | .windowRdmaWrite slot addr data rkey => Sys2Proof.Machine.execWindowRdmaWrite slot addr data rkey s
  | .bootSlotWrite slot index value => Sys2Proof.Machine.execBootSlotWrite slot index value s
  | .bootGo slot => Sys2Proof.Machine.execBootGo slot s
  | .ringPi slot ring value => Sys2Proof.Machine.execRingPi slot ring value s
  | .cqCi slot queue value => Sys2Proof.Machine.execCqCi slot queue value s
  | .eqCi slot value => Sys2Proof.Machine.execEqCi slot value s
  | .cqArm slot queue value => Sys2Proof.Machine.execCqArm slot queue value s
  | .eqArm slot value => Sys2Proof.Machine.execEqArm slot value s
  | .doorbellIgnored slot => Sys2Proof.Machine.execDoorbellIgnored slot s
  | .wakeDelayExpiry slot queue => Sys2Proof.Machine.execWakeDelayExpiry slot queue s
  | .descriptorFetch slot ring r => Sys2Proof.Machine.execDescriptorFetch slot ring r s
  | .eventBacklogPost slot queue => Sys2Proof.Machine.execEventBacklogPost slot queue s
  | .oxvanOpen f => Sys2Proof.Machine.execOxvanOpen f s
  | .oxvanBatch f => Sys2Proof.Machine.execOxvanBatch f s
  | .oxvanClose f => Sys2Proof.Machine.execOxvanClose f s
  | .oxvanPing f => Sys2Proof.Machine.execOxvanPing f s
  | .oxvanDrop f => Sys2Proof.Machine.execOxvanDrop f s
  | .sessionExpiry => Sys2Proof.Machine.execSessionExpiry s
  | .registerWrite offset v => Sys2Proof.Machine.execRegisterWrite offset v s
  | .stepGo force snap => Sys2Proof.Machine.execStepGo force snap s
  | .snap => Sys2Proof.Machine.execSnap s
  | .tbIncrWrite v => Sys2Proof.Machine.execTbIncrWrite v s
  | .ptpPortWrite port v => Sys2Proof.Machine.execPtpPortWrite port v s
  | .stateReqActive => Sys2Proof.Machine.execStateReqActive s
  | .stateReqQuiet => Sys2Proof.Machine.execStateReqQuiet s
  | .stateReqDormant => Sys2Proof.Machine.execStateReqDormant s
  | .stateReqRestart => Sys2Proof.Machine.execStateReqRestart s
  | .stateReqWindfall => Sys2Proof.Machine.execStateReqWindfall s
  | .stateTransitionDone => Sys2Proof.Machine.execStateTransitionDone s
  | .profileSave => Sys2Proof.Machine.execProfileSave s
  | .profileSaveDone => Sys2Proof.Machine.execProfileSaveDone s
  | .profileClear => Sys2Proof.Machine.execProfileClear s
  | .partCommit => Sys2Proof.Machine.execPartCommit s
  | .partApplied => Sys2Proof.Machine.execPartApplied s
  | .oxvanCfgWrite v => Sys2Proof.Machine.execOxvanCfgWrite v s
  | .mgtCtrlWrite v => Sys2Proof.Machine.execMgtCtrlWrite v s
  | .mgtAddressWrite reg v => Sys2Proof.Machine.execMgtAddressWrite reg v s
  | .slotDisable slot => Sys2Proof.Machine.execSlotDisable slot s
  | .gateCommit port => Sys2Proof.Machine.execGateCommit port s
  | .gateChangeTime port => Sys2Proof.Machine.execGateChangeTime port s
  | .gateEntry port => Sys2Proof.Machine.execGateEntry port s
  | .cipFlush lane => Sys2Proof.Machine.execCipFlush lane s
  | .spareGo stack => Sys2Proof.Machine.execSpareGo stack s
  | .sparingDone => Sys2Proof.Machine.execSparingDone s
  | .scrubRead found => Sys2Proof.Machine.execScrubRead found s
  | .dmaChCommit ch => Sys2Proof.Machine.execDmaChCommit ch s
  | .dmaChannelEnable ch v => Sys2Proof.Machine.execDmaChannelEnable ch v s
  | .dmaTransferStart ch => Sys2Proof.Machine.execDmaTransferStart ch s
  | .dmaTransferDone id host => Sys2Proof.Machine.execDmaTransferDone id host s
  | .dmaTransferError id cause written => Sys2Proof.Machine.execDmaTransferError id cause written s
  | .dmaArmTrigger ch => Sys2Proof.Machine.execDmaArmTrigger ch s
  | .dmaRequest src obj => Sys2Proof.Machine.execDmaRequest src obj s
  | .dmaWindowOpen ch => Sys2Proof.Machine.execDmaWindowOpen ch s
  | .dmaWindowClose ch => Sys2Proof.Machine.execDmaWindowClose ch s
  | .fwBegin slotB length => Sys2Proof.Machine.execFwBegin slotB length s
  | .fwData v => Sys2Proof.Machine.execFwData v s
  | .fwVerify => Sys2Proof.Machine.execFwVerify s
  | .fwVerifyDone c => Sys2Proof.Machine.execFwVerifyDone c s
  | .fwActivate => Sys2Proof.Machine.execFwActivate s
  | .fwAbort => Sys2Proof.Machine.execFwAbort s
  | .fwReverify slotB => Sys2Proof.Machine.execFwReverify slotB s
  | .kekLoad slot len256 => Sys2Proof.Machine.execKekLoad slot len256 s
  | .kekClear slot => Sys2Proof.Machine.execKekClear slot s
  | .lampTest => Sys2Proof.Machine.execLampTest s
  | .lampTestEnd => Sys2Proof.Machine.execLampTestEnd s
  | .macFrameReceive port f => Sys2Proof.Machine.execMacFrameReceive port f s
  | .packetClassify engine => Sys2Proof.Machine.execPacketClassify engine s
  | .arpRequest port q => Sys2Proof.Machine.execArpRequest port q s
  | .lockstepCompare engine equal => Sys2Proof.Machine.execLockstepCompare engine equal s
  | .mediaGateAdmit engine => Sys2Proof.Machine.execMediaGateAdmit engine s
  | .cipherLaneStart group => Sys2Proof.Machine.execCipherLaneStart group s
  | .cipherLaneEnd lane tagOk laneFault => Sys2Proof.Machine.execCipherLaneEnd lane tagOk laneFault s
  | .ticketStep ctx rtx => Sys2Proof.Machine.execTicketStep ctx rtx s
  | .fifoPop lane => Sys2Proof.Machine.execFifoPop lane s
  | .streamEnginePacket => Sys2Proof.Machine.execStreamEnginePacket s
  | .keyReserveWritten keyId => Sys2Proof.Machine.execKeyReserveWritten keyId s
  | .shaperEvaluate shaper => Sys2Proof.Machine.execShaperEvaluate shaper s
  | .txSelect port => Sys2Proof.Machine.execTxSelect port s
  | .pauseFrame port opcode enables quanta => Sys2Proof.Machine.execPauseFrame port opcode enables quanta s
  | .pauseQuantaExpiry port cls => Sys2Proof.Machine.execPauseQuantaExpiry port cls s
  | .pfcRepeat port => Sys2Proof.Machine.execPfcRepeat port s
  | .pauseWatchdog port cls own => Sys2Proof.Machine.execPauseWatchdog port cls own s
  | .pauseWatchdogEnd port cls own => Sys2Proof.Machine.execPauseWatchdogEnd port cls own s
  | .plugInsert cage p => Sys2Proof.Machine.execPlugInsert cage p s
  | .plugRemove cage => Sys2Proof.Machine.execPlugRemove cage s
  | .cmisRetry cage => Sys2Proof.Machine.execCmisRetry cage s
  | .dataLinkUp port => Sys2Proof.Machine.execDataLinkUp port s
  | .dataLinkDown port remoteFault => Sys2Proof.Machine.execDataLinkDown port remoteFault s
  | .mgmtLinkChange up full half => Sys2Proof.Machine.execMgmtLinkChange up full half s
  | .mgmtArp f => Sys2Proof.Machine.execMgmtArp f s
  | .mgmtEcho f => Sys2Proof.Machine.execMgmtEcho f s
  | .mgmtDrop f => Sys2Proof.Machine.execMgmtDrop f s
  | .mgmtTransmit c => Sys2Proof.Machine.execMgmtTransmit c s
  | .mgmtBackoffExpiry => Sys2Proof.Machine.execMgmtBackoffExpiry s
  | .rtcpSr ctx ntp rtp => Sys2Proof.Machine.execRtcpSr ctx ntp rtp s
  | .rtcpRr leg lsr dlsr => Sys2Proof.Machine.execRtcpRr leg lsr dlsr s
  | .rtcpNack ctx seqs => Sys2Proof.Machine.execRtcpNack ctx seqs s
  | .rtcpPliFir ctx fir => Sys2Proof.Machine.execRtcpPliFir ctx fir s
  | .rtcpCcfb leg packets => Sys2Proof.Machine.execRtcpCcfb leg packets s
  | .rtcpBye leg ssrc => Sys2Proof.Machine.execRtcpBye leg ssrc s
  | .rtcpReportTimer leg => Sys2Proof.Machine.execRtcpReportTimer leg s
  | .ccfbReportTimer leg => Sys2Proof.Machine.execCcfbReportTimer leg s
  | .nackTimer ctx seq => Sys2Proof.Machine.execNackTimer ctx seq s
  | .estimateStale leg => Sys2Proof.Machine.execEstimateStale leg s
  | .pointRateUpdate => Sys2Proof.Machine.execPointRateUpdate s
  | .switchInstant ctx => Sys2Proof.Machine.execSwitchInstant ctx s
  | .jbRelease ctx => Sys2Proof.Machine.execJbRelease ctx s
  | .pictureDecoded dec p => Sys2Proof.Machine.execPictureDecoded dec p s
  | .redecodeRunDone dec entry => Sys2Proof.Machine.execRedecodeRunDone dec entry s
  | .taintRequestTimer dec => Sys2Proof.Machine.execTaintRequestTimer dec s
  | .specCommitDeadline entry => Sys2Proof.Machine.execSpecCommitDeadline entry s
  | .joinEntryFreed => Sys2Proof.Machine.execJoinEntryFreed s
  | .canvasPictureStart canvas => Sys2Proof.Machine.execCanvasPictureStart canvas s
  | .composeRowDone canvas => Sys2Proof.Machine.execComposeRowDone canvas s
  | .composeRowDeadline canvas row => Sys2Proof.Machine.execComposeRowDeadline canvas row s
  | .encPictureStart channel => Sys2Proof.Machine.execEncPictureStart channel s
  | .encBlockRow channel layer segment nbits intra => Sys2Proof.Machine.execEncBlockRow channel layer segment nbits intra s
  | .encLastRowDeadline channel => Sys2Proof.Machine.execEncLastRowDeadline channel s
  | .encPictureFinal channel packets => Sys2Proof.Machine.execEncPictureFinal channel packets s
  | .mixPeriodStart group samples => Sys2Proof.Machine.execMixPeriodStart group samples s
  | .mixFrameFinal group ctx packet => Sys2Proof.Machine.execMixFrameFinal group ctx packet s
  | .mixFrameDrop group ctx => Sys2Proof.Machine.execMixFrameDrop group ctx s
  | .taskEnd core => Sys2Proof.Machine.execTaskEnd core s
  | .taskYield core why => Sys2Proof.Machine.execTaskYield core why s
  | .schedTick => Sys2Proof.Machine.execSchedTick s
  | .coreFault core => Sys2Proof.Machine.execCoreFault core s
  | .tskWindowEnd => Sys2Proof.Machine.execTskWindowEnd s
  | .ptpSync port domain seq twoStep origin correction => Sys2Proof.Machine.execPtpSync port domain seq twoStep origin correction s
  | .ptpFollowUp port id origin correction => Sys2Proof.Machine.execPtpFollowUp port id origin correction s
  | .ptpDelayResp port id m => Sys2Proof.Machine.execPtpDelayResp port id m s
  | .ptpAnnounce port domain clockIdentity state => Sys2Proof.Machine.execPtpAnnounce port domain clockIdentity state s
  | .announceTimeout port => Sys2Proof.Machine.execAnnounceTimeout port s
  | .ptpMessageTimer port kind => Sys2Proof.Machine.execPtpMessageTimer port kind s
  | .ppsInEdge falling => Sys2Proof.Machine.execPpsInEdge falling s
  | .ppsOutRise => Sys2Proof.Machine.execPpsOutRise s
  | .ppsOutFall => Sys2Proof.Machine.execPpsOutFall s
  | .ref10Valid => Sys2Proof.Machine.execRef10Valid s
  | .ref10Locked => Sys2Proof.Machine.execRef10Locked s
  | .ref10Lost => Sys2Proof.Machine.execRef10Lost s
  | .queueOverflow slot => Sys2Proof.Machine.execQueueOverflow slot s
  | .mainsOn inlet => Sys2Proof.Machine.execMainsOn inlet s
  | .pwrOk f => Sys2Proof.Machine.execPwrOk f s
  | .ready => Sys2Proof.Machine.execReady s
  | .readyTimeout => Sys2Proof.Machine.execReadyTimeout s
  | .startConfirmed => Sys2Proof.Machine.execStartConfirmed s
  | .moduleErrorRestart code instanceNo detailA detailB => Sys2Proof.Machine.execModuleErrorRestart code instanceNo detailA detailB s
  | .powerFail => Sys2Proof.Machine.execPowerFail s
  | .railsDrop => Sys2Proof.Machine.execRailsDrop s
  | .supplyFailed k outputFault inputLost removed => Sys2Proof.Machine.execSupplyFailed k outputFault inputLost removed s
  | .supplyInserted k codeOk mains => Sys2Proof.Machine.execSupplyInserted k codeOk mains s
  | .fanFailed f rpm removed => Sys2Proof.Machine.execFanFailed f rpm removed s
  | .redundancyRestored fan k => Sys2Proof.Machine.execRedundancyRestored fan k s
  | .thermalWarning proc inlet => Sys2Proof.Machine.execThermalWarning proc inlet s
  | .thermalCritical proc inlet => Sys2Proof.Machine.execThermalCritical proc inlet s
  | .windfallButtonPress => Sys2Proof.Machine.execWindfallButtonPress s
  | .windfallButtonFeedback => Sys2Proof.Machine.execWindfallButtonFeedback s
  | .windfallButtonArm => Sys2Proof.Machine.execWindfallButtonArm s
  | .windfallButtonRelease => Sys2Proof.Machine.execWindfallButtonRelease s
  | .ptpDelayReq port domain seq peer => Sys2Proof.Machine.execPtpDelayReq port domain seq peer s
  | .localAckTimeout slot => Sys2Proof.Machine.execLocalAckTimeout slot s
  | .rnrNak slot => Sys2Proof.Machine.execRnrNak slot s
  | .cmisError cage => Sys2Proof.Machine.execCmisError cage s
  | .fanInserted f codeOk => Sys2Proof.Machine.execFanInserted f codeOk s
  | .supplyInputRestored k => Sys2Proof.Machine.execSupplyInputRestored k s
  | .fanSpeedReached => Sys2Proof.Machine.execFanSpeedReached s
  | .flashProgramDone => Sys2Proof.Machine.execFlashProgramDone s
  | .selfTestDone u result => Sys2Proof.Machine.execSelfTestDone u result s

end Sys2Proof.Machine
end

