-- ==== Sys2Proof/Machine/Panel.lean ====
section
/-! DEFINITION. What the indicators show (R540, R545 to R548), as functions of the state. Where no row of R545 or R546
holds the pattern is `none`: the spec gives none. -/

namespace Sys2Proof.Machine

/-- Colours of the indicators. -/
inductive Lamp where
  | green | amber | blue | yellow
  deriving DecidableEq, Repr

/-- A pattern: a blink has its whole period in ms and a duty cycle of 50 %; a flash lasts 100 ms. -/
inductive Light where
  | dark
  | steady (c : Lamp)
  | activity (c : Lamp)
  | blink (c : Lamp) (periodMs : Nat)
  | flash (c : Lamp) (everyMs : Nat)
  deriving DecidableEq, Repr

/-- R547: the lowest row that holds applies. -/
def lowestRow (rows : List (Bool × Light)) : Option Light := ((rows.filter (·.1)).getLast?).map (·.2)

/-- The lamp test: green, amber, and blue where fitted, for 1 s each. -/
def lampLight (s : State) (hasBlue : Bool) : Option Light :=
  match s.power.lampFrom with
  | none => none
  | some t =>
    if s.power.aon < t + aonUs 1000000 then some (.steady .green)
    else if s.power.aon < t + aonUs 2000000 then some (.steady .amber)
    else if s.power.aon < t + aonUs 3000000 then some (if hasBlue then .steady .blue else .dark)
    else none

/-- R547: a lamp test takes precedence over the rows. -/
def shown (s : State) (hasBlue : Bool) (rows : List (Bool × Light)) : Option Light :=
  match lampLight s hasBlue with
  | some l => some l
  | none => lowestRow rows

/-- STATUS. The feedback of R548 takes precedence. -/
def statusLed (s : State) : Option Light :=
  let st := s.power.st
  if feedbackOn s then some (if s.power.buttonArmed then .steady .amber else .blink .amber 250)
  else shown s false [
    (st = .off, .dark),
    (st = .starting, .blink .green 500),
    (st = .active, .steady .green),
    (st = .quiet, .blink .green 2000),
    (st = .dormant, .flash .green 2000),
    (st = .windfall, .steady .amber),
    ((st = .active || st = .quiet) && (getB s oErrStatus 6 || getB s oErrStatus 7) && getB s oPwrLed 0, .blink .amber 500)]

/-- SYNC. -/
def syncLed (s : State) : Option Light :=
  let t := s.time
  let led := t.ptp0.state = 9 || t.ptp1.state = 9 || s.grn.state = .member
  shown s false [
    (!t.isSet || s.power.st = .windfall, .dark),
    (t.isSet && led, .steady .green),
    (t.isSet && !led, .blink .green 1000)]

/-- LOCATE, front and rear. -/
def locateLed (s : State) : Option Light := shown s true [(getB s oPwrLed 1, .blink .blue 1000)]

/-- DATA0 and DATA1. -/
def dataLed (s : State) (p : Fin 2) : Option Light :=
  let m := getMac s p
  shown s false [
    (m.plug == 0 || m.plug == 6, .dark),
    ((m.plug == 1 || m.plug == 2) && !m.link, .blink .green 1000),
    (m.link, .activity .green),
    (m.plug == 3 || m.plug == 4, .steady .amber),
    (m.plug == 5, .blink .amber 1000)]

/-- GRINAL-E (0) and GRINAL-W (1). -/
def grinalLed (s : State) (p : Fin 2) : Option Light :=
  let g := getGrnPort s p
  let st := s.grn.state
  shown s false [
    (!(getB s (oGrnPort p) 0) || g.plug == 0 || g.plug == 6, .dark),
    (g.link && (!g.neighbourValid || st = .joining), .blink .green 1000),
    (g.link && g.neighbourValid && (st = .member || st = .master), .activity .green),
    (g.wrapped && getB s oGrnCfg 6, .steady .amber),
    (st = .conflict, .blink .amber 1000)]

/-- PSU0 and PSU1. -/
def psuLed (s : State) (k : Fin 2) : Option Light :=
  let x := getPsu s k
  let y := getPsu s (1 - k)
  shown s false [
    (x.outOk, .steady .green),
    (x.inOk && !x.outOk, .steady .amber),
    (!x.inOk && y.outOk, .blink .amber 1000),
    (!x.inOk && !y.inOk, .dark)]

/-- FAN0 to FAN5. -/
def fanLed (s : State) (k : Fin 6) : Option Light :=
  let x := getFan s k
  shown s false [(x.ok, .steady .green), (x.present && !x.ok, .steady .amber)]

/-- R540: the right indicator of MGMT flashes for each frame sent or received. -/
def mgmtFrameLed (s : State) : Light := if s.mgmt.link then .activity .yellow else .dark

/-- R542, R544: the level of PPS OUT at the jack; none while it is high-impedance, off or in reset. A restart is not "in reset". -/
def ppsOutLevel (s : State) : Option Bool :=
  if s.power.st = .off || (s.power.st = .starting && !s.power.railsUp) then none else some s.time.ppsHigh

/-- R540: the left indicator of MGMT is green while MGT_STATUS.LINK is 1. -/
def mgmtLinkLed (s : State) : Light := if s.mgmt.link then .steady .green else .dark

end Sys2Proof.Machine
end

