-- ==== Sys2Proof/Safety.lean ====
section
/-! DEFINITION. The terms in which statements about the module are made: when a ring command begins and how it ends, which
memories and registers are in good form, and the invariants that every step keeps. -/

namespace Sys2Proof.Machine

-- ## Ring commands (R135 to R139)

/-- Ring command `c` with opcode `op` is carried out now: it stands fetched as `f`, nothing before it must take effect
first, and the module is in service. -/
def Begins (s : State) (op : Nat) (c : Cmd) (f : Fetched) : Prop :=
  findFetched s op c = some f ∧ eligible s f = true ∧ running s = true

/-- The state once descriptor `f` has been taken. -/
def taken (s : State) (f : Fetched) : State := dropFetched s f.no

/-- The state after command `c` of state `s` has completed with a status and result words on top of `s1`. -/
def answered (s : State) (c : Cmd) (s1 : State) (status : Nat) (w1 w3 : Word) : State :=
  settle (complete s1 c.slot c.ring (ringCq s c.slot c.ring) c.tag (cmdQuiet c) status w1 w3)

/-- Command `c`, taken as `f`, as it stands while it waits for `w`. -/
def waiter (s : State) (c : Cmd) (f : Fetched) (w : Wait) : Inflight :=
  { no := f.no, slot := c.slot, ring := c.ring, cq := ringCq s c.slot c.ring, tag := c.tag, quiet := cmdQuiet c, wait := w
    d := f.d }

/-- The state after command `c` has begun on top of `s1` and waits for `w`. -/
def begun (s : State) (c : Cmd) (f : Fetched) (s1 : State) (w : Wait) : State :=
  settle { s1 with hci := { s1.hci with inflight := s1.hci.inflight ++ [waiter s c f w] } }

-- ## Good form

/-- R49: an INCR that the module accepts. -/
def IncrOk (v : Nat) : Prop := 94352882327736 ≤ v ∧ v ≤ 94541776987050

/-- The INCR in effect is one that R49 accepts. -/
def State.IncrInv (s : State) : Prop := IncrOk s.time.incr

/-- Module memory is in its one canonical form. -/
def State.MemInv (s : State) : Prop := memWf s.memory.dram = true

/-- A step from `s` ends in a next state. -/
def Runs (s : State) : Prop := ∃ t, step s = .next t

end Sys2Proof.Machine
end

