-- ==== Sys2Proof/Certificates/Slice0/Obligations.lean ====
section
/-! DEFINITION. The statements about the module, for the provers. Ring commands are stated through `Begins`: the command
stands fetched, R136 lets it begin, and the module is in service. -/

open Sys2Proof Sys2Proof.Machine

/-- A step runs the command at the front of the queue with the queue's rest. -/
def Obligations.stepRunsFrontCommand : Prop :=
  ∀ (c : Instr) (rest : List Instr) (s : State),
    step { s with pending := c :: rest } = exec c { s with pending := rest }

/-- On an empty queue one TIME cycle passes: concealments whose deadline came in it and that nothing confirmed are conceded,
the cycle's pictures and requests are seen from the next one on, RAW counts while the time base runs, and the always-on
controller counts. Where no unit waits for the end of the cycle, nothing else changes. The model's choice (assumption 2)
for what the spec calls the free-running clock. -/
def Obligations.idleStepIsOneCycle : Prop :=
  ∀ s : State, s.pending = [] →
    step s = .next (idle (showNewest (concedeDue s))) ∧
    (s.spec.conceding = [] → (∀ p ∈ s.units.decs, p.2.before = none) → (∀ p ∈ s.units.canvases, p.2.before = none) →
      (∀ p ∈ s.units.encs, p.2.keyNew = false ∧ p.2.restartNew = false) →
      (s.time.released = true → step s = .next { s with
        time := { s.time with raw := s.time.raw + 1 }
        power := { s.power with aon := s.power.aon + 1 } }) ∧
      (s.time.released = false → step s = .next { s with power := { s.power with aon := s.power.aon + 1 } }))

/-- Reset: the queue is empty and nothing has been sent; the module has no mains, so its state is Off; no object, ring,
session or record exists; INCR is the nominal value of R47 and bridge time is 0. The reset values of registers of every
block of the window, as the blocks' register tables give them. -/
def Obligations.resetValues : Prop :=
  (State.reset.pending = [] ∧ State.reset.out = [] ∧ State.reset.power.st = .off ∧
   State.reset.time.incr = 94447329657393 ∧ now State.reset = 0 ∧ State.reset.time.isSet = false ∧
   State.reset.memory.dram = [] ∧ State.reset.oxvan.session = none ∧ State.reset.err.handling = [] ∧
   State.reset.spec.table = [] ∧ State.reset.grn.state = .disabled ∧ State.reset.sec.fw = .idle ∧
   (∀ n, n < 8 → (getSlot State.reset n).phase = .free) ∧
   (State.reset.media.streams = [] ∧ State.reset.media.legs = [] ∧ State.reset.media.confs = []) ∧
   (State.reset.units.decs = [] ∧ State.reset.units.canvases = [] ∧ State.reset.units.encs = []
     ∧ State.reset.units.mixes = [])) ∧
  (regRaw State.reset oSeedId = 0x5EED01080023 ∧
   regRaw State.reset oSeedMember = 0x901020200 ∧
   regRaw State.reset oSeedFormats = 0x10101010101 ∧
   regRaw State.reset oGlbPartA = 0xA00040100 ∧
   regRaw State.reset oGlbPartB = 0x60003000040 ∧
   regRaw State.reset oGlbPartC = 0x2000100028 ∧
   regRaw State.reset oGlbOxvanCfg = 0x1DBA1E00 ∧
   regRaw State.reset oTbCtrl = 0x4000 ∧
   regRaw State.reset oTbIncr = 0x55E63B88C231 ∧
   regRaw State.reset oTbStepThresh = 0x7D0 ∧
   regRaw State.reset oTbStepMax = 0x3E8 ∧
   regRaw State.reset oTbPpsOut = 0x186A0 ∧
   regRaw State.reset oTbPtpClock = 0x8080F8FEFFFF ∧
   regRaw State.reset (oTbPtpPort 1) = 0x310000 ∧
   regRaw State.reset (oTbLat 0) = 0x25800030C0 ∧
   regRaw State.reset (oTbLatGrinal 1) = 0x1900002080 ∧
   regRaw State.reset oHciCtrl = 0x7 ∧
   regRaw State.reset oHciCnp = 0x3703E80032 ∧
   regRaw State.reset (oHciSlotCfg 7) = 0x138869980000 ∧
   regRaw State.reset (oMacCtrl 1) = 0x240000000003 ∧
   regRaw State.reset (oMacFc 0) = 0x6400000000 ∧
   regRaw State.reset (oMacTcMap 0) = 0x37 ∧
   regRaw State.reset (oMacGateCycle 1) = 0x1E848 ∧
   regRaw State.reset (oMacGateEntry 1 63) = 0xFF00000000 ∧
   regRaw State.reset oMgtCtrl = 0x3F5 ∧
   regRaw State.reset oMgtIp4 = 0x1C0A80164 ∧
   regRaw State.reset oStrRtcp = 0x83AA7E5B03E8 ∧
   regRaw State.reset oStrFeedback = 0x32012C000A ∧
   regRaw State.reset oCipCtrl = 0x402 ∧
   regRaw State.reset oCipWarnSrtp = 0x800000000000 ∧
   regRaw State.reset oCipWarnSrtcp = 0x40000000 ∧
   regRaw State.reset oDecAdmit = 0x5A ∧
   regRaw State.reset oEncAdmit = 0x5A ∧
   regRaw State.reset oTskCtrl = 0x3E842002000 ∧
   regRaw State.reset (oTskClassCfg 3) = 0x10000 ∧
   regRaw State.reset (oDmaChCfg 7) = 0xC0000 ∧
   regRaw State.reset (oDmaChSize 255) = 0x1 ∧
   regRaw State.reset (oDmaChTrig 8) = 0x1 ∧
   regRaw State.reset oMemCtrl = 0x18400200 ∧
   regRaw State.reset oPrsCtrl = 0x1 ∧
   regRaw State.reset oGrnTimers = 0x3E800320C87 ∧
   regRaw State.reset oErrCtrl = 0xFF12 ∧
   regRaw State.reset oPwrLed = 0x1)

/-- The ring commands of block 0x0xx complete with status 0x000 and these effects (R148). CQ_DESTROY removes the queue
with the records that wait for it; RING_DESTROY, REGION_REMOVE and BARRIER begin and wait: for the ring's commands, for
accesses to the region, and for the connection's earlier commands (R148). -/
def Obligations.hostRingCommands : Prop :=
  (∀ (c : Cmd) (s : State) (f : Fetched),
     (Begins s 0x000 c f → reservedBad c 0 [] = false →
       exec (.nop c) s = .next (answered s c (taken s f) 0 0 0)) ∧
     (Begins s 0x001 c f → reservedBad c 0 [full, 2 ^ 38 - 1, 0x3F] = false →
       noQueue s c.slot (bits c.w3 5 0) = false → 6 ≤ bits c.w2 37 32 → bits c.w2 37 32 ≤ 16 → c.w1.toNat % 64 = 0 →
       (getSlot s c.slot).rings.length < 64 →
       exec (.ringCreate c) s = .next (answered s c
         (setSlot (taken s f) c.slot { getSlot s c.slot with
           rings := Tbl.put (getSlot s c.slot).rings (Tbl.lowestFree (getSlot s c.slot).rings)
             { addr := c.w1, log2 := bits c.w2 37 32, rkey := c.w2.setWidth 32, cq := bits c.w3 5 0 } })
         0 (ownHandle s 0x0B (c.slot * 64 + Tbl.lowestFree (getSlot s c.slot).rings)) 0)) ∧
     (Begins s 0x003 c f → reservedBad c 0 [full, 2 ^ 38 - 1] = false → 6 ≤ bits c.w2 37 32 → bits c.w2 37 32 ≤ 18 →
       c.w1.toNat % 64 = 0 → (getSlot s c.slot).cqs.length < 64 →
       exec (.cqCreate c) s = .next (answered s c
         (setSlot (taken s f) c.slot { getSlot s c.slot with
           cqs := Tbl.put (getSlot s c.slot).cqs (Tbl.lowestFree (getSlot s c.slot).cqs)
             { addr := c.w1, log2 := bits c.w2 37 32, rkey := c.w2.setWidth 32 } })
         0 (ownHandle s 0x0C (c.slot * 64 + Tbl.lowestFree (getSlot s c.slot).cqs)) 0)) ∧
     (Begins s 0x005 c f → reservedBad c 0 [full, 2 ^ 34 - 1, full] = false → c.w3 ≠ 0 → c.w3.toNat ≤ 2 ^ 40 →
       (getSlot s c.slot).regions.length < 1024 →
       exec (.regionAdd c) s = .next (answered s c
         (setSlot (taken s f) c.slot { getSlot s c.slot with
           regions := Tbl.put (getSlot s c.slot).regions (Tbl.lowestFree (getSlot s c.slot).regions)
             { addr := c.w1, len := c.w3.toNat, moduleRead := bitAt c.w2 32, moduleWrite := bitAt c.w2 33,
               rkey := c.w2.setWidth 32 }
           regionsGone := (getSlot s c.slot).regionsGone.filter (· != Tbl.lowestFree (getSlot s c.slot).regions) })
         0 (ownHandle s 0x0D (c.slot * 1024 + Tbl.lowestFree (getSlot s c.slot).regions)) 0)) ∧
     (Begins s 0x007 c f → reservedBad c 0 [full, full, 3] = false →
       (insideAny s [2, 3, 4, 5] c.w1.toNat c.w2.toNat = true ∨
         (bitAt c.w3 1 = false ∧ insideAny s [9] c.w1.toNat c.w2.toNat = true)) → c.w2 ≠ 0 → c.w1.toNat % 4096 = 0 →
       c.w2.toNat % 4096 = 0 → s.hci.windows.length < 256 →
       exec (.windowOpen c) s = .next (answered s c
         (nextFree { taken s f with hci := { (taken s f).hci with
           windows := Tbl.put s.hci.windows (Tbl.lowestFree s.hci.windows)
             { slot := c.slot, addr := c.w1.toNat, len := c.w2.toNat, hostRead := bitAt c.w3 0,
               hostWrite := bitAt c.w3 1, rkey := freeVal s 32 } } })
         0 (ownHandle s 0x0E (Tbl.lowestFree s.hci.windows)) ((freeVal s 32).setWidth 48))) ∧
     (Begins s 0x008 c f → reservedBad c 0 [full] = false → handleErr s [0x0E] c.w1 = none →
       Tbl.has s.hci.windows (hIndex c.w1) = true →
       exec (.windowClose c) s = .next (answered s c
         { taken s f with hci := { (taken s f).hci with windows := Tbl.del s.hci.windows (hIndex c.w1) } } 0 0 0)) ∧
     (Begins s 0x00A c f → reservedBad c 0 [] = false →
       exec (.connInfo c) s = .next (answered s c (taken s f) 0 (word ((getSlot s c.slot).port * 8 + c.slot))
         (word ((getSlot s c.slot).cqs.length * 128 + (getSlot s c.slot).rings.length))))) ∧
  (∀ (c : Cmd) (s : State) (f : Fetched),
     (Begins s 0x004 c f → reservedBad c 0 [full] = false → handleErr s [0x0C] c.w1 = none →
       hIndex c.w1 / 64 = c.slot → hIndex c.w1 % 64 ≠ 0 → noQueue s c.slot (hIndex c.w1 % 64) = false →
       (getSlot s c.slot).rings.any (fun r => r.2.cq == hIndex c.w1 % 64) = false →
       exec (.cqDestroy c) s = .next (answered s c
         (setSlot (forgetQueue (taken s f) c.slot (some (hIndex c.w1 % 64))) c.slot { getSlot s c.slot with
           cqs := Tbl.del (getSlot s c.slot).cqs (hIndex c.w1 % 64)
           backlog := (getSlot s c.slot).backlog.filter (fun p => p.1 != hIndex c.w1 % 64)
           timeSub := (getSlot s c.slot).timeSub.filter (fun e => e.queue != hIndex c.w1 % 64)
           brambleSub := (getSlot s c.slot).brambleSub.filter (fun e => e.queue != hIndex c.w1 % 64) }) 0 0 0)) ∧
     (∀ r, Begins s 0x002 c f → reservedBad c 0 [full] = false → handleErr s [0x0B] c.w1 = none →
       hIndex c.w1 / 64 = c.slot → hIndex c.w1 % 64 ≠ 0 →
       Tbl.get? (getSlot s c.slot).rings (hIndex c.w1 % 64) = some r → r.stopped = false →
       exec (.ringDestroy c) s = .next (begun s c f
         (setSlot (taken s f) c.slot { getSlot s c.slot with
           rings := Tbl.upd (getSlot s c.slot).rings (hIndex c.w1 % 64) (fun x => { x with stopped := true }) })
         (.ringDestroy (hIndex c.w1 % 64)))) ∧
     (Begins s 0x006 c f → reservedBad c 0 [full] = false → (regionCheck s c.slot c.w1).1 = false →
       exec (.regionRemove c) s = .next (begun s c f
         (setSlot (taken s f) c.slot { getSlot s c.slot with
           regions := Tbl.upd (getSlot s c.slot).regions (hIndex c.w1 % 1024) (fun r => { r with removing := true }) })
         (.regionRemove (hIndex c.w1 % 1024)))) ∧
     (Begins s 0x009 c f → reservedBad c 0 [] = false →
       exec (.barrier c) s = .next (begun s c f (taken s f) .barrier)))

/-- Connections: a REQ that fits a free slot is answered with REP and waits for its RTU; the RTU in time makes the slot
UNBOUND at full rate; without it the slot closes after its time; a DREQ is answered and loses the connection; NAKs and
exhausted retries lose it; a slot whose hold has run out closes (R121, R143, R145, R556). Congestion control of a
connection (R117, R118): a congestion notification lowers the rate by alpha / 2, not below the least rate, and raises
alpha; a period without one halves the distance to 400 Gbit/s and lowers alpha; a marked packet is answered with a
notification at most once in the least interval. -/
def Obligations.connectionEvents : Prop :=
  ((∀ (port : Fin 2) (r : CmReq) (s : State), running s = true → leaving s = false → getB s oHciCtrl 0 = true →
     reqUnfit s port r = false → (getSlot s (r.priv.getD 0 0).toNat).phase = .free →
     exec (.cmReq port r) s = .next (sendRep s (r.priv.getD 0 0).toNat port r.src r.mac false)) ∧
   (∀ (slot : Fin 8) (s : State) (d : Nat), (getSlot s slot).phase = .awaitRtu false d → now s ≤ d →
     exec (.rtu slot) s = .next (setSlot s slot { getSlot s slot with
       phase := .unbound, rate := 400000000000, alpha := 1, periodFrom := now s, nextSend := now s })) ∧
   (∀ (slot : Fin 8) (s : State) (d : Nat), (getSlot s slot).phase = .awaitRtu true d → now s ≤ d →
     exec (.rtu slot) s = .next (resumeSlot s slot)) ∧
   (∀ (slot : Fin 8) (s : State) (r : Bool) (d : Nat), (getSlot s slot).phase = .awaitRtu r d → d ≤ now s →
     exec (.rtuTimeout slot) s = .next (closeSlot s slot none)) ∧
   (∀ (slot : Fin 8) (s : State) (m : Mra), (getSlot s slot).phase = .closing (some m) → slotBusy s slot = true →
     m.again ≤ now s →
     exec (.mraRepeat slot) s = .next (sendMra (setSlot s slot { getSlot s slot with
       phase := .closing (some { m with again := now s + 2 ^ 76 }) }) slot { m with again := now s + 2 ^ 76 })) ∧
   (∀ (slot : Fin 8) (s : State), (getSlot s slot).connected = true →
     exec (.dreq slot) s = .next (loseConn (sendRoce s slot .cmDrep) slot)) ∧
   (∀ (slot : Fin 8) (s : State), (getSlot s slot).connected = true → bits (getSlot s slot).cfg 47 32 ≠ 0 →
     exec (.rdmaErrorNak slot) s = .next (setSlot (dropPkts s (fun p => p.slot == some slot.val && !p.m.overQp1)) slot
       { getSlot s slot with
         phase := .suspended (some (now s + durMs (bits (getSlot s slot).cfg 47 32))), unacked := [], ackFrom := none }) ∧
     exec (.rdmaRetryExhausted slot) s = exec (.rdmaErrorNak slot) s) ∧
   (∀ (slot : Fin 8) (s : State) (t : Nat), (getSlot s slot).phase = .suspended (some t) → t ≤ now s →
     exec (.holdExpiry slot) s = .next (closeSlot s slot none)) ∧
   (∀ (slot : Fin 8) (s : State), (getSlot s slot).connected = true →
     exec (.rnrNak slot) s = .next { s with hci := { s.hci with
       slots := s.hci.slots.set slot { getSlot s slot with unacked := [], ackFrom := some (now s) }
       sendQ := (getSlot s slot).unacked.map (slotPkt (getSlot s slot) slot) ++ s.hci.sendQ } } ∧
     (∀ t, (getSlot s slot).ackFrom = some t → t + durNs 67108864 ≤ now s → (getSlot s slot).retries < 7 →
       exec (.localAckTimeout slot) s = .next
         (resend (setSlot s slot { getSlot s slot with retries := (getSlot s slot).retries + 1 }) slot)))) ∧
  (∀ (slot : Fin 8) (s : State), (getSlot s slot).connected = true →
     (getB s oHciCtrl 2 = true →
       exec (.cnpReceived slot) s = .next (setSlot s slot { getSlot s slot with
         rate := max ((getSlot s slot).rate * (1 - (getSlot s slot).alpha / 2)) (getF s oHciCnp 31 16 * 1000000)
         alpha := (getSlot s slot).alpha * 15 / 16 + 1 / 16
         cnpInPeriod := true })) ∧
     (getB s oHciCtrl 2 = true → (getSlot s slot).periodFrom + durUs (getF s oHciCnp 47 32) ≤ now s →
       (getSlot s slot).cnpInPeriod = false →
       exec (.recoveryPeriodEnd slot) s = .next (setSlot s slot { getSlot s slot with
         rate := ((getSlot s slot).rate + 400000000000) / 2
         alpha := (getSlot s slot).alpha * 15 / 16
         cnpInPeriod := false
         periodFrom := now s })) ∧
     (getB s oHciCtrl 2 = true → (getSlot s slot).periodFrom + durUs (getF s oHciCnp 47 32) ≤ now s →
       (getSlot s slot).cnpInPeriod = true →
       exec (.recoveryPeriodEnd slot) s = .next (setSlot s slot { getSlot s slot with
         cnpInPeriod := false
         periodFrom := now s })) ∧
     (getB s oHciCtrl 1 = true → (getSlot s slot).lastCnp = none →
       exec (.ecnCePacket slot) s = .next
         (sendRoce (setSlot s slot { getSlot s slot with lastCnp := some (now s) }) slot .cnp)) ∧
     (∀ t, getB s oHciCtrl 1 = true → (getSlot s slot).lastCnp = some t → t + durUs (getF s oHciCnp 15 0) ≤ now s →
       exec (.ecnCePacket slot) s = .next
         (sendRoce (setSlot s slot { getSlot s slot with lastCnp := some (now s) }) slot .cnp)) ∧
     (∀ t, (getSlot s slot).lastCnp = some t → now s < t + durUs (getF s oHciCnp 15 0) →
       exec (.ecnCePacket slot) s = .next s))

/-- Accesses of a host (R117, R125, R126, R148, R152): a read inside a readable window is answered with its bytes, and nothing
else changes, when no held page is met; one that meets a held page waits; a write inside a writable window writes DRAM; an
access outside every window of the connection, or against its permission, is answered with a NAK and changes nothing else;
a write of one whole slot of the doorbell page is that doorbell. -/
def Obligations.windowAccesses : Prop :=
  ∀ (slot : Fin 8) (s : State) (a : Word) (rkey : BitVec 32), (getSlot s slot).connected = true →
    (∀ (len : Nat) (w : Window), windowFor s slot a.toNat len rkey = some w → w.hostRead = true →
      heldBy s a.toNat len = [] →
      exec (.windowRdmaRead slot a len rkey) s = .next (sendData_ s slot (readBytes s.memory.dram a.toNat len))) ∧
    (∀ (len : Nat) (w : Window), windowFor s slot a.toNat len rkey = some w → w.hostRead = true →
      heldBy s a.toNat len ≠ [] → (s.hci.waitingReads.filter (fun r => r.slot == slot.val)).length < 16 →
      ∃ t, exec (.windowRdmaRead slot a len rkey) s = .next t ∧
        t.hci.waitingReads = (pullHeld s a.toNat len (now s)).hci.waitingReads ++ [⟨slot, a.toNat, len⟩]) ∧
    (∀ (data : List Byte) (w : Window), onDoorbellPage s slot a.toNat data.length rkey = false →
      windowFor s slot a.toNat data.length rkey = some w → w.hostWrite = true →
      exec (.windowRdmaWrite slot a data rkey) s = .next (dramWrite s a.toNat data)) ∧
    (∀ len, windowFor s slot a.toNat len rkey = none →
      exec (.windowRdmaRead slot a len rkey) s = .next (sendRoce s slot .nakRemoteAccess)) ∧
    (∀ data : List Byte, onDoorbellPage s slot a.toNat data.length rkey = false →
      (∀ w, windowFor s slot a.toNat data.length rkey = some w → w.hostWrite = false) →
      exec (.windowRdmaWrite slot a data rkey) s = .next (sendRoce s slot .nakRemoteAccess)) ∧
    (∀ (data : List Byte) (ring : Fin 64), data.length = 8 → onDoorbellPage s slot a.toNat 8 rkey = true →
      (a.toNat % 4096 = 0x100 + 8 * ring → exec (.windowRdmaWrite slot a data rkey) s =
        exec (.ringPi slot ring ((BitVec.ofNat 64 (leNat data)).setWidth 32)) s) ∧
      (a.toNat % 4096 = 0x300 + 8 * ring → exec (.windowRdmaWrite slot a data rkey) s =
        exec (.cqCi slot ring ((BitVec.ofNat 64 (leNat data)).setWidth 32)) s) ∧
      (a.toNat % 4096 = 0x600 + 8 * ring → exec (.windowRdmaWrite slot a data rkey) s =
        exec (.cqArm slot ring (BitVec.ofNat 64 (leNat data))) s))

/-- The doorbell page (R122 to R130): a bootstrap word is taken while the slot is UNBOUND and counted while it is BOUND; BOOT_GO with good words binds
the slot with ring 0, queue 0 and the error queue; a producer index that claims no more than the ring holds, a consumer
index between the old one and the producer index, and an arm word are taken; any other use of the page is counted.
Producer indices and wakes (R130, R141, R142): a consumer index outside the queue's records is counted and taken for
nothing; an armed queue with an unread record whose delay has passed wakes its host once and is disarmed; one that is
not armed does not. -/
def Obligations.doorbellPage : Prop :=
  (∀ (slot : Fin 8) (s : State),
     (∀ (i : Fin 6) (v : BitVec 64), ((getSlot s slot).phase = .unbound →
       exec (.bootSlotWrite slot i v) s = .next (setSlot s slot { getSlot s slot with
         boot := (getSlot s slot).boot.set i v })) ∧
       ((getSlot s slot).phase = .bound → exec (.bootSlotWrite slot i v) s = .next (bumpF s oHciCount 35 24 1))) ∧
     (∀ b0 b1 b2 b3 b4 b5 : BitVec 64, (getSlot s slot).phase = .unbound →
       (getSlot s slot).boot = [b0, b1, b2, b3, b4, b5] →
       bits b0 47 0 % 64 = 0 → 6 ≤ bits b1 37 32 → bits b1 37 32 ≤ 16 →
       bits b2 47 0 % 64 = 0 → 6 ≤ bits b3 37 32 → bits b3 37 32 ≤ 18 →
       bits b4 47 0 % 64 = 0 → 6 ≤ bits b5 37 32 → bits b5 37 32 ≤ 16 →
       exec (.bootGo slot) s = .next (setSlot s slot { getSlot s slot with
         phase := .bound
         rings := [(0, { addr := word (bits b0 47 0), log2 := bits b1 37 32, rkey := b1.setWidth 32 })]
         cqs := [(0, { addr := word (bits b2 47 0), log2 := bits b3 37 32, rkey := b3.setWidth 32 })]
         eq := some { addr := word (bits b4 47 0), log2 := bits b5 37 32, rkey := b5.setWidth 32 } })) ∧
     (∀ (ring : Fin 64) (v : BitVec 32) (r : Ring), (getSlot s slot).connected = true →
       Tbl.get? (getSlot s slot).rings ring = some r → (v - r.fc).toNat ≤ 2 ^ r.log2 →
       exec (.ringPi slot ring v) s = .next (setSlot s slot { getSlot s slot with
         rings := Tbl.put (getSlot s slot).rings ring { r with pi := v } })) ∧
     (∀ (queue : Fin 64) (v : BitVec 32) (q : Queue), (getSlot s slot).connected = true →
       Tbl.get? (getSlot s slot).cqs queue = some q → (v - q.ci).toNat ≤ (q.pi - q.ci).toNat →
       exec (.cqCi slot queue v) s = .next (setCq s slot queue
         { q with ci := v, recs := q.recs.drop (v - q.ci).toNat })) ∧
     (∀ (v : BitVec 32) (q : ErrQueue), (getSlot s slot).connected = true → (getSlot s slot).eq = some q →
       (v - q.ci).toNat ≤ (q.pi - q.ci).toNat →
       exec (.eqCi slot v) s = .next (setSlot s slot { getSlot s slot with
         eq := some { q with ci := v, recs := q.recs.drop (v - q.ci).toNat } })) ∧
     (∀ (queue : Fin 64) (v : BitVec 64) (q : Queue), (getSlot s slot).connected = true →
       Tbl.get? (getSlot s slot).cqs queue = some q →
       exec (.cqArm slot queue v) s = .next (wakeCq (setCq s slot queue { q with
         arm := if bitAt v 32 then some { delayUs := bits v 31 16, count := bits v 15 0, armedAt := now s } else none })
         slot queue)) ∧
     (∀ (v : BitVec 64) (q : ErrQueue), (getSlot s slot).connected = true → (getSlot s slot).eq = some q →
       exec (.eqArm slot v) s = .next (wakeEq (setSlot s slot { getSlot s slot with eq := some { q with
         arm := if bitAt v 32 then some { delayUs := bits v 31 16, count := bits v 15 0, armedAt := now s } else none } })
         slot)) ∧
     ((getSlot s slot).connected = true → exec (.doorbellIgnored slot) s = .next (bumpF s oHciCount 35 24 1))) ∧
  (∀ (slot : Fin 8) (s : State) (queue : Fin 64) (q : Queue), Tbl.get? (getSlot s slot).cqs queue = some q →
     (∀ v : BitVec 32, (getSlot s slot).connected = true → (q.pi - q.ci).toNat < (v - q.ci).toNat →
       exec (.cqCi slot queue v) s = .next (bumpF s oHciCount 35 24 1)) ∧
     (∀ a : Arm, (getSlot s slot).phase = .bound → q.arm = some a → 1 ≤ (q.pi - q.ci).toNat →
       a.armedAt + durUs a.delayUs ≤ now s →
       exec (.wakeDelayExpiry slot (some queue)) s = .next
         (writeCqStatus (setCq s slot queue { q with arm := none }) slot q (some (wakeImm false queue q.pi)))) ∧
     (q.arm = none → exec (.wakeDelayExpiry slot (some queue)) s = .next s))

/-- Fetching (R135, R138, R143): the ring whose turn it is is read with one RDMA READ of at most 85 of its pending
descriptors and of no more than the completion queue has entries for; an entry is reserved for each, and they are appended
in order; a refused or timed-out fetch loses the connection. An error queue with space again reports its drops once, to its own connection (R499); a queue's waiting
event records are posted in order as its space allows (R140). -/
def Obligations.descriptorFetches : Prop :=
  (∀ (slot : Fin 8) (ring : Fin 64) (s : State) (rg : Ring) (cq : Queue),
     Tbl.get? (getSlot s slot).rings ring = some rg → Tbl.get? (getSlot s slot).cqs rg.cq = some cq →
     nextVisit s = some (slot.val, ring.val) → s.hci.fetchHeld = false → running s = true → leaving s = false →
     slotGranted s clsCtl 2 = true →
     fetchLimit rg cq ≤ 85 ∧ fetchLimit rg cq ≤ cq.spare ∧
     (∀ ds : List Desc, ∃ t, exec (.descriptorFetch slot ring (.descs ds)) s = .next t ∧
       t = settle (
         let got := ds.take (fetchLimit rg cq)
         let s1 := setSlot (readDescs s slot rg (fetchLimit rg cq)) slot { getSlot s slot with
           lastRing := ring
           rings := Tbl.put (getSlot s slot).rings ring { rg with fc := rg.fc + BitVec.ofNat 32 got.length }
           cqs := Tbl.put (getSlot s slot).cqs rg.cq { cq with reserved := cq.reserved + got.length } }
         { s1 with hci := { s1.hci with
           fetched := s.hci.fetched ++ got.zipIdx.map (fun p =>
             ⟨s.hci.nextNo + p.2, slot, ring, takeDesc (getSlot s slot) p.1⟩)
           nextNo := s.hci.nextNo + got.length
           lastVisit := slot } })) ∧
     exec (.descriptorFetch slot ring .denied) s = .next (loseConn (readDescs s slot rg (fetchLimit rg cq)) slot) ∧
     exec (.descriptorFetch slot ring .timeout) s = .next (loseConn (readDescs s slot rg (fetchLimit rg cq)) slot)) ∧
  ((∀ (slot : Fin 8) (s : State) (eq : ErrQueue) (first : Nat), (getSlot s slot).phase = .bound →
     (getSlot s slot).eq = some eq → (getSlot s slot).firstDrop = some first → eq.spare ≠ 0 →
     ∃ t, exec (.queueOverflow slot) s = .next t ∧ t.err.nextSeq = s.err.nextSeq + 1 ∧
       (∃ r, t.err.last = some r ∧ r.w5 = regRaw s (oErrDropSlot slot) ∧ r.w6 = word first) ∧
       t.memory = s.memory ∧ t.time = s.time ∧ t.media = s.media ∧ t.units = s.units) ∧
   (∀ (slot : Fin 8) (queue : Fin 64) (s : State), (getSlot s slot).connected = true →
     exec (.eventBacklogPost slot queue) s = .next (drainBacklog s slot queue 1025)))

/-- The time commands (R77): TIME_READ returns bridge time; TIME_SET_INCR with a value that R49 accepts takes effect and
returns the value before; TIME_STEP of an allowed amount takes effect and returns what it fired late and skipped;
TIME_SUBSCRIBE replaces the connection's subscription, and a mask of 0 cancels it whatever the queue; TIME_PATH_ACK clears
the flag of a data port and says whether it was set, and for a Grinal port changes nothing. -/
def Obligations.timeRingCommands : Prop :=
  ∀ (c : Cmd) (s : State) (f : Fetched),
    (Begins s 0x100 c f → reservedBad c 0 [] = false →
      exec (.timeRead c) s = .next (answered s c (taken s f) 0 (bt96Sec (now s)) (bt96Frac (now s)))) ∧
    (Begins s 0x101 c f → reservedBad c 0 [full] = false → IncrOk c.w1.toNat →
      exec (.timeSetIncr c) s = .next (answered s c (cmdSetIncr (taken s f) c.w1) 0 (word s.time.incr) 0)) ∧
    (Begins s 0x102 c f → reservedBad c 1 [full, full] = false →
      stepTooLarge s (stepAmount c.w1 c.w2) (cmdFlag c 0) = false →
      exec (.timeStep c) s = .next (answered s c (cmdStep (taken s f) c.w1 c.w2).1 0
        (word (applyStep (taken s f) c.w1 c.w2).2.1) (word (applyStep (taken s f) c.w1 c.w2).2.2))) ∧
    (Begins s 0x103 c f → reservedBad c 0 [0x3F, 0x1FF] = false → bits c.w2 8 0 = 0 →
      exec (.timeSubscribe c) s = .next (answered s c
        (setSlot (taken s f) c.slot { getSlot s c.slot with timeSub := none }) 0 0 0)) ∧
    (Begins s 0x103 c f → reservedBad c 0 [0x3F, 0x1FF] = false → bits c.w2 8 0 ≠ 0 →
      noQueue s c.slot (bits c.w1 5 0) = false →
      exec (.timeSubscribe c) s = .next (answered s c
        (setSlot (taken s f) c.slot { getSlot s c.slot with
          timeSub := some { queue := bits c.w1 5 0, mask := bits c.w2 8 0, tag := c.tag, ring := c.ring } }) 0 0 0)) ∧
    (Begins s 0x104 c f → reservedBad c 0 [0xF] = false → bits c.w1 3 0 < 2 → getB s oTbStatus (10 + bits c.w1 3 0) = true →
      exec (.timePathAck c) s = .next (answered s c
        (setF (taken s f) oTbStatus (10 + bits c.w1 3 0) (10 + bits c.w1 3 0) 0) 0 1 0)) ∧
    (Begins s 0x104 c f → reservedBad c 0 [0xF] = false → bits c.w1 3 0 ≤ 3 →
      (2 ≤ bits c.w1 3 0 ∨ getB s oTbStatus (10 + bits c.w1 3 0) = false) →
      exec (.timePathAck c) s = .next (answered s c (taken s f) 0 0 0))

/-- R48: an INCR that is taken leaves no step: bridge time at the TIME cycle of the change is the same under the old and the
new value; OFFSET is the bridge time of that cycle, ANCHOR its RAW value, and RAW is not written. A value computed for the RAW
value before it still uses the old INCR, one for it or a later RAW value the new one. -/
def Obligations.incrChangeHasNoStep : Prop :=
  (∀ (t : TimeBase) (v : Word),
    (t.reanchor v).now = t.now ∧ (t.reanchor v).anchor = t.raw ∧ (t.reanchor v).incr = v.toNat ∧
    (t.reanchor v).raw = t.raw ∧
    (t.reanchor v).offset = t.offset + ((t.raw : Int) - (t.anchor : Int)) * (t.incr : Int) ∧
    (∀ n : Nat, ({ t.reanchor v with raw := t.raw + n } : TimeBase).now
      = (((t.reanchor v).offset + (n : Int) * (v.toNat : Int)) % (2 ^ 124 : Int)).toNat)) ∧
  (∀ (s : State) (v : Word),
    (setIncr s v).time = s.time.reanchor v ∧
    (s.time.raw ≠ 0 → (thisCycle s).before = none → lastCycle (setIncr s v)
      = bridgeTime s.time.offset s.time.anchor s.time.incr ((s.time.raw : Int) - 1)))

/-- R49: TB_INCR is accepted from 94,352,882,327,736 to 94,541,776,987,050, both included. A value outside that range is
refused, by either way of writing it, and INCR stays as it was: TIME_SET_INCR ends with 0x130, a set-up write with an item
status of REFUSED. R52: of two in one TIME cycle the command's value remains, and both are reported. -/
def Obligations.incrRange : Prop :=
  ∀ (v : Word) (s : State),
    (incrBad v = false ↔ 94352882327736 ≤ v.toNat ∧ v.toNat ≤ 94541776987050) ∧
    (setupOpen s = true → s.power.st ≠ .windfall → IncrOk v.toNat → (thisCycle s).incrCmd = false →
      exec (.tbIncrWrite v) s = .next (emit (setIncr s v) (.itemStatus .ok))) ∧
    (setupOpen s = true → s.power.st ≠ .windfall → IncrOk v.toNat → (thisCycle s).incrCmd = true →
      exec (.tbIncrWrite v) s = .next (emit (timeEvent s 8 15 v 0 8) (.itemStatus .ok))) ∧
    (setupOpen s = true → s.power.st ≠ .windfall → ¬ IncrOk v.toNat →
      exec (.tbIncrWrite v) s = .next { s with out := s.out ++ [.itemStatus .refused] }) ∧
    (∀ (c : Cmd) (f : Fetched), Begins s 0x101 c f → reservedBad c 0 [full] = false → ¬ IncrOk c.w1.toNat →
      exec (.timeSetIncr c) s = .next (answered s c (taken s f) 0x130 0 0))

/-- R53, R54: STEP_GO without SNAP applies the step that TB_STEP_SEC and TB_STEP_FRAC hold; with SNAP the snapshot
follows the step; a step that R54 refuses changes nothing. SNAP alone captures bridge time. R53, R60: a step moves
bridge time by its signed amount, modulo the counter's width, sets SET, and leaves RAW, ANCHOR and INCR; the amount is
the signed seconds plus the fraction of 2^-48 s. -/
def Obligations.stepAndSnapWrites : Prop :=
  (∀ (s : State) (force : Bool), setupOpen s = true → s.power.st ≠ .windfall →
     (stepTooLarge s (stepAmount (regRaw s oTbStepSec) (regRaw s oTbStepFrac)) force = false →
       exec (.stepGo force false) s = .next
         (emit (applyStep s (regRaw s oTbStepSec) (regRaw s oTbStepFrac)).1 (.itemStatus .ok)) ∧
       exec (.stepGo force true) s = .next
         (emit (snapWrite (applyStep s (regRaw s oTbStepSec) (regRaw s oTbStepFrac)).1) (.itemStatus .ok))) ∧
     (∀ snap, stepTooLarge s (stepAmount (regRaw s oTbStepSec) (regRaw s oTbStepFrac)) force = true →
       exec (.stepGo force snap) s = .next { s with out := s.out ++ [.itemStatus .refused] }) ∧
     ((thisCycle s).cmdStep = 0 → exec .snap s = .next (emit
       (setRaw (setRaw s oTbSnapSec (word (now s / 2 ^ 76))) oTbSnapFrac (word (now s / 2 ^ 28))) (.itemStatus .ok))) ∧
     (∃ t, exec .snap s = .next t ∧ t = emit (snapWrite s) (.itemStatus .ok))) ∧
  ((∀ (t : TimeBase) (a : Int), (t.step a).now = ((((t.now : Nat) : Int) + a) % (2 ^ 124 : Int)).toNat ∧
     (t.step a).isSet = true ∧ (t.step a).raw = t.raw ∧ (t.step a).anchor = t.anchor ∧ (t.step a).incr = t.incr) ∧
   (∀ sec frac : Word, stepAmount sec frac = sec.toInt * 2 ^ 76 + (frac.toNat : Int) * 2 ^ 28))

/-- PTP messages of the port's own domain on an enabled port with a link (R63 to R73): a received message is stamped with
bridge time less RX_PS, in BT96; a one-step Sync on a following port gives its sample at once; a two-step Sync waits for its
Follow_Up, which by its sequenceId gives the sample from the stored receive time; a response to the port's request gives a
delay that goes through R71; Delay_Req and Pdelay_Req are answered from bridge time; an Announce of the master restarts its
timeout; a message of another domain is dropped and counted. R71, R72: a measurement before the reference is valid becomes
the reference; one within the threshold moves it by an eighth of the difference and drops the pending one; a first one
beyond it is held as pending; with detection on, none of them posts an event. -/
def Obligations.ptpMessages : Prop :=
  (∀ (port : Fin 2) (d : BitVec 8) (s : State),
     (ptpTaken s port d = true →
       (∀ q o c, following (getPtp s port).state = true →
         exec (.ptpSync port d q false o c) s = .next (offsetSample s port
           ((now s - getF s (oTbLat port) 23 0 * 2 ^ 76 / 1000000000000) / 2 ^ 28 * 2 ^ 28 : Nat) o c)) ∧
       (∀ q o c, following (getPtp s port).state = true → (getPtp s port).syncWaiting = [] →
         exec (.ptpSync port d q true o c) s =
           .next (setPtp s port { getPtp s port with syncWaiting := [(q, (rxStamp s port : Int), c)] })) ∧
       (∀ q o c rx c0, (getPtp s port).syncWaiting = [(q, rx, c0)] →
         exec (.ptpFollowUp port ⟨d, q⟩ o c) s = .next
           (offsetSample (setPtp s port { getPtp s port with syncWaiting := [] }) port rx o (c0 + c))) ∧
       (∀ q r x c at_, (getPtp s port).reqSent = some (q.toNat, at_) →
         (∀ m, measuredDelay (setPtp s port { getPtp s port with reqSent := none }) port r x c at_ = some m →
           exec (.ptpDelayResp port ⟨d, q⟩ ⟨r, x, c⟩) s =
             .next (pathDelay (setPtp s port { getPtp s port with reqSent := none }) port m)) ∧
         (measuredDelay (setPtp s port { getPtp s port with reqSent := none }) port r x c at_ = none →
           exec (.ptpDelayResp port ⟨d, q⟩ ⟨r, x, c⟩) s = .next (setPtp s port { getPtp s port with reqSent := none }))) ∧
       (∀ q, getB s (oTbPtpPort port) 1 = false → (getPtp s port).state = 6 →
         exec (.ptpDelayReq port d q false) s =
           .next (sendPtp s port (.delayResp q.toNat (btToPtp (rxStamp s port))))) ∧
       (∀ q, getB s (oTbPtpPort port) 1 = true → 4 ≤ (getPtp s port).state.toNat →
         exec (.ptpDelayReq port d q true) s =
           .next (sendPtp s port (.pdelayResp q.toNat (oneStep s port) (rxStamp s port) none))) ∧
       (∀ ci st, (getPtp s port).state = 8 ∨ (getPtp s port).state = 9 →
         ((getPtp s port).master = some ci → exec (.ptpAnnounce port d ci st) s = .next
           (setPtpState (setPtp s port { getPtp s port with lastAnnounce := now s }) port
             (bmcState s (getPtp s port).state st))) ∧
         (∀ m, (getPtp s port).master = some m → m ≠ ci → exec (.ptpAnnounce port d ci st) s = .next
           (setPtpState s port (bmcState s (getPtp s port).state st))))) ∧
     (running s = true → (getMac s port).link = true → getB s (oTbPtpPort port) 0 = true →
       d.toNat ≠ getF s oTbCtrl 13 6 → ∀ q o c two,
       exec (.ptpSync port d q two o c) s = .next
         (setPtp s port { getPtp s port with dropped := (getPtp s port).dropped + 1 }))) ∧
  (∀ (port : Fin 2) (s : State) (m : Int),
     ((getPtp s port).refValid = false →
       pathDelay s port m = setPtp s port { getPtp s port with delay := m, ref := m, refValid := true }) ∧
     ((getPtp s port).refValid = true →
       (getF s oTbStepThresh 23 0 = 0 ∨
         (m - (getPtp s port).ref).natAbs * 1000000000 ≤ getF s oTbStepThresh 23 0 * 2 ^ 76) →
       pathDelay s port m = setPtp s port { getPtp s port with
         delay := m, pending := false, ref := (getPtp s port).ref + (m - (getPtp s port).ref) / 8 }) ∧
     ((getPtp s port).refValid = true → getF s oTbStepThresh 23 0 ≠ 0 →
       getF s oTbStepThresh 23 0 * 2 ^ 76 < (m - (getPtp s port).ref).natAbs * 1000000000 →
       (getPtp s port).pending = false →
       pathDelay s port m = setPtp s port { getPtp s port with delay := m, pending := true, prev := m }))

/-- PTP timers and port writes (R65, R66, R73): a master port sends its Sync and its Announce when their intervals have
passed; a following port sends its delay requests; without an Announce in time a slave-only port goes LISTENING; a good
TB_PTP_Pn write is stored and puts the port in INITIALIZING. PPS and 10 MHz (R74 to R76): an edge of the selected polarity
more than 500 ms after the last stamped one is stamped and posted; one sooner is counted only; PPS OUT rises at a whole
second after the last and falls after its width; 10 MHz IN is acquired once it has been valid for 10 ms; it is locked and
reported once the difference has stayed within 0.01 ppm for 2 s; when it is lost the control value stays as it is, which
is reported; the control value never leaves ±50 ppm and moves by at most 0.05 ppm in a second. -/
def Obligations.ptpTimersAndWrites : Prop :=
  (∀ (port : Fin 2) (s : State),
     (running s = true → (getMac s port).link = true → getB s (oTbPtpPort port) 0 = true →
       ((getPtp s port).state = 6 →
         (getPtp s port).lastSync + logDur (bits (regRaw s (oTbPtpPort port)) 15 12) ≤ now s →
         exec (.ptpMessageTimer port .sync) s = .next (sendPtp
           (setPtp s port { getPtp s port with lastSync := now s, syncSeq := ((getPtp s port).syncSeq + 1) % 65536 }) port
           (.sync (getPtp s port).syncSeq (oneStep s port) none))) ∧
       ((getPtp s port).state = 6 →
         (getPtp s port).lastAnnounceSent + logDur (bits (regRaw s (oTbPtpPort port)) 19 16) ≤ now s →
         exec (.ptpMessageTimer port .announce) s = .next (sendPtp
           (setPtp s port { getPtp s port with
             lastAnnounceSent := now s, announceSeq := ((getPtp s port).announceSeq + 1) % 65536 }) port
           (.announce (getPtp s port).announceSeq (regRaw s oTbPtpClock)))) ∧
       (following (getPtp s port).state = true → bitAt (regRaw s (oTbPtpPort port)) 1 = false →
         (getPtp s port).lastDelayReq + logDur (bits (regRaw s (oTbPtpPort port)) 11 8) ≤ now s →
         exec (.ptpMessageTimer port .delayReq) s = .next (sendPtp
           (setPtp s port { getPtp s port with
             lastDelayReq := now s, reqSeq := ((getPtp s port).reqSeq + 1) % 65536, reqSent := none }) port
           (.delayReq (getPtp s port).reqSeq)))) ∧
     (running s = true → getB s (oTbPtpPort port) 0 = true → (getPtp s port).state = 8 → getB s oTbCtrl 14 = true →
       (getPtp s port).lastAnnounce + bits (regRaw s (oTbPtpPort port)) 23 20
         * logDur (bits (regRaw s (oTbPtpPort port)) 19 16) ≤ now s →
       exec (.announceTimeout port) s = .next
         (setPtpState (setPtp s port { getPtp s port with lastAnnounce := now s }) port 4)) ∧
     (∀ v : Word, setupOpen s = true → s.power.st ≠ .windfall → ptpPortBad v = false →
       exec (.ptpPortWrite port v) s = .next (emit (ptpPortWrite s port v).1 (.itemStatus .ok)) ∧
       (getPtp (ptpPortWrite s port v).1 port).state = if bitAt v 0 then 1 else 3)) ∧
  (∀ s : State,
     (∀ falling, s.time.released = true → getB s oTbCtrl 1 = true → falling = getB s oTbCtrl 2 →
       (s.time.lastPpsIn = none → exec (.ppsInEdge falling) s = .next
         (timeEvent (raiseBit { s with time := { s.time with lastPpsIn := some (now s) } } oTbStatus 6) 2 15
           (word (now s / 2 ^ 28)) 0 8)) ∧
       (∀ t, s.time.lastPpsIn = some t → t ≤ now s → now s < t + durMs 500 →
         exec (.ppsInEdge falling) s = .next (bumpF s oTbEventCount 15 0 1))) ∧
     (∀ k, s.time.ppsSecond = some k → ppsOn s = true → k < now s / 2 ^ 76 →
       exec .ppsOutRise s = .next { s with
         time := { s.time with ppsHigh := true, ppsSecond := some (now s / 2 ^ 76) }
         out := s.out ++ [.ppsOut true] }) ∧
     (∀ k, s.time.ppsSecond = some k → s.time.ppsHigh = true → k * 2 ^ 76 + durUs (getF s oTbPpsOut 19 0) ≤ now s →
       exec .ppsOutFall s = .next { s with
         time := { s.time with ppsHigh := false }
         out := s.out ++ [.ppsOut false] }) ∧
     (s.time.released = true → getB s oTbCtrl 0 = true → (s.time.ref10 = .off ∨ s.time.ref10 = .frozen) →
       s.time.refFrom + durMs 10 ≤ now s →
       ∃ v : Rat, -20 ≤ v ∧ v ≤ 20 ∧ exec .ref10Valid s = .next { s with
         fresh := s.fresh + 1
         time := { s.time with ref10 := .acquiring, refPpm := v, slewFrom := now s } }) ∧
     (s.time.ref10 = .acquiring → withinFrom s.time + durS 2 ≤ now s →
       exec .ref10Locked s = .next (timeEvent { s with time := { s.time with ref10 := .locked } } 5 15 0 0 8)) ∧
     (s.time.ref10 = .acquiring ∨ s.time.ref10 = .locked →
       exec .ref10Lost s = .next (timeEvent { s with time := { s.time with
         ref10 := .frozen, oscPpm := oscNow s, slewFrom := now s, refFrom := now s } } 6 15 0 0 8)) ∧
     (-50 ≤ s.time.oscPpm → s.time.oscPpm ≤ 50 → -50 ≤ oscNow s ∧ oscNow s ≤ 50 ∧
       max (oscNow s - s.time.oscPpm) (s.time.oscPpm - oscNow s)
         ≤ ((now s - s.time.slewFrom : Nat) : Rat) / 2 ^ 76 / 20))

/-- REGISTER_WRITE in a state of service (R10, R12, R155, R157, R173): an RW register takes the word at once; an RWC
register takes it as its pending value and keeps the value in effect; a write of the read-only Seed table is ignored; an
offset that is no multiple of 8 gives ALIGN and one that no register takes gives UNMAPPED, with no other effect.
Registers hold what is written to them, and a write of one register leaves every other one. -/
def Obligations.registerWrites : Prop :=
  (∀ (s : State) (v : Word), setupOpen s = true → s.power.st ≠ .windfall → s.oxvan.addressChanged = false →
     exec (.registerWrite oTbStepSec v) s = .next (emit (setRaw s oTbStepSec v) (.itemStatus .ok)) ∧
     exec (.registerWrite oErrMlogIndex v) s =
       .next (emit (setRaw s oErrMlogIndex ((regRaw s oErrMlogIndex &&& word 0xFFFFFFFFF000) ||| (v &&& word 0xFFF)))
         (.itemStatus .ok)) ∧
     (s.oxvan.partApplying = false → Tbl.get? s.regs oGlbPartA = none →
       exec (.registerWrite oGlbPartA v) s = .next (emit { s with shadow := Tbl.put s.shadow oGlbPartA v }
         (.itemStatus .ok))) ∧
     (Tbl.get? s.regs oSeedId = none →
       exec (.registerWrite oSeedId v) s = .next { s with out := s.out ++ [.itemStatus .ok] }) ∧
     (∀ off, off % 8 ≠ 0 → exec (.registerWrite off v) s = .next { s with out := s.out ++ [.itemStatus .align] }) ∧
     (∀ off, off % 8 = 0 → ¬ (0x28 ≤ off ∧ off ≤ 0x38) → regAt off = none →
       exec (.registerWrite off v) s = .next { s with out := s.out ++ [.itemStatus .unmapped] })) ∧
  (∀ (s : State) (o : Nat) (v : Word),
     regRaw (setRaw s o v) o = v ∧ (∀ p, p ≠ o → regRaw (setRaw s o v) p = regRaw s p) ∧
     (∀ hi lo x : Nat, lo ≤ hi → hi < 48 → getF (setF s o hi lo x) o hi lo = x % 2 ^ (hi + 1 - lo)) ∧
     (∀ hi lo x hi2 lo2 : Nat, lo ≤ hi → hi < lo2 → lo2 ≤ hi2 → hi2 < 48 →
       getF (setF s o hi lo x) o hi2 lo2 = getF s o hi2 lo2))

/-- The rows that write one register give its own effect (R178, R202, R210, R212, R282, R145): SAVE captures the profile
and CLEAR drops it when it is done; a good GLB_OXVAN_CFG is stored; MGT_CTRL restarts the link; an address register is
stored; EN 0 of a free slot is stored; a gate commit and a flush answer as their units do. -/
def Obligations.setupRows : Prop :=
  ∀ s : State, setupOpen s = true → s.power.st ≠ .windfall → s.oxvan.addressChanged = false →
    (s.oxvan.saving = none →
      exec .profileSave s = .next (emit
        { s with oxvan := { s.oxvan with saving := some (some (captureProfile s)) } } (.itemStatus .ok)) ∧
      exec .profileClear s = .next (emit { s with oxvan := { s.oxvan with saving := some none } } (.itemStatus .ok))) ∧
    (∀ p, s.oxvan.saving = some (some p) → mramWritable s = true →
      exec .profileSaveDone s = .next { s with
        oxvan := { s.oxvan with saving := none }
        mram := { s.mram with profile := some p, saveCount := min (s.mram.saveCount + 1) 0xFFFF } }) ∧
    (s.oxvan.saving = some none → mramWritable s = true →
      exec .profileSaveDone s = .next { s with
        oxvan := { s.oxvan with saving := none }
        mram := { s.mram with profile := none } }) ∧
    (∀ v : Word, bits v 31 16 ≠ 0 → bits v 15 8 ≠ 0 → s.oxvan.session = none →
      ∃ t, exec (.oxvanCfgWrite v) s = .next t ∧ t.oxvan.port = bits v 31 16 ∧
        getF t oGlbOxvanCfg 31 8 = bits v 31 8 ∧ t.out = s.out ++ [.itemStatus .ok]) ∧
    (∀ v : Word, bits v 8 4 ≠ 0 → bits v 2 1 < 2 →
      ∃ t, exec (.mgtCtrlWrite v) s = .next t ∧ getF t oMgtCtrl 9 0 = bits v 9 0 ∧ t.mgmt.link = false ∧
        t.mgmt.attempt = 0 ∧ t.mgmt.backoffUntil = none ∧ t.out = s.out ++ [.mgmtRestart, .itemStatus .ok]) ∧
    (∀ v : Word, s.oxvan.session = none →
      ∃ t, exec (.mgtAddressWrite 1 v) s = .next t ∧ regRaw t oMgtIp6A = v ∧ t.out = s.out ++ [.itemStatus .ok]) ∧
    (∀ slot : Fin 8, (getSlot s slot).phase = .free →
      ∃ t, exec (.slotDisable slot) s = .next t ∧ getB t (oHciSlotCfg slot) 0 = false ∧ t.hci = s.hci ∧
        t.out = s.out ++ [.itemStatus .ok]) ∧
    (∀ port : Fin 2, exec (.gateCommit port) s = .next
      (afterReply (emit (gateCommitWrite s port).1 (.itemStatus (gateCommitWrite s port).2)))) ∧
    (∀ lane : Fin 1024, exec (.cipFlush lane) s = .next
      (afterReply (emit (cipFlushWrite s lane).1 (.itemStatus (cipFlushWrite s lane).2))))

/-- OPEN, CLOSE, PING and expiry (R163 to R172): a frame that carries an Oxvan message to MGMT is answered to its sender: an
OPEN with no other session open opens the session and answers OK; while another is open it is BUSY, counted, and changes no
session; CLOSE and PING of the own session end and renew it; those of no open session are answered NO_SESSION; a malformed
message is answered FORMAT; a session idle for IDLE_S ends and is counted; a datagram that breaks R164 or R166 is counted.
R170: a session whose idle time has reached IDLE_S ends, is counted, and the UDP port set takes effect. A reply of no
items is 16 bytes: MAGIC, VERSION, TYPE with bit 7 set, SESSION, SEQ, no items, and the status. -/
def Obligations.oxvanSessions : Prop :=
  (∀ (s : State) (f : MgmtFrame) (m : OxMsg), mgmtAnswers s = true → mgmtTake s f = .oxvan m → idleOver s = false →
     (msgMalformed m = false →
       (m.type = 1 → s.oxvan.session = none →
         exec (.oxvanOpen f) s = .next (reply { s with
           oxvan := { s.oxvan with session := some { id := m.session, station := m.station, via := viaOf m.own, last := m.seq,
                                                     stored := none, idleFrom := mgmtTime s } } } m .ok m.seq)) ∧
       (m.type = 3 → s.oxvan.session = none →
         exec (.oxvanClose f) s = .next (reply s m .noSession m.seq)) ∧
       (m.type = 4 → s.oxvan.session = none →
         exec (.oxvanPing f) s = .next (reply s m .noSession m.seq)) ∧
       (m.type = 1 → s.oxvan.session.isSome = true → msgOwn m s = false →
         exec (.oxvanOpen f) s = .next (reply (bumpF s oGlbOxvanCount 23 12 1) m .busy m.seq)) ∧
       (m.type = 3 → msgOwn m s = true →
         exec (.oxvanClose f) s = .next (reply { s with
           oxvan := { s.oxvan with session := none, addressChanged := false, port := getF s oGlbOxvanCfg 31 16 } } m .ok
             m.seq)) ∧
       (m.type = 4 → msgOwn m s = true →
         exec (.oxvanPing f) s = .next (reply { s with
           oxvan := { s.oxvan with session := s.oxvan.session.map (fun x => { x with idleFrom := mgmtTime s }) } } m .ok
             m.seq))) ∧
     (m.type = 4 → msgMalformed m = true → exec (.oxvanPing f) s = .next (reply s m .format m.seq))) ∧
  (∀ (s : State) (f : MgmtFrame), mgmtAnswers s = true → mgmtTake s f = .oxDropped →
     exec (.oxvanDrop f) s = .next (bumpF s oGlbOxvanCount 47 36 1)) ∧
  (∀ (s : State) (m : OxMsg) (st : MStatus) (q : BitVec 32), s.mgmt.link = true → mgmtHalf s = false → s.mgmt.queue = [] →
     reply s m st q = { s with
       mgmt := { s.mgmt with attempt := 0 }
       out := s.out ++ [.mgmt {
         dst := m.mac
         body := .udp m.own m.station.addr m.port m.station.port
           ([0x4F, 0x58, 0x01, m.type ||| 0x80] ++ leBytes 4 m.session.toNat ++ leBytes 4 q.toNat
             ++ [0, BitVec.ofNat 8 st.code, 0, 0]) }] }) ∧
  (∀ s : State, idleOver s = false → exec .sessionExpiry s = .next s) ∧
  (∀ (s : State) (x : Session), s.oxvan.session = some x →
     x.idleFrom + getF s oGlbOxvanCfg 15 8 * 2 ^ 76 ≤ mgmtTime s →
     exec .sessionExpiry s = .next (bumpF { s with
       oxvan := { s.oxvan with session := none, addressChanged := false, port := getF s oGlbOxvanCfg 31 16 } }
       oGlbOxvanCount 11 0 1))

/-- BATCH (R171, R173): the next sequence number runs the items and stores the reply; the number of the last batch
returns the stored reply and runs nothing; any other number changes no register but its count; without an own session
nothing is run. R173: the items of a batch run in order, one status and value for each; after a failure the rest are
NOT_RUN and change nothing but which free values are used. A batch of writes to TB_STEP_SEC leaves the last value in
it. -/
def Obligations.oxvanBatches : Prop :=
  (∀ (s : State) (f : MgmtFrame) (m : OxMsg) (x : Session), mgmtAnswers s = true → mgmtTake s f = .oxvan m →
     idleOver s = false → msgMalformed m = false → m.type = 2 → s.oxvan.session = some x →
     (msgOwn m s = true → m.seq = x.last + 1 → exec (.oxvanBatch f) s = .next (runBatch s m)) ∧
     (∀ rep, msgOwn m s = true → m.seq = x.last → m.seq ≠ x.last + 1 → x.stored = some rep →
       exec (.oxvanBatch f) s = .next (sendOx { s with
         oxvan := { s.oxvan with session := some { x with idleFrom := mgmtTime s } } } m rep)) ∧
     (msgOwn m s = true → m.seq ≠ x.last → m.seq ≠ x.last + 1 →
       exec (.oxvanBatch f) s = .next (reply (bumpF s oGlbOxvanCount 35 24 1) m .sequence x.last)) ∧
     (msgOwn m s = false → exec (.oxvanBatch f) s = .next (reply s m .noSession m.seq))) ∧
  ((∀ (xs : List OxItem) (failed : Bool) (s : State), (runItems s failed xs).2.2.length = xs.length) ∧
   (∀ (xs : List OxItem) (s : State), (runItems s true xs).1 = { s with fresh := s.fresh + xs.length } ∧
     (runItems s true xs).2.2.all (fun r => r.2 == .notRun) = true ∧
     (runItems s true xs).2.2.map (fun r => (r.1.op, r.1.offset)) = xs.map (fun x => (x.op, x.offset))) ∧
   (∀ (x : OxItem) (xs : List OxItem) (s : State), (runItem s x).2.1 = .ok →
     (runItems s false (x :: xs)).1 = (runItems (runItem s x).1 false xs).1) ∧
   (∀ (a b : Word) (s : State), s.power.st ≠ .windfall →
     regRaw (runItems s false [⟨2, BitVec.ofNat 24 oTbStepSec, a⟩, ⟨2, BitVec.ofNat 24 oTbStepSec, b⟩]).1 oTbStepSec = b))

/-- Requests of a power state (R146, R177, R516, R518): from Active or Quiet the other of the two is headed for and taken when
the transition ends; Dormant and a restart are headed for from either, with every command that is fetched and has not begun
completed with 0x402, and 0x7 also arms Windfall mode; a request for the state the module is in is accepted and changes
nothing. A transition ends (R516, R518, R519): with every transmit queue and shaper empty the module is Quiet; a module
headed for Active is Active with its cores started; one headed for Dormant is Dormant, with no unit's work left; one headed
for a restart closes the host's connections and starts. A transition to Quiet does not end while something is queued. -/
def Obligations.stateRequests : Prop :=
  (∀ s : State, s.power.powerFailAt = none → s.power.target = none → s.oxvan.partApplying = false →
     (s.power.st = .quiet → exec .stateReqActive s = .next (emit { s with
       power := { s.power with target := some .active } } (.itemStatus .ok))) ∧
     (s.power.st = .active → exec .stateReqQuiet s = .next (emit { s with
       power := { s.power with target := some .quiet } } (.itemStatus .ok))) ∧
     (s.power.st = .active → exec .stateReqActive s = .next (emit s (.itemStatus .ok))) ∧
     (s.power.st = .active ∨ s.power.st = .quiet →
       exec .stateReqDormant s = .next (emit (beginDormant s) (.itemStatus .ok)) ∧
       (beginDormant s).power.target = some .dormant ∧
       exec .stateReqRestart s = .next (emit (requestedRestart s) (.itemStatus .ok)) ∧
       (requestedRestart s).power.target = some .starting ∧
       (requestedRestart s) = { completeFetched s 0x402 with
         power := { (completeFetched s 0x402).power with target := some .starting } } ∧
       exec .stateReqWindfall s = .next (emit (requestedRestart { s with
         mram := { s.mram with armed := some (s.mram.armed.getD false) } }) (.itemStatus .ok))) ∧
     (s.power.st = .starting → exec .stateReqActive s = .next s)) ∧
  (∀ s : State, s.power.powerFailAt = none →
     (s.power.target = some .quiet → s.power.st = .active → drained s = true →
       exec .stateTransitionDone s = .next (enterQuiet s) ∧ (enterQuiet s).power.st = .quiet ∧
       (enterQuiet s).power.target = none) ∧
     (s.power.target = some .quiet → s.power.st = .active → drained s = false →
       exec .stateTransitionDone s = .next s) ∧
     (s.power.target = some .active → s.power.st = .quiet → exec .stateTransitionDone s = .next (enterActive s)) ∧
     (s.power.target = some .active → s.power.st = .dormant → exec .stateTransitionDone s = .next (wake s .active)) ∧
     (s.power.target = some .dormant → ∃ t, exec .stateTransitionDone s = .next t ∧ t = enterDormant s ∧
       t.power.st = .dormant ∧ t.power.target = none ∧ t.spec = {} ∧ t.units = {} ∧ t.dma.xfers = [] ∧
       t.media.groups = [] ∧ t.media.jobs = [] ∧ t.grn.merges = []) ∧
     (s.power.target = some .starting → exec .stateTransitionDone s = .next (restart (closeHost s)) ∧
       (restart (closeHost s)).power.st = .starting)) ∧
  (∀ s : State, s.power.powerFailAt ≠ none → exec .stateTransitionDone s = .next s)

/-- A start (R514, R520 to R524): mains at a supply with the right airflow code starts an Off module; with a good image and
good memory the time base is released at 0 s with the stored INCR if R49 accepts it, else the nominal one, and the profile
takes the place of the reset values; an armed start and a third failed one in a row enter Windfall mode; a start that does
not become ready in time is counted and begun again; 60 s of service without a MODULE-class error confirm the start. -/
def Obligations.startsOfTheModule : Prop :=
  ∀ s : State,
    (∀ inlet : Fin 2, s.power.st = .off → (getPsu s inlet).present = true → (getPsu s inlet).inOk = false →
      (getPsu s inlet).codeOk = true →
      ∃ t, exec (.mainsOn inlet) s = .next t ∧ t.power.st = .starting ∧ (getPsu t inlet).inOk = true ∧
        (getPsu t inlet).outOk = true ∧ t.mram = s.mram ∧ t.regs = s.regs) ∧
    (∀ f : StartFacts, s.power.st = .starting → s.power.pwrOk = false →
      exec (.pwrOk f) s = .next (startModule (startFans s) f)) ∧
    (∀ f : StartFacts, f.historyLost = false → s.mram.historyValid = true →
      (∀ button, s.mram.armed = some button →
        (startModule s f).power.st = .windfall ∧ (startModule s f).mram.armed = none ∧
        (startModule s f).mram.windfallReason = if button then 2 else 3) ∧
      (s.mram.armed = none → 3 ≤ s.mram.failCount →
        (startModule s f).power.st = .windfall ∧ (startModule s f).mram.windfallReason = 1)) ∧
    ((releaseTime s).time.released = true ∧ now (releaseTime s) = 0 ∧ (releaseTime s).time.isSet = false ∧
      (∀ v, s.mram.incr = some v → IncrOk v → (releaseTime s).time.incr = v ∧ (releaseTime s).time.incrFromMram = true) ∧
      (s.mram.incr = none →
        (releaseTime s).time.incr = 94447329657393 ∧ (releaseTime s).time.incrFromMram = false)) ∧
    (s.power.st = .starting → s.power.pwrOk = true → withinStart s = true → s.power.critical = false →
      s.power.procDc ≤ 950 → getB s oPwrCtrl 1 = false →
      ∃ s1, exec .ready s = .next (bringUp s1) ∧ s1.power.st = .active ∧ s1.power.readyAt = some s.power.aon ∧
        s1.time = s.time ∧ s1.regs = s.regs) ∧
    (s.power.st = .starting → s.power.pwrOk = true → withinStart s = false →
      exec .readyTimeout s = .next (restart (countFailedStart s 4))) ∧
    (∀ t, s.power.readyAt = some t → t + aonUs 60000000 ≤ s.power.aon → s.power.moduleErr = false →
      s.power.confirmed = false → mramWritable s = true →
      exec .startConfirmed s = .next { s with
        power := { s.power with confirmed := true }
        mram := { s.mram with failCount := 0, preferredB := s.power.runningB,
                              minSvn := max s.mram.minSvn s.power.runningSvn } })

/-- Loss of power and MODULE-class errors (R492, R507, R512, R513): POWER_FAIL is recorded once and starts the 8 ms;
when they have passed the module is Off with only MRAM kept; a class 4 error is recorded, ends the commands with 0x400
and restarts the module. A restart (R447, R511, R512, R515): the time base, every connection, object and session, DRAM,
the Preserve and every register are as from reset; MRAM keeps the boot history, the profile, INCR and the event log; SEQ
goes on from the log. -/
def Obligations.powerLoss : Prop :=
  (∀ s : State,
     (s.power.st ≠ .off → s.power.powerFailAt = none →
       ∃ t, exec .powerFail s = .next t ∧ t.power.powerFailAt = some s.power.aon ∧ t.power.psu0.inOk = false ∧
         t.power.psu1.inOk = false ∧ t.err.nextSeq = s.err.nextSeq + 1 ∧ t.memory = s.memory ∧ t.media = s.media) ∧
     (∀ t0, s.power.powerFailAt = some t0 → t0 + aonUs 8000 ≤ s.power.aon →
       ∃ t, exec .railsDrop s = .next t ∧ t.power.st = .off ∧ t.power.powerFailAt = none ∧ t.memory = {} ∧ t.time = {} ∧
         t.media = {} ∧ t.mram.profile = s.mram.profile ∧ t.mram.log = s.mram.log ∧ t.power.aon = s.power.aon) ∧
     (∀ t0, s.power.powerFailAt = some t0 → s.power.aon < t0 + aonUs 8000 → exec .railsDrop s = .next s) ∧
     (∀ (code inst : BitVec 16) (a b : Word), (s.power.st = .active ∨ s.power.st = .quiet) → code ≠ 0x1305 → code ≠ 0x1306 →
       exec (.moduleErrorRestart code inst a b) s = .next (moduleAction (raiseErr s
         { code := code.toNat, cls := 4, inst := inst.toNat, a := a, b := b })) ∧
       (s.power.powerFailAt = none → (moduleAction s).power.st = .starting))) ∧
  (∀ s : State,
     (restart s).power.st = .starting ∧ (restart s).power.target = none ∧ (restart s).time = {} ∧ (restart s).hci = {} ∧
     (restart s).media = {} ∧ (restart s).units = {} ∧ (restart s).memory = {} ∧ (restart s).regs = [] ∧
     (restart s).shadow = [] ∧ (restart s).spec = {} ∧ (restart s).dma = {} ∧ (restart s).oxvan = {} ∧ (restart s).sec = {} ∧
     (restart s).mram.profile = s.mram.profile ∧ (restart s).mram.incr = s.mram.incr ∧ (restart s).mram.log = s.mram.log ∧
     (restart s).mram.failCount = s.mram.failCount ∧ (restart s).mram.minSvn = s.mram.minSvn ∧
     (∀ r ∈ s.mram.log, r.seq < (restart s).err.nextSeq) ∧ (restart s).pending = s.pending)

/-- Supplies, fans and heat (R507, R508, R516, R517): a supply or fan that fails while the module runs is out and an
error of class 3 names it; a good one that is inserted runs; one that has worked for 10 s after a failure restores
redundancy; THERMAL_WARNING above 95 °C and THERMAL_CRITICAL above 105 °C are recorded, and the second takes a running
module to Dormant; temperatures below their limits are only measured. The panel (R525, R545, R547, R548): the WINDFALL
button held for 8 s arms the next start for Windfall mode, shown by the status lamp from 1 s on; letting go before does not
arm it; the status lamp of an Active module is green, and blinks amber while class 3 or 4 is seen; the lamp test runs for
3 s. -/
def Obligations.suppliesFansAndHeat : Prop :=
  (∀ s : State,
     (∀ (k : Fin 2) (o i r : Bool), (getPsu s k).present = true → (o || i || r) = true →
       exec (.supplyFailed k o i r) s = .next (supplyOut s k { getPsu s k with
         present := !r, inOk := (getPsu s k).inOk && !i && !r, outOk := false, failed := true, workingSince := none }
         (o || r) (i || r))) ∧
     (∀ k : Fin 2, (getPsu s k).present = false → s.power.st = .active →
       ∃ t, exec (.supplyInserted k true true) s = .next t ∧ (getPsu t k).present = true ∧ (getPsu t k).outOk = true ∧
         t.err = s.err) ∧
     (∀ k : Fin 2, (getPsu s k).present = true → (getPsu s k).inOk = false → s.power.st = .active →
       (getPsu s (1 - k.val)).outOk = true →
       exec (.supplyInputRestored k) s = .next (mainsReach s k)) ∧
     (∀ (f : Fin 6) (rpm : BitVec 16), (getFan s f).present = true → s.power.st = .active →
       exec (.fanFailed f rpm false) s = .next (raiseUnit (speedUp (setFan s f { getFan s f with
         ok := false, rpm := rpm.toNat, failed := true, workingSince := none }))
         { code := 0x1302, cls := 3, inst := f, a := word rpm.toNat, lasts := true })) ∧
     (∀ f : Fin 6, (getFan s f).present = false → s.power.st = .active →
       exec (.fanInserted f true) s = .next (nextFree (setFan s f {
         present := true, ok := true, rpm := (freeVal s 16).toNat, failed := (getFan s f).failed,
         workingSince := some s.power.aon }))) ∧
     (∀ (f : Fin 6) (t : Nat), (getFan s f).failed = true → (getFan s f).workingSince = some t →
       t + aonUs 10000000 ≤ s.power.aon →
       exec (.redundancyRestored true f) s = .next (raiseErr (setFan s f { getFan s f with failed := false })
         { code := 0x1303, cls := 1, inst := f, a := 1 })) ∧
     (s.power.fansRaised = true →
       exec .fanSpeedReached s = .next { fanSpeeds s with
         err := { s.err with handling := s.err.handling.filter (fun h => !(h.code == 0x1301 || h.code == 0x1302)) }
         power := { (fanSpeeds s).power with fansRaised := false } }) ∧
     (∀ p i : BitVec 16, s.power.st ≠ .off → 950 < p.toNat →
       exec (.thermalWarning p i) s = .next (raiseErr
         { s with power := { s.power with procDc := p.toNat, inletDc := i.toNat } }
         { code := 0x1304, cls := 3, a := word p.toNat, b := word i.toNat })) ∧
     (∀ p i : BitVec 16, s.power.st = .active → 1050 < p.toNat →
       exec (.thermalCritical p i) s = .next (overheat (raiseErr
         { s with power := { s.power with procDc := p.toNat, inletDc := i.toNat } }
         { code := 0x1305, cls := 4, a := word p.toNat, b := word i.toNat, lasts := running s }))) ∧
     (s.power.st = .active → s.power.target = none → s.power.powerFailAt = none →
       (overheat s).power.target = some .dormant) ∧
     (∀ p i : BitVec 16, s.power.st ≠ .off → p.toNat ≤ 1050 →
       exec (.thermalCritical p i) s = .next { s with power := { s.power with procDc := p.toNat, inletDc := i.toNat } })) ∧
  (∀ s : State,
     (s.power.st = .active → s.power.buttonAt = none →
       exec .windfallButtonPress s = .next { s with
         power := { s.power with buttonAt := some s.power.aon, buttonArmed := false } }) ∧
     (∀ t, s.power.st = .active → s.power.buttonAt = some t → s.power.buttonArmed = false →
       (t + aonUs 1000000 ≤ s.power.aon →
         exec .windfallButtonFeedback s = .next { s with out := s.out ++ [.statusBlink true false] }) ∧
       (t + aonUs 8000000 ≤ s.power.aon → mramWritable s = true →
         exec .windfallButtonArm s = .next { s with
           power := { s.power with buttonArmed := true }
           mram := { s.mram with armed := some true }
           out := s.out ++ [.statusBlink true true] }) ∧
       (s.power.aon < t + aonUs 8000000 → exec .windfallButtonArm s = .next s)) ∧
     (∀ t, s.power.buttonAt = some t → s.power.aon < t + aonUs 1000000 →
       exec .windfallButtonRelease s = .next { s with power := { s.power with buttonAt := none, buttonArmed := false } }) ∧
     (s.power.st = .active → s.power.lampFrom = none → feedbackOn s = false →
       (getB s oErrStatus 6 = false → getB s oErrStatus 7 = false → statusLed s = some (.steady .green)) ∧
       ((getB s oErrStatus 6 || getB s oErrStatus 7) = true → getB s oPwrLed 0 = true →
         statusLed s = some (.blink .amber 500))) ∧
     (s.power.st = .active → feedbackOn s = true → s.power.buttonArmed = false →
       statusLed s = some (.blink .amber 250)) ∧
     (setupOpen s = true → exec .lampTest s = .next { s with
       power := { s.power with lampFrom := some s.power.aon }
       out := s.out ++ [.lamps true, .itemStatus .ok] }) ∧
     (∀ t, s.power.lampFrom = some t → t + aonUs 3000000 ≤ s.power.aon →
       exec .lampTestEnd s = .next { s with
         power := { s.power with lampFrom := none }
         out := s.out ++ [.lamps false] }))

/-- Firmware and keys (R530, R531, R533): BEGIN on a slot that does not run empties it and starts to receive; each write
of SEC_FW_DATA brings 6 bytes while they fit; VERIFY begins when all has come and been programmed, and ends as the check
says; ACTIVATE prefers the verified slot; ABORT returns to IDLE; LOAD takes a key whose spare words are zero and CLEAR
drops it. Identity (R535, R536): IDENTITY_READ writes the certificate to the region and returns its length, or ends with
the status of what stands against it; ATTEST_QUOTE writes the quote of its 512 bytes over the nonce, or ends with 0x305
where the module has no good identity; a lost access to the host loses the connection and ends the command with 0x301 or
0x404. -/
def Obligations.firmwareAndKeys : Prop :=
  (∀ s : State, setupOpen s = true →
     (∀ (b : Bool) (n : BitVec 32), s.sec.fw.rests = true → isRunningSlot s b = false → 1024 ≤ n.toNat → n.toNat ≤ 167772160 →
       ∃ t, exec (.fwBegin b n) s = .next t ∧ t.sec.fw = .receiving ∧ t.sec.slotB = b ∧ t.sec.length = n.toNat ∧
         t.sec.received = 0 ∧ (getImage t b).valid = false ∧ getImage t (!b) = getImage s (!b)) ∧
     (∀ v, s.sec.fw = .receiving → s.sec.staged.length + 6 ≤ 4194304 →
       exec (.fwData v) s = .next (emit { s with sec := { s.sec with
         received := s.sec.received + 6
         staged := s.sec.staged ++ (leBytes 6 v.toNat).take (s.sec.length - s.sec.received) } } (.itemStatus .ok))) ∧
     (s.sec.fw = .receiving → ∃ t, exec .flashProgramDone s = .next t ∧ t.sec = { s.sec with staged := [] } ∧
       (getImage t s.sec.slotB).bytes = some (((getImage s s.sec.slotB).bytes.getD []) ++ s.sec.staged) ∧
       getImage t (!s.sec.slotB) = getImage s (!s.sec.slotB)) ∧
     (s.sec.fw = .receiving → s.sec.length ≤ s.sec.received → s.sec.staged = [] →
       exec .fwVerify s = .next (emit { s with sec := { s.sec with fw := .verifying } } (.itemStatus .ok))) ∧
     (∀ readback : Bool, s.sec.fw = .verifying →
       ∃ t, exec (.fwVerifyDone readback) s = .next t ∧ t.sec.reason = slotReason s s.sec.slotB readback ∧
         t.sec.fw = if slotReason s s.sec.slotB readback = 0 then .verified else .failed) ∧
     slotReason s s.sec.slotB false = 6 ∧
     (∀ bs, (getImage s s.sec.slotB).bytes = some bs →
       (bs.take 4 ≠ [0x50, 0x58, 0x46, 0x57] → slotReason s s.sec.slotB true = 1) ∧
       (leNat ((bs.drop 4).take 2) ≠ 9 → slotReason s s.sec.slotB true ≠ 0) ∧
       (leNat ((bs.drop 6).take 2) < s.mram.minSvn → slotReason s s.sec.slotB true ≠ 0) ∧
       ((bs.drop 32).take 32 ≠ sha256 ((bs.drop 1024).take (leNat ((bs.drop 8).take 4))) →
         slotReason s s.sec.slotB true ≠ 0)) ∧
     (s.sec.fw = .verified → mramWritable s = true →
       ∃ t, exec .fwActivate s = .next t ∧ t.sec.fw = .activated ∧ t.mram.preferredB = s.sec.slotB ∧
         t.mram.failCount = 0 ∧ (getImage t s.sec.slotB).valid = true) ∧
     (exec .fwAbort s = .next (emit { s with sec := { s.sec with fw := .idle, reason := 0, staged := [] } }
       (.itemStatus .ok))) ∧
     (∀ b, s.sec.fw.rests = true → isRunningSlot s b = false → (getImage s b).valid = true →
       exec (.fwReverify b) s = .next (emit { s with sec := { s.sec with
         fw := .verifying, reason := 0, slotB := b, reverify := true } } (.itemStatus .ok))) ∧
     (∀ (slot : Fin 8) (l : Bool), ((kekBytes s).drop (if l then 32 else 16)).any (fun b => b != 0) = false →
       exec (.kekLoad slot l) s = .next (emit { s with sec := { s.sec with
         kekWords := [0, 0, 0, 0, 0, 0]
         keks := Tbl.put s.sec.keks slot ((kekBytes s).take (if l then 32 else 16)) } } (.itemStatus .ok))) ∧
     (∀ (slot : Fin 8) (l : Bool), ((kekBytes s).drop (if l then 32 else 16)).any (fun b => b != 0) = true →
       exec (.kekLoad slot l) s = .next { s with out := s.out ++ [.itemStatus .refused] }) ∧
     (∀ slot : Fin 8, exec (.kekClear slot) s = .next (emit { s with sec := { s.sec with
       keks := Tbl.del s.sec.keks slot } } (.itemStatus .ok)))) ∧
  (∀ (c : Cmd) (s : State) (f : Fetched),
     (∀ bs, Begins s 0xC00 c f → reservedBad c 0 [full, full, 1, full] = false → (regionCheck s c.slot c.w1).1 = false →
        c.w2.toNat % 64 = 0 →
        let cert := Config.cert (bitAt c.w3 0)
        (c.w4.toNat < cert.length →
          exec (.identityRead c (.bytes bs)) s = .next (answered s c (taken s f) 0x108 (word cert.length) 0)) ∧
        (cert.length ≤ c.w4.toNat → regionBounds s c.slot c.w1 c.w2.toNat cert.length true = true →
          exec (.identityRead c (.bytes bs)) s = .next (answered s c (taken s f) 0x115 0 0)) ∧
        (cert.length ≤ c.w4.toNat → regionBounds s c.slot c.w1 c.w2.toNat cert.length true = false →
          bitAt c.w3 0 = true → s.power.identityOk = false →
          exec (.identityRead c (.bytes bs)) s = .next (answered s c (taken s f) 0x305 0 0)) ∧
        (cert.length ≤ c.w4.toNat → regionBounds s c.slot c.w1 c.w2.toNat cert.length true = false →
          (bitAt c.w3 0 = false ∨ s.power.identityOk = true) →
          exec (.identityRead c (.bytes bs)) s = .next (answered s c
            (regionWrite (taken s f) c.slot (hIndex c.w1 % 1024) c.w2.toNat cert) 0 (word cert.length) 0))) ∧
      (∀ bs, Begins s 0xC01 c f → reservedBad c 0 [full, full, full] = false → (regionCheck s c.slot c.w1).1 = false →
        regionBounds s c.slot c.w1 c.w2.toNat 64 false = false →
        regionBounds s c.slot c.w1 c.w3.toNat 512 true = false → c.w2.toNat % 64 = 0 → c.w3.toNat % 64 = 0 →
        ((bs.drop 32).take 32).any (fun x => x != 0) = false →
        (s.power.identityOk = true → exec (.attestQuote c (.bytes bs)) s = .next (answered s c
          (regionWrite (taken s f) c.slot (hIndex c.w1 % 1024) c.w3.toNat (quote s (bs.take 32))) 0 512 0)) ∧
        (s.power.identityOk = false →
          exec (.attestQuote c (.bytes bs)) s = .next (answered s c (taken s f) 0x305 0 0))) ∧
      (Begins s 0xC01 c f → reservedBad c 0 [full, full, full] = false → (regionCheck s c.slot c.w1).1 = false →
       regionBounds s c.slot c.w1 c.w2.toNat 64 false = false →
       regionBounds s c.slot c.w1 c.w3.toNat 512 true = false → c.w2.toNat % 64 = 0 → c.w3.toNat % 64 = 0 →
       exec (.attestQuote c .timeout) s = .next (answered s c (loseConn (taken s f) c.slot) 0x404 0 0)))

/-- Plug-ins and links of the data cages (R182 to R187, R539): a powered cage reads what its plug-in is; an empty one
reads 0x0; a plug-in that does not answer, or raises an alarm, is tried again after 5 s; a ready one brings the link up;
a link that falls discards what is queued, cuts off the frame being sent, is counted and loses the port's connections; on
local fault remote-fault ordered sets are sent. R182, R183, R460: PLUG of a
plug-in: 5 when it does not answer, 3 when it is of another kind, 4 when it needs more than 16 W, else 2. -/
def Obligations.cagesAndLinks : Prop :=
  (∀ (s : State) (port : Fin 2) (cage : Fin 4), cage.val = port.val →
     (∀ p : Plug, cagePowered s port = true → plugValue (some p) ≠ 5 →
       ∃ t, exec (.plugInsert cage p) s = .next t ∧ (getMac t port).plug = plugValue (some p) ∧
         (getMac t port).module_ = some p ∧ (getMac t port).cmisRetryAt = none) ∧
     (∀ p : Plug, cagePowered s port = true → p.answers = false →
       ∃ t, exec (.plugInsert cage p) s = .next t ∧ (getMac t port).plug = 5 ∧
         (getMac t port).cmisRetryAt = some (now s + durS 5)) ∧
     ((getMac s port).link = false → cagePowered s port = true →
       ∃ t, exec (.plugRemove cage) s = .next t ∧ (getMac t port).plug = 0 ∧ (getMac t port).module_ = none ∧
         t.hci = s.hci) ∧
     (∀ t0, (getMac s port).cmisRetryAt = some t0 → t0 ≤ now s → exec (.cmisRetry cage) s = .next (plugInit s port)) ∧
     ((getMac s port).plug = 2 → (getMac s port).link = false →
       exec (.cmisError cage) s = .next (setMac s port { getMac s port with
         link := false, localFault := true, remoteFault := false, txq := List.replicate 8 [], replies := [], paused := [],
         stoppedSince := [], plug := 5, cmisRetryAt := some (now s + durS 5) })) ∧
     (cagePowered s port = true → (getMac s port).plug = 2 → (getMac s port).plugAt ≠ s.power.aon →
       exec (.dataLinkUp port) s = .next (emit (setMac s port { getMac s port with
         link := true, localFault := false, remoteFault := false }) (.linkLevel port true))) ∧
     (∀ rf, (getMac s port).link = true →
       exec (.dataLinkDown port rf) s = .next (emit (linkFalls s port (!rf) rf) (.linkLevel port false)) ∧
       linkFalls s port (!rf) rf = (
         let m := getMac s port
         let s1 := setMac s port { m with
           link := false, localFault := !rf, remoteFault := rf, txq := List.replicate 8 [], replies := [], paused := [],
           stoppedSince := [] }
         let s2 := cutFrame (macCount (macCount s1 port 14 (txWaiting m)) port 18 1) port
         let s3 := loseOnPort (raiseBit (dropPkts (dropPtp s2 port) (fun p => p.port == port.val)) (oMacStatus port) 16) port 8
         if rf then s3 else emit s3 (.remoteFaultSets port)))) ∧
  (∀ p : Plug, (p.answers = false → plugValue (some p) = 5) ∧
     (p.answers = true → (p.cmis5 = false ∨ p.application = false) → plugValue (some p) = 3) ∧
     (p.answers = true → p.cmis5 = true → p.application = true → 16 < p.watts → plugValue (some p) = 4) ∧
     (p.answers = true → p.cmis5 = true → p.application = true → p.watts ≤ 16 → plugValue (some p) = 2) ∧
     plugValue none = 0)

/-- A frame at a MAC (R190, R195): the first check that fails is counted and nothing else changes; an accepted RoCE, PTP
or ARP frame enters the control queue with its receive time, any other the media queue; a frame for which its queue has
no room is an overrun. Flow control (R194, R196, R197): in PAUSE mode a PAUSE frame stops every class, in PFC mode each
class that it names, for its quanta; another MAC control frame is counted; a class whose time has passed goes on; XOFF
is repeated after 40 µs while a queue is above XON; the watchdog of a class that has been stopped for its time lets it
go on, ignores pauses for 1 s and raises an error; after the second pauses are honoured again. -/
def Obligations.frameReception : Prop :=
  (∀ (port : Fin 2) (f : Frame) (s : State), (getMac s port).link = true →
     (∀ k, frameCheck s port f = some k → exec (.macFrameReceive port f) s =
       .next (macCount (macCount (macCount s port 16 f.fecCorr) port 17 f.fecUncorr) port k 1)) ∧
     (f.len < 64 → frameCheck s port f = some 2) ∧
     (64 ≤ f.len → getF s (oMacCtrl port) 45 32 < f.len → frameCheck s port f = some 3) ∧
     (64 ≤ f.len → f.len ≤ getF s (oMacCtrl port) 45 32 → f.fcsOk = false → frameCheck s port f = some 4) ∧
     (∀ m, frameCheck s port f = none → f.body = .roce m → (∀ t ∈ f.tags, t.tpid = 0x8100) →
       rxBytes (getMac s port).ctrlQ + f.len ≤ 524288 →
       exec (.macFrameReceive port f) s = .next (flowCheck
         (setMac (countRx (macCount (macCount s port 16 f.fecCorr) port 17 f.fecUncorr) port f.len) port
           { getMac s port with ctrlQ := (getMac s port).ctrlQ ++ [{ frame := f, time := rxStamp s port }] }) port)) ∧
     (frameCheck s port f = none → f.body = .other → rxBytes (getMac s port).mediaQ + f.len ≤ 16777216 →
       exec (.macFrameReceive port f) s = .next (flowCheck
         (setMac (countRx (macCount (macCount s port 16 f.fecCorr) port 17 f.fecUncorr) port f.len) port
           { getMac s port with mediaQ := (getMac s port).mediaQ ++ [{ frame := f, time := rxStamp s port }] }) port)) ∧
     (frameCheck s port f = none → f.body = .other → 16777216 < rxBytes (getMac s port).mediaQ + f.len →
       exec (.macFrameReceive port f) s =
         .next (macCount (countRx (macCount (macCount s port 16 f.fecCorr) port 17 f.fecUncorr) port f.len) port 8 1)) ∧
     countRx s port f.len = macCount (macCount s port 0 1) port 1 f.len) ∧
  (∀ (port : Fin 2) (s : State),
     (∀ en q, (getMac s port).link = true → getF s (oMacFc port) 3 2 = 1 →
       exec (.pauseFrame port 0x0001 en q) s = .next (setMac (countRx s port 64) port
         ((List.range 8).foldl (fun m c => pauseClass (now s) m c (q.getD 0 0).toNat) (getMac s port)))) ∧
     (∀ (en : BitVec 8) q, (getMac s port).link = true → getF s (oMacFc port) 3 2 = 2 →
       exec (.pauseFrame port 0x0101 en q) s = .next (setMac (countRx s port 64) port ((List.range 8).foldl
         (fun m c => if en.getLsbD c then pauseClass (now s) m c (q.getD c 0).toNat else m) (getMac s port)))) ∧
     (∀ (op : BitVec 16) en q, (getMac s port).link = true → getF s (oMacFc port) 3 2 = 0 →
       exec (.pauseFrame port op en q) s = .next (bumpC (countRx s port 64) (oMacCounter port 7) 1)) ∧
     (∀ (cls : Fin 8) t, Tbl.get? (getMac s port).paused cls = some t → t ≤ now s →
       exec (.pauseQuantaExpiry port cls) s = .next (setMac s port { getMac s port with
         paused := Tbl.del (getMac s port).paused cls
         stoppedSince := Tbl.del (getMac s port).stoppedSince cls })) ∧
     (heldClasses s port (getMac s port) ≠ [] → (getMac s port).xoffSentAt + durUs 40 ≤ now s →
       exec (.pfcRepeat port) s = .next (sendPause (setMac s port { getMac s port with xoffSentAt := now s }) port
         (heldClasses s port (getMac s port)) 65535)) ∧
     (∀ (cls : Fin 8) t, Tbl.get? (getMac s port).stoppedSince cls = some t → getF s (oMacFc port) 47 32 ≠ 0 →
       t + durMs (getF s (oMacFc port) 47 32) ≤ now s →
       exec (.pauseWatchdog port cls false) s = .next (raiseErr (macCount (setMac s port { getMac s port with
         ignoreUntil := Tbl.put (getMac s port).ignoreUntil cls (now s + durS 1)
         paused := Tbl.del (getMac s port).paused cls
         stoppedSince := Tbl.del (getMac s port).stoppedSince cls }) port 15 1)
         { code := 0x0502, cls := 2, inst := port, a := word cls.val })) ∧
     (∀ (cls : Fin 8) t, Tbl.get? (getMac s port).ignoreUntil cls = some t → t ≤ now s →
       exec (.pauseWatchdogEnd port cls false) s = .next (setMac s port { getMac s port with
         ignoreUntil := Tbl.del (getMac s port).ignoreUntil cls })))

/-- Transmission (R189, R198, R199, R557): the sources add what the class queues have room for, 256 KiB each, with the port's
tag; with no gate list, the highest open class with a frame sends its oldest, which is counted; an ARP request for the port's
own address is answered through the class of its port; one for another address changes nothing. Gate lists (R201 to R205): a commit with a cycle below 1 µs is refused with RESULT 3 and changes only
it; at its change time the committed list becomes operational with its first entry's gates; when an entry's time is over
and no committed list waits, the next one's gates are in effect, after the last the first; before that nothing
changes. -/
def Obligations.frameTransmission : Prop :=
  (∀ (port : Fin 2) (s : State), (getMac s port).link = true →
     (∀ (c : Fin 8) (f : TxFrame) rest, (getMac s port).replies = [] → s.time.ptpOut = [] → s.hci.sendQ = [] →
       (getMac s port).txq.getD c [] = f :: rest → (getMac s port).oper = none → (∀ m, f.kind ≠ .ptp m) →
       classOpen s (getMac s port) c = true → (∀ d : Fin 8, c < d → (getMac s port).txq.getD d [] = []) →
       exec (.txSelect port) s = .next (macCount (macCount (emit
         (setMac s port { getMac s port with
           txq := (getMac s port).txq.set c rest
           sending := some ({ f with held := false }, now s + frameDurT f.len) }) (.frame port { f with held := false }))
         port 9 1) port 10 f.len)) ∧
     ((getMac s port).replies = [] → s.time.ptpOut = [] → s.hci.sendQ = [] →
       (∀ c : Fin 8, (getMac s port).txq.getD c [] = []) → exec (.txSelect port) s = .next s) ∧
     exec (.txSelect port) s = .next (selectTx (fillQueues s port) port 8) ∧
     (∀ (f : TxFrame) (cls : Nat), neverFits (getMac s port) cls f.len = false →
       (((getMac s port).txq.getD cls []).map (fun x => x.len)).sum + f.len ≤ 262144 →
       txAdd s port cls f = (setMac s port { getMac s port with
         txq := (getMac s port).txq.set cls ((getMac s port).txq.getD cls [] ++
           [{ f with tag := if getB s (oMacVlan port) 12 then some (getF s (oMacVlan port) 11 0, cls) else none }]) }, true)) ∧
     (∀ (f : TxFrame) (cls : Nat), neverFits (getMac s port) cls f.len = false →
       262144 < (((getMac s port).txq.getD cls []).map (fun x => x.len)).sum + f.len → txAdd s port cls f = (s, false)) ∧
     (∀ a w, running s = true → ownsAddr s port a = true →
       exec (.arpRequest port ⟨a, w⟩) s = .next (fillReplies (setMac s port { getMac s port with
         replies := (getMac s port).replies ++
           [{ len := wireLen s port (if a.v6 then 90 else 64), kind := .reply, dst := w }] }) port
         ((getMac s port).replies.length + 1))) ∧
     (∀ a w, running s = true → ownsAddr s port a = false → exec (.arpRequest port ⟨a, w⟩) s = .next s)) ∧
  (∀ (port : Fin 2) (s : State),
     ((getMac s port).admin = none → (gatePending s port 0).cycleNs < 1000 →
       gateCommitWrite s port = (setF s (oMacGateStatus port) 7 4 3, .refused)) ∧
     (∀ g, (getMac s port).admin = some g → now s < g.start → exec (.gateChangeTime port) s = .next s) ∧
     (∀ g, (getMac s port).admin = some g → g.start ≤ now s → (getMac s port).adminRegs = [] →
       ∃ t, exec (.gateChangeTime port) s = .next t ∧ getMac t port = { getMac s port with
         oper := some g, admin := none, entryNs := 0, entryIndex := 0, neverFits := [],
         gates := (g.cycle.getD 0 { gates := 255, intervalNs := 0 }).gates }) ∧
     (∀ g e, (getMac s port).oper = some g → (getMac s port).admin = none → g.cycle[(getMac s port).entryIndex]? = some e →
       now s < g.start + durNs ((getMac s port).entryNs + e.intervalNs) → exec (.gateEntry port) s = .next s) ∧
     (∀ g e, (getMac s port).oper = some g → (getMac s port).admin = none → g.cycle[(getMac s port).entryIndex]? = some e →
       g.start + durNs ((getMac s port).entryNs + e.intervalNs) ≤ now s →
       (∀ n, g.cycle[(getMac s port).entryIndex + 1]? = some n →
         exec (.gateEntry port) s = .next (setMac s port { getMac s port with
           entryNs := (getMac s port).entryNs + e.intervalNs
           entryIndex := (getMac s port).entryIndex + 1
           gates := n.gates })) ∧
       ((getMac s port).entryIndex + 1 = g.cycle.length → ∀ n, g.cycle[0]? = some n →
         exec (.gateEntry port) s = .next (setMac s port { getMac s port with
           entryNs := (getMac s port).entryNs + e.intervalNs
           entryIndex := 0
           gates := n.gates }))))

/-- The management port (R208 to R211): a link change is taken, at the highest speed that both ends advertise; ARP for an own
address and, with ECHO 1, echo are answered to the sender, echo otherwise counted; other frames are counted as their rules
say; at full duplex the frames that wait are sent; at half duplex one is sent, a late collision is counted, an early one waits
for a backoff below 2^min(attempt, 10) slots, and the sixteenth is given up; a backoff that has passed ends. -/
def Obligations.managementPort : Prop :=
  ∀ s : State,
    (∀ full half, s.power.st ≠ .off → exec (.mgmtLinkChange false full half) s = .next { s with
      mgmt := { s.mgmt with link := false, attempt := 0, backoffUntil := none } }) ∧
    (∀ full half r, s.power.st ≠ .off → mgmtSpeed s full half = some r → s.mgmt.queue = [] →
      exec (.mgmtLinkChange true full half) s = .next { s with
        mgmt := { link := true, speed := r.1, half := r.2, queue := [], attempt := 0, backoffUntil := none } }) ∧
    (∀ full half, getB s oMgtCtrl 0 = true →
      (getB s oMgtCtrl 8 = true → full.getLsbD 2 = true → mgmtSpeed s full half = some (2, false)) ∧
      (getB s oMgtCtrl 8 = false → getB s oMgtCtrl 7 = true → full.getLsbD 1 = true →
        mgmtSpeed s full half = some (1, false))) ∧
    (mgmtAnswers s = true →
      (∀ f a, mgmtTake s f = .arp a → exec (.mgmtArp f) s = .next (mgmtSend s { dst := f.src, body := .arpReply a })) ∧
      (∀ f src dst d, mgmtTake s f = .echo src dst d →
        exec (.mgmtEcho f) s = .next (mgmtSend s { dst := f.src, body := .echoReply dst src d })) ∧
      (∀ f src dst d, f.body = .echo src dst d → mgmtTake s f = .dropped →
        exec (.mgmtEcho f) s = .next (bumpF s oMgtCount 35 24 1)) ∧
      (∀ f, mgmtTake s f = .badFcs → exec (.mgmtDrop f) s = .next (bumpF s oMgtCount 47 36 1)) ∧
      (∀ f, mgmtTake s f = .dropped → exec (.mgmtDrop f) s = .next (bumpF s oMgtCount 35 24 1)) ∧
      (s.mgmt.backoffUntil = none → s.mgmt.half = false → ∀ c,
        exec (.mgmtTransmit c) s = .next { s with
          mgmt := { s.mgmt with queue := [], attempt := 0 }, out := s.out ++ s.mgmt.queue.map Emission.mgmt }) ∧
      (∀ f rest, s.mgmt.backoffUntil = none → s.mgmt.half = true → s.mgmt.speed ≠ 2 → s.mgmt.queue = f :: rest →
        exec (.mgmtTransmit .none) s = .next { s with
          mgmt := { s.mgmt with queue := rest, attempt := 0 }, out := s.out ++ [.mgmt f] } ∧
        exec (.mgmtTransmit .busy) s = .next s ∧
        (s.mgmt.attempt < 15 → exec (.mgmtTransmit .early) s = .next (nextFree { s with
          mgmt := { s.mgmt with
            attempt := s.mgmt.attempt + 1
            backoffUntil := some (mgmtTime s + durNs ((freeVal s 10).toNat % 2 ^ min (s.mgmt.attempt + 1) 10
              * slotNs s.mgmt.speed)) }
          out := s.out ++ [.mgmtJam] })) ∧
        (15 ≤ s.mgmt.attempt → exec (.mgmtTransmit .early) s = .next (bumpF { s with
          mgmt := { s.mgmt with queue := rest, attempt := 0 }, out := s.out ++ [.mgmtJam] } oMgtCount 11 0 1)) ∧
        exec (.mgmtTransmit .late) s = .next (bumpF { s with
          mgmt := { s.mgmt with queue := rest, attempt := 0 }, out := s.out ++ [.mgmtJam] } oMgtCount 23 12 1))) ∧
    (∀ f : MgmtFrame, f.fcsOk = false → mgmtTake s f = .badFcs) ∧
    (∀ t, s.mgmt.backoffUntil = some t → t ≤ mgmtTime s →
      exec .mgmtBackoffExpiry s = .next { s with mgmt := { s.mgmt with backoffUntil := none } })

/-- Conferences, contexts, meters and shapers (R219, R240, R244, R245): CONF_CREATE and STREAM_CREATE with good operands
make the object at the lowest free index and return its handle; CONF_DESTROY of an unused conference and STREAM_DESTROY of
a context that nothing reads remove it; STREAM_MODIFY changes the part that its selector names; STREAM_QUERY returns the
counter that it names, and sets it to 0 when asked; METER_SET and SHAPER_SET set the object. -/
def Obligations.streamObjectCommands : Prop :=
  ∀ (c : Cmd) (s : State) (f : Fetched),
    (Begins s 0x200 c f → reservedBad c 0 [0x7F, 1] = false → (bitAt c.w1 6 && noQueue s c.slot (bits c.w1 5 0)) = false →
      (bitAt c.w2 0 && !(inBramble s)) = false → s.media.confs.length < 16384 →
      exec (.confCreate c) s = .next (answered s c { taken s f with media := { s.media with
        confs := Tbl.put s.media.confs (Tbl.lowestFree s.media.confs)
          { eventsEn := bitAt c.w1 6, queue := bits c.w1 5 0, slot := c.slot, ring := c.ring, tag := c.tag,
            span := bitAt c.w2 0 } } } 0 (ownHandle s 3 (Tbl.lowestFree s.media.confs)) 0)) ∧
    (Begins s 0x201 c f → reservedBad c 0 [full] = false → (hObj s [3] c.w1 (confNamed s)).1 = false →
      confUsed s (hIndex c.w1) = false → s.media.legs.any (fun p => p.2.conf == hIndex c.w1) = false →
      ((getConf s (hIndex c.w1)).map (fun x => !x.attached.isEmpty)).getD false = false →
      exec (.confDestroy c) s = .next (answered s c { taken s f with media := { s.media with
        confs := Tbl.del s.media.confs (hIndex c.w1) } } 0 0 0)) ∧
    (Begins s 0x210 c f →
      reservedBad c 0 [full, mask 47 40 + mask 38 0, full, full, full, mask 47 37, mask 47 47 + mask 38 0] = false →
      ((streamOf c).kind = 5 → (hObj s [3] c.w1 (fun n => (getConf s n).isSome)).1 = false) →
      ((streamOf c).kind ≠ 5 → (hObj s [2] c.w1 (legLive s)).1 = false) →
      (hCheck0 s [4] c.w4).1 = false → (c.w5 = 0 ∨ (hObj s [1] c.w5 (ctxNamed s)).1 = false) →
      streamRange s (streamOf c) = false →
      ((streamOf c).kind = 5 ∨ flowClash s (streamOf c).owner (streamOf c).kind (streamOf c).ssrc
        (if (streamOf c).rtxEn then some (streamOf c).rtxSsrc else none) none = false) →
      legFull s (streamOf c) = false → ctxAtMax s = false → ctxNoRoom s = false →
      exec (.streamCreate c) s = .next (answered s c (setCtx (taken s f) (Tbl.lowestFree s.media.streams) (streamOf c))
        0 (ownHandle s 1 (Tbl.lowestFree s.media.streams)) 0)) ∧
    (∀ x, Begins s 0x211 c f → cmdSel c ≤ 3 → reservedBad c 0xF [full, modifyMask (cmdSel c)] = false →
      (hObj s [1] c.w1 (ctxNamed s)).1 = false → getCtx s (hIndex c.w1) = some x →
      (cmdSel c = 0 → (hCheck0 s [4] c.w2).1 = false) → (cmdSel c = 1 → bits c.w2 47 40 ≤ 100) →
      (cmdSel c = 3 → x.kind = 5 ∨ flowClash s x.owner x.kind x.ssrc
        (if bitAt c.w2 47 then some (bits c.w2 31 0) else none) (some (hIndex c.w1)) = false) →
      quarantined s (hIndex c.w1) = false →
      exec (.streamModify c) s = .next (answered s c (updCtx (taken s f) (hIndex c.w1)
        (if cmdSel c = 0 then fun x => { x with meter := if c.w2 = 0 then none else some (hIndex c.w2) }
         else if cmdSel c = 1 then fun x => { x with
           reorderMs := bits c.w2 47 40, nackEn := bitAt c.w2 39, pliEn := bitAt c.w2 38, ccfbEn := bitAt c.w2 37 }
         else if cmdSel c = 2 then fun x => { x with levelId := bits c.w2 31 24, ddId := bits c.w2 23 16 }
         else fun x => { x with
           rtxEn := bitAt c.w2 47, rtxPt := bits c.w2 38 32, rtxSsrc := bits c.w2 31 0 })) 0 0 0)) ∧
    (Begins s 0x212 c f → reservedBad c 0 [full] = false → (hObj s [1] c.w1 (ctxNamed s)).1 = false →
      ctxRead s (hIndex c.w1) = false →
      exec (.streamDestroy c) s = .next (answered s c (chooseAll (dropCtx (taken s f) (hIndex c.w1))) 0 0 0)) ∧
    (∀ x, Begins s 0x213 c f → reservedBad c 0 [full, 0x1FF] = false → hType c.w1 = 1 →
      (hObj s [1, 2] c.w1 (ctxNamed s)).1 = false → (bits c.w2 7 0 ≤ 0x12 ∨ (0x20 ≤ bits c.w2 7 0 ∧ bits c.w2 7 0 ≤ 0x23)) →
      quarantined s (hIndex c.w1) = false → getCtx s (hIndex c.w1) = some x →
      exec (.streamQuery c) s = .next (answered s c
        (if bitAt c.w2 8 then updCtx (taken s f) (hIndex c.w1) (fun y => { y with
           counters := Tbl.del y.counters (bits c.w2 7 0) }) else taken s f)
        0 (word (if bits c.w2 7 0 ≤ 0x12 ∧ counterApplies x.kind (bits c.w2 7 0) = true then
          Tbl.count x.counters (bits c.w2 7 0) else 0)) (word (queryWord3 x)))) ∧
    (∀ l, Begins s 0x213 c f → reservedBad c 0 [full, 0x1FF] = false → hType c.w1 = 2 →
      (hObj s [1, 2] c.w1 (legLive s)).1 = false → 0x20 ≤ bits c.w2 7 0 → bits c.w2 7 0 ≤ 0x23 →
      getLeg s (hIndex c.w1) = some l →
      exec (.streamQuery c) s = .next (answered s c
        (if bitAt c.w2 8 then updLeg (taken s f) (hIndex c.w1) (fun y => { y with
           counters := Tbl.del y.counters (bits c.w2 7 0) }) else taken s f)
        0 (word (if bits c.w2 7 0 = 0x23 then (l.est / 1000).floor.toNat else Tbl.count l.counters (bits c.w2 7 0))) 0)) ∧
    (Begins s 0x230 c f → reservedBad c 0 [full, full, full, 7] = false → (hCheck s [4] c.w1).1 = false →
      bits c.w2 47 24 ≤ bits c.w2 23 0 → 1 ≤ bits c.w2 23 0 → 9216 ≤ bits c.w3 47 24 → 9216 ≤ bits c.w3 23 0 →
      exec (.meterSet c) s = .next (answered s c { taken s f with media := { s.media with
        meters := Tbl.put s.media.meters (hIndex c.w1)
          { en := bitAt c.w4 2, cir := bits c.w2 47 24 * 1000, pir := bits c.w2 23 0 * 1000, cbs := bits c.w3 47 24,
            pbs := bits c.w3 23 0, yellowDrop := bitAt c.w4 1, redPass := bitAt c.w4 0, tc := (bits c.w3 47 24 : Nat),
            tp := (bits c.w3 23 0 : Nat), last := now s } } } 0 0 0)) ∧
    (Begins s 0x231 c f → reservedBad c 0 [full, full, mask 47 40 + mask 33 32 + mask 23 0] = false →
      (hCheck s [5] c.w1).1 = false → 64 ≤ bits c.w2 47 24 → 100 ≤ bits c.w3 47 40 → bits c.w3 47 40 ≤ 200 →
      9216 ≤ bits c.w3 23 0 → (bitAt c.w3 33 && decide ((legsOfShaper s (hIndex c.w1)).length > 1)) = false →
      (bitAt c.w3 32 = true ∨ legsOfShaper s (hIndex c.w1) = []) →
      exec (.shaperSet c) s = .next (answered s c ((legsOfShaper s (hIndex c.w1)).foldl reclamp
        { taken s f with media := { s.media with
        shapers := Tbl.put s.media.shapers (hIndex c.w1)
          { en := bitAt c.w3 32, follow := bitAt c.w3 33, rate := bits c.w2 47 24 * 1000, burst := bits c.w2 23 0,
            pacePct := bits c.w3 47 40, qlimit := bits c.w3 23 0,
            credit := if (getShaper s (hIndex c.w1)).en then 0 else ((bits c.w2 23 0 : Nat) : Rat), last := now s,
            queue := (getShaper s (hIndex c.w1)).queue } } }) 0 0 0))

/-- Legs and subscriptions (R236, R246, R247): LEG_CREATE with a flow key of its own makes the leg in its conference;
LEG_MODIFY changes the part that its selector names and bounds the estimate again; LEG_DESTROY of a leg whose contexts
nothing reads retires it and waits for its queued packets; LEG_LAYERS subscribes an outbound context to a source of its
codec within its layers, and with no source unsubscribes it. -/
def Obligations.legCommands : Prop :=
  ∀ (c : Cmd) (s : State) (f : Fetched),
    (Begins s 0x220 c f → reservedBad c 0 [full, full, mask 47 5 + mask 3 0, full, full, full, full] = false →
      (hCheck0 s [5] c.w7).1 = false → legRange (legWith { conf := 0 } c.w2 c.w3 c.w4 c.w5 c.w6) c.w4 c.w5 c.w6 = false →
      bits c.w3 3 0 ≤ 1 → shaperTaken s c.w7 none = false →
      legClash s (legWith { conf := 0 } c.w2 c.w3 c.w4 c.w5 c.w6) none = false → s.media.legs.length < 131072 →
      (ofMember s 3 c.w1 = false → (hObj s [3] c.w1 (confNamed s)).1 = false →
        exec (.legCreate c) s = .next (answered s c (addLeg (taken s f) (hIndex c.w1) (cmdDesc 0x220 c)).1 0
          (ownHandle s 2 (Tbl.lowestFree s.media.legs)) 0)) ∧
      (ofMember s 3 c.w1 = true → hIndex c.w1 < 16384 → confOf s c.w1 = none → s.media.confs.length < 16384 →
        exec (.legCreate c) s = .next (begun s c f (peerSend (taken s f) (hMember c.w1) 0xA80 0 c.w1 0 0 none).1
          (.peer (peerSend (taken s f) (hMember c.w1) 0xA80 0 c.w1 0 0 none).2 (cmdDesc 0x220 c))))) ∧
    (∀ l, Begins s 0x221 c f → cmdSel c ≤ 3 → reservedBad c 0xF (legMasks (cmdSel c)) = false →
      (hObj s [2] c.w1 (legLive s)).1 = false → getLeg s (hIndex c.w1) = some l →
      (cmdSel c = 0 → legRange (legWith l c.w2 c.w3 c.w4 c.w5 c.w6) c.w4 c.w5 c.w6 = false ∧ bits c.w3 3 0 = l.port ∧
        legClash s (legWith l c.w2 c.w3 c.w4 c.w5 c.w6) (some (hIndex c.w1)) = false) →
      (cmdSel c = 1 → lineRange l c.w2 c.w3 = false) →
      (cmdSel c = 2 → (hCheck0 s [5] c.w2).1 = false ∧ shaperTaken s c.w2 (some (hIndex c.w1)) = false) →
      (cmdSel c = 3 → bits c.w2 15 0 ≠ 0) →
      exec (.legModify c) s = .next (answered s c
        (reclamp (updLeg (taken s f) (hIndex c.w1) (legChange (taken s f) (cmdSel c) c)) (hIndex c.w1)) 0 0 0)) ∧
    (∀ l, Begins s 0x222 c f → reservedBad c 0 [full] = false → (hObj s [2] c.w1 (legLive s)).1 = false →
      s.media.streams.any (fun p => p.2.owner == hIndex c.w1 && p.2.kind != 5 && ctxRead s p.1) = false →
      getLeg s (hIndex c.w1) = some l →
      exec (.legDestroy c) s = .next (begun s c f (chooseAll (detachShadow (retireLeg (taken s f) (hIndex c.w1)) l.conf))
        (.legDestroy (hIndex c.w1)))) ∧
    (Begins s 0x223 c f → reservedBad c 0 [full, full, full, mask 47 32] = false →
      (hObj s [2] c.w1 (legLive s)).1 = false → (hObj s [1] c.w2 (ctxNamed s)).1 = false → kindOf s (hIndex c.w2) = 3 →
      ownerOf s (hIndex c.w2) = hIndex c.w1 → boundOut s (hIndex c.w2) = false → c.w3 = 0 →
      quarantined s (hIndex c.w2) = false →
      ∃ t, t = chooseLayers (unsubscribe (taken s f) (hIndex c.w2)) (hIndex c.w1) ∧
        exec (.legLayers c) s = .next (answered s c t 0
          (word (pointCode ((subOf t (hIndex c.w2)).bind (fun b => b.cur)))) 0)) ∧
    (Begins s 0x223 c f → reservedBad c 0 [full, full, full, mask 47 32] = false →
      (hObj s [2] c.w1 (legLive s)).1 = false → (hObj s [1] c.w2 (ctxNamed s)).1 = false → kindOf s (hIndex c.w2) = 3 →
      ownerOf s (hIndex c.w2) = hIndex c.w1 → boundOut s (hIndex c.w2) = false → c.w3 ≠ 0 → ofMember s 1 c.w3 = false →
      (hObj s [1] c.w3 (ctxNamed s)).1 = false → (kindOf s (hIndex c.w3) = 1 ∨ kindOf s (hIndex c.w3) = 5) →
      codecOf s (hIndex c.w3) = codecOf s (hIndex c.w2) → bits c.w4 47 44 < spatialCount s (hIndex c.w3) →
      bits c.w4 43 40 < temporalCount s (hIndex c.w3) → quarantined s (hIndex c.w2) = false →
      quarantined s (hIndex c.w3) = false →
      ∃ t, t = subscribe (taken s f) (hIndex c.w1) (hIndex c.w2) (hIndex c.w3) (bits c.w4 47 44) (bits c.w4 43 40)
          (bits c.w4 39 32) ∧
        exec (.legLayers c) s = .next (answered s c t 0
          (word (pointCode ((subOf t (hIndex c.w2)).bind (fun b => b.cur)))) 0))

/-- The packet path (R24 to R27, R34, R96, R97, R219 to R223, R240, R241, R558): an engine takes the next frame of its
turn's port, a control frame first and a media frame only when none waits at the gate; a compared frame that is no media
packet goes to its one destination and a media packet waits at the gate; a first mismatch is recorded and replayed; the
gate admits one packet in turn and at its pace to the meter; a shaper gains credit up to its burst and sends; the stream
engine takes the next decrypted packet, counts it, and drops one that is held already as late. -/
def Obligations.mediaPackets : Prop :=
  ∀ (s : State) (e : Fin 2),
    (∀ i rest, running s = true → (getEngine s e).out = false → servingEngine s (getEngine s e).turn = e.val →
      portElsewhere s e (getEngine s e).turn = false →
      (getMac s (getEngine s e).turn).ctrlQ = i :: rest →
      exec (.packetClassify e) s = .next (flowCheck (setEngine
        (setMac s (getEngine s e).turn { getMac s (getEngine s e).turn with ctrlQ := rest }) e
        { getEngine s e with
          fifo := (getEngine s e).fifo ++ [{ port := (getEngine s e).turn, item := i
                                             pkt := classify s (getEngine s e).turn i
                                             unknown := unknownLeg s (getEngine s e).turn i }]
          turn := 1 - (getEngine s e).turn }) (getEngine s e).turn)) ∧
    (∀ i rest, running s = true → (getEngine s e).out = false → servingEngine s (getEngine s e).turn = e.val →
      portElsewhere s e (getEngine s e).turn = false →
      (getMac s (getEngine s e).turn).ctrlQ = [] → (getMac s (getEngine s e).turn).mediaQ = i :: rest →
      (getEngine s e).passed = [] →
      exec (.packetClassify e) s = .next (flowCheck (setEngine
        (setMac s (getEngine s e).turn { getMac s (getEngine s e).turn with mediaQ := rest }) e
        { getEngine s e with
          fifo := (getEngine s e).fifo ++ [{ port := (getEngine s e).turn, item := i
                                             pkt := classify s (getEngine s e).turn i
                                             unknown := unknownLeg s (getEngine s e).turn i }]
          turn := 1 - (getEngine s e).turn }) (getEngine s e).turn)) ∧
    ((getEngine s e).out = true → exec (.packetClassify e) s = .next s) ∧
    (∀ i rest p, (getEngine s e).fifo = i :: rest → (getEngine s e).out = false → (getEngine s e).replay = false →
      i.port = e.val → i.pkt = some p →
      exec (.lockstepCompare e true) s = .next (setEngine (specCount (specCount s e 0 1) e 1 1) e
        { getEngine s e with fifo := rest, passed := (getEngine s e).passed ++ [p] })) ∧
    (∀ i rest, (getEngine s e).fifo = i :: rest → (getEngine s e).out = false → (getEngine s e).replay = false →
      i.port = e.val → i.pkt = none → (getEngine s e).handover = none →
      exec (.lockstepCompare e true) s = .next (handoverDone (takeFrame (setEngine (specCount (specCount s e 0 1) e 1 1) e
        { getEngine s e with fifo := rest }) i.port i.item i.unknown) e i.port)) ∧
    (∀ i rest, (getEngine s e).fifo = i :: rest → (getEngine s e).out = false → (getEngine s e).replay = false →
      (getEngine s e).mismatches = [] →
      exec (.lockstepCompare e false) s = .next (raiseErr (specCount (setEngine (specCount s e 0 1) e
          { getEngine (specCount s e 0 1) e with mismatches := [now (specCount s e 0 1)], replay := true }) e 3 1)
        { code := 0x0701, cls := 2, inst := e, a := word i.port, lasts := true })) ∧
    (∀ p rest, (getEngine s e).passed = p :: rest →
      (s.media.gateTurn = e.val ∨ (getEngine s (1 - e.val)).passed = []) → s.media.gateNext ≤ now s →
      ∃ t, t = setEngine s e { getEngine s e with passed := rest } ∧
        exec (.mediaGateAdmit e) s = .next (handoverDone (meterPacket
          { t with media := { t.media with gateTurn := 1 - e.val, gateNext := now s + gatePace } } p) e p.port)) ∧
    (now s < s.media.gateNext → exec (.mediaGateAdmit e) s = .next s) ∧
    (∀ k p rest, running s = true → Tbl.has s.media.shapers k = true → (getShaper s k).queue = p :: rest →
      exec (.shaperEvaluate k) s = .next (settle (shaperSend (putShaper s k { getShaper s k with
        credit := min ((getShaper s k).burst : Rat) ((getShaper s k).credit
          + shaperRate s (getShaper s k) p.leg * ((now s - (getShaper s k).last : Nat) : Rat) / (8 * second : Nat))
        last := now s }) k (rest.length + 1)))) ∧
    (∀ p rest x h, running s = true → s.media.engineIn = p :: rest → getCtx s p.ctx = some x → x.quarantined = false →
      p.media = .rtcp h →
      exec .streamEnginePacket s = .next (legCount (ctxCount (ctxCount { s with media := { s.media with engineIn := rest } }
        p.ctx 0x00 1) p.ctx 0x01 p.len) p.leg 0x21 h.ignored)) ∧
    (∀ p rest x h, running s = true → s.media.engineIn = p :: rest → getCtx s p.ctx = some x → x.quarantined = false →
      p.media = .rtp h → p.rtx = false → heldAlready s p.ctx x (extendSeq x p.index h.seq) = true →
      exec .streamEnginePacket s = .next (settle (ctxCount (ctxCount (ctxCount (ctxCount
        { s with media := { s.media with engineIn := rest } } p.ctx 0x00 1) p.ctx 0x01 p.len) p.ctx 0x09 0) p.ctx 0x03 1)))

/-- RTCP received and sent, the estimate's age, the rates of points and switch instants (R226 to R232, R235): each row
in the state in which it is due has the effect its rule gives, and before that instant it changes nothing. -/
def Obligations.rtcpAndRates : Prop :=
  ∀ (s : State), running s = true →
    (∀ ctx ntp rtp x, getCtx s ctx = some x → x.kind = 1 →
      exec (.rtcpSr ctx ntp rtp) s = .next (updCtx s ctx (fun x => { x with srMap := some (ntp, rtp), srAt := now s }))) ∧
    (∀ leg lsr dlsr, lsr ≠ 0 →
      exec (.rtcpRr leg lsr dlsr) s = .next (updLeg s leg (fun l => { l with
        rtt := some (BitVec.ofNat 32 (ntpNow s / 2 ^ 16) - lsr - dlsr).toNat }))) ∧
    (∀ leg dlsr, exec (.rtcpRr leg 0 dlsr) s = .next s) ∧
    (∀ ctx seqs x, getCtx s ctx = some x → x.kind = 3 →
      exec (.rtcpNack ctx seqs) s = .next (seqs.foldl (fun s q => retransmit s ctx q.toNat) (ctxCount s ctx 0x08 1))) ∧
    (∀ ctx fir x, getCtx s ctx = some x → x.kind = 3 → x.sub = none →
      exec (.rtcpPliFir ctx fir) s = .next (legCount (ctxCount s ctx 0x0B 1) x.owner 0x21 1)) ∧
    (∀ ctx fir x b, getCtx s ctx = some x → x.kind = 3 → x.sub = some b → b.cur = none →
      exec (.rtcpPliFir ctx fir) s = .next (legCount (ctxCount s ctx 0x0B 1) x.owner 0x21 1)) ∧
    (∀ ctx fir x b point src, getCtx s ctx = some x → x.kind = 3 → x.sub = some b → b.cur = some point →
      src = pointCtx s b.source point →
      exec (.rtcpPliFir ctx fir) s = .next (if actsOnRequest s src then keyRequest (ctxCount s ctx 0x0B 1) src fir
        else legCount (ctxCount s ctx 0x0B 1) x.owner 0x21 1)) ∧
    (∀ leg l ps, getLeg s leg = some l → l.destroying = false → l.ccfb = true →
      exec (.rtcpCcfb leg ps) s = .next (acceptReport s leg l ps)) ∧
    (∀ leg l ps, getLeg s leg = some l → l.destroying = false → l.ccfb = false →
      exec (.rtcpCcfb leg ps) s = .next (legCount s leg 0x21 1)) ∧
    (∀ leg l ssrc x, getLeg s leg = some l → l.destroying = false → getConf s l.conf = some x → x.eventsEn = true →
      exec (.rtcpBye leg ssrc) s = .next (postEvent s x.slot x.queue x.tag x.ring 0 (word ssrc.toNat)
        (word (2 ^ 44 + leg)))) ∧
    (∀ leg l, getLeg s leg = some l → l.destroying = false → l.nextReport ≤ now s → legCtxs s leg 3 = [] →
      exec (.rtcpReportTimer leg) s = .next (nextFree (updLeg (sendRtcp s leg (fun ssrc => [.rr ssrc (legReports s leg)])) leg
        (fun l => { l with nextReport := nextReportAt s })))) ∧
    (∀ leg l c x k, getLeg s leg = some l → l.destroying = false → l.nextReport ≤ now s → legCtxs s leg 3 = [c] →
      getCtx s c = some x → x.sentSinceSr = true → rtcpCtx s leg = some k →
      exec (.rtcpReportTimer leg) s = .next (nextFree (updLeg (updCtx (sendRtcp s leg (fun _ =>
          [.sr x.ssrc (ntpNow s / 2 ^ 32) (ntpNow s % 2 ^ 32) (srRtp s x) (x.sentPackets % 2 ^ 32) (x.sentOctets % 2 ^ 32)
            (legReports s leg)])) c (fun x => { x with sentSinceSr := false, lastSr := some (now s) })) leg
        (fun l => { l with nextReport := nextReportAt s })))) ∧
    (∀ leg l, getLeg s leg = some l → now s < l.nextReport → exec (.rtcpReportTimer leg) s = .next s) ∧
    (∀ leg l, getLeg s leg = some l → l.destroying = false → l.lastCcfb + durMs (getF s oStrFeedback 47 32) ≤ now s →
      legCtxs s leg 1 = [] →
      exec (.ccfbReportTimer leg) s = .next (updLeg s leg (fun l => { l with lastCcfb := now s }))) ∧
    (∀ leg l, getLeg s leg = some l → now s < l.lastCcfb + durMs (getF s oStrFeedback 47 32) →
      exec (.ccfbReportTimer leg) s = .next s) ∧
    (∀ ctx seq x m, getCtx s ctx = some x → x.kind = 1 → x.nackEn = true → x.missing.find? (fun m => m.seq == seq) = some m →
      (m.nacks = 0 ∧ m.seenAt + durMs x.reorderMs ≤ now s ∨ m.nacks = 1 ∧ m.lastNack + durMs 30 ≤ now s) →
      exec (.nackTimer ctx seq) s = .next (sendNack s ctx seq)) ∧
    (∀ ctx seq x m, getCtx s ctx = some x → x.missing.find? (fun m => m.seq == seq) = some m → 2 ≤ m.nacks →
      exec (.nackTimer ctx seq) s = .next s) ∧
    (∀ leg l, getLeg s leg = some l → l.ccfb = true → l.destroying = false → l.stale = false →
      l.staleFrom + durMs l.staleMs ≤ now s →
      exec (.estimateStale leg) s = .next (confEvent (legCount (updLeg s leg (fun l => { l with
        stale := true, staleFrom := l.staleFrom + durMs l.staleMs })) leg 0x22 1) leg 2 (word (l.est / 1000).floor.toNat))) ∧
    (∀ leg l, getLeg s leg = some l → l.ccfb = true → l.destroying = false → l.stale = true →
      l.staleFrom + durMs l.staleMs ≤ now s →
      exec (.estimateStale leg) s = .next (estimateChanged (updLeg (updLeg s leg (fun l => { l with
        stale := true, staleFrom := l.staleFrom + durMs l.staleMs })) leg (fun l => { l with
        est := max (l.est / 2) (l.minRate * 64000 : Nat) })) leg)) ∧
    (s.media.lastRateUpdate + durMs 100 ≤ now s →
      exec .pointRateUpdate s = .next (chooseAll { s with media := { s.media with
        streams := s.media.streams.map (fun p => (p.1, measure (now s) p.2))
        lastRateUpdate := now s } })) ∧
    (now s < s.media.lastRateUpdate + durMs 100 → exec .pointRateUpdate s = .next s) ∧
    (∀ ctx b p, subOf s ctx = some b → b.prefetch = some p → p.instant ≤ now s →
      exec (.switchInstant ctx) s = .next (resolvePrefetch s ctx false)) ∧
    (∀ ctx b p, subOf s ctx = some b → b.prefetch = some p → now s < p.instant →
      exec (.switchInstant ctx) s = .next s)

/-- Keys and bulk jobs (R264 to R268, R270, R272 to R276): KEY_INSTALL with material that its blob gives installs the key,
erases the one it replaces and waits until no lane holds a packet under it; below the mark it ends with 0x302 and the mark,
the keys as they were; a blob that gives none ends it with 0x151. KEY_RETIRE erases the named keys; KEY_QUERY returns the
value it selects; CIPHER_JOB with a good block queues a job and waits for it. -/
def Obligations.keyCommands : Prop :=
  ∀ (c : Cmd) (s : State) (f : Fetched),
    (∀ x blob kl sl ts tc, Begins s 0x300 c f →
      reservedBad c 0 [full, mask 47 37 + 0x3F, full, full, full, full, if bitAt c.w2 37 then full else 0] = false →
      (hObj s [1] c.w1 (ctxNamed s)).1 = false → getCtx s (hIndex c.w1) = some x → x.kind ≠ 5 →
      noQueue s c.slot (bits c.w2 5 0) = false → (regionCheck s c.slot c.w3).1 = false →
      ((bitAt c.w2 39 && x.cur.isNone) || (bitAt c.w2 37 && (x.kind == 1 || x.kind == 2)) || (c.w6 != 0 && !x.rtxEn)
        || decide (c.w5.toNat ≥ indexLimit x) || decide (c.w6.toNat ≥ indexLimit x)) = false →
      regionBounds s c.slot c.w3 c.w4.toNat 64 false = false → c.w4.toNat % 64 = 0 →
      suiteOf (bits c.w2 47 40) = some (kl, sl, ts, tc) → (bitAt c.w2 38 = true ∨ getB s oCipCtrl 1 = false) →
      (material (kekOf s c.slot) (bitAt c.w2 38) (kl + sl) blob = none →
        exec (.keyInstall c (.bytes blob)) s = .next (answered s c (taken s f) 0x151 0 0)) ∧
      (∀ m, material (kekOf s c.slot) (bitAt c.w2 38) (kl + sl) blob = some m →
        (x.kind = 3 ∨ x.kind = 4) → c.w5.toNat < markOf s x (bitAt c.w2 37) c.w7.toNat false →
        exec (.keyInstall c (.bytes blob)) s = .next (answered s c (taken s f) 0x302
          (word (markOf s x (bitAt c.w2 37) c.w7.toNat false)) 0)) ∧
      (∀ m erased out, material (kekOf s c.slot) (bitAt c.w2 38) (kl + sl) blob = some m → bitAt c.w2 37 = false →
        out = (x.kind == 3 || x.kind == 4) →
        (out = true → markOf s x false c.w7.toNat false ≤ c.w5.toNat) →
        (out = true → x.rtxEn = true → markOf s x false c.w7.toNat true ≤ c.w6.toNat) →
        erased = (if bitAt c.w2 39 then x.next.toList else x.cur.toList ++ x.drain.toList) →
        (erased ≠ [] ∨ keysHeld s < keyCapacity s) → x.quarantined = false →
        ∃ t, t = taken s f ∧
        exec (.keyInstall c (.bytes blob)) s = .next (begun s c f (retireRecs (updCtx
          { t with media := { t.media with nextKey := s.media.nextKey + 1 } } (hIndex c.w1)
          (fun y => installKey y (bitAt c.w2 39)
            { id := s.media.nextKey, suite := bits c.w2 47 40, start := c.w5.toNat, startRtx := c.w6.toNat
              session := session kl sl m (x.kind == 2 || x.kind == 4), persist := none, slot := c.slot, queue := bits c.w2 5 0
              ring := c.ring, tag := c.tag })) erased)
          (.keyErase (hIndex c.w1) (erased.map (fun e => e.id))
            (word (if out then markOf s x false c.w7.toNat false else 0)) 0)))) ∧
    (∀ x, Begins s 0x301 c f → reservedBad c 0 [full, 3] = false → (hObj s [1] c.w1 (ctxNamed s)).1 = false →
      getCtx s (hIndex c.w1) = some x → x.kind ≠ 5 →
      ((if bitAt c.w2 0 then x.next else x.cur) = none →
        exec (.keyRetire c) s = .next (answered s c (taken s f) 0 0 0)) ∧
      (∀ k t, (if bitAt c.w2 0 then x.next else x.cur) = some k →
        t = (match bitAt c.w2 1, k.persist with
          | true, some id => { taken s f with mram := { s.mram with
              keyRecs := s.mram.keyRecs.filter (fun r => r.keyId != id) } }
          | _, _ => taken s f) →
        (bitAt c.w2 0 = false →
          exec (.keyRetire c) s = .next (begun s c f (retireRecs (updCtx t (hIndex c.w1)
            (fun y => { y with cur := none, next := none, drain := none })) (keysOf x))
            (.keyErase (hIndex c.w1) ((keysOf x).map (fun e => e.id)) 0 0))) ∧
        (bitAt c.w2 0 = true →
          exec (.keyRetire c) s = .next (begun s c f (retireRecs (updCtx t (hIndex c.w1)
            (fun y => { y with next := none })) x.next.toList)
            (.keyErase (hIndex c.w1) (x.next.toList.map (fun e => e.id)) 0 0))))) ∧
    (∀ x, Begins s 0x302 c f → reservedBad c 0 [full, 0x1FF] = false → (hObj s [1] c.w1 (ctxNamed s)).1 = false →
      getCtx s (hIndex c.w1) = some x → bits c.w2 7 0 ≤ 9 → x.quarantined = false →
      exec (.keyQuery c) s = .next (answered s c
        (if bitAt c.w2 8 then updCtx (taken s f) (hIndex c.w1) (fun y => { y with
          keyCounters := Tbl.del y.keyCounters (bits c.w2 7 0) }) else taken s f)
        0 (word (keyValue x (bits c.w2 7 0))) 0)) ∧
    (∀ b key mode keyLen n aad total bs, Begins s 0x310 c f →
      reservedBad c 1 [full, full, full, full, full, full, full] = false → (regionCheck s c.slot c.w1).1 = false →
      (c.w3 = 0 ∨ (regionCheck s c.slot c.w3).1 = false) → (c.w5 = 0 ∨ (regionCheck s c.slot c.w5).1 = false) →
      regionBounds s c.slot c.w1 c.w2.toNat 128 false = false → c.w2.toNat % 64 = 0 →
      mode = (b.getD 0 0).toNat → keyLen = (b.getD 1 0).toNat → n = bits c.w7 31 0 →
      aad = (if mode = 6 then bits c.w7 47 32 else 0) →
      total = jobTotal mode (cmdFlag c 0) ((b.getD 2 0).getLsbD 1) aad n →
      1 ≤ mode → mode ≤ 6 → blockReserved mode b = false → n ≤ 16777216 → (1 ≤ n ∨ mode = 6) →
      (c.w3 ≠ 0 → regionBounds s c.slot c.w3 c.w4.toNat (aad + n) false = false) →
      (c.w5 ≠ 0 → regionBounds s c.slot c.w5 c.w6.toNat total true = false) →
      (mode = 1 → n % 16 = 0 ∨ ((b.getD 2 0).getLsbD 1 = true ∧ cmdFlag c 0 = false)) →
      (keyLen = 16 ∨ (keyLen = 32 ∧ mode ≠ 5)) →
      jobKey (kekOf s c.slot) ((b.getD 2 0).getLsbD 0) keyLen b = some key →
      (c.w3 = 0 → badModuleRange c.w4.toNat (aad + n) = false ∧ poisoned s c.w4.toNat (aad + n) = false) →
      (c.w5 = 0 → badModuleRange c.w6.toNat total = false) →
      ∃ r, r = queueJob (taken s f) {
          block := b.take 8 ++ key ++ b.drop 64, source := if c.w3 = 0 then [] else bs, decrypt := cmdFlag c 0
          aadLen := aad, length := n, dstSlot := c.slot
          dstRegion := if c.w5 = 0 then none else some (hIndex c.w5 % 1024), dstAddr := c.w6.toNat
          srcRegion := if c.w3 = 0 then none else some (hIndex c.w3 % 1024), srcAddr := c.w4.toNat
          mode := mode, aes256 := keyLen == 32, total := total } ∧
        exec (.cipherJob c (.bytes b) (.bytes bs)) s = .next (begun s c f r.1 (.cipherJob r.2)))

/-- The lanes and their packing FIFOs (R250 to R252, R257 to R259, R266, R270, R277, R279 to R281): a group starts its next
packet on its lowest free lane, the queues in turn; a packet whose tag is good stands until its ticket's turn (inbound) or
is published (outbound), one whose tag differs is voided and counted; in ticket order a new index moves the window and
publishes the packet, and a repeated one voids it; a pop takes one row, of a pending packet none. -/
def Obligations.cipherLanes : Prop :=
  ∀ (s : State),
    (∀ (g : Fin 16) l p rest, running s = true → freeLane s g = some l →
      (getGroup s g).inQ = p :: rest → ((getGroup s g).turnOut = false ∨ (getGroup s g).outQ = []) →
      exec (.cipherLaneStart g) s = .next (startInbound (setGroup s g { getGroup s g with inQ := rest, turnOut := true }) l p)) ∧
    (∀ (g : Fin 16) l p rest, running s = true → freeLane s g = some l →
      (getGroup s g).outQ = p :: rest → reserveHolds s p = false →
      ((getGroup s g).turnOut = true ∨ (getGroup s g).inQ = []) →
      exec (.cipherLaneStart g) s = .next (settle (drainHeld
        (startOutbound (setGroup s g { getGroup s g with outQ := rest, turnOut := false }) l p) g))) ∧
    (∀ (g : Fin 16) l id rest j, running s = true → freeLane s g = some l → (getGroup s g).inQ = [] →
      (getGroup s g).outQ = [] → (getGroup s g).jobQ = id :: rest → Tbl.get? s.media.jobs id = some j → jobWaits s j = false →
      jobsRunning s g < getF s oCipCtrl 14 8 →
      exec (.cipherLaneStart g) s = .next (startJob (setGroup s g { getGroup s g with jobQ := rest }) l id)) ∧
    (∀ (g : Fin 16), freeLane s g = none → exec (.cipherLaneStart g) s = .next s) ∧
    (∀ (lane : Fin 1024) u p q, u = advanceLane s lane → (getLane u lane).fifo.getLast? = some p →
      (getLane u lane).busy = true → (getLane u lane).endAt p ≤ now s → p.dropping = false → dataRows p.len < p.pushed →
      p.work = .inbound q →
      exec (.cipherLaneEnd lane true false) s = .next (endPacket u lane .pending true) ∧
      exec (.cipherLaneEnd lane false false) s = .next (settle (dropInbound (endPacket u lane .void false) q cAuthFail))) ∧
    (∀ (lane : Fin 1024) u p q tagOk, u = advanceLane s lane → (getLane u lane).fifo.getLast? = some p →
      (getLane u lane).busy = true → (getLane u lane).endAt p ≤ now s → p.dropping = false → dataRows p.len < p.pushed →
      p.work = .outbound q →
      exec (.cipherLaneEnd lane tagOk false) s = .next (settle (endPacket u lane .published false))) ∧
    (∀ (lane : Fin 1024) u p q tagOk, u = advanceLane s lane → (getLane u lane).fifo.getLast? = some p →
      (getLane u lane).busy = true → (getLane u lane).endAt p ≤ now s → p.dropping = true → p.work = .inbound q →
      exec (.cipherLaneEnd lane tagOk false) s = .next (settle (giveUp (endPacket u lane .void false) q))) ∧
    (∀ (lane : Fin 1024) u p tagOk, u = advanceLane s lane → (getLane u lane).fifo.getLast? = some p →
      (now s < (getLane u lane).endAt p ∨ p.dropping = false ∧ p.pushed ≤ dataRows p.len) →
      exec (.cipherLaneEnd lane tagOk false) s = .next u) ∧
    (∀ (ln : Lane) p t n, ln.fifo.getLast? = some p → ln.busy = true → p.dropping = false → p.pushed ≤ dataRows p.len →
      ln.startAt + coreDur (p.rowAt p.pushed) ≤ t → 256 ≤ fifoDepth ln →
      ∃ cycles, cycles = (t - (ln.startAt + coreDur (p.rowAt p.pushed))) * 3000000000 / second ∧
        ln.advance t (n + 1) = ({ ln with startAt := ln.startAt + coreDur cycles }, cycles)) ∧
    (∀ ctx rtx x q, getCtx s ctx = some x → ticketReady s ctx rtx (replayOf x rtx).doneTicket = some q →
      (replayOf x rtx).givenUp = [] →
      (((replayOf x rtx).valid = true ∧ q.index ≤ (replayOf x rtx).highest ∧
          (replayOf x rtx).window.testBit ((replayOf x rtx).highest - q.index) = true) →
        exec (.ticketStep ctx rtx) s = .next (settle (cipCount (cipCount (keyCount (markTicket (setCtx s ctx (setReplay x rtx
          { replayOf x rtx with doneTicket := (replayOf x rtx).doneTicket + 1 })) ctx rtx q.ticket .void) ctx 0x04 1)
          cReplay 1) cVoid 1))) ∧
      (((replayOf x rtx).valid = false ∨ (replayOf x rtx).highest < q.index) → x.next = none → x.drain = none →
        exec (.ticketStep ctx rtx) s = .next (settle (markTicket (setCtx s ctx (setReplay x rtx
          { replayOf x rtx with
            doneTicket := (replayOf x rtx).doneTicket + 1
            valid := true
            highest := q.index
            window := (if (replayOf x rtx).valid then
              ((replayOf x rtx).window * 2 ^ (q.index - (replayOf x rtx).highest)) % 2 ^ 128 else 0) ||| 1 }))
          ctx rtx q.ticket .published)))) ∧
    (∀ ctx rtx x, getCtx s ctx = some x → ticketReady s ctx rtx (replayOf x rtx).doneTicket = none →
      exec (.ticketStep ctx rtx) s = .next s) ∧
    (∀ (lane : Fin 1024) u p rest, u = advanceLane s lane → (getLane u lane).fifo = p :: rest →
      (p.state = .pending → exec (.fifoPop lane) s = .next u) ∧
      (p.state = .void → 1 < p.rowsHeld →
        exec (.fifoPop lane) s = .next (advanceLane (setLane u lane { getLane u lane with
          fifo := { p with rowsHeld := p.rowsHeld - 1, popped := p.popped + 1 } :: rest }) lane)) ∧
      (p.state = .published → earlierHeld u p.work = false → 1 < p.rowsHeld →
        exec (.fifoPop lane) s = .next (advanceLane (setLane u lane { getLane u lane with
          fifo := { p with rowsHeld := p.rowsHeld - 1, popped := p.popped + 1 } :: rest }) lane)) ∧
      (∀ q, p.state = .published → earlierHeld u p.work = false → p.rowsHeld = 1 → p.work = .inbound q →
        ∃ t, t = setLane u lane { getLane u lane with fifo := rest } ∧
          exec (.fifoPop lane) s = .next (advanceLane (settle { t with media := { t.media with
            engineIn := t.media.engineIn ++ [q] } }) lane))) ∧
    (∀ (lane : Fin 1024) u, u = advanceLane s lane → (getLane u lane).fifo = [] → exec (.fifoPop lane) s = .next u) ∧
    (∀ id, mramWritable s = true →
      exec (.keyReserveWritten id) s = .next { s with mram := { s.mram with keyRecs := s.mram.keyRecs.map (fun r =>
        if r.keyId = id.toNat then (match r.writing with
          | some (a, b) => { r with media := a, rtx := b, writing := none }
          | none => r) else r) } })

/-- Decode commands (R284, R291, R292, R304 to R308): DEC_CREATE with good operands makes the context with its pool and
reservation, and ends with the lowest code of the value and resource checks otherwise; on a source of another member it
asks for a mirror and waits; DEC_MODIFY changes the part that its selector names; DEC_DESTROY of a context that nothing
reads concedes its entries, cancels its tasks and waits for the decode in progress; DEC_REQUEST_INTRA reports what became
of the request. -/
def Obligations.decodeCommands : Prop :=
  ∀ (c : Cmd) (s : State) (f : Fetched),
    (Begins s 0x400 c f → reservedBad c 0 [full, mask 47 23 + 0xBF, full, mask 47 32 + mask 9 0] = false →
      (hMay s 1 c.w1 (ctxNamed s)).1 = false →
      (bitAt c.w2 7 = true → noQueue s c.slot (bits c.w2 5 0) = false) →
      (ofMember s 1 c.w1 = false → (kindOf s (hIndex c.w1) = 1 ∨ kindOf s (hIndex c.w1) = 5) →
        quarantined s (hIndex c.w1) = false →
        ∃ x, x = decOf (cmdDesc 0x400 c) c.slot c.ring (hIndex c.w1) ∧
          (∀ st, firstFail (decChecks s x (bits c.w2 35 34) (codecOf s (hIndex c.w1))) = some st →
            exec (.decCreate c) s = .next (answered s c (taken s f) st 0 0)) ∧
          (∀ y, firstFail (decChecks s x (bits c.w2 35 34) (codecOf s (hIndex c.w1))) = none →
            y = { x with
              bytes := x.poolSlots * slotBytes x.pxf x.maxW x.maxH
              base := (allocate s 3 (x.poolSlots * slotBytes x.pxf x.maxW x.maxH)).getD 0
              reserved := decReserve x.maxW x.maxH x.fps x.targetS } →
            exec (.decCreate c) s = .next (answered s c
              (if bits c.w2 35 34 = 1 then
                catchUp (setDec (overwritten (taken s f) y.base y.bytes) (Tbl.lowestFree s.units.decs) y)
                  (Tbl.lowestFree s.units.decs) y (hIndex c.w1)
               else setDec (overwritten (taken s f) y.base y.bytes) (Tbl.lowestFree s.units.decs) y)
              0 (ownHandle s 6 (Tbl.lowestFree s.units.decs)) 0))) ∧
      (ofMember s 1 c.w1 = true → (spanAttached s (hMember c.w1)).isSome = true → (mirrorFor s c.w1).isSome = true →
        ∃ r, r = peerSend (taken s f) (hMember c.w1) 0xA82 0 c.w1
          (word ((((mirrorFor s c.w1).bind (getCtx s)).map (fun x => (x.sCount - 1) * 16 + (x.tCount - 1))).getD 0)) 0 none ∧
        exec (.decCreate c) s = .next (begun s c f r.1 (.peer r.2 (cmdDesc 0x400 c))))) ∧
    (∀ x, Begins s 0x401 c f →
      reservedBad c 0xF ([[full, mask 31 24], [full, mask 9 0], [full, 3, 0xFFFF], [full, 0xBF]].getD (cmdSel c) []) = false →
      (hObj s [6] c.w1 (decLive s)).1 = false → getDec s (hIndex c.w1) = some x →
      (cmdSel c = 0 → bits c.w2 31 28 ≤ 2 → bits c.w2 27 24 ≤ 2 → (bits c.w2 31 28 = 0 ∨ codecOf s x.source = 5) →
        (decReserve x.maxW x.maxH x.fps (bits c.w2 31 28) ≤ x.reserved ∨
          decRefused s (decReserve x.maxW x.maxH x.fps (bits c.w2 31 28)) x.reserved = false) →
        exec (.decModify c) s = .next (answered s c (setTarget (taken s f) (hIndex c.w1) (bits c.w2 31 28) (bits c.w2 27 24)
          (decReserve x.maxW x.maxH x.fps (bits c.w2 31 28))) 0 0 0)) ∧
      (cmdSel c = 1 → bits c.w2 9 0 ≤ 1000 →
        exec (.decModify c) s = .next (answered s c (updDec (taken s f) (hIndex c.w1)
          (fun x => { x with repairWaitMs := bits c.w2 9 0 })) 0 0 0)) ∧
      (cmdSel c = 2 → 100 ≤ bits c.w3 15 0 → bits c.w3 15 0 ≤ 10000 →
        exec (.decModify c) s = .next (answered s c (updDec (taken s f) (hIndex c.w1) (fun x => { x with
          taintReq := bitAt c.w2 1, missingReq := bitAt c.w2 0, taintReqMs := bits c.w3 15 0 })) 0 0 0)) ∧
      (cmdSel c = 3 → (bitAt c.w2 7 = true → noQueue s c.slot (bits c.w2 5 0) = false) →
        exec (.decModify c) s = .next (answered s c (updDec (taken s f) (hIndex c.w1) (fun x => { x with
          eventsEn := bitAt c.w2 7, queue := bits c.w2 5 0, slot := c.slot, ring := c.ring, tag := c.tag })) 0 0 0))) ∧
    (∀ x, Begins s 0x402 c f → reservedBad c 0 [full] = false → (hObj s [6] c.w1 (decLive s)).1 = false →
      unitRead s c.w1 = false → getDec s (hIndex c.w1) = some x →
      exec (.decDestroy c) s = .next (begun s c f (releaseMirror (updDec (cancelTasks
        (concedeDec (taken s f) (hIndex c.w1)) (fun t => t.affinity == keyDec (hIndex c.w1))) (hIndex c.w1)
        (fun x => { x with destroying := true, waiting := [], source := noCtx, reserved := 0 })) x.source)
        (.decDestroy (hIndex c.w1)))) ∧
    (∀ x, Begins s 0x403 c f → reservedBad c 1 [full] = false → (hObj s [6] c.w1 (decLive s)).1 = false →
      getDec s (hIndex c.w1) = some x →
      (kindOf s x.source = 5 ∨ ∃ y, getCtx s x.source = some y ∧ y.pliEn = true) →
      ∃ r, r = requestKey (taken s f) (hIndex c.w1) x (cmdFlag c 0) ∧
        exec (.decRequestIntra c) s = .next (answered s c r.1 0 (word (r.2.getD 0)) 0))

/-- Decode rows (R229, R285, R288, R289, R295, R299, R304): the release of a picture whose deadline has come; a picture
that uses an unsupported feature is passed over and stops the decoding, one above the target is skipped; one with a free
slot is decoded into the lowest, a random access point after a stop too; without a slot, or without a join entry that it
needs, the decode waits; a finished run's replacements take their originals' places and the entry is discarded,
and from the deadline on it does nothing; a taint that has lasted TAINT_REQ_MS asks for a key picture. -/
def Obligations.decodeRows : Prop :=
  ∀ (s : State), running s = true →
    (∀ ctx x p, getCtx s ctx = some x → x.jb = [p] → p.firstAt + durMs x.jbTarget ≤ now s →
      exec (.jbRelease ctx) s = .next (releaseFirst s ctx)) ∧
    (∀ ctx x p, getCtx s ctx = some x → x.jb = [p] → now s < p.firstAt + durMs x.jbTarget → jbComplete x p = false →
      exec (.jbRelease ctx) s = .next s) ∧
    (∀ d x id t w rest p codec, getDec s d = some x → runningWith s (keyDec d) = some (id, t) → x.served ≠ some id →
      t.entry = none → x.waiting = w :: rest → codec = codecOf s x.source → p.more = false →
      (∀ code, x.stopped = false → featureOf codec x p = some code →
        exec (.pictureDecoded d p) s = .next (unsupportedPic (skipPicture (updDec s d (fun x => { x with
          waiting := rest, served := some id })) d true) d code x.missingReq)) ∧
      (x.stopped = false → featureOf codec x p = none → passedOver codec w.target p = true →
        exec (.pictureDecoded d p) s = .next (skipPicture (updDec s d (fun x => { x with
          waiting := rest, served := some id })) d false)) ∧
      (x.stopped = true → p.randomAccess = false →
        exec (.pictureDecoded d p) s = .next (skipPicture (updDec s d (fun x => { x with
          waiting := rest, served := some id })) d true)) ∧
      (∀ slot, featureOf codec x p = none → passedOver codec w.target p = false → poolSlot x = some slot →
        joinBlocked s d x w p (refRipes s d (slotPics x p.reads)) = none →
        ∃ u, u = updDec (joinServed s (keyDec d)) d (fun x => { x with waiting := rest, served := some id }) ∧
          (x.stopped = false → exec (.pictureDecoded d p) s = .next (decodeInto u d slot w p)) ∧
          (x.stopped = true → p.randomAccess = true →
            exec (.pictureDecoded d p) s = .next (decodeInto (decEvent (updDec u d (fun x => { x with
              stopped := false, unsupported := false })) d 2 0 (word w.ts)) d slot w p))) ∧
      (∀ slot k, x.stopped = false → featureOf codec x p = none → passedOver codec w.target p = false →
        poolSlot x = some slot → joinBlocked s d x w p (refRipes s d (slotPics x p.reads)) = some k →
        exec (.pictureDecoded d p) s = .next (joinWaits s k)) ∧
      (x.stopped = false → featureOf codec x p = none → passedOver codec w.target p = false → poolSlot x = none →
        exec (.pictureDecoded d p) s = .next s)) ∧
    (∀ d x p, getDec s d = some x → runningWith s (keyDec d) = none → exec (.pictureDecoded d p) s = .next s) ∧
    (∀ d x e en dl, getDec s d = some x → Tbl.get? s.spec.table e = some en → en.deadline = some dl → dl ≤ now s →
      exec (.redecodeRunDone d e) s = .next s) ∧
    (∀ d x e en dl mine x1 x2, getDec s d = some x → Tbl.get? s.spec.table e = some en → en.deadline = some dl →
      now s < dl → x.runs.contains (e, []) = true → mine = x.replacements.filter (fun r => r.1 == e) →
      x1 = { x with
        pics := x.pics.map (fun p => match mine.find? (fun r => r.2.1 == p.no) with
          | some r => { r.2.2 with outNo := p.outNo, output := p.output, shown := p.shown }
          | none => p)
        replacements := x.replacements.filter (fun r => r.1 != e)
        runs := x.runs.filter (fun r => r.1 != e)
        entries := x.entries.filter (fun k => k != e) } →
      x2 = (match x1.newest.bind x1.pic with
        | some p => taintClock s x1 p
        | none => x1) →
      exec (.redecodeRunDone d e) s = .next (resumeTasks (resolveEntry (mine.foldl (fun s r => match decPic s d r.2.1 with
          | some p => writePicHeader s x2 p
          | none => s) (setDec s d { x2 with redecoded := x2.redecoded ++ [mine.map (fun r => r.2.1)] })) e 3)
        .poolSlot (fun k => k == keyDec d))) ∧
    (∀ d x t0, getDec s d = some x → x.taintedSince = some t0 → x.taintReq = true →
      (max t0 (x.lastTaintReq.getD 0) + durMs x.taintReqMs ≤ now s →
        exec (.taintRequestTimer d) s = .next (requestKey (setDec s d { x with lastTaintReq := some (now s) }) d x false).1) ∧
      (now s < max t0 (x.lastTaintReq.getD 0) + durMs x.taintReqMs → exec (.taintRequestTimer d) s = .next s)) ∧
    (∀ d x, getDec s d = some x → x.taintedSince = none → exec (.taintRequestTimer d) s = .next s)

/-- Speculations (R81, R95, R108, R111 to R113): a concealment whose commit deadline has come is conceded at the end of
the TIME cycle unless an event of it confirms the entry, a layer prefetch is judged, and before the deadline nothing happens; a join entry set free lets its waiters go on; STAT_RIPENESS returns the
counter that it names and sets it to 0 when asked, leaves the gauge, and refuses a reserved class or counter. -/
def Obligations.speculations : Prop :=
  ∀ (s : State),
    (∀ e en dl, Tbl.get? s.spec.table e = some en → en.deadline = some dl →
      (dl ≤ now s → en.cls = .concealment → exec (.specCommitDeadline e) s = .next (concedeLater s e)) ∧
      (dl ≤ now s → en.cls = .prefetch → exec (.specCommitDeadline e) s = .next (settle (resolvePrefetch s en.owner false))) ∧
      (now s < dl → exec (.specCommitDeadline e) s = .next s)) ∧
    (∀ e, Tbl.get? s.spec.table e = none → exec (.specCommitDeadline e) s = .next s) ∧
    (s.spec.joinWaiters ≠ [] → openJoins s < 32768 → exec .joinEntryFreed s = .next (settle (redoAll s))) ∧
    (s.spec.joinWaiters = [] → exec .joinEntryFreed s = .next s) ∧
    (∀ c f, Begins s 0xB20 c f → reservedBad c 0 [full] = false →
      ((bits c.w1 47 9 ≠ 0 ∨ 5 < bits c.w1 3 0 ∨ 6 < bits c.w1 7 4) →
        exec (.statRipeness c) s = .next (answered s c (taken s f) 0x1B0 0 0)) ∧
      (bits c.w1 47 9 = 0 → bits c.w1 3 0 ≤ 5 → bits c.w1 7 4 ≤ 5 →
        ∃ v t, v = Tbl.count s.spec.counters (16 * bits c.w1 3 0 + bits c.w1 7 4) ∧
          t = (if bitAt c.w1 8 then { taken s f with spec := { s.spec with
            counters := Tbl.del s.spec.counters (16 * bits c.w1 3 0 + bits c.w1 7 4) } } else taken s f) ∧
          exec (.statRipeness c) s = .next (answered s c t 0 (word v) 0)) ∧
      (bits c.w1 47 9 = 0 → bits c.w1 3 0 ≤ 5 → bits c.w1 7 4 = 6 →
        exec (.statRipeness c) s = .next (answered s c (taken s f) 0
          (word (s.spec.table.filter (fun e => e.2.cls.code == bits c.w1 3 0)).length) 0)))

/-- Canvas commands (R311 to R317, R323, R329, R331): CANVAS_CREATE with good operands makes the canvas with its buffers and
its schedule; CANVAS_SET_LAYERS with good records replaces a layout that waits, and waits for its picture start;
CANVAS_DESTROY of a canvas that nothing reads ends a waiting layout and waits for the picture in progress. -/
def Obligations.canvasCommands : Prop :=
  ∀ (c : Cmd) (s : State) (f : Fetched),
    (∀ w h mx num den us bufs pxf size base, Begins s 0x500 c f →
      reservedBad c 0 [mask 47 7, full, full, mask 47 18 + 0xBF, mask 23 0] = false →
      (bitAt c.w4 7 = true → noQueue s c.slot (bits c.w4 5 0) = false) →
      w = bits c.w1 47 32 → h = bits c.w1 31 16 → mx = bits c.w1 15 8 → num = bits c.w2 47 32 → den = bits c.w2 31 16 →
      us = bits c.w4 47 28 → bufs = bits c.w4 27 24 → pxf = bits c.w4 23 18 →
      size = (if bufs = 0 then 0 else slotBytes pxf w h) →
      64 ≤ w → 64 ≤ h → w % 2 = 0 → h % 2 = 0 → (mx = 1 ∨ mx = 5 ∨ mx = 6 ∨ mx = 9) →
      1 ≤ num → 1 ≤ den → den ≤ num → num ≤ 120 * den → 100 ≤ us → us ≤ 1000000 → us * num ≤ 1000000 * den →
      (bufs = 0 ∨ ((bufs = 2 ∨ bufs = 3) ∧ (pxf = 1 ∨ pxf = 2 ∨ pxf = 4))) →
      max w h ≤ 3840 → min w h ≤ 2160 → s.units.canvases.length < 4096 → allocate s 4 (bufs * size) = some base →
      exec (.canvasCreate c) s = .next (answered s c (setCanvas (overwritten (taken s f) base (bufs * size)) (Tbl.lowestFree s.units.canvases)
        { width := w, height := h, matrix := mx, fullRange := bitAt c.w1 7, fpsNum := num, fpsDen := den
          primaries := bits c.w2 15 8, transfer := bits c.w2 7 0, origin := nearest (now s) c.w3
          k0 := schedFirst (nearest (now s) c.w3) num den (now s + durMs 1), windowUs := us, memBufs := bufs, pxf := pxf
          eventsEn := bitAt c.w4 7, queue := bits c.w4 5 0, slot := c.slot, ring := c.ring, tag := c.tag
          background := bits c.w5 23 0, base := base, bufBytes := size })
        0 (ownHandle s 7 (Tbl.lowestFree s.units.canvases)) 0)) ∧
    (∀ x bs ls hs, Begins s 0x501 c f → reservedBad c 1 [full, full, full, 0xF, full] = false →
      (hObj s [7] c.w1 (canvasLive s)).1 = false → getCanvas s (hIndex c.w1) = some x →
      (regionCheck s c.slot c.w2).1 = false → regionBounds s c.slot c.w2 c.w3.toNat (48 * bits c.w4 3 0) false = false →
      c.w3.toNat % 64 = 0 → 2 ≤ bits c.w4 3 0 → bits c.w4 3 0 ≤ 8 →
      ls = ((List.range (bits c.w4 3 0)).map (fun i => layerOf (blockWords s c.slot 8 (bs.drop (48 * i))))) →
      (∀ i, i < bits c.w4 3 0 → recordReserved (blockWords s c.slot 8 (bs.drop (48 * i))) = false) →
      (∀ l ∈ ls, (sourceCheck s l).1 = false ∧ recordRange s l = false ∧ recordRect x l = false ∧
        (l.source = 0 → badModuleRange l.stillAddr.toNat (stillBytes l) = false)) →
      (∀ p ∈ s.units.canvases, deeper s (hIndex c.w1) ls 3 p.1 = false) →
      placeHolds (taken s f) (hIndex c.w1) { x with waiting := none } ls.zipIdx [] = some hs →
      exec (.canvasSetLayers c (.bytes bs)) s = .next (begun s c f (updCanvas
        ((hs.filter (fun h => !(x.holds.contains h))).foldl (fun s h => overwritten s h.base h.bytes)
          (endLayers (taken s f) (hIndex c.w1) 1 0))
        (hIndex c.w1) (fun x => { x with waiting := some { layers := ls, holds := hs
                                                           notBefore := if cmdFlag c 0 then
                                                             max (now s + durMs 1) (deadlineAt (nearest (now s) c.w5))
                                                             else now s + durMs 1 } }))
        (.layers (hIndex c.w1)))) ∧
    (Begins s 0x501 c f → reservedBad c 1 [full, full, full, 0xF, full] = false →
      (hObj s [7] c.w1 (canvasLive s)).1 = false → (regionCheck s c.slot c.w2).1 = false →
      regionBounds s c.slot c.w2 c.w3.toNat (48 * bits c.w4 3 0) false = false → c.w3.toNat % 64 = 0 →
      (bits c.w4 3 0 < 2 ∨ 8 < bits c.w4 3 0) → ∀ d,
      exec (.canvasSetLayers c d) s = .next (answered s c (taken s f) 0x170 0 0)) ∧
    (Begins s 0x502 c f → reservedBad c 0 [full] = false → (hObj s [7] c.w1 (canvasLive s)).1 = false →
      (unitRead s c.w1 = true → exec (.canvasDestroy c) s = .next (answered s c (taken s f) 0x105 0 0)) ∧
      (unitRead s c.w1 = false →
        exec (.canvasDestroy c) s = .next (begun s c f (updCanvas (endLayers (taken s f) (hIndex c.w1) 1 0) (hIndex c.w1)
          (fun x => { x with destroying := true, layers := [], waiting := none })) (.canvasDestroy (hIndex c.w1)))))

/-- Canvas rows (R108, R314, R319, R320, R325 to R328): a due picture start reads and composes, or is skipped while the
picture before is in progress, and outside Active only passes; each row is written and handed on in order; the last row's
deadline concedes what a picture that waits for a join entry depends on; an opaque layer's samples reach the output
unchanged and a transparent one leaves what is below. -/
def Obligations.canvasRows : Prop :=
  (∀ (s : State) id c, getCanvas s id = some c → running s = true →
    (now s < c.startOf c.nextNo → exec (.canvasPictureStart id) s = .next s) ∧
    (c.startOf c.nextNo ≤ now s → c.destroying = false → mediaOn s = false →
      exec (.canvasPictureStart id) s = .next (setCanvas s id { c with nextNo := c.nextNo + 1 })) ∧
    (c.startOf c.nextNo ≤ now s → c.destroying = false → mediaOn s = true → c.cur.isSome = true →
      exec (.canvasPictureStart id) s = .next (canvasEvent (bumpC (canvasCount
        (setCanvas s id { c with nextNo := c.nextNo + 1 }) id 0x04 1) (oCmpCounter 3) 1) id 1 0x502 (word c.nextNo))) ∧
    (c.startOf c.nextNo ≤ now s → c.destroying = false → mediaOn s = true → c.cur = none →
      exec (.canvasPictureStart id) s = .next (startCanvas (setCanvas s id { c with nextNo := c.nextNo + 1 }) id c.nextNo
        (c.startOf c.nextNo))) ∧
    (∀ p t k, runningWith s (keyCanvas id) = some (t, k) → c.cur = some p → p.redo = false → p.joinWait = false →
      p.minSeq ≤ t →
      exec (.composeRowDone id) s = .next (settle (redoAll (rowDone s id c p)))) ∧
    (∀ p, c.cur = some p → runningWith s (keyCanvas id) = none → exec (.composeRowDone id) s = .next s) ∧
    (∀ p r, c.cur = some p → p.joinWait = false → exec (.composeRowDeadline id r) s = .next s) ∧
    (∀ p r, c.cur = some p → p.joinWait = true → r + 1 = c.rows → c.lastDue p.start ≤ now s →
      exec (.composeRowDeadline id r) s = .next ((sourcesOf s 16 (p.sources.filterMap (fun q => (c.layers[q.1]?).bind
        (fun l => (sourceRipe s l.source q.2).bind (fun r => r.entry))))).foldl (fun s e => resolveEntry s e 2) s))) ∧
  (∀ src below : Nat, blend1 src below 255 = src ∧ blend1 src below 0 = below) ∧
  (∀ v : Nat, v ≤ 255 → out8 (v * 256) = v) ∧ (∀ v : Nat, v ≤ 1023 → out10 (v * 64) = v)

/-- Encode commands (R334 to R340, R347, R359 to R363): ENC_CREATE with a good block makes the channel with its references
and reservation; ENC_MODIFY leaves the part that its selector names for its start, and changes the event queue at once;
ENC_DESTROY stops the channel, drops a picture that is not final and waits for one that is; ENC_REFRESH reports what became
of the request. -/
def Obligations.encodeCommands : Prop :=
  ∀ (c : Cmd) (s : State) (f : Fetched),
    (∀ bs ws e0 n base, Begins s 0x600 c f → reservedBad c 0 [full, full] = false → (regionCheck s c.slot c.w1).1 = false →
      regionBounds s c.slot c.w1 c.w2.toNat 96 false = false → c.w2.toNat % 64 = 0 → ws = blockWords s c.slot 16 bs →
      e0 = encOfBlock s c ws → encReservedBad ws = false → (∀ w ∈ e0.srcs, (encSrcCheck s w).1 = false) →
      (hObj s [1] (ws.getD 3 0) (ctxNamed s)).1 = false →
      (e0.eventsEn = true → noQueue s c.slot e0.queue = false) → encRange s e0 ws = false → sizesBad e0.sizes = false →
      codingOk e0.codec e0.profile e0.sLayers e0.tLayers e0.depth10 = true →
      refreshBad e0.codec e0.sizes e0.refreshP e0.fastP = false → s.units.encs.length < 4096 →
      n = refBytes e0.codec e0.sizes e0.tLayers e0.depth10 → allocate s 4 n = some base →
      encReserve e0.sizes e0.fpsNum e0.fpsDen ≤ e0.segments * 600 →
      encReserved s + encReserve e0.sizes e0.fpsNum e0.fpsDen ≤ encLimit s →
      (e0.rowRc = true → (s.units.encs.filter (fun p => p.2.rowRc)).length < 512) →
      quarantined s (hIndex (ws.getD 3 0)) = false →
      exec (.encCreate c (.bytes bs)) s = .next (answered s c (setEnc (overwritten (taken s f) base n)
          (Tbl.lowestFree s.units.encs)
        { e0 with bytes := n, base := base, reserved := encReserve e0.sizes e0.fpsNum e0.fpsDen })
        0 (ownHandle s 8 (Tbl.lowestFree s.units.encs)) (word (encReserve e0.sizes e0.fpsNum e0.fpsDen)))) ∧
    (∀ e, Begins s 0x601 c f → (hObj s [8] c.w1 (encLive s)).1 = false → getEnc s (hIndex c.w1) = some e →
      (cmdSel c = 0 → reservedBad c 0xF [full, mask 47 32, full] = false → bits c.w2 47 40 ≤ bits c.w2 39 32 →
        bits c.w2 39 32 ≤ qpLargest e.codec → capsBad c.w3 e.sLayers = false →
        exec (.encModify c) s = .next (answered s c (updEnc (taken s f) (hIndex c.w1) (fun e => { e with
          pendingQp := some (bits c.w2 47 40, bits c.w2 39 32, capsOf c.w3) })) 0 0 0)) ∧
      (cmdSel c = 1 → reservedBad c 0xF [full, mask 23 8] = false →
        (refreshBad e.codec e.sizes (bits c.w2 23 16) (bits c.w2 15 8) = true →
          exec (.encModify c) s = .next (answered s c (taken s f) 0x181 0 0)) ∧
        (refreshBad e.codec e.sizes (bits c.w2 23 16) (bits c.w2 15 8) = false →
          exec (.encModify c) s = .next (answered s c (updEnc (taken s f) (hIndex c.w1) (fun e => { e with
            pendingRefresh := some (bits c.w2 23 16, bits c.w2 15 8) })) 0 0 0))) ∧
      (cmdSel c = 2 → reservedBad c 0xF [full, full, full, full] = false →
        (∀ w ∈ [c.w2, c.w3, c.w4].take e.srcs.length, (encSrcCheck s w).1 = false) →
        srcsDiffer s (hIndex c.w1) e [c.w2, c.w3, c.w4] = false → srcSizes s e [c.w2, c.w3, c.w4] = false →
        exec (.encModify c) s = .next (answered s c (updEnc (taken s f) (hIndex c.w1) (fun x => { x with
          pendingSrcs := some ([c.w2, c.w3, c.w4].take e.srcs.length) })) 0 0 0)) ∧
      (cmdSel c = 3 → reservedBad c 0xF [full, 0xBF] = false →
        (bitAt c.w2 7 = true → noQueue s c.slot (bits c.w2 5 0) = false) →
        exec (.encModify c) s = .next (answered s c (updEnc (taken s f) (hIndex c.w1) (fun e => { e with
          eventsEn := bitAt c.w2 7, queue := bits c.w2 5 0, slot := c.slot, ring := c.ring, tag := c.tag })) 0 0 0)) ∧
      (cmdSel c = 4 → reservedBad c 0xF [full, mask 29 28 + mask 15 8] = false → bits c.w2 29 28 ≠ 3 →
        bits c.w2 15 8 ≤ 64 →
        exec (.encModify c) s = .next (answered s c (updEnc (taken s f) (hIndex c.w1) (fun e => { e with
          pendingSearch := some (bits c.w2 15 8, bits c.w2 29 28) })) 0 0 0))) ∧
    (∀ e, Begins s 0x602 c f → reservedBad c 0 [full] = false → (hObj s [8] c.w1 (encLive s)).1 = false →
      getEnc s (hIndex c.w1) = some e →
      ((∀ p, e.cur = some p → p.redo = false ∧ p.joinWait = false ∧ p.ripe.final = true) →
        exec (.encDestroy c) s = .next (begun s c f (updEnc (taken s f) (hIndex c.w1) (fun e => { e with stopping := true }))
          (.encDestroy (hIndex c.w1)))) ∧
      ((∃ p, e.cur = some p ∧ (p.redo = true ∨ p.joinWait = true ∨ p.ripe.final = false)) →
        exec (.encDestroy c) s = .next (begun s c f (cancelTasks (updEnc (taken s f) (hIndex c.w1)
          (fun e => { e with stopping := true, cur := none }))
          (fun t => decide (keyEnc (hIndex c.w1) 0 0 ≤ t.affinity) && decide (t.affinity < keyEnc (hIndex c.w1 + 1) 0 0)))
          (.encDestroy (hIndex c.w1))))) ∧
    (Begins s 0x603 c f → reservedBad c 1 [full] = false → (hObj s [8] c.w1 (encLive s)).1 = false →
      exec (.encRefresh c) s = .next (answered s c (encRequest (taken s f) (hIndex c.w1) (cmdFlag c 0)).1 0
        (word (encRequest (taken s f) (hIndex c.w1) (cmdFlag c 0)).2) 0))

/-- Encode rows (R347, R351 to R358, R364): a due picture start codes the next picture, or passes outside Active, and waits
while the picture before is coded but not final; a block row that a core has coded is taken in; at the last row deadline the
rows that no core has started become skip rows; a complete final picture is accounted and sent; a key request is merged
with one that is pending. -/
def Obligations.encodeRows : Prop :=
  ∀ (s : State), running s = true → ∀ ch e, getEnc s ch = some e →
    (now s < encStart s e e.nextNo → exec (.encPictureStart ch) s = .next s) ∧
    (encStart s e e.nextNo ≤ now s → e.fromCanvas = true →
      (∃ w ∈ e.srcs, w ≠ 0 ∧ ∃ k, getCanvas s (hIndex w) = some k ∧ canvasReached k (encStart s e e.nextNo) = false) →
      exec (.encPictureStart ch) s = .next s) ∧
    (encStart s e e.nextNo ≤ now s →
      (e.fromCanvas = true → ∀ w ∈ e.srcs, w = 0 ∨ ∃ k, getCanvas s (hIndex w) = some k ∧
        canvasReached k (encStart s e e.nextNo) = true) → e.stopping = false → e.cur = none →
      (mediaOn s = true → exec (.encPictureStart ch) s = .next (startEnc (setEnc s ch { e with nextNo := e.nextNo + 1 }) ch
        { e with nextNo := e.nextNo + 1 } (encStart s e e.nextNo))) ∧
      (mediaOn s = false → exec (.encPictureStart ch) s = .next (setEnc s ch { e with nextNo := e.nextNo + 1 }))) ∧
    (∀ p, encStart s e e.nextNo ≤ now s →
      (e.fromCanvas = true → ∀ w ∈ e.srcs, w = 0 ∨ ∃ k, getCanvas s (hIndex w) = some k ∧
        canvasReached k (encStart s e e.nextNo) = true) → e.stopping = false → e.cur = some p → mediaOn s = true →
      p.redo = false → p.joinWait = false →
      (p.segments.all (fun g => decide (g.rowsDone.length = g.rows.length)) = true →
        exec (.encPictureStart ch) s = .next s) ∧
      (p.segments.all (fun g => decide (g.rowsDone.length = g.rows.length)) = false →
        exec (.encPictureStart ch) s = .next (encCount (setEnc s ch { e with nextNo := e.nextNo + 1 }) ch 0x05 1))) ∧
    (∀ p g r id t layer segment n intra, runningWith s (keyEnc ch layer segment) = some (id, t) → e.cur = some p →
      p.segments.find? (fun g => g.layer == layer && g.seg == segment) = some g → g.next = some r → p.redo = false →
      p.joinWait = false → p.minSeq ≤ id →
      (rowsArrived s e p layer r = true →
        exec (.encBlockRow ch layer segment n intra) s = .next (rowCoded s ch e p g r n intra)) ∧
      (rowsArrived s e p layer r = false → exec (.encBlockRow ch layer segment n intra) s = .next s)) ∧
    (∀ p, e.cur = some p → p.joinWait = false → p.redo = false →
      (now s < encEmission s e p.start → exec (.encLastRowDeadline ch) s = .next s) ∧
      (encEmission s e p.start ≤ now s →
        exec (.encLastRowDeadline ch) s = .next (setEnc s ch { e with cur := some { p with
          segments := p.segments.map (skipRows s ch)
          skippedStripe := p.skippedStripe ||
            (p.segments.map (skipRows s ch)).any (fun g => !g.skips.isEmpty && stripeSkipped e p g) } }))) ∧
    (∀ p, e.cur = some p → p.joinWait = true → encEmission s e p.start ≤ now s →
      exec (.encLastRowDeadline ch) s = .next ((sourcesOf s 16 ((encInputs s e p).filterMap (fun r => r.entry))).foldl
        (fun s x => resolveEntry s x 2) s)) ∧
    (∀ p hs, e.cur = some p → p.redo = false → p.joinWait = false →
      (p.ripe.final = true → p.segments.all (fun g => decide (g.rowsDone.length = g.rows.length)) = true →
        payloadsFit e p hs = true → exec (.encPictureFinal ch hs) s = .next (settle (finishEnc s ch e p hs))) ∧
      (p.ripe.final = false → exec (.encPictureFinal ch hs) s = .next s)) ∧
    (e.keyPending = true → (encRequest s ch true).2 = 2)

/-- Audio commands (R367, R370, R388 to R393): MIX_CREATE with a good format block makes the group with its seat contexts
and reports its reservations; MIX_MODIFY leaves its change for the next period start, and changes the event queue at once;
MIX_DESTROY of a group with no bound leg ends it at its next period start; AUDIO_LEG_SET with a good binding replaces one
that waits, and waits for the next period start. -/
def Obligations.audioCommands : Prop :=
  ∀ (c : Cmd) (s : State) (f : Fetched),
    (∀ bs ws conf x, Begins s 0x700 c f →
      reservedBad c 0 [full, mask 47 46 + mask 44 12 + 0x1BF, full, full, full] = false →
      ofMember s 3 c.w1 = false → (hMay s 3 c.w1 (confNamed s)).1 = false →
      (bitAt c.w2 7 = true → noQueue s c.slot (bits c.w2 5 0) = false) → (regionCheck s c.slot c.w4).1 = false →
      regionBounds s c.slot c.w4 c.w5.toNat 48 false = false → c.w5.toNat % 64 = 0 → ws = blockWords s c.slot 8 bs →
      confOf s c.w1 = some conf → getConf s conf = some x → x.span = false →
      (∀ st, firstFail (mixChecks s c.w2 conf ws) = some st →
        exec (.mixCreate c (.bytes bs)) s = .next (answered s c (taken s f) st 0 0)) ∧
      (firstFail (mixChecks s c.w2 conf ws) = none →
        ∃ m r, m = mixOf s (cmdDesc 0x700 c) c.slot c.ring conf ws ∧ r = makeSeats (taken s f) conf m.k ∧
          exec (.mixCreate c (.bytes bs)) s = .next (answered s c (setMix r.1 (Tbl.lowestFree s.units.mixes)
              { m with seats := r.2.map (fun c => { ctx := c }), span := none })
            0 (ownHandle s 10 (Tbl.lowestFree s.units.mixes))
            (mixWord3 (setMix r.1 (Tbl.lowestFree s.units.mixes)
              { m with seats := r.2.map (fun c => { ctx := c }), span := none }) (Tbl.lowestFree s.units.mixes))))) ∧
    (∀ m, Begins s 0x701 c f → (hObj s [10] c.w1 (mixLive s)).1 = false → getMix s (hIndex c.w1) = some m →
      (∀ k, cmdSel c = 0 → reservedBad c 0xF [full, mask 44 12 + 0x100] = false → w2Bad c.w2 = false →
        k = (if bits c.w2 44 40 = 0 then 4 else bits c.w2 44 40) → k ≤ 16 →
        s.media.streams.length + (k - m.kMost) ≤ 5242880 → s.media.streams.length + (k - m.kMost) ≤ contextCapacity s →
        audFull s (k - m.kMost) (k - m.kMost) 0 = false →
        ∃ r t, r = makeSeats (taken s f) m.conf (k - m.seats.length) ∧
          t = updMix r.1 (hIndex c.w1) (fun x => { x with
            pendingW2 := some c.w2, seats := x.seats ++ r.2.map (fun c => { ctx := c }) }) ∧
          exec (.mixModify c) s = .next (answered s c t 0 0 (mixWord3 t (hIndex c.w1)))) ∧
      (cmdSel c = 1 → reservedBad c 0xF [full, 3, mask 47 20] = false → bits c.w3 47 44 ≠ 0 →
        (m.formats.getD (bits c.w2 1 0) { shared := 0, codec := 0 }).codec = bits c.w3 47 44 →
        formatCodecBad c.w3 = false → formatBad c.w3 = false →
        ∃ t, t = updMix (taken s f) (hIndex c.w1) (fun m => { m with
            pendingFormat := m.pendingFormat ++ [(bits c.w2 1 0, formatOf 0 c.w3)] }) ∧
          exec (.mixModify c) s = .next (answered s c t 0 0 (mixWord3 t (hIndex c.w1)))) ∧
      (cmdSel c = 2 → reservedBad c 0xF [full, 0xBF] = false →
        (bitAt c.w2 7 = true → noQueue s c.slot (bits c.w2 5 0) = false) →
        ∃ t, t = updMix (taken s f) (hIndex c.w1) (fun m => { m with
            pendingEvents := some (bitAt c.w2 7, bits c.w2 5 0, c.slot, c.ring, c.tag) }) ∧
          exec (.mixModify c) s = .next (answered s c t 0 0 (mixWord3 t (hIndex c.w1))))) ∧
    (Begins s 0x702 c f → reservedBad c 0 [full] = false → (hObj s [10] c.w1 (mixLive s)).1 = false →
      boundLegs s (hIndex c.w1) = [] →
      s.units.pendingBindings.any (fun p => p.2.2 == hIndex c.w1 && p.2.1.isSome) = false →
      exec (.mixDestroy c) s = .next (begun s c f (updMix (taken s f) (hIndex c.w1) (fun m => { m with ending := true }))
        (.mixDestroy (hIndex c.w1)))) ∧
    (Begins s 0x702 c f → reservedBad c 0 [full] = false → (hObj s [10] c.w1 (mixLive s)).1 = false →
      boundLegs s (hIndex c.w1) ≠ [] → exec (.mixDestroy c) s = .next (answered s c (taken s f) 0x105 0 0)) ∧
    (Begins s 0x703 c f → reservedBad c 0 [full, full, full, full, mask 47 32 + mask 25 24 + 6] = false →
      (hObj s [2] c.w1 (legLive s)).1 = false → c.w2 ≠ 0 → (hObj s [10] c.w2 (mixLive s)).1 = false →
      (c.w3 = 0 ∨ (hObj s [1] c.w3 (ctxNamed s)).1 = false) → (c.w4 = 0 ∨ (hObj s [1] c.w4 (ctxNamed s)).1 = false) →
      bindingBad s (hIndex c.w1) (bindingOf c) c = false → inboundBad s c = false →
      ((bindingOf c).always = false ∨ audFull s 1 0 0 = false) →
      (c.w3 = 0 ∨ quarantined s (hIndex c.w3) = false) → (c.w4 = 0 ∨ quarantined s (hIndex c.w4) = false) →
      ∃ t, t = completeWhere (taken s f) (fun i => decide (i.wait = .audioLeg (hIndex c.w1))) 0 1 0 ∧
        exec (.audioLegSet c) s = .next (begun s c f { t with units := { t.units with
          pendingBindings := (t.units.pendingBindings.filter (fun p => p.1 != hIndex c.w1))
            ++ [(hIndex c.w1, some (bindingOf c), hIndex c.w2)] } } (.audioLeg (hIndex c.w1)))) ∧
    (∀ b, Begins s 0x703 c f → reservedBad c 0 [full, full, full, full, mask 47 32 + mask 25 24 + 6] = false →
      (hObj s [2] c.w1 (legLive s)).1 = false → c.w2 = 0 → c.w3 = 0 → c.w4 = 0 →
      s.units.pendingBindings = [] → Tbl.get? s.units.bindings (hIndex c.w1) = some b →
      s.hci.inflight.find? (fun i => decide (i.wait = .audioLeg (hIndex c.w1))) = none →
      exec (.audioLegSet c) s = .next (begun s c f { taken s f with units := { s.units with
        pendingBindings := [(hIndex c.w1, none, b.group)] } } (.audioLeg (hIndex c.w1))))

/-- Audio rows (R371, R372, R377, R378, R384, R393, R396): a period start that is due runs its period, passes outside
Active, and ends a group that is ending; a frame that is final is sent, one later than p + T is counted late, and from the
drop instant on it is dropped; a frame of no bytes sends nothing and is remembered as a DTX gap; a limited sample stays within 24 bits; digital silence
measures 127. -/
def Obligations.audioRows : Prop :=
  (∀ (s : State) g m, running s = true → getMix s g = some m →
    (∀ xs, now s < m.startOf m.m → exec (.mixPeriodStart g xs) s = .next s) ∧
    (∀ xs, m.startOf m.m ≤ now s → mediaOn s = false →
      exec (.mixPeriodStart g xs) s = .next (updMix s g (fun m => { m with m := m.m + 1 }))) ∧
    (∀ xs, m.startOf m.m ≤ now s → mediaOn s = true → m.ending = true →
      exec (.mixPeriodStart g xs) s = .next (settle (endMix (updMix s g (fun m => { m with m := m.m + 1 })) g))) ∧
    (∀ xs, m.startOf m.m ≤ now s → mediaOn s = true → m.ending = false →
      exec (.mixPeriodStart g xs) s = .next (settle (runPeriod (applyBindings (applyParams
        (updMix s g (fun m => { m with m := m.m + 1 })) g) g) g m.m (m.startOf m.m) (downmixed xs)))) ∧
    (∀ ctx o h, m.owed.find? (fun o => o.ctx == ctx) = some o → frameFits m o.format h.bytes = true →
      (m.dropAt o.start ≤ now s →
        exec (.mixFrameFinal g ctx h) s = .next (dropFrames (setMix s g { m with owed := m.owed.erase o }) g o.m 1)) ∧
      (now s ≤ m.due o.start → now s < m.dropAt o.start → rtpPayload h.bytes = [] →
        exec (.mixFrameFinal g ctx h) s = .next (updMix (setMix s g { m with owed := m.owed.erase o }) g
          (fun m => { m with gaps := ctx :: m.gaps.erase ctx }))) ∧
      (∀ x, now s ≤ m.due o.start → now s < m.dropAt o.start → rtpPayload h.bytes ≠ [] → getCtx s ctx = some x →
        exec (.mixFrameFinal g ctx h) s = .next (settle (serveFrame (produceRec
          (updMix (setMix s g { m with owed := m.owed.erase o }) g (fun m => { m with gaps := m.gaps.erase ctx })) ctx
          (o.m * m.clockStep x.clock % 2 ^ 32) h (frameMarker m o) (some (frameLevel m o)) o.conceded) o))) ∧
      (m.due o.start < now s → now s < m.dropAt o.start → rtpPayload h.bytes = [] →
        exec (.mixFrameFinal g ctx h) s = .next (updMix (mixEvent (bumpC (mixCount
          (setMix s g { m with owed := m.owed.erase o }) g 0x01 1) (oAudCounter 1) 1) g 2 0x502 (word o.m)) g
          (fun m => { m with gaps := ctx :: m.gaps.erase ctx })))) ∧
    (∀ ctx o, m.owed.find? (fun o => o.ctx == ctx && decide (m.dropAt o.start ≤ now s)) = some o →
      exec (.mixFrameDrop g ctx) s = .next (dropFrames (setMix s g { m with owed := m.owed.erase o }) g o.m 1)) ∧
    (∀ ctx, m.owed.find? (fun o => o.ctx == ctx && decide (m.dropAt o.start ≤ now s)) = none →
      exec (.mixFrameDrop g ctx) s = .next s)) ∧
  (∀ (g : Nat) (x : Int), -8388608 ≤ (limitSample g x).1 ∧ (limitSample g x).1 ≤ 8388607) ∧
  (∀ n, measureLevel (List.replicate n 0) = 127)

/-- Tasks and cores (R402, R405, R407, R411, R493): the task that a core runs ends, or yields when it must wait, and the core asks for work; at a
new tick the due tasks leave the delay lists in order; a core that faults leaves service with a UNIT-class CORE_FAULT record,
unless it is the last of its class, whose fault is a MODULE-class error; at the end of a 100 ms window the registers of every
core and class take the window's values. -/
def Obligations.taskRows : Prop :=
  (∀ (core : Fin 152) (s : State),
    ((getCore s core).running = none → exec (.taskEnd core) s = .next (settle s) ∧
      ∀ why, exec (.taskYield core why) s = .next (settle s)) ∧
    (∀ id, (getCore s core).running = some id →
      exec (.taskEnd core) s = .next (settle (ask (removeTask (putCore (stopBusy s core) core
        { getCore (stopBusy s core) core with running := none }) id) core))) ∧
    (∀ id t why, (getCore s core).running = some id → getTask s id = some t →
      (mustYield s t.affinity why = true → exec (.taskYield core why) s = .next (settle (ask (putTask (putCore
        (stopBusy s core) core { getCore (stopBusy s core) core with running := none }) id
        { t with state := .yielded, core := none, why := some why }) core))) ∧
      (mustYield s t.affinity why = false → (getCore s core).stopped = false →
        exec (.taskYield core why) s = .next (settle s))) ∧
    ((getCore s core).out = false → 1 < (liveCores s (coreClass core)).length →
      exec (.coreFault core) s = .next (settle (coreOut (raiseUnit s
        { code := 256 * (9 + coreClass core) + 1, cls := 3, inst := core, a := word (coreClass core)
          lasts := (getCore s core).running.isSome }) core))) ∧
    ((getCore s core).out = false → (liveCores s (coreClass core)).length = 1 →
      exec (.coreFault core) s = .next (raiseUnit s
        { code := 256 * (9 + coreClass core) + 1, cls := 3, inst := core, a := word (coreClass core)
          lasts := (getCore s core).running.isSome, last := true }))) ∧
  (∀ s, tickNo s (now s) ≤ tickNo s s.sched.lastTick → exec .schedTick s = .next s) ∧
  (∀ s, tickNo s s.sched.lastTick < tickNo s (now s) → ∃ s1, exec .schedTick s = .next (askWoken
    { s1 with sched := { s1.sched with lastTick := now s } }) ∧
    s1 = (dueTasks s (tickNo s (now s) * getF s oTskCtrl 47 32 * second / 1000000000)).foldl (fun s p => tryReady s p.1) s) ∧
  (∀ s, windowNo (now s) ≤ windowNo s.sched.lastWindow → exec .tskWindowEnd s = .next s) ∧
  (∀ s, windowNo s.sched.lastWindow < windowNo (now s) → Tbl.sorted s.sched.cores = true →
    (∀ p ∈ s.sched.cores, p.1 < 152) →
    ∃ t, exec .tskWindowEnd s = .next t ∧ t.sched.lastWindow = now s ∧ t.sched.classStats = [] ∧
      t.sched.tasks = s.sched.tasks ∧ t.sched.classLists = s.sched.classLists ∧ t.memory = s.memory ∧
      (∀ c < 5, regRaw t (oTskClassWait c) = ((Tbl.get? s.sched.classStats c).getD {}).wait) ∧
      (∀ p ∈ s.sched.cores, regRaw t (oTskCoreWait p.1) = p.2.stats.wait ∧
        regRaw t (oTskCoreLoad p.1) = p.2.stats.load (now s) ∧
        Tbl.get? t.sched.cores p.1 = some { p.2 with stats := { busyFrom := p.2.stats.busyFrom.map (fun _ => now s) } }))

/-- Diagnostics (R503, R510, R559): DIAG_RUN starts the self-test of a unit that is out of service, refuses one under test
or in service with 0x108, and raises a TEST record; a self-test ends with its code, and a unit that has passed returns to
service when asked; STAT_READ returns a counter, set to 0 when asked, unless it is a gauge. -/
def Obligations.diagnostics : Prop :=
  (∀ (c : Cmd) (s : State) (f : Fetched), Begins s 0xB10 c f → [1, 2, 3, 16].contains (bits c.w1 7 0) = false →
    exec (.diagRun c) s = .next (answered s c (taken s f) 0x108 0 0)) ∧
  (∀ (c : Cmd) (s : State) (f : Fetched) (u : TestUnit), Begins s 0xB10 c f →
    reservedBad c 1 [0xFF, testMask (bits c.w1 7 0)] = false →
    (bits c.w1 7 0 = 16 → 1 ≤ bits c.w2 2 0 → bits c.w2 2 0 ≤ 4 →
      exec (.diagRun c) s = .next (answered s c (raiseErr (taken s f) { code := 0x1210, cls := bits c.w2 2 0 }) 0 0 0)) ∧
    (bits c.w1 7 0 = 16 → (bits c.w2 2 0 = 0 ∨ 4 < bits c.w2 2 0) →
      exec (.diagRun c) s = .next (answered s c (taken s f) 0x108 0 0)) ∧
    (bits c.w1 7 0 ≠ 16 → testUnit s (bits c.w1 7 0) c.w2 = none →
      exec (.diagRun c) s = .next (answered s c (taken s f) 0x108 0 0)) ∧
    (bits c.w1 7 0 ≠ 16 → testUnit s (bits c.w1 7 0) c.w2 = some u → s.err.tests.any (fun t => t.1 == u) = true →
      exec (.diagRun c) s = .next (answered s c (taken s f) 0x108 0 0)) ∧
    (bits c.w1 7 0 ≠ 16 → testUnit s (bits c.w1 7 0) c.w2 = some u → s.err.tests.any (fun t => t.1 == u) = false →
      exec (.diagRun c) s = .next (begun s c f { taken s f with err := { s.err with
        tests := s.err.tests ++ [(u, now s + durMs (testMs u))] } } (.selfTest u (cmdFlag c 0))))) ∧
  (∀ (u : TestUnit) (r : BitVec 2) (s : State),
    (s.err.tests.any (fun t => t.1 == u && decide (t.2 ≤ now s)) = false → exec (.selfTestDone u r) s = .next s) ∧
    (s.err.tests.any (fun t => t.1 == u && decide (t.2 ≤ now s)) = true →
      ∀ s1, s1 = { s with err := { s.err with tests := s.err.tests.filter (fun t => t.1 != u) } } →
      ((∃ i ∈ s.hci.inflight, i.wait = .selfTest u true) → r = 0 → exec (.selfTestDone u r) s =
        .next (completeWhere (unitReturns s1 u) (fun i => i.wait = .selfTest u true || i.wait = .selfTest u false) 0 0 0)) ∧
      (((∀ i ∈ s.hci.inflight, i.wait ≠ .selfTest u true) ∨ r ≠ 0) → exec (.selfTestDone u r) s =
        .next (completeWhere s1 (fun i => i.wait = .selfTest u true || i.wait = .selfTest u false) 0 (word r.toNat) 0)))) ∧
  (∀ (s : State),
    (∀ e, unitReturns s (.engine e) = raiseErr (setEngine s e { getEngine s e with out := false })
      { code := 0x1202, cls := 1, inst := e }) ∧
    (∀ l, unitReturns s (.lane l) = raiseErr (setF (setLane s l { getLane s l with failed := false })
      (oCipLaneFail (l / 32)) (l % 32) (l % 32) 0) { code := 0x1202, cls := 1, inst := l, a := word (2 ^ 16) }) ∧
    (∀ k, unitReturns s (.core k) = raiseErr (ask (putCore s k { getCore s k with out := false }) k)
      { code := 0x1202, cls := 1, inst := k, a := word (2 * 2 ^ 16) })) ∧
  (∀ (c : Cmd) (s : State) (f : Fetched) (v : Nat) (gauge : Bool), Begins s 0xB00 c f →
    reservedBad c 0 [full, 0x1FF] = false → (hObj s [6, 7, 8, 10] c.w1 (statLive s (hType c.w1))).1 = false →
    statCounter s (hType c.w1) (hIndex c.w1) (bits c.w2 7 0) = some (v, gauge) →
    exec (.statRead c) s = .next (answered s c
      (if bitAt c.w2 8 && !gauge then statClear (taken s f) (hType c.w1) (hIndex c.w1) (bits c.w2 7 0) else taken s f)
      0 (word v) 0))

/-- DMA commands (R421, R423, R424): a DMA_SUBMIT that passes every check is queued on the channel that it names, or on the
enabled SUBMIT channel that is open to its slot and has the fewest queued transfers, and waits for its transfer; with no such
channel, or 64 transfers queued there, it ends with 0x208; DMA_CANCEL stops the connection's own transfers and says how many;
DMA_QUERY reports the channel. -/
def Obligations.dmaCommands : Prop :=
  ∀ (c : Cmd) (s : State) (f : Fetched),
    (∀ x ch, Begins s 0x800 c f → reservedBad c 3 [mask 47 12 + 0xFF, full, full, full, full, full, full] = false →
      x = shapeOf c.w1 c.w2 c.w3 c.w4 c.w5 c.w6 → noRegion s c.slot x.src = false → noRegion s c.slot x.dst = false →
      ch = (if bits c.w1 7 0 = 0 then chooseChannel s c.slot else some (bits c.w1 7 0)) →
      (bits c.w1 7 0 = 0 ∨ submitOpen s c.slot (bits c.w1 7 0) = true) → x.opBad = false → x.sizeBad = false →
      sideSelBad s x true = false → sideSelBad s x false = false → hostSideBad s c.slot x true = false →
      hostSideBad s c.slot x false = false → x.alignBad = false → x.overlapBad = false → moduleSideBad s x true = false →
      moduleSideBad s x false = false → peerOutside s x = false → regionLeaving s c.slot x.src = false →
      regionLeaving s c.slot x.dst = false →
      (∀ k, ch = some k → chQueued s k < 64 → exec (.dmaSubmit c) s = .next (begun s c f
        (reachHead (updChan (setXfer { taken s f with dma := { s.dma with nextId := s.dma.nextId + 1 } } s.dma.nextId
          { ch := k, shape := x, slot := c.slot, cmd := some s.dma.nextId, fence := cmdFlag c 0
            armAt := if cmdFlag c 1 then some (deadlineAt (nearest (now s) c.w7)) else none })
          k (fun c => { c with xfers := c.xfers ++ [s.dma.nextId] })) k) (.dma s.dma.nextId))) ∧
      ((ch = none ∨ ∃ k, ch = some k ∧ 64 ≤ chQueued s k) →
        exec (.dmaSubmit c) s = .next (answered s c (taken s f) 0x208 0 0))) ∧
    (Begins s 0x801 c f → reservedBad c 0 [0xFF] = false → chClass s (bits c.w1 7 0) = 1 →
      exec (.dmaCancel c) s = .next (answered s c
        (((chXfers s (bits c.w1 7 0)).filter (fun p => p.2.slot == (c.slot : Nat) && p.2.cmd.isSome)).foldl
          (fun s p => cancelXfer s p.1 p.2) (taken s f)) 0
        (word ((chXfers s (bits c.w1 7 0)).filter (fun p => p.2.slot == (c.slot : Nat) && p.2.cmd.isSome)).length) 0)) ∧
    (Begins s 0x802 c f → reservedBad c 0 [0xFF] = false → (chClass s (bits c.w1 7 0) = 1 ∨ chClass s (bits c.w1 7 0) = 2) →
      exec (.dmaQuery c) s = .next (answered s c (taken s f) 0
        (word ((getChan s (bits c.w1 7 0)).generation * 2 ^ 24 + chFlying s (bits c.w1 7 0) * 2 ^ 19
          + chQueued s (bits c.w1 7 0))) (word (getChan s (bits c.w1 7 0)).bytes)))

/-- Channels (R414, R432, R433, R434): a commit that breaks a rule leaves the set and says why; an accepted one makes the
pending set active, leaves nothing pending and adds 1 to GENERATION, after an arming instant of the old schedule that has come has
fired; a write of DMA_CHn_CFG for a control channel, with class
0b11, or with a new class while EN is 1, is refused, and clearing EN discards pending triggers. -/
def Obligations.dmaChannels : Prop :=
  ∀ (ch : Fin 256) (s : State), setupOpen s = true → s.power.st ≠ .windfall →
    (commitResult s ch ≠ 1 → exec (.dmaChCommit ch) s = .next (emit (setRaw s oDmaChCommitStatus
      (word (commitResult s ch * 2 ^ 8 + ch))) (.itemStatus .refused))) ∧
    (commitResult s ch = 1 → 8 ≤ (ch : Nat) → ∃ u t, u = fireArm s ch ∧ exec (.dmaChCommit ch) s = .next t ∧
      t.out = u.out ++ [.itemStatus .ok] ∧
      regRaw t oDmaChCommitStatus = word (2 ^ 8 + ch) ∧ (∀ o ∈ setRegs ch, regRaw t o = pendVal u o ∧
        Tbl.get? t.shadow o = none) ∧ (getChan t ch).generation = ((getChan u ch).generation + 1) % 2 ^ 24 ∧
      (∀ k, k ≠ (ch : Nat) → getChan t k = getChan u k) ∧ t.dma.xfers = u.dma.xfers ∧ t.memory = u.memory) ∧
    ((∀ j, (getChan s ch).armK = some j → now s < gridAt s ch j 0) → fireArm s ch = s) ∧
    (∀ v : Word, ((ch : Nat) < 8 ∨ bits v 19 18 = 3 ∨
        (bitAt (regRaw s (oDmaChCfg ch)) 17 = true ∧ bits v 19 18 ≠ bits (regRaw s (oDmaChCfg ch)) 19 18)) →
      exec (.dmaChannelEnable ch v) s = .next (emit s (.itemStatus .refused))) ∧
    (∀ v : Word, 8 ≤ (ch : Nat) → bits v 19 18 ≠ 3 → bitAt (regRaw s (oDmaChCfg ch)) 17 = true →
      bits v 19 18 = bits (regRaw s (oDmaChCfg ch)) 19 18 →
      (bitAt v 17 = true → exec (.dmaChannelEnable ch v) s = .next (emit (setRaw s (oDmaChCfg ch)
        (word (bits v 21 8 * 2 ^ 8 + bits v 5 0))) (.itemStatus .ok))) ∧
      (bitAt v 17 = false → exec (.dmaChannelEnable ch v) s = .next (emit (updChan (setRaw s (oDmaChCfg ch)
        (word (bits v 21 8 * 2 ^ 8 + bits v 5 0))) ch (fun c => { c with
          pendingTrig := 0, heldReq := 0, armK := none, windowOpen := false, windowK := none })) (.itemStatus .ok)))) ∧
    (∀ v : Word, 8 ≤ (ch : Nat) → bits v 19 18 ≠ 3 → bitAt (regRaw s (oDmaChCfg ch)) 17 = false → bitAt v 17 = false →
      exec (.dmaChannelEnable ch v) s = .next (emit (setRaw s (oDmaChCfg ch)
        (word (bits v 21 8 * 2 ^ 8 + bits v 5 0))) (.itemStatus .ok)))

/-- Transfers and triggers (R422, R423, R425, R426, R428 to R430, R436): the head of a channel starts when its arming time
has come, fewer than four transfers are in flight and no fence stands; a transfer from module memory moves its granted lines, other transfers' units of 4 KiB before and between its own as PRIO has it,
waits while a page that it reaches is held, fails on a poisoned unit, and completes with the last; a host access that fails ends it with its status; an
arming instant, a request and the edges of a window act on the channels that they name, and none acts before it is due. -/
def Obligations.dmaTransfers : Prop :=
  ∀ (s : State), running s = true →
    (∀ (ch : Fin 256) p, (chXfers s ch).find? (fun p => p.2.queued) = some p → chEn s ch = true →
      (p.2.armAt = none ∨ ∃ t, p.2.armAt = some t ∧ t ≤ now s) →
      ((chXfers s ch).filter (fun p => !p.2.queued)).length < 4 →
      ((chXfers s ch).filter (fun p => !p.2.queued)).any (fun q => q.2.fence) = false →
      (p.2.fence = false ∨ (chXfers s ch).filter (fun p => !p.2.queued) = []) →
      exec (.dmaTransferStart ch) s = .next (settle (reachHead (grantLines (setXfer s p.1 { p.2 with state := .moving })
        p.1 p.2.shape.lines) ch))) ∧
    (∀ (ch : Fin 256) p t, (chXfers s ch).find? (fun p => p.2.queued) = some p → p.2.armAt = some t → now s < t →
      exec (.dmaTransferStart ch) s = .next s) ∧
    (∀ id x host, getXfer s id = some x → x.state ≠ .queued →
      (x.shape.src.kind = 0 → exec (.dmaTransferDone id host) s = .next (stopped (serveXfer s id) id)) ∧
      (∀ i, x.shape.src.kind = 0 → canMove s x = false → x.line = none → x.ready.head? = some i →
        (lineHeld s x.shape i = true → exec (.dmaTransferDone id host) s = .next (reachPages s id x)) ∧
        (∀ u, lineHeld s x.shape i = false → poisonOf s x i = some u →
          exec (.dmaTransferDone id host) s = .next (endXfer (uncorrectable s u) id 0x401 false))) ∧
      (x.shape.src.kind = 0 → x.ready = [] → x.line = none →
        exec (.dmaTransferDone id host) s = .next (finishXfer s id)) ∧
      (∀ bs, x.shape.src.kind = 1 → (x.granted - x.linesDone) * x.shape.length ≤ bs.length →
        exec (.dmaTransferDone id (.bytes bs)) s =
          .next (stopped (serveXfer (setXfer s id { x with hostBytes := bs }) id) id)) ∧
      (x.shape.src.kind = 1 → exec (.dmaTransferDone id .denied) s = .next (endXfer s id 0x301 false) ∧
        exec (.dmaTransferDone id .timeout) s = .next (endXfer s id 0x404 false)) ∧
      (∀ cause n, causeFits x cause = true → cause ≠ .memory →
        exec (.dmaTransferError id cause n) s =
          .next (endXfer (movePrefix s id (min (n - x.written) x.bytesLeft)) id (causeStatus cause) false))) ∧
    (∀ id n x ch, getXfer s id = some x → canMove s x = true → nextChannel s = some ch →
      serveUntil s id (n + 1) = serveUntil (serveChannel s ch) id n ∧
      (∀ c, 8 ≤ c → c < 256 → (chNext s c).isSome = true → getF s (oDmaChCfg c) 21 20 ≤ getF s (oDmaChCfg ch) 21 20)) ∧
    (∀ ch id x, chNext s ch = some id → getXfer s id = some x → ∃ t, t = moveBytes s id x.moveFuel 4096 ∧
      serveChannel s ch = { t with dma := { t.dma with turns := t.dma.turns.set (getF s (oDmaChCfg ch) 21 20) ch } }) ∧
    (∀ (ch : Fin 256), progRuns s ch = true →
      (∀ j, (getChan s ch).armK = some j →
        (gridAt s ch j 0 ≤ now s → exec (.dmaArmTrigger ch) s = .next (settle (fireTrigger (updChan s ch (fun c => { c with
          armK := if chPeriodUs s ch = 0 then none else some (j + 1) })) ch (some (gridAt s ch j 0))))) ∧
        (now s < gridAt s ch j 0 → exec (.dmaArmTrigger ch) s = .next s)) ∧
      (∀ j, (getChan s ch).windowK = some j →
        ((getChan s ch).windowOpen = false → gridAt s ch j (chOpenUs s ch) ≤ now s → exec (.dmaWindowOpen ch) s =
          .next (settle (takeHeld (setChan s ch { getChan s ch with windowOpen := true, heldReq := 0 }) ch
            (getChan s ch).heldReq))) ∧
        (now s < gridAt s ch j (chOpenUs s ch) → exec (.dmaWindowOpen ch) s = .next s) ∧
        ((getChan s ch).windowOpen = true → gridAt s ch j (chCloseUs s ch) ≤ now s → (getChan s ch).xfers = [] →
          exec (.dmaWindowClose ch) s = .next (settle (setChan s ch { getChan s ch with
            windowOpen := false, windowK := some (j + 1), pendingTrig := 0 }))) ∧
        (∀ id x, (getChan s ch).windowOpen = true → gridAt s ch j (chCloseUs s ch) ≤ now s →
          (getChan s ch).xfers = [id] → getXfer s id = some x → x.linesDone < x.shape.lines →
          exec (.dmaWindowClose ch) s = .next (settle (endXfer (setChan s ch { getChan s ch with
            windowOpen := false, windowK := some (j + 1), pendingTrig := 0 }) id 0x502 false))) ∧
        (now s < gridAt s ch j (chCloseUs s ch) → exec (.dmaWindowClose ch) s = .next s))) ∧
    (∀ src obj, (reqExists s src obj = false → exec (.dmaRequest src obj) s = .next s) ∧
      (reqExists s src obj = true → s.power.st = .active →
        exec (.dmaRequest src obj) s = .next (settle ((reqChannels s src obj).foldl channelRequest s))) ∧
      (s.power.st = .quiet → src ≠ .ppsIn → exec (.dmaRequest src obj) s = .next s))

/-- Memory and the Preserve, commands (R440, R457 to R459): PRESERVE_EXPORT copies the selected held records to module memory
or to the host and reports bytes, records and what is left; it ends with 0x1C0 where nothing held answers; PRESERVE_QUERY and
MEM_QUERY return what their tables state and change nothing, but for a free value where the manual states no size (assumption
43). -/
def Obligations.memoryCommands : Prop :=
  ∀ (c : Cmd) (s : State) (f : Fetched),
    (∀ x host to_ sel, Begins s 0x900 c f → reservedBad c 3 [full, full, full, full, full, 0xFFFFFFFF] = false →
      (hObj s [1] c.w1 (ctxNamed s)).1 = false → getCtx s (hIndex c.w1) = some x → (x.kind = 1 ∨ x.kind = 5) →
      (c.w4 = 0 ∨ (regionCheck s c.slot c.w4).1 = false) → bits c.w6 31 0 ≠ 0 → (cmdFlag c 1 && cmdFlag c 0) = false →
      to_ = min (deadlineAt (nearest (now s) c.w3)) (now s) →
      sel = (fun fr : Nat => (ownRecs s (hIndex c.w1)).filter (fun r => decide (t48 r.time ≤ t48 to_)
        && (if cmdFlag c 1 then decide (fr < r.pos) else decide (t48 fr ≤ t48 r.time)))) →
      ((x.quarantined = false → c.w4 = 0 → c.w5.toNat % 64 = 0 →
          exportFrom s x (cmdFlag c 1) (cmdFlag c 0) c.w2 to_ = none → insideAny s (endpointRegions false) c.w5.toNat
            0 = true →
          exec (.preserveExport c host) s = .next (answered s c (taken s f) 0x1C0 0 0)) ∧
       (∀ fr r, x.quarantined = false → exportFrom s x (cmdFlag c 1) (cmdFlag c 0) c.w2 to_ = some fr →
          r = exportRecs (taken s f) (bits c.w6 31 0) (sel fr) {} → c.w5.toNat % 64 = 0 →
          (c.w4 = 0 → insideAny s (endpointRegions false) c.w5.toNat r.2.bytes.length = true →
            exec (.preserveExport c host) s = .next (answered s c
              (dramWrite (prsCount r.1 pExportBytes r.2.bytes.length) c.w5.toNat r.2.bytes) 0 (word r.2.bytes.length)
              (word (b2n r.2.more * 2 ^ 47 + r.2.taken % 2 ^ 23 * 2 ^ 24 + r.2.skipped % 2 ^ 24)))) ∧
          (∀ bs, c.w4 ≠ 0 → regionBounds s c.slot c.w4 c.w5.toNat r.2.bytes.length true = false →
            exec (.preserveExport c (.bytes bs)) s = .next (answered s c
              (regionWrite (prsCount r.1 pExportBytes r.2.bytes.length) c.slot (hIndex c.w4 % 1024) c.w5.toNat r.2.bytes)
              0 (word r.2.bytes.length)
              (word (b2n r.2.more * 2 ^ 47 + r.2.taken % 2 ^ 23 * 2 ^ 24 + r.2.skipped % 2 ^ 24))))))) ∧
    (∀ x, Begins s 0x901 c f → (hObj s [1] c.w1 (ctxNamed s)).1 = false → getCtx s (hIndex c.w1) = some x →
      x.quarantined = false → reservedBad c 0 [full, 0x1FFF] = false →
      (bits c.w2 7 0 = 0 → exec (.preserveQuery c) s = .next (answered s c (taken s f) 0
        (((ownRecs s (hIndex c.w1)).head?.map (fun r => bt48 r.time)).getD 0)
        (((ownRecs s (hIndex c.w1)).getLast?.map (fun r => bt48 r.time)).getD 0))) ∧
      (bits c.w2 7 0 = 1 → (∀ p, (heldRefreshes s x)[bits c.w2 12 8]? = some p →
          exec (.preserveQuery c) s = .next (answered s c (taken s f) 0 (bt48 p.time) (word p.pos))) ∧
        ((heldRefreshes s x)[bits c.w2 12 8]? = none →
          exec (.preserveQuery c) s = .next (answered s c (taken s f) 0x1C0 0 0))) ∧
      (bits c.w2 7 0 = 2 → exec (.preserveQuery c) s =
        .next (answered s c (taken s f) 0 (word (heldRefreshes s x).length) 0))) ∧
    (Begins s 0x901 c f → bits c.w2 7 0 = 3 → reservedBad c 0 [0, 0x1FFF] = false →
      exec (.preserveQuery c) s = .next (answered s c (taken s f) 0
        ((s.memory.recs.head?.map (fun r => bt48 r.time)).getD 0) (word s.memory.writePos))) ∧
    (Begins s 0x901 c f → 3 < bits c.w2 7 0 → exec (.preserveQuery c) s = .next (answered s c (taken s f) 0x108 0 0)) ∧
    (Begins s 0x902 c f → reservedBad c 0 [0xFF] = false →
      (bits c.w1 7 0 ≤ 0x10 → exec (.memQuery c) s = .next (answered s c (taken s f) 0
        (word (getF s (oMemCorr (bits c.w1 7 0)) 47 16))
        (word (getF s (oMemCorr (bits c.w1 7 0)) 15 0 * 2 ^ 32 + stackState s (bits c.w1 7 0) * 2 ^ 28
          + Tbl.count s.memory.uncorrectable (bits c.w1 7 0))))) ∧
      (0x20 ≤ bits c.w1 7 0 → bits c.w1 7 0 ≤ 0x2A →
        (useOpen s (bits c.w1 7 0 - 0x20) = false → exec (.memQuery c) s = .next (answered s c (taken s f) 0
          (word (regionUse s (bits c.w1 7 0 - 0x20))) (word (regionAt s (bits c.w1 7 0 - 0x20)).2))) ∧
        (useOpen s (bits c.w1 7 0 - 0x20) = true → exec (.memQuery c) s = .next (answered s c (nextFree (taken s f)) 0
          (freeVal s 48) (word (regionAt s (bits c.w1 7 0 - 0x20)).2)))) ∧
      ((0x10 < bits c.w1 7 0 ∧ bits c.w1 7 0 < 0x20 ∨ 0x2A < bits c.w1 7 0) →
        exec (.memQuery c) s = .next (answered s c (taken s f) 0x108 0 0)))

/-- Memory rows (R179, R441 to R443, R446): SPARE_GO starts the copy of a stack in service to an idle spare and is refused
otherwise; after the copy the spare is in use, MRAM records it and SPARING_DONE is raised; the patrol moves on by one unit and
wraps at the end of memory; a partition commit is refused outside Quiet and with a bad sum or Preserve size, and an accepted
one, applied, puts the pending words into effect, empties a resized Preserve and leaves nothing pending. -/
def Obligations.memoryRows : Prop :=
  (∀ (k : Fin 32) (s : State), setupOpen s = true → s.power.st ≠ .windfall →
    (s.memory.spare = .idle → (k : Nat) < 16 → exec (.spareGo k) s = .next (emit { s with memory := { s.memory with
      spare := .copying, spared := k, copyPct := 0, copyStart := now s } } (.itemStatus .ok))) ∧
    ((s.memory.spare ≠ .idle ∨ 16 ≤ (k : Nat)) → exec (.spareGo k) s = .next (emit s (.itemStatus .refused)))) ∧
  (∀ (s : State),
    (s.memory.spare ≠ .copying ∨ now s < s.memory.copyStart + copyDur → exec .sparingDone s = .next s) ∧
    (s.memory.spare = .copying → s.memory.copyStart + copyDur ≤ now s → mramWritable s = true →
      exec .sparingDone s = .next (raiseErr { s with
        memory := { s.memory with spare := .inUse, copyPct := 100 }
        mram := { s.mram with spared := some s.memory.spared } } { code := 0x0F03, cls := 1, inst := s.memory.spared }))) ∧
  (∀ (s : State) found, (getF s oMemCtrl 31 24 = 0 ∨ running s = false → exec (.scrubRead found) s = .next s)) ∧
  (∀ (s : State), getF s oMemCtrl 31 24 ≠ 0 → running s = true →
    (s.memory.patrol + 64 < 2 ^ 41 →
      exec (.scrubRead .clean) s = .next { s with memory := { s.memory with patrol := s.memory.patrol + 64 } } ∧
      ∀ die, ∃ t, exec (.scrubRead (.corrected die)) s = .next t ∧ t.memory.patrol = s.memory.patrol + 64 ∧
        t.memory.dram = s.memory.dram ∧ t.memory.poison = s.memory.poison) ∧
    (2 ^ 41 ≤ s.memory.patrol + 64 → exec (.scrubRead .clean) s =
      .next (bumpF { s with memory := { s.memory with patrol := 0 } } oMemCount 15 0 1)) ∧
    (regionOfAddr s s.memory.patrol = 9 → ∃ t, exec (.scrubRead .uncorrectable) s = .next t ∧
      s.memory.patrol ∈ t.memory.poison ∧ t.memory.dram = s.memory.dram ∧ t.err = s.err)) ∧
  (∀ (s : State), setupOpen s = true → s.power.st ≠ .windfall →
    (s.oxvan.partApplying = true → exec .partCommit s =
      .next (emit { s with oxvan := { s.oxvan with partResult := 6 } } (.itemStatus .refused))) ∧
    (s.oxvan.partApplying = false → (s.power.st ≠ .quiet ∨ s.power.target ≠ none) → exec .partCommit s =
      .next (emit { s with oxvan := { s.oxvan with partResult := 2 } } (.itemStatus .refused))) ∧
    (s.oxvan.partApplying = false → s.power.st = .quiet → s.power.target = none → 42 < bits (partVal s oGlbPartC) 5 0 →
      exec .partCommit s = .next (emit { s with oxvan := { s.oxvan with partResult := 4 } } (.itemStatus .refused))) ∧
    (s.oxvan.partApplying = false → s.power.st = .quiet → s.power.target = none → bits (partVal s oGlbPartC) 5 0 ≤ 42 →
      preserveBase (partVal s oGlbPartC) <
        (partSizes (partVal s oGlbPartA) (partVal s oGlbPartB) (partVal s oGlbPartC)).sum → exec .partCommit s =
      .next (emit { s with oxvan := { s.oxvan with partResult := 3 } } (.itemStatus .refused))) ∧
    (s.oxvan.partApplying = false → s.power.st = .quiet → s.power.target = none → bits (partVal s oGlbPartC) 5 0 ≤ 42 →
      (partSizes (partVal s oGlbPartA) (partVal s oGlbPartB) (partVal s oGlbPartC)).sum ≤
        preserveBase (partVal s oGlbPartC) →
      (partBroken s (partRegions (partVal s oGlbPartA) (partVal s oGlbPartB) (partVal s oGlbPartC)) = true →
        exec .partCommit s = .next (emit { s with oxvan := { s.oxvan with partResult := 5 } } (.itemStatus .refused))) ∧
      (partBroken s (partRegions (partVal s oGlbPartA) (partVal s oGlbPartB) (partVal s oGlbPartC)) = false →
        exec .partCommit s = .next (emit { s with oxvan := { s.oxvan with partResult := 7, partApplying := true } }
          (.itemStatus .ok))))) ∧
  (∀ (s : State), (s.oxvan.partApplying = false → exec .partApplied s = .next s) ∧
    (s.oxvan.partApplying = true → ∃ t, exec .partApplied s = .next t ∧ t.oxvan.partResult = 1 ∧
      t.oxvan.partApplying = false ∧
      (∀ o ∈ [oGlbPartA, oGlbPartB, oGlbPartC], regRaw t o = partVal s o ∧ Tbl.get? t.shadow o = none) ∧
      (∀ o, o ≠ oGlbPartA → o ≠ oGlbPartB → o ≠ oGlbPartC → regRaw t o = regRaw s o) ∧
      t.memory.writePos = s.memory.writePos ∧
      (preserveSize (partVal s oGlbPartC) ≠ preserveSize (regRaw s oGlbPartC) → t.memory.recs = [] ∧
        ∀ p ∈ t.media.streams, p.2.refreshes = [] ∧ p.2.switchPts = []) ∧
      (preserveSize (partVal s oGlbPartC) = preserveSize (regRaw s oGlbPartC) →
        t.memory.recs = s.memory.recs ∧ t.media = s.media)))

/-- A Grinal frame of a kind with a good CRC arrives on a link that is up at a module of an enabled bramble member. -/
def Arrives (s : State) (f : GrnFrame) (kind : Nat) (anyone : Bool) : Prop :=
  grnActive s = true ∧ (getGrnPort s (b2n f.west)).link = true ∧ f.kind.toNat = kind ∧ f.crcOk = true ∧
  grnBad s f anyone = false

/-- It is a unicast frame for this member; or a broadcast of another member that this one has not taken yet. -/
def ForHere (s : State) (f : GrnFrame) (kind : Nat) : Prop :=
  Arrives s f kind false ∧ f.bcast = false ∧ f.dst.toNat = grnId s
def ForAll (s : State) (f : GrnFrame) (kind : Nat) (anyone : Bool) : Prop :=
  Arrives s f kind anyone ∧ f.bcast = true ∧ f.src.toNat ≠ grnId s ∧ grnSeen s f kind = none

/-- The rows of frames that pass on from member to member, with their kinds. -/
def passRows : List (Nat × (GrnFrame → RtpFacts → Instr)) :=
  [(2, fun f h => .media f h), (3, fun f _ => .partialMix f), (4, fun f _ => .rankReport f), (5, fun f _ => .seatDecision f),
   (7, fun f _ => .dmaWrite f), (9, fun f _ => .dmaData f), (10, fun f _ => .ack f)]

/-- The state once a frame for this member has been counted, and once a broadcast has been counted, passed on and noted. -/
def counted (s : State) (f : GrnFrame) : State := grnPortCount s (b2n f.west) gRx 1
def spread (s : State) (f : GrnFrame) (kind : Nat) : State := grnNote (grnPass (counted s f) f) f kind 0 []

/-- The state once an acked frame has been answered with a status and a record on top of `s1`. -/
def acked (s1 : State) (f : GrnFrame) (kind status : Nat) (record : List Byte) : State :=
  sendAck (grnNote s1 f kind status record) f.src.toNat kind f.seq.toNat status record

/-- Grinal frames and links (R463 to R467): a bad CRC is counted as such; a frame that breaks a rule is counted and dropped;
a unicast frame for another member is passed on; a row changes nothing for a frame of another row's kind; HELLO leaves every 2 µs and a received one is taken in; a link that comes up
or is absent changes the port, an enabled member wraps it, and the wrap ends after 1 ms; an acked frame without its ACK is
sent again or ends with 0x403. -/
def Obligations.grinalLinks : Prop :=
  (∀ (s : State) (f : GrnFrame) (age : Nat), running s = true → (getGrnPort s (b2n f.west)).link = true →
    (f.crcOk = false → ∀ e ∈ passRows ++ [(1, fun f _ => .beacon f), (0, fun f _ => .hello f age)],
      (f.kind.toNat = e.1 ∨ 10 < f.kind.toNat) → ∀ h,
      exec (e.2 f h) s = .next (grnPortCount s (b2n f.west) gCrcErr 1)) ∧
    (∀ e ∈ passRows ++ [(1, fun f _ => .beacon f), (0, fun f _ => .hello f age)], f.kind.toNat ≠ e.1 → f.kind.toNat ≤ 10 → ∀ h,
      exec (e.2 f h) s = .next s) ∧
    (f.crcOk = true → grnBad s f false = true → ∀ e ∈ passRows, (f.kind.toNat = e.1 ∨ 10 < f.kind.toNat) → ∀ h,
      exec (e.2 f h) s = .next (grnPortCount (counted s f) (b2n f.west) gDropped 1)) ∧
    (∀ e ∈ passRows, Arrives s f e.1 false → f.bcast = false → f.dst.toNat ≠ grnId s → ∀ h,
      exec (e.2 f h) s = .next (grnPass (counted s f) f))) ∧
  (∀ (s : State) (west : Bool), running s = true → (getGrnPort s (b2n west)).link = true →
    (now s < (getGrnPort s (b2n west)).lastHelloSent + durUs 2 → exec (.helloSend west) s = .next s) ∧
    ((getGrnPort s (b2n west)).lastHelloSent + durUs 2 ≤ now s → ∃ t, exec (.helloSend west) s = .next t ∧
      (getGrnPort t (b2n west)).lastHelloSent = now s ∧
      (getGrnPort t (b2n west)).helloTx = bt96Frac (grnTxStamp s (b2n west)) ∧
      (getGrnPort t (b2n west)).helloTxSeq = nextSeqOfKind s 0 ∧ nextSeqOfKind t 0 = (nextSeqOfKind s 0 + 1) % 2 ^ 24 ∧
      t.out.length = s.out.length + 1)) ∧
  (∀ (s : State) (f : GrnFrame) (age : Nat) (r : Word), running s = true → (getGrnPort s (b2n f.west)).link = true → f.crcOk = true →
    f.kind = 0 → grnBad s f true = false → r = bt96Frac (grnRxStamp s (b2n f.west) age) → exec (.hello f age) s = .next (updGrnPort (counted s f) (b2n f.west) (fun g => { g with
      delays := if leNat ((f.payload.drop 6).take 6) / 2 ^ 24 = g.helloTxSeq then
        (helloDelay g.helloTx f.a f.b r :: g.delays).take 16 else g.delays
      lastHello := now s
      helloRx := r
      helloSeq := f.seq.toNat
      neighbour := leNat ((f.payload.drop 6).take 6) % 16
      neighbourValid := leNat ((f.payload.drop 6).take 6) / 64 % 2 == 1
      neighbourMac := word (leNat (f.payload.take 6))
      presentSince := if leNat ((f.payload.drop 6).take 6) / 64 % 2 == 1 then some (g.presentSince.getD (now s)) else none }))) ∧
  (∀ (s : State) (west : Bool),
    (grnPowered s (b2n west) = true → (getGrnPort s (b2n west)).plug = 2 → (getGrnPort s (b2n west)).link = false →
      exec (.grinalLinkUp west) s = .next (setGrnPort s (b2n west) { getGrnPort s (b2n west) with
        link := true, linkUpAt := now s, lastHello := now s, delays := [], presentSince := none })) ∧
    (running s = true → (getGrnPort s (b2n west)).link = true → helloAbsent s (getGrnPort s (b2n west)) = false →
      exec (.grinalLinkAbsent west false) s = .next s) ∧
    (grnActive s = true → (getGrnPort s (b2n west)).wrapped = false → exec (.grinalLinkAbsent west true) s =
      .next (brambleEvent (grnPortCount (updGrnPort (grnLinkOff s (b2n west)) (b2n west) (fun g => { g with wrapped := true }))
        (b2n west) gWraps 1) 2 (word (2 + b2n west)) 8)) ∧
    (∀ t, (getGrnPort s (b2n west)).presentSince = some t →
      (now s < t + durMs 1 → exec (.unwrap west) s = .next s) ∧
      (running s = true → (getGrnPort s (b2n west)).wrapped = true → (getGrnPort s (b2n west)).link = true →
        t + durMs 1 ≤ now s → helloAbsent s (getGrnPort s (b2n west)) = false → exec (.unwrap west) s =
          .next (brambleEvent (setGrnPort s (b2n west) { getGrnPort s (b2n west) with wrapped := false }) 3
            (word (2 + b2n west)) 8)))) ∧
  (∀ (s : State) (q : BitVec 24) (u : Unacked), running s = true →
    s.grn.unacked.find? (fun u => u.seq == q.toNat && decide (now s ≥ u.due)) = some u →
    (getF s oGrnTimers 3 0 ≤ u.resends →
      exec (.ackTimeout q) s = .next (unackedEnd (grnCount s gPeerTimeouts 1) u 0x403)) ∧
    (u.resends < getF s oGrnTimers 3 0 → ∃ t, exec (.ackTimeout q) s = .next t ∧ t.out.length = s.out.length + 1 ∧
      t.grn.unacked = s.grn.unacked.map (fun x => if x = u then
        { x with resends := x.resends + 1, due := now s + durUs (getF s oGrnTimers 15 4) } else x)))

/-- Roster, roles and bramble time (R469 to R474, R488 to R490): GRN_CFG starts and ends membership and is refused where its
register says; a JOIN is heard, or refused with 0x105 when it clashes at the master; the master's beacon leaves once per
BEACON_US and adds the members that it has heard; a member without a JOIN for LOSS_MS is removed; a member without beacons is
detached, or takes over as acting backup with more than half of the roster; a beacon of another master at a higher-numbered
master is a conflict; RECLAIM acts only at a configured master that joined as backup; BRAMBLE_QUERY reports and subscribes. -/
def Obligations.rosterRows : Prop :=
  (∀ (s : State) (v : Word), setupOpen s = true → s.power.st ≠ .windfall →
    ((bits v 5 4 = 3 ∨ (bitAt (regRaw s oGrnCfg) 6 = true ∧ bits v 5 0 ≠ bits (regRaw s oGrnCfg) 5 0)) →
      exec (.grnEnable v) s = .next (emit s (.itemStatus .refused))) ∧
    (bits v 5 4 ≠ 3 → bitAt v 7 = false → bitAt (regRaw s oGrnCfg) 6 = false → bitAt v 6 = true →
      exec (.grnEnable v) s = .next (emit (joinStart (setRaw s oGrnCfg (v &&& word 0x7F))) (.itemStatus .ok))) ∧
    (bits v 5 4 ≠ 3 → bitAt v 7 = false → bitAt (regRaw s oGrnCfg) 6 = true → bits v 5 0 = bits (regRaw s oGrnCfg) 5 0 →
      bitAt v 6 = false →
      exec (.grnEnable v) s = .next (emit (leaveBramble (setRaw s oGrnCfg (v &&& word 0x7F))) (.itemStatus .ok))) ∧
    (grnActive s = true → grnRole s = 1 → s.grn.asBackup = true → s.grn.state = .member → exec .reclaim s =
      .next (emit { s with grn := { s.grn with reclaiming := true } } (.itemStatus .ok))) ∧
    (s.grn.asBackup = false → exec .reclaim s = .next (emit s (.itemStatus .ok)))) ∧
  (∀ (s : State) (f : GrnFrame) (mac : Word) (w : Word), ForAll s f 6 true → peerOp f = 0xA86 → w = peerWord f 1 →
    (s.grn.state = .master → joinClash s (bits w 3 0) mac = true → exec (.join f mac) s =
      .next (conflict (sendAck (spread s f 6) (bits w 3 0) 6 f.seq.toNat 0x105 []) 0)) ∧
    ((s.grn.state ≠ .master ∨ joinClash s (bits w 3 0) mac = false) → ∃ t, exec (.join f mac) s = .next t ∧
      Tbl.get? t.grn.heard (bits w 3 0) = some (now s) ∧ Tbl.get? t.grn.macs (bits w 3 0) = some mac ∧
      Tbl.get? t.grn.roles (bits w 3 0) = some (bits w 5 4) ∧ t.grn.roster = s.grn.roster ∧
      t.grn.epoch = s.grn.epoch)) ∧
  (∀ (s : State), grnActive s = true →
    (s.grn.state = .master → beaconNo s (now s) ≤ beaconNo s s.grn.lastBeaconSent → exec .beaconSend s = .next s) ∧
    (s.grn.state = .master → beaconNo s s.grn.lastBeaconSent < beaconNo s (now s) → s.grn.acting = false →
      ((members s.grn.roster).length ≤ 2 * ((members s.grn.roster).filter (heardNow s).contains).length →
        exec .beaconSend s = .next (sendBeacon
          (if rosterMask (members s.grn.roster ++ heardNow s) = s.grn.roster then s
           else setRoster s (rosterMask (members s.grn.roster ++ heardNow s)) (grnId s) (s.grn.epoch + 1) true) (grnId s))) ∧
      (2 * ((members s.grn.roster).filter (heardNow s).contains).length < (members s.grn.roster).length →
        exec .beaconSend s = .next { s with grn := { s.grn with state := .detached } })) ∧
    (s.grn.state = .member → exec .beaconSend s = .next s) ∧
    ((s.grn.state = .joining ∨ s.grn.state = .member ∨ s.grn.state = .detached) → s.grn.beacons > 0 →
      (now s < s.grn.lastJoin + durMs 10 → exec .joinRepeat s = .next s) ∧
      (s.grn.lastJoin + durMs 10 ≤ now s → ∃ t, exec .joinRepeat s = .next t ∧ t.grn.lastJoin = now s ∧
        t.out.length = s.out.length + 1)) ∧
    (∀ m : Fin 16, s.grn.state = .master → inRoster s m = true → (m : Nat) ≠ grnId s →
      (now s < (Tbl.get? s.grn.heard m).getD 0 + lossDur s → exec (.memberLoss m) s = .next s) ∧
      ((Tbl.get? s.grn.heard m).getD 0 + lossDur s ≤ now s → ∃ t, exec (.memberLoss m) s = .next t ∧
        t.grn.epoch = (s.grn.epoch + 1) % 2 ^ 24 ∧ t.grn.master = grnId s ∧
        t.grn.roster = rosterMask ((members s.grn.roster).filter (fun x => x != (m : Nat))))) ∧
    ((s.grn.state = .member ∨ s.grn.state = .detached) →
      (now s < s.grn.lastBeacon + lossDur s → exec .beaconLoss s = .next s) ∧
      (s.grn.lastBeacon + lossDur s ≤ now s → s.grn.backup ≠ some (grnId s) →
        exec .beaconLoss s = .next { s with grn := { s.grn with state := .detached } }) ∧
      (s.grn.lastBeacon + lossDur s ≤ now s → s.grn.backup = some (grnId s) →
        2 * (heardNow s).length ≤ (members s.grn.roster).length →
        exec .beaconLoss s = .next { s with grn := { s.grn with state := .detached } }) ∧
      (s.grn.lastBeacon + lossDur s ≤ now s → s.grn.backup = some (grnId s) →
        (members s.grn.roster).length < 2 * (heardNow s).length →
        ∃ t, exec .beaconLoss s = .next t ∧ t.grn.state = .master ∧ t.grn.acting = true ∧ t.grn.master = grnId s ∧
          t.grn.epoch = (s.grn.epoch + 1) % 2 ^ 24 ∧ t.grn.roster = rosterMask (heardNow s))) ∧
    (∀ f : GrnFrame, Arrives s f 1 true → f.src.toNat ≠ grnId s → grnSeen s f 1 = none → s.grn.state = .master →
      f.src.toNat < grnId s → ∃ t, exec (.beacon f) s = .next t ∧ t.grn.state = .conflict) ∧
    (∀ f : GrnFrame, Arrives s f 1 true → f.src.toNat ≠ grnId s → grnSeen s f 1 = none →
      (s.grn.state = .joining ∨ s.grn.state = .member ∨ s.grn.state = .detached) → s.grn.reclaiming = false →
      (members (bits f.a 47 32)).contains (grnId s) = true →
      ∃ t, exec (.beacon f) s = .next t ∧ t.grn.state = .member ∧ t.grn.roster = bits f.a 47 32 ∧
        t.grn.master = bits f.a 31 28 ∧ t.grn.epoch = f.epoch.toNat ∧ t.grn.lastBeacon = now s ∧
        t.grn.beacons = s.grn.beacons + 1)) ∧
  (∀ (c : Cmd) (s : State) (f : Fetched), Begins s 0xA00 c f →
    (bits c.w1 7 0 = 0 → reservedBad c 0 [0xFF] = false → inBramble s = true →
      exec (.brambleQuery c) s = .next (answered s c (taken s f) 0 (word (s.grn.roster * 2 ^ 32 + s.grn.master * 2 ^ 28
        + s.grn.backup.getD 0 * 2 ^ 24 + b2n s.grn.backup.isSome * 2 ^ 23 + grnId s)) (word s.grn.epoch))) ∧
    (bits c.w1 7 0 = 1 → reservedBad c 0 [0xFF, 1] = false → inBramble s = true →
      exec (.brambleQuery c) s = .next (answered s c (taken s f) 0 (word (getGrnPort s (bits c.w2 0 0)).delayPs)
        (word (b2n (getGrnPort s (bits c.w2 0 0)).neighbourValid * 16 + (getGrnPort s (bits c.w2 0 0)).neighbour)))) ∧
    (bits c.w1 7 0 = 2 → reservedBad c 0 [0xFF, 0x7F] = false → inBramble s = true →
      (bitAt c.w2 6 = true → noQueue s c.slot (bits c.w2 5 0) = false) →
      exec (.brambleQuery c) s = .next (answered s c (setSlot (taken s f) c.slot { getSlot s c.slot with
        brambleSub := if bitAt c.w2 6 then some { queue := bits c.w2 5 0, mask := 0, tag := c.tag, ring := c.ring } else none })
        0 0 0)) ∧
    (2 < bits c.w1 7 0 → exec (.brambleQuery c) s = .next (answered s c (taken s f) 0x108 0 0)) ∧
    (bits c.w1 7 0 = 0 → reservedBad c 0 [0xFF] = false → inBramble s = false →
      exec (.brambleQuery c) s = .next (answered s c (taken s f) 0x1D0 0 0)))

/-- The rows of peer messages to one member, with their opcodes. -/
def peerOps : List (Nat × (GrnFrame → Instr)) :=
  [(0xA80, .confAttach), (0xA81, .confDetach), (0xA82, .streamSubscribe), (0xA83, .keyPictureRequest),
   (0xA84, .preserveFetch), (0xA85, .mixJoin)]

/-- Peer messages and peer DMA (R476 to R479, R486, R487): each message to this member acts once on the object that it names,
answers 0x104 for one that is not there and 0x100 for an opcode that is none, and is acked with its record; a duplicate is acked again with the same answer; a
peer's write lands in the regions of R419 or is refused with 0x1A2 and writes nothing; a peer's read is answered with the
bytes; arriving data goes to its transfer; an ACK ends its frame's operation. -/
def Obligations.peerRows : Prop :=
  (∀ (s : State) (f : GrnFrame), ForHere s f 6 →
    (∀ e ∈ peerOps, peerOp f = e.1 → ∀ a, grnSeen s f 6 = some a →
      exec (e.2 f) s = .next (settle (sendAck (counted s f) f.src.toNat 6 f.seq.toNat a.1 a.2))) ∧
    (∀ e ∈ peerOps, (peerOp f < 0xA80 ∨ 0xA86 < peerOp f) → grnSeen s f 6 = none →
      exec (e.2 f) s = .next (settle (acked (counted s f) f 6 0x100 (peerRecord (counted s f) f 0x100 0)))) ∧
    (∀ e ∈ peerOps, peerOp f ≠ e.1 → 0xA80 ≤ peerOp f → peerOp f ≤ 0xA86 → exec (e.2 f) s = .next s) ∧
    (grnSeen s f 6 = none →
      (∀ n c, ownNamed s 3 (peerWord f 1) (confNamed s) = some n → getConf s n = some c →
        (peerOp f = 0xA80 → c.span = true →
          exec (.confAttach f) s = .next (settle (acked { counted s f with media := { s.media with
            confs := Tbl.put s.media.confs n { c with attached := if c.attached.contains f.src.toNat then c.attached
              else c.attached ++ [f.src.toNat] } } } f 6 0 (peerRecord (counted s f) f 0 0)))) ∧
        (peerOp f = 0xA80 → c.span = false → exec (.confAttach f) s =
          .next (settle (acked (counted s f) f 6 0x108 (peerRecord (counted s f) f 0x108 0)))) ∧
        (peerOp f = 0xA81 → exec (.confDetach f) s = .next (settle (acked { counted s f with media := { s.media with
          confs := Tbl.put s.media.confs n { c with
            attached := c.attached.filter (fun x => x != f.src.toNat)
            joined := c.joined.filter (fun x => x != f.src.toNat) } } } f 6 0 (peerRecord (counted s f) f 0 0)))) ∧
        (∀ j, j = joinHome (counted s f) n f.src.toNat (peerWord f 2) (peerWord f 3) → peerOp f = 0xA85 →
          exec (.mixJoin f) s = .next (settle (acked j.1 f 6 j.2 (peerRecord j.1 f j.2 0))))) ∧
      (ownNamed s 3 (peerWord f 1) (confNamed s) = none →
        ∀ e ∈ [(0xA80, Instr.confAttach), (0xA81, .confDetach), (0xA85, .mixJoin)], peerOp f = e.1 →
        exec (e.2 f) s = .next (settle (acked (counted s f) f 6 0x104 (peerRecord (counted s f) f 0x104 0)))) ∧
      (ownNamed s 1 (peerWord f 1) (sourceNamed s) = none →
        ∀ e ∈ [(0xA82, Instr.streamSubscribe), (0xA83, .keyPictureRequest), (0xA84, .preserveFetch)], peerOp f = e.1 →
        exec (e.2 f) s = .next (settle (acked (counted s f) f 6 0x104 (peerRecord (counted s f) f 0x104 0)))) ∧
      (∀ c, ownNamed s 1 (peerWord f 1) (sourceNamed s) = some c →
        (∀ j, j = streamSubscribe (counted s f) f.src.toNat (peerWord f 1) (peerWord f 2) → peerOp f = 0xA82 →
          exec (.streamSubscribe f) s = .next (settle (acked j.1 f 6 j.2.1 (peerRecord j.1 f j.2.1 j.2.2)))) ∧
        (∀ s1, s1 = keyRequest (counted s f) c (peerFlags f % 2 == 1) → peerOp f = 0xA83 →
          exec (.keyPictureRequest f) s = .next (settle (acked s1 f 6 0 (peerRecord s1 f 0 0)))) ∧
        (peerOp f = 0xA84 → (bits (peerWord f 3) 6 0 = 0 ∨ 64 < bits (peerWord f 3) 6 0) → exec (.preserveFetch f) s =
          .next (settle (acked (counted s f) f 6 0x108 (peerRecord (counted s f) f 0x108 0)))) ∧
        (∀ r, r = fetchFor (counted s f) f.src.toNat c (peerWord f 2).toNat (bits (peerWord f 3) 6 0) → peerOp f = 0xA84 →
          1 ≤ bits (peerWord f 3) 6 0 → bits (peerWord f 3) 6 0 ≤ 64 → exec (.preserveFetch f) s =
            .next (settle (acked r.1 f 6 0 (peerRecord r.1 f 0 (word r.2)))))))) ∧
  (∀ (s : State) (f : GrnFrame),
    (ForHere s f 7 → grnSeen s f 7 = none →
      (insideAny s (endpointRegions false) f.a.toNat f.payload.length = true → exec (.dmaWrite f) s =
        .next (acked (dramWrite (counted s f) f.a.toNat f.payload) f 7 0 [])) ∧
      (insideAny s (endpointRegions false) f.a.toNat f.payload.length = false → exec (.dmaWrite f) s =
        .next (acked (counted s f) f 7 0x1A2 []))) ∧
    (ForHere s f 8 → grnSeen s f 8 = none →
      (1 ≤ bits f.b 13 0 → bits f.b 13 0 ≤ 8192 → insideAny s (endpointRegions true) f.a.toNat (bits f.b 13 0) = true →
        heldBy s f.a.toNat (bits f.b 13 0) = [] → exec (.dmaRead f) s = .next (settle (acked (sendData (counted s f)
          { member := f.src.toNat, addr := f.a.toNat, len := bits f.b 13 0, number := bits f.b 47 24 }) f 8 0 []))) ∧
      ((bits f.b 13 0 = 0 ∨ 8192 < bits f.b 13 0 ∨ insideAny s (endpointRegions true) f.a.toNat (bits f.b 13 0) = false) →
        exec (.dmaRead f) s = .next (settle (acked (counted s f) f 8 0x1A2 [])))) ∧
    (ForHere s f 9 → ∀ id x, s.dma.xfers.find? (fun p => p.1 % 2 ^ 24 == bits f.b 47 24 && p.2.shape.src.kind == 2
        && p.2.shape.src.sel % 16 == f.src.toNat) = some (id, x) → exec (.dmaData f) s =
      .next (setXfer (counted s f) id { x with
        got := writeBytes x.got f.a.toNat f.payload
        gotBytes := x.gotBytes + f.payload.length
        conceded := x.conceded || f.conceded })) ∧
    (ForHere s f 10 → ∀ u, s.grn.unacked.find? (fun u => u.kind == bits f.a 47 44 && u.seq == bits f.a 23 0 && u.dst == f.src.toNat) = some u →
      u.kind ≠ 6 → exec (.ack f) s = .next (unackedEnd (grnCount (counted s f) gFetchGone 0) u (bits f.b 11 0))))

/-- Spanning streams and speaker decisions (R479 to R484): a mirror's packet is stored with its arrival time unless it is
held already; numbers missing for 2 ms are fetched; a partial sum is held for its period; a report reaches the master's
merge; a member applies its master's decisions; the master merges once per period and broadcasts its decision; a prediction
without a decision by T/4 before its boundary is dropped; the mixes of a period are built once every sum is there or its time
is up. -/
def Obligations.spanningRows : Prop :=
  (∀ (s : State) (f : GrnFrame) (h : RtpFacts), ForHere s f 2 →
    (mediaOn s = false ∨ mirrorFor s f.a = none → exec (.media f h) s = .next (counted s f)) ∧
    (∀ c x, mediaOn s = true → mirrorFor s f.a = some c → getCtx s c = some x →
      (heldAlready s c x f.b.toNat = true → exec (.media f h) s = .next (counted s f)) ∧
      (∀ y, heldAlready s c x f.b.toNat = false →
        getCtx (ctxCount (ctxCount (counted s f) c 0x00 1) c 0x01 f.payload.length) c = some y →
        exec (.media f h) s = .next (settle (storePacket
          (ctxCount (ctxCount (counted s f) c 0x00 1) c 0x01 f.payload.length) c y (now s)
          f.b.toNat (8 * plainFrame f.payload.length) { h with bytes := f.payload } f.conceded))))) ∧
  (∀ (s : State) (f : GrnFrame), ForHere s f 4 →
    (s.grn.state = .master → exec (.rankReport f) s = .next (takeReport (counted s f) (bits f.a 17 0) (bits f.a 23 19)
      (bits f.a 47 40) (bits f.a 39 32) (bits f.a 31 24) f.src.toNat f.b.toNat (reportsOf f.payload))) ∧
    (s.grn.state ≠ .master → exec (.rankReport f) s = .next (counted s f))) ∧
  (∀ (s : State) (c : Nat) (x : Machine.Stream) (h : Word), getCtx s c = some x → x.mirrorOf = some h →
    ((∀ m ∈ x.missing, m.nacks ≠ 0 ∨ now s < m.seenAt + durMs 2) → exec (.mirrorGapTimeout c) s = .next s) ∧
    (∀ m, x.missing = [m] → m.nacks = 0 → m.seenAt + durMs 2 ≤ now s → mediaOn s = true →
      grnActive s = true → inRoster s (hMember h) = true → exec (.mirrorGapTimeout c) s =
        .next (peerSend (grnCount (updCtx s c (fun x => { x with missing := x.missing.map (fun k =>
          if decide (m.seq ≤ k.seq) && decide (k.seq < m.seq + 1) then { k with nacks := 1, lastNack := now s } else k) }))
          gMirrorGaps 1) (hMember h) 0xA84 0 h (word m.seq) (word 1) none).1)) ∧
  (∀ (s : State) (f : GrnFrame), ForAll s f 3 false → mediaOn s = true → ∀ g m,
    spanGroups s (bits f.a 17 0) = [(g, m)] → m.m ≤ f.b.toNat + 2 →
    m.partials.any (fun q => q.1 == f.src.toNat && q.2.1 == f.b.toNat) = false →
    ∃ t, exec (.partialMix f) s = .next t ∧ t = updMix (spread s f 3) g (fun m => { m with
      partials := m.partials ++ [(f.src.toNat, f.b.toNat, f.conceded, samplesOf f.payload)] })) ∧
  (∀ (s : State) (f : GrnFrame), ForAll s f 5 false →
    (s.grn.state = .member → f.src.toNat = s.grn.master → exec (.seatDecision f) s =
      .next (settle (decide_ (spread s f 5) (bits f.a 17 0) f.b.toNat (bytesWords (f.payload.length / 6) f.payload)))) ∧
    ((s.grn.state ≠ .member ∨ f.src.toNat ≠ s.grn.master) → exec (.seatDecision f) s = .next (spread s f 5))) ∧
  (∀ (s : State) (g : Nat) (x : Merge), Tbl.get? s.grn.merges g = some x →
    (x.merged = true ∨ mergeDue s g x = false ∨ s.grn.state ≠ .master → exec (.seatMerge g) s = .next s) ∧
    (x.merged = false → mergeDue s g x = true → s.grn.state = .master → grnActive s = true →
      ∃ x2 ws, exec (.seatMerge g) s = .next (settle (decide_ (grnSend { s with grn := { s.grn with
          merges := Tbl.put s.grn.merges g x2 } } 5 0 true false (word g) (word (x.m + 1)) (wordBytes ws)).1 g (x.m + 1) ws)) ∧
        x2.merged = true ∧ x2.m = x.m ∧ x2.reports = x.reports ∧ ws.length ≤ x.k + 3)) ∧
  (∀ (s : State) (g : Nat) (m : Mix), getMix s g = some m →
    (∀ w e, m.span = some w → m.prediction = some e →
      (now s + m.period / 4 < m.startOf e.boundary → exec (.decisionMissing g) s = .next s) ∧
      (running s = true → m.startOf e.boundary ≤ now s + m.period / 4 → m.decision = none →
        exec (.decisionMissing g) s = .next (settle (dropPrediction s g)))) ∧
    (∀ n p seats rest, m.building = (n, p, seats) :: rest → mediaOn s = true →
      (now s < m.startOf (n + 1) → exec (.partialMixDeadline g) s = .next s) ∧
      (m.startOf (n + 1) + m.period / 4 ≤ now s → m.startOf (n + 1) ≤ now s →
        exec (.partialMixDeadline g) s = .next (settle (buildSpan s g m n p seats)))))

/-- Ring commands with their opcode and the flags and operand bits that they use: a set bit outside is a reserved one. -/
def plainRows : List (Nat × (Cmd → Instr) × Nat × List Nat) :=
  [(0x000, .nop, 0, []), (0x001, .ringCreate, 0, [full, 2 ^ 38 - 1, 0x3F]), (0x002, .ringDestroy, 0, [full]),
   (0x003, .cqCreate, 0, [full, 2 ^ 38 - 1]), (0x004, .cqDestroy, 0, [full]), (0x005, .regionAdd, 0, [full, 2 ^ 34 - 1, full]),
   (0x006, .regionRemove, 0, [full]), (0x007, .windowOpen, 0, [full, full, 3]), (0x008, .windowClose, 0, [full]),
   (0x009, .barrier, 0, []), (0x00A, .connInfo, 0, []), (0x100, .timeRead, 0, []), (0x101, .timeSetIncr, 0, [full]),
   (0x102, .timeStep, 1, [full, full]), (0x103, .timeSubscribe, 0, [0x3F, 0x1FF]), (0x104, .timePathAck, 0, [0xF]),
   (0x200, .confCreate, 0, [0x7F, 1]), (0x201, .confDestroy, 0, [full]), (0x212, .streamDestroy, 0, [full]),
   (0x213, .streamQuery, 0, [full, 0x1FF]), (0x222, .legDestroy, 0, [full]), (0x230, .meterSet, 0, [full, full, full, 7]),
   (0x301, .keyRetire, 0, [full, 3]), (0x302, .keyQuery, 0, [full, 0x1FF]), (0x402, .decDestroy, 0, [full]),
   (0x502, .canvasDestroy, 0, [full]), (0x602, .encDestroy, 0, [full]), (0x603, .encRefresh, 1, [full]),
   (0x702, .mixDestroy, 0, [full]), (0x801, .dmaCancel, 0, [0xFF]), (0x802, .dmaQuery, 0, [0xFF]),
   (0xB00, .statRead, 0, [full, 0x1FF]), (0xB20, .statRipeness, 0, [full])]

/-- The stages of a ring command (R135, R136, R147, R555): one whose descriptor is not fetched, or that an earlier one still
holds back, does nothing (the model's choice, assumption 5); one that begins while the module is not in service ends with
0x106, and one with a reserved flag or operand bit set ends with 0x101, and neither has an effect beyond its record. -/
def Obligations.commandStages : Prop :=
  ∀ r ∈ plainRows, ∀ (c : Cmd) (s : State),
    (findFetched s r.1 c = none → exec (r.2.1 c) s = .next s) ∧
    (∀ f, findFetched s r.1 c = some f → eligible s f = false → exec (r.2.1 c) s = .next s) ∧
    (∀ f, findFetched s r.1 c = some f → eligible s f = true → running s = false →
      exec (r.2.1 c) s = .next (answered s c (taken s f) 0x106 0 0)) ∧
    (∀ f, Begins s r.1 c f → reservedBad c r.2.2.1 r.2.2.2 = true →
      exec (r.2.1 c) s = .next (answered s c (taken s f) 0x101 0 0))

/-- What a record and its queue leave alone: time, registers, memory, ports, tasks, transfers, errors, the bramble, power,
security and MRAM, and the queue of commands. Of the registers HCI_COUNT may move: a record can be the last for which a
slot's closing waited, and a request that waited for the slot is then refused and counted (R121). -/
def SameModule (s t : State) : Prop :=
  t.pending = s.pending ∧ (∀ o, o ≠ oHciCount → regRaw t o = regRaw s o) ∧ t.shadow = s.shadow ∧ t.time = s.time ∧ t.spec = s.spec ∧ t.oxvan = s.oxvan ∧
  t.mac0 = s.mac0 ∧ t.mac1 = s.mac1 ∧ t.mgmt = s.mgmt ∧ t.sched = s.sched ∧ t.dma = s.dma ∧ t.memory = s.memory ∧
  t.grn = s.grn ∧ t.err = s.err ∧ t.power = s.power ∧ t.sec = s.sec ∧ t.mram = s.mram

/-- Commands about the host's own objects and those that only report, with their opcodes. -/
def hostRows : List (Cmd → Instr) :=
  [.nop, .ringCreate, .ringDestroy, .cqCreate, .cqDestroy, .regionAdd, .regionRemove, .windowOpen, .windowClose, .barrier,
   .connInfo, .timeRead, .timeSubscribe, .keyQuery, .memQuery, .dmaQuery, .preserveQuery, .brambleQuery]

/-- The frame of the host's own objects and of the queries (R139, R147): each runs, and whatever it answers, it leaves
time, every register but HCI_COUNT, every byte of memory, the ports, the tasks, the transfers, the errors, the bramble,
power, security and MRAM as they were; HCI_COUNT too where no request waits for a closing slot. The frame of rows that store nothing in memory: links, HELLO, JOIN and beacons of the
bramble, the tick and the windows of the tasks, the end of sparing, a clean scrub read, a backoff's end, a saved
profile, RECLAIM and a partition commit leave every byte of memory. -/
def Obligations.hostRowsFrame : Prop :=
  (∀ r ∈ hostRows, ∀ (c : Cmd) (s : State), ∃ t, exec (r c) s = .next t ∧ SameModule s t ∧
     ((∀ n, ∀ mra, (getSlot s n).phase ≠ .closing (some mra)) → t.regs = s.regs) ∧
     ∀ a, readByte t.memory.dram a = readByte s.memory.dram a) ∧
  (∀ (s : State), ∀ e ∈ [Instr.grinalLinkUp true, .grinalLinkUp false, .grinalLinkAbsent true true, .unwrap true, .unwrap false,
       .helloSend true, .helloSend false, .joinRepeat, .beaconSend, .beaconLoss, .schedTick, .tskWindowEnd, .sparingDone,
       .scrubRead .clean, .mgmtBackoffExpiry, .profileSaveDone, .reclaim, .partCommit], ∃ t, exec e s = .next t ∧
     ∀ a, readByte t.memory.dram a = readByte s.memory.dram a)

/-- Memory in its canonical form (R440, R486): what is written is read back, every byte outside the written ones is unchanged,
the canonical form is kept, and a unit that is wholly written is poisoned no more; a peer's write, once taken, changes those
bytes and no others, and a refused one changes none. -/
def Obligations.memoryBytes : Prop :=
  (∀ (s : State) (a b : Nat) (bs : List Byte), s.MemInv →
    (a ≤ b → b < a + bs.length → readByte (dramWrite s a bs).memory.dram b = bs.getD (b - a) 0) ∧
    ((b < a ∨ a + bs.length ≤ b) → readByte (dramWrite s a bs).memory.dram b = readByte s.memory.dram b) ∧
    (dramWrite s a bs).MemInv ∧
    (a ≤ b → b + 64 ≤ a + bs.length → b ∉ (dramWrite s a bs).memory.poison) ∧
    (b ∈ (dramWrite s a bs).memory.poison → b ∈ s.memory.poison)) ∧
  (∀ m1 m2 : List Host.Cell, memWf m1 = true → memWf m2 = true → (∀ a, readByte m1 a = readByte m2 a) → m1 = m2) ∧
  (∀ (s : State) (f : GrnFrame), s.MemInv → ForHere s f 7 → grnSeen s f 7 = none →
    ∃ t, exec (.dmaWrite f) s = .next t ∧
      (insideAny s (endpointRegions false) f.a.toNat f.payload.length = true → ∀ b,
        (f.a.toNat ≤ b → b < f.a.toNat + f.payload.length →
          readByte t.memory.dram b = f.payload.getD (b - f.a.toNat) 0) ∧
        ((b < f.a.toNat ∨ f.a.toNat + f.payload.length ≤ b) → readByte t.memory.dram b = readByte s.memory.dram b)) ∧
      (insideAny s (endpointRegions false) f.a.toNat f.payload.length = false → t.memory = s.memory))

/-- Right after reset INCR is one that R49 accepts, and memory is in its canonical form. -/
def Obligations.resetIsGood : Prop := State.reset.IncrInv ∧ State.reset.MemInv

/-- In every state where INCR is one that R49 accepts, every command and every idle step leaves such an INCR: no start, wake,
profile, steering or release puts another into effect. -/
def Obligations.incrStaysGood : Prop :=
  ∀ s t : State, s.IncrInv → step s = .next t → t.IncrInv

/-- Every step keeps memory in its canonical form: addresses strictly rising, no byte listed that an unlisted one reads as. -/
def Obligations.memoryStaysGood : Prop :=
  ∀ s t : State, s.MemInv → step s = .next t → t.MemInv

/-- Every command, whatever its operands and the state, runs to a next state (no row of the table ends in a fault or a refusal:
what a rule turns away is answered in State), and no command adds to the queue or takes from it. So commands run in the
order of the queue: a step takes the front command and leaves the rest, and an idle step leaves the queue empty. -/
def Obligations.queueOrder : Prop :=
  (∀ (c : Instr) (s : State), ∃ t, exec c s = .next t ∧ t.pending = s.pending) ∧
  (∀ (s t : State) (c : Instr) (rest : List Instr), s.pending = c :: rest → step s = .next t → t.pending = rest) ∧
  (∀ s t : State, s.pending = [] → step s = .next t → t.pending = [])
end

