-- ==== Sys2Proof/Laws/Memory.lean ====
section
/-! SUPPORT. Laws of module memory: what is written is read back, no other byte changes, and every operation that writes
keeps the canonical form. -/

namespace Sys2Proof.Machine

/-- The canonical form, said of the head: it lists no zero byte, and every later address lies above it. -/
theorem memWf_cons (p : Host.Cell) (m : List Host.Cell) :
    memWf (p :: m) = true ↔ p.2 ≠ 0 ∧ (∀ q ∈ m, p.1 < q.1) ∧ memWf m = true := by
  induction m generalizing p with
  | nil => simp [memWf]
  | cons q m ih =>
    have hq := ih q
    simp only [memWf, Bool.and_eq_true, bne_iff_ne, decide_eq_true_eq] at *
    constructor
    · rintro ⟨⟨a, b⟩, c⟩
      refine ⟨a, fun r hr => ?_, c⟩
      rcases List.mem_cons.1 hr with rfl | hr
      · exact b
      · exact Nat.lt_trans b ((hq.1 c).2.1 r hr)
    · rintro ⟨a, b, c⟩
      exact ⟨⟨a, b q (by simp)⟩, c⟩

/-- An address below every listed one reads as an unlisted byte. -/
theorem readByte_below (m : List Host.Cell) (a : Nat) (h : ∀ q ∈ m, a < q.1) : readByte m a = 0 := by
  induction m with
  | nil => rfl
  | cons q m ih =>
    have : q.1 ≠ a := by have := h q (by simp); omega
    simp only [readByte, if_neg this]
    exact ih (fun r hr => h r (by simp [hr]))

/-- Every entry that a write of one byte leaves was there before or is the byte. -/
theorem mem_writeByte (m : List Host.Cell) (a : Nat) (b : Byte) : ∀ q ∈ writeByte m a b, q ∈ m ∨ q = (a, b) := by
  induction m with
  | nil => intro q hq; simp only [writeByte] at hq; split at hq <;> simp_all
  | cons p m ih =>
    intro q hq
    simp only [writeByte] at hq
    split at hq
    · split at hq <;> simp_all; tauto
    · split at hq
      · split at hq <;> simp_all; tauto
      · rcases List.mem_cons.1 hq with rfl | hq
        · simp
        · rcases ih q hq with h | h <;> simp [h]

/-- A write of one byte keeps the canonical form. -/
theorem memWf_writeByte (m : List Host.Cell) (a : Nat) (b : Byte) (h : memWf m = true) :
    memWf (writeByte m a b) = true := by
  induction m with
  | nil => simp only [writeByte]; split <;> simp_all [memWf]
  | cons p m ih =>
    have hp := (memWf_cons p m).1 h
    simp only [writeByte]
    split
    · split
      · exact h
      · refine (memWf_cons _ _).2 ⟨by simpa, fun q hq => ?_, h⟩
        rcases List.mem_cons.1 hq with rfl | hq
        · assumption
        · exact Nat.lt_trans (by assumption) (hp.2.1 q hq)
    · split
      · split
        · exact hp.2.2
        · refine (memWf_cons _ _).2 ⟨by simpa, fun q hq => ?_, hp.2.2⟩
          have := hp.2.1 q hq
          simp_all
      · refine (memWf_cons _ _).2 ⟨hp.1, fun q hq => ?_, ih hp.2.2⟩
        rcases mem_writeByte m a b q hq with h1 | h1
        · exact hp.2.1 q h1
        · subst h1; simp only; omega

/-- Reading one byte after a write of one byte. -/
theorem readByte_writeByte (m : List Host.Cell) (a c : Nat) (b : Byte) (h : memWf m = true) :
    readByte (writeByte m a b) c = if c = a then b else readByte m c := by
  induction m with
  | nil =>
    simp only [writeByte]
    split
    · simp [readByte, *]
    · simp only [readByte, eq_comm]
  | cons p m ih =>
    have hp := (memWf_cons p m).1 h
    have ih := ih hp.2.2
    have below : a ≤ p.1 → readByte m a = 0 := fun h2 =>
      readByte_below m a (fun q hq => Nat.lt_of_le_of_lt h2 (hp.2.1 q hq))
    simp only [writeByte]
    split
    · split
      · by_cases hc : c = a
        · subst hc
          have : p.1 ≠ c := by omega
          simp [readByte, this, below (by omega), *]
        · simp [hc]
      · by_cases hc : a = c
        · simp [readByte, hc]
        · simp [readByte, hc, Ne.symm hc]
    · split
      · split
        · by_cases hc : c = a
          · subst hc
            have hb := below (by omega)
            simp_all
          · have : p.1 ≠ c := by omega
            simp [readByte, hc, this]
        · by_cases hc : a = c
          · simp [readByte, hc]
          · have : p.1 ≠ c := by omega
            simp [readByte, hc, Ne.symm hc, this]
      · by_cases hc : p.1 = c
        · have : c ≠ a := by omega
          simp [readByte, hc, this]
        · simp [readByte, hc, ih]

theorem memWf_writeBytes (m : List Host.Cell) (a : Nat) (bs : List Byte) (h : memWf m = true) :
    memWf (writeBytes m a bs) = true := by
  induction bs generalizing m a with
  | nil => exact h
  | cons b bs ih => exact ih _ _ (memWf_writeByte m a b h)

theorem memWf_writeLines (m : List Host.Cell) (p : Planes) (y : Nat) (ls : List (List Word)) (h : memWf m = true) :
    memWf (writeLines m p y ls) = true := by
  fun_induction writeLines m p y ls with
  | case1 => exact h
  | case2 => exact memWf_writeBytes _ _ _ h
  | case3 m y a b rest hp m1 ih => exact ih (memWf_writeBytes _ _ _ (memWf_writeBytes _ _ _ h))
  | case4 m y a b rest hp m1 m2 ih =>
    exact ih (memWf_writeBytes _ _ _ (memWf_writeBytes _ _ _ (memWf_writeBytes _ _ _ h)))

theorem memWf_filter (m : List Host.Cell) (f : Host.Cell → Bool) (h : memWf m = true) : memWf (m.filter f) = true := by
  induction m with
  | nil => rfl
  | cons p m ih =>
    have hp := (memWf_cons p m).1 h
    simp only [List.filter_cons]
    split
    · exact (memWf_cons _ _).2 ⟨hp.1, fun q hq => hp.2.1 q (List.mem_of_mem_filter hq), ih hp.2.2⟩
    · exact ih hp.2.2

theorem memWf_holdCopy (m : List Host.Cell) (matrix : Nat) (full : Bool) (l : Layer) (r : LayerSrc) (h : HoldImage)
    (hm : memWf m = true) : memWf (holdCopy m matrix full l r h).1 = true := by
  simp only [holdCopy]
  generalize List.filter _ _ = xs
  induction xs generalizing m with
  | nil => exact hm
  | cons x xs ih =>
    simp only [List.foldl_cons]
    have key : ∀ (ys : List (Nat × Nat)) (n m0 : List Host.Cell), memWf n = true → memWf (ys.foldl (fun mem p =>
        writeBytes mem (h.base + p.2 * 6 * l.cropW + p.1 * 6) (leBytes 6 (pxWord (convert r.planes.pxf r.matrix r.full
          matrix full (pixelAt m0 r.planes (l.cropX + p.1) (l.cropY + p.2)))).toNat)) n) = true := by
      intro ys
      induction ys with
      | nil => intro n m0 hn; exact hn
      | cons y ys ihy => intro n m0 hn; exact ihy _ _ (memWf_writeBytes _ _ _ hn)
    exact key _ _ _ (memWf_writeBytes _ _ _ hm)

/-- What each step of a fold keeps canonical, the fold keeps canonical. -/
theorem memWf_foldl {α : Type} (f : List Host.Cell → α → List Host.Cell)
    (hf : ∀ m x, memWf m = true → memWf (f m x) = true) (xs : List α) (m : List Host.Cell) (h : memWf m = true) :
    memWf (xs.foldl f m) = true := by
  induction xs generalizing m with
  | nil => exact h
  | cons x xs ih => exact ih _ (hf m x h)

theorem memWf_monoLines (m : List Host.Cell) (p : Planes) (w h : Nat) (hm : memWf m = true) :
    memWf (monoLines m p w h) = true :=
  memWf_foldl _ (fun _ _ hm => memWf_writeBytes _ _ _ hm) _ _ hm

theorem memWf_concealBlock (m0 : List Host.Cell) (p q : Planes) (w h : Nat) (v : Int × Int) (m : List Host.Cell)
    (b : BlockFact) (bw bh : Nat) (hm : memWf m = true) : memWf (concealBlock m0 p q w h v m b bw bh) = true :=
  memWf_foldl _ (fun _ _ hm => memWf_foldl _ (fun _ _ hm => memWf_writeBytes _ _ _ hm) _ _ hm) _ _
    (memWf_foldl _ (fun _ _ hm => memWf_foldl _ (fun _ _ hm => memWf_writeBytes _ _ _ hm) _ _ hm) _ _ hm)

/-- Writing the samples of a decoded picture keeps the canonical form. -/
theorem memWf_writeSamples (s : State) (x : Dec) (slot : Nat) (p : PicFacts) (h : memWf s.memory.dram = true) :
    memWf (writeSamples s x slot p).memory.dram = true := by
  have mono : ∀ m q, memWf m = true → memWf (if p.monochrome then monoLines m q p.width p.height else m) = true := by
    intro m q hm
    split
    · exact memWf_monoLines _ _ _ _ hm
    · exact hm
  simp only [writeSamples]
  cases x.newest.bind x.pic with
  | none => exact mono _ _ (memWf_writeBytes _ _ _ h)
  | some q =>
    exact memWf_foldl _ (fun _ _ hm => memWf_concealBlock _ _ _ _ _ _ _ _ _ _ hm) _ _ (mono _ _ (memWf_writeBytes _ _ _ h))

/-- A write of bytes to DRAM keeps the canonical form. -/
theorem memWf_dramWrite (s : State) (a : Nat) (bs : List Byte) (h : memWf s.memory.dram = true) :
    memWf (dramWrite s a bs).memory.dram = true := memWf_writeBytes _ _ _ h

end Sys2Proof.Machine
end

