-- ==== Sys2Proof/Laws/Operands.lean ====
section
/-! SUPPORT. Laws of ring commands: what carrying one out gives (R135 to R139), once for all of them. -/

namespace Sys2Proof.Machine

/-- A ring command that begins gives its body's completion or wait on top of the state without its descriptor. -/
theorem runRing_begins {s : State} {op : Nat} {c : Cmd} {f : Fetched} (h : Begins s op c f) (body : State → Body) :
    runRing s op c body = match body (taken s f) with
      | .reply s1 st w1 w3 => answered s c s1 st w1 w3
      | .waits s1 w => begun s c f s1 w := by
  obtain ⟨h1, h2, h3⟩ := h
  simp only [runRing, h1, h2, h3, if_true, taken]
  cases body (dropFetched s f.no) <;> rfl

/-- A ring command whose body replies. -/
theorem runRing_reply {s : State} {op : Nat} {c : Cmd} {f : Fetched} {body : State → Body} {s1 : State} {st : Nat}
    {w1 w3 : Word} (h : Begins s op c f) (hb : body (taken s f) = .reply s1 st w1 w3) :
    runRing s op c body = answered s c s1 st w1 w3 := by
  rw [runRing_begins h, hb]

/-- A ring command whose body waits. -/
theorem runRing_waits {s : State} {op : Nat} {c : Cmd} {f : Fetched} {body : State → Body} {s1 : State} {w : Wait}
    (h : Begins s op c f) (hb : body (taken s f) = .waits s1 w) : runRing s op c body = begun s c f s1 w := by
  rw [runRing_begins h, hb]

/-- A ring command whose descriptor is not fetched, or that an earlier one holds back, changes nothing (assumption 5). -/
theorem runRing_none {s : State} {op : Nat} {c : Cmd} (body : State → Body) (h : findFetched s op c = none) :
    runRing s op c body = s := by
  simp only [runRing, h]

theorem runRing_held {s : State} {op : Nat} {c : Cmd} {f : Fetched} (body : State → Body)
    (h : findFetched s op c = some f) (he : eligible s f = false) : runRing s op c body = s := by
  simp only [runRing, h, he]
  rfl

/-- A ring command in a state that is not in service ends with 0x106 (R555 stage 3). -/
theorem runRing_outOfService {s : State} {op : Nat} {c : Cmd} {f : Fetched} (body : State → Body)
    (h : findFetched s op c = some f) (he : eligible s f = true) (hr : running s = false) :
    runRing s op c body = answered s c (taken s f) 0x106 0 0 := by
  simp only [runRing, h, he, hr, if_true, Body.fail]
  rfl

/-- Checks that all pass let the body go on; the first that fails ends the command. -/
theorem guarded_pass (s : State) (p : Bool × Nat) (cs : List (Bool × Nat)) (k : Body) (h : p.1 = false) :
    guarded s (p :: cs) k = guarded s cs k := by
  obtain ⟨b, code⟩ := p
  cases h
  rfl

theorem guarded_fail (s : State) (p : Bool × Nat) (cs : List (Bool × Nat)) (k : Body) (h : p.1 = true) :
    guarded s (p :: cs) k = .fail s p.2 := by
  obtain ⟨b, code⟩ := p
  cases h
  rfl

@[simp] theorem guarded_nil (s : State) (k : Body) : guarded s [] k = k := rfl

-- ## A taken descriptor leaves everything but the fetched list

@[simp] theorem taken_pending (s : State) (f : Fetched) : (taken s f).pending = s.pending := rfl
@[simp] theorem taken_out (s : State) (f : Fetched) : (taken s f).out = s.out := rfl
@[simp] theorem taken_fresh (s : State) (f : Fetched) : (taken s f).fresh = s.fresh := rfl
@[simp] theorem taken_regs (s : State) (f : Fetched) : (taken s f).regs = s.regs := rfl
@[simp] theorem taken_shadow (s : State) (f : Fetched) : (taken s f).shadow = s.shadow := rfl
@[simp] theorem taken_time (s : State) (f : Fetched) : (taken s f).time = s.time := rfl
@[simp] theorem taken_spec (s : State) (f : Fetched) : (taken s f).spec = s.spec := rfl
@[simp] theorem taken_oxvan (s : State) (f : Fetched) : (taken s f).oxvan = s.oxvan := rfl
@[simp] theorem taken_mac0 (s : State) (f : Fetched) : (taken s f).mac0 = s.mac0 := rfl
@[simp] theorem taken_mac1 (s : State) (f : Fetched) : (taken s f).mac1 = s.mac1 := rfl
@[simp] theorem taken_mgmt (s : State) (f : Fetched) : (taken s f).mgmt = s.mgmt := rfl
@[simp] theorem taken_media (s : State) (f : Fetched) : (taken s f).media = s.media := rfl
@[simp] theorem taken_units (s : State) (f : Fetched) : (taken s f).units = s.units := rfl
@[simp] theorem taken_sched (s : State) (f : Fetched) : (taken s f).sched = s.sched := rfl
@[simp] theorem taken_dma (s : State) (f : Fetched) : (taken s f).dma = s.dma := rfl
@[simp] theorem taken_memory (s : State) (f : Fetched) : (taken s f).memory = s.memory := rfl
@[simp] theorem taken_grn (s : State) (f : Fetched) : (taken s f).grn = s.grn := rfl
@[simp] theorem taken_err (s : State) (f : Fetched) : (taken s f).err = s.err := rfl
@[simp] theorem taken_power (s : State) (f : Fetched) : (taken s f).power = s.power := rfl
@[simp] theorem taken_sec (s : State) (f : Fetched) : (taken s f).sec = s.sec := rfl
@[simp] theorem taken_mram (s : State) (f : Fetched) : (taken s f).mram = s.mram := rfl
@[simp] theorem taken_hci_slots (s : State) (f : Fetched) : (taken s f).hci.slots = s.hci.slots := rfl
@[simp] theorem taken_hci_inflight (s : State) (f : Fetched) : (taken s f).hci.inflight = s.hci.inflight := rfl
@[simp] theorem taken_hci_nextNo (s : State) (f : Fetched) : (taken s f).hci.nextNo = s.hci.nextNo := rfl
@[simp] theorem taken_hci_windows (s : State) (f : Fetched) : (taken s f).hci.windows = s.hci.windows := rfl
@[simp] theorem taken_hci_waitingReads (s : State) (f : Fetched) : (taken s f).hci.waitingReads = s.hci.waitingReads := rfl
@[simp] theorem taken_hci_fetchHeld (s : State) (f : Fetched) : (taken s f).hci.fetchHeld = s.hci.fetchHeld := rfl
@[simp] theorem taken_hci_lastVisit (s : State) (f : Fetched) : (taken s f).hci.lastVisit = s.hci.lastVisit := rfl
@[simp] theorem getSlot_taken (s : State) (f : Fetched) (n : Nat) : getSlot (taken s f) n = getSlot s n := rfl
@[simp] theorem now_taken (s : State) (f : Fetched)  : now (taken s f) = now s := rfl
@[simp] theorem regRaw_taken (s : State) (f : Fetched) (o : Nat) : regRaw (taken s f) o = regRaw s o := rfl
@[simp] theorem getF_taken (s : State) (f : Fetched) (o hi lo : Nat) : getF (taken s f) o hi lo = getF s o hi lo := rfl
@[simp] theorem getB_taken (s : State) (f : Fetched) (o i : Nat) : getB (taken s f) o i = getB s o i := rfl
@[simp] theorem ownMember_taken (s : State) (f : Fetched)  : ownMember (taken s f) = ownMember s := rfl
@[simp] theorem ownHandle_taken (s : State) (f : Fetched) (ty i : Nat) : ownHandle (taken s f) ty i = ownHandle s ty i := rfl
@[simp] theorem handleErr_taken (s : State) (f : Fetched) (tys : List Nat) (w : Word) : handleErr (taken s f) tys w = handleErr s tys w := rfl
@[simp] theorem hCheck_taken (s : State) (f : Fetched) (tys : List Nat) (w : Word) : hCheck (taken s f) tys w = hCheck s tys w := rfl
@[simp] theorem hCheck0_taken (s : State) (f : Fetched) (tys : List Nat) (w : Word) : hCheck0 (taken s f) tys w = hCheck0 s tys w := rfl
@[simp] theorem noQueue_taken (s : State) (f : Fetched) (slot q : Nat) : noQueue (taken s f) slot q = noQueue s slot q := rfl
@[simp] theorem regionCheck_taken (s : State) (f : Fetched) (slot : Nat) (w : Word) : regionCheck (taken s f) slot w = regionCheck s slot w := rfl
@[simp] theorem regionOf_taken (s : State) (f : Fetched) (slot : Nat) (w : Word) : regionOf (taken s f) slot w = regionOf s slot w := rfl
@[simp] theorem regionBounds_taken (s : State) (f : Fetched) (slot : Nat) (w : Word) (off n : Nat) (b : Bool) : regionBounds (taken s f) slot w off n b = regionBounds s slot w off n b := rfl
@[simp] theorem freeVal_taken (s : State) (f : Fetched) (w : Nat) : freeVal (taken s f) w = freeVal s w := rfl
@[simp] theorem running_taken (s : State) (f : Fetched)  : running (taken s f) = running s := rfl
@[simp] theorem inBramble_taken (s : State) (f : Fetched)  : inBramble (taken s f) = inBramble s := rfl
@[simp] theorem dramRead_taken (s : State) (f : Fetched) (a n : Nat) : dramRead (taken s f) a n = dramRead s a n := rfl
@[simp] theorem insideAny_taken (s : State) (f : Fetched) (us : List Nat) (a n : Nat) : insideAny (taken s f) us a n = insideAny s us a n := rfl

end Sys2Proof.Machine
end

