-- ==== Sys2Proof/Laws/State.lean ====
section
/-! SUPPORT. The updates of State: each leaves the fields that it does not name, and what each one stores is read back. -/

namespace Sys2Proof.Machine

-- ## emit

@[simp] theorem emit_pending (s : State) (e : Emission) : (emit s e).pending = s.pending := rfl
@[simp] theorem emit_fresh (s : State) (e : Emission) : (emit s e).fresh = s.fresh := rfl
@[simp] theorem emit_regs (s : State) (e : Emission) : (emit s e).regs = s.regs := rfl
@[simp] theorem emit_shadow (s : State) (e : Emission) : (emit s e).shadow = s.shadow := rfl
@[simp] theorem emit_time (s : State) (e : Emission) : (emit s e).time = s.time := rfl
@[simp] theorem emit_spec (s : State) (e : Emission) : (emit s e).spec = s.spec := rfl
@[simp] theorem emit_hci (s : State) (e : Emission) : (emit s e).hci = s.hci := rfl
@[simp] theorem emit_oxvan (s : State) (e : Emission) : (emit s e).oxvan = s.oxvan := rfl
@[simp] theorem emit_mac0 (s : State) (e : Emission) : (emit s e).mac0 = s.mac0 := rfl
@[simp] theorem emit_mac1 (s : State) (e : Emission) : (emit s e).mac1 = s.mac1 := rfl
@[simp] theorem emit_mgmt (s : State) (e : Emission) : (emit s e).mgmt = s.mgmt := rfl
@[simp] theorem emit_media (s : State) (e : Emission) : (emit s e).media = s.media := rfl
@[simp] theorem emit_units (s : State) (e : Emission) : (emit s e).units = s.units := rfl
@[simp] theorem emit_sched (s : State) (e : Emission) : (emit s e).sched = s.sched := rfl
@[simp] theorem emit_dma (s : State) (e : Emission) : (emit s e).dma = s.dma := rfl
@[simp] theorem emit_memory (s : State) (e : Emission) : (emit s e).memory = s.memory := rfl
@[simp] theorem emit_grn (s : State) (e : Emission) : (emit s e).grn = s.grn := rfl
@[simp] theorem emit_err (s : State) (e : Emission) : (emit s e).err = s.err := rfl
@[simp] theorem emit_power (s : State) (e : Emission) : (emit s e).power = s.power := rfl
@[simp] theorem emit_sec (s : State) (e : Emission) : (emit s e).sec = s.sec := rfl
@[simp] theorem emit_mram (s : State) (e : Emission) : (emit s e).mram = s.mram := rfl

-- ## emits

@[simp] theorem emits_pending (s : State) (es : List Emission) : (emits s es).pending = s.pending := rfl
@[simp] theorem emits_fresh (s : State) (es : List Emission) : (emits s es).fresh = s.fresh := rfl
@[simp] theorem emits_regs (s : State) (es : List Emission) : (emits s es).regs = s.regs := rfl
@[simp] theorem emits_shadow (s : State) (es : List Emission) : (emits s es).shadow = s.shadow := rfl
@[simp] theorem emits_time (s : State) (es : List Emission) : (emits s es).time = s.time := rfl
@[simp] theorem emits_spec (s : State) (es : List Emission) : (emits s es).spec = s.spec := rfl
@[simp] theorem emits_hci (s : State) (es : List Emission) : (emits s es).hci = s.hci := rfl
@[simp] theorem emits_oxvan (s : State) (es : List Emission) : (emits s es).oxvan = s.oxvan := rfl
@[simp] theorem emits_mac0 (s : State) (es : List Emission) : (emits s es).mac0 = s.mac0 := rfl
@[simp] theorem emits_mac1 (s : State) (es : List Emission) : (emits s es).mac1 = s.mac1 := rfl
@[simp] theorem emits_mgmt (s : State) (es : List Emission) : (emits s es).mgmt = s.mgmt := rfl
@[simp] theorem emits_media (s : State) (es : List Emission) : (emits s es).media = s.media := rfl
@[simp] theorem emits_units (s : State) (es : List Emission) : (emits s es).units = s.units := rfl
@[simp] theorem emits_sched (s : State) (es : List Emission) : (emits s es).sched = s.sched := rfl
@[simp] theorem emits_dma (s : State) (es : List Emission) : (emits s es).dma = s.dma := rfl
@[simp] theorem emits_memory (s : State) (es : List Emission) : (emits s es).memory = s.memory := rfl
@[simp] theorem emits_grn (s : State) (es : List Emission) : (emits s es).grn = s.grn := rfl
@[simp] theorem emits_err (s : State) (es : List Emission) : (emits s es).err = s.err := rfl
@[simp] theorem emits_power (s : State) (es : List Emission) : (emits s es).power = s.power := rfl
@[simp] theorem emits_sec (s : State) (es : List Emission) : (emits s es).sec = s.sec := rfl
@[simp] theorem emits_mram (s : State) (es : List Emission) : (emits s es).mram = s.mram := rfl

-- ## nextFree

@[simp] theorem nextFree_pending (s : State) : (nextFree s).pending = s.pending := rfl
@[simp] theorem nextFree_out (s : State) : (nextFree s).out = s.out := rfl
@[simp] theorem nextFree_regs (s : State) : (nextFree s).regs = s.regs := rfl
@[simp] theorem nextFree_shadow (s : State) : (nextFree s).shadow = s.shadow := rfl
@[simp] theorem nextFree_time (s : State) : (nextFree s).time = s.time := rfl
@[simp] theorem nextFree_spec (s : State) : (nextFree s).spec = s.spec := rfl
@[simp] theorem nextFree_hci (s : State) : (nextFree s).hci = s.hci := rfl
@[simp] theorem nextFree_oxvan (s : State) : (nextFree s).oxvan = s.oxvan := rfl
@[simp] theorem nextFree_mac0 (s : State) : (nextFree s).mac0 = s.mac0 := rfl
@[simp] theorem nextFree_mac1 (s : State) : (nextFree s).mac1 = s.mac1 := rfl
@[simp] theorem nextFree_mgmt (s : State) : (nextFree s).mgmt = s.mgmt := rfl
@[simp] theorem nextFree_media (s : State) : (nextFree s).media = s.media := rfl
@[simp] theorem nextFree_units (s : State) : (nextFree s).units = s.units := rfl
@[simp] theorem nextFree_sched (s : State) : (nextFree s).sched = s.sched := rfl
@[simp] theorem nextFree_dma (s : State) : (nextFree s).dma = s.dma := rfl
@[simp] theorem nextFree_memory (s : State) : (nextFree s).memory = s.memory := rfl
@[simp] theorem nextFree_grn (s : State) : (nextFree s).grn = s.grn := rfl
@[simp] theorem nextFree_err (s : State) : (nextFree s).err = s.err := rfl
@[simp] theorem nextFree_power (s : State) : (nextFree s).power = s.power := rfl
@[simp] theorem nextFree_sec (s : State) : (nextFree s).sec = s.sec := rfl
@[simp] theorem nextFree_mram (s : State) : (nextFree s).mram = s.mram := rfl

-- ## setRaw

@[simp] theorem setRaw_pending (s : State) (o : Nat) (v : Word) : (setRaw s o v).pending = s.pending := rfl
@[simp] theorem setRaw_out (s : State) (o : Nat) (v : Word) : (setRaw s o v).out = s.out := rfl
@[simp] theorem setRaw_fresh (s : State) (o : Nat) (v : Word) : (setRaw s o v).fresh = s.fresh := rfl
@[simp] theorem setRaw_shadow (s : State) (o : Nat) (v : Word) : (setRaw s o v).shadow = s.shadow := rfl
@[simp] theorem setRaw_time (s : State) (o : Nat) (v : Word) : (setRaw s o v).time = s.time := rfl
@[simp] theorem setRaw_spec (s : State) (o : Nat) (v : Word) : (setRaw s o v).spec = s.spec := rfl
@[simp] theorem setRaw_hci (s : State) (o : Nat) (v : Word) : (setRaw s o v).hci = s.hci := rfl
@[simp] theorem setRaw_oxvan (s : State) (o : Nat) (v : Word) : (setRaw s o v).oxvan = s.oxvan := rfl
@[simp] theorem setRaw_mac0 (s : State) (o : Nat) (v : Word) : (setRaw s o v).mac0 = s.mac0 := rfl
@[simp] theorem setRaw_mac1 (s : State) (o : Nat) (v : Word) : (setRaw s o v).mac1 = s.mac1 := rfl
@[simp] theorem setRaw_mgmt (s : State) (o : Nat) (v : Word) : (setRaw s o v).mgmt = s.mgmt := rfl
@[simp] theorem setRaw_media (s : State) (o : Nat) (v : Word) : (setRaw s o v).media = s.media := rfl
@[simp] theorem setRaw_units (s : State) (o : Nat) (v : Word) : (setRaw s o v).units = s.units := rfl
@[simp] theorem setRaw_sched (s : State) (o : Nat) (v : Word) : (setRaw s o v).sched = s.sched := rfl
@[simp] theorem setRaw_dma (s : State) (o : Nat) (v : Word) : (setRaw s o v).dma = s.dma := rfl
@[simp] theorem setRaw_memory (s : State) (o : Nat) (v : Word) : (setRaw s o v).memory = s.memory := rfl
@[simp] theorem setRaw_grn (s : State) (o : Nat) (v : Word) : (setRaw s o v).grn = s.grn := rfl
@[simp] theorem setRaw_err (s : State) (o : Nat) (v : Word) : (setRaw s o v).err = s.err := rfl
@[simp] theorem setRaw_power (s : State) (o : Nat) (v : Word) : (setRaw s o v).power = s.power := rfl
@[simp] theorem setRaw_sec (s : State) (o : Nat) (v : Word) : (setRaw s o v).sec = s.sec := rfl
@[simp] theorem setRaw_mram (s : State) (o : Nat) (v : Word) : (setRaw s o v).mram = s.mram := rfl

-- ## setF

@[simp] theorem setF_pending (s : State) (o hi lo v : Nat) : (setF s o hi lo v).pending = s.pending := rfl
@[simp] theorem setF_out (s : State) (o hi lo v : Nat) : (setF s o hi lo v).out = s.out := rfl
@[simp] theorem setF_fresh (s : State) (o hi lo v : Nat) : (setF s o hi lo v).fresh = s.fresh := rfl
@[simp] theorem setF_shadow (s : State) (o hi lo v : Nat) : (setF s o hi lo v).shadow = s.shadow := rfl
@[simp] theorem setF_time (s : State) (o hi lo v : Nat) : (setF s o hi lo v).time = s.time := rfl
@[simp] theorem setF_spec (s : State) (o hi lo v : Nat) : (setF s o hi lo v).spec = s.spec := rfl
@[simp] theorem setF_hci (s : State) (o hi lo v : Nat) : (setF s o hi lo v).hci = s.hci := rfl
@[simp] theorem setF_oxvan (s : State) (o hi lo v : Nat) : (setF s o hi lo v).oxvan = s.oxvan := rfl
@[simp] theorem setF_mac0 (s : State) (o hi lo v : Nat) : (setF s o hi lo v).mac0 = s.mac0 := rfl
@[simp] theorem setF_mac1 (s : State) (o hi lo v : Nat) : (setF s o hi lo v).mac1 = s.mac1 := rfl
@[simp] theorem setF_mgmt (s : State) (o hi lo v : Nat) : (setF s o hi lo v).mgmt = s.mgmt := rfl
@[simp] theorem setF_media (s : State) (o hi lo v : Nat) : (setF s o hi lo v).media = s.media := rfl
@[simp] theorem setF_units (s : State) (o hi lo v : Nat) : (setF s o hi lo v).units = s.units := rfl
@[simp] theorem setF_sched (s : State) (o hi lo v : Nat) : (setF s o hi lo v).sched = s.sched := rfl
@[simp] theorem setF_dma (s : State) (o hi lo v : Nat) : (setF s o hi lo v).dma = s.dma := rfl
@[simp] theorem setF_memory (s : State) (o hi lo v : Nat) : (setF s o hi lo v).memory = s.memory := rfl
@[simp] theorem setF_grn (s : State) (o hi lo v : Nat) : (setF s o hi lo v).grn = s.grn := rfl
@[simp] theorem setF_err (s : State) (o hi lo v : Nat) : (setF s o hi lo v).err = s.err := rfl
@[simp] theorem setF_power (s : State) (o hi lo v : Nat) : (setF s o hi lo v).power = s.power := rfl
@[simp] theorem setF_sec (s : State) (o hi lo v : Nat) : (setF s o hi lo v).sec = s.sec := rfl
@[simp] theorem setF_mram (s : State) (o hi lo v : Nat) : (setF s o hi lo v).mram = s.mram := rfl

-- ## bumpF

@[simp] theorem bumpF_pending (s : State) (o hi lo n : Nat) : (bumpF s o hi lo n).pending = s.pending := rfl
@[simp] theorem bumpF_out (s : State) (o hi lo n : Nat) : (bumpF s o hi lo n).out = s.out := rfl
@[simp] theorem bumpF_fresh (s : State) (o hi lo n : Nat) : (bumpF s o hi lo n).fresh = s.fresh := rfl
@[simp] theorem bumpF_shadow (s : State) (o hi lo n : Nat) : (bumpF s o hi lo n).shadow = s.shadow := rfl
@[simp] theorem bumpF_time (s : State) (o hi lo n : Nat) : (bumpF s o hi lo n).time = s.time := rfl
@[simp] theorem bumpF_spec (s : State) (o hi lo n : Nat) : (bumpF s o hi lo n).spec = s.spec := rfl
@[simp] theorem bumpF_hci (s : State) (o hi lo n : Nat) : (bumpF s o hi lo n).hci = s.hci := rfl
@[simp] theorem bumpF_oxvan (s : State) (o hi lo n : Nat) : (bumpF s o hi lo n).oxvan = s.oxvan := rfl
@[simp] theorem bumpF_mac0 (s : State) (o hi lo n : Nat) : (bumpF s o hi lo n).mac0 = s.mac0 := rfl
@[simp] theorem bumpF_mac1 (s : State) (o hi lo n : Nat) : (bumpF s o hi lo n).mac1 = s.mac1 := rfl
@[simp] theorem bumpF_mgmt (s : State) (o hi lo n : Nat) : (bumpF s o hi lo n).mgmt = s.mgmt := rfl
@[simp] theorem bumpF_media (s : State) (o hi lo n : Nat) : (bumpF s o hi lo n).media = s.media := rfl
@[simp] theorem bumpF_units (s : State) (o hi lo n : Nat) : (bumpF s o hi lo n).units = s.units := rfl
@[simp] theorem bumpF_sched (s : State) (o hi lo n : Nat) : (bumpF s o hi lo n).sched = s.sched := rfl
@[simp] theorem bumpF_dma (s : State) (o hi lo n : Nat) : (bumpF s o hi lo n).dma = s.dma := rfl
@[simp] theorem bumpF_memory (s : State) (o hi lo n : Nat) : (bumpF s o hi lo n).memory = s.memory := rfl
@[simp] theorem bumpF_grn (s : State) (o hi lo n : Nat) : (bumpF s o hi lo n).grn = s.grn := rfl
@[simp] theorem bumpF_err (s : State) (o hi lo n : Nat) : (bumpF s o hi lo n).err = s.err := rfl
@[simp] theorem bumpF_power (s : State) (o hi lo n : Nat) : (bumpF s o hi lo n).power = s.power := rfl
@[simp] theorem bumpF_sec (s : State) (o hi lo n : Nat) : (bumpF s o hi lo n).sec = s.sec := rfl
@[simp] theorem bumpF_mram (s : State) (o hi lo n : Nat) : (bumpF s o hi lo n).mram = s.mram := rfl

-- ## bumpC

@[simp] theorem bumpC_pending (s : State) (o n : Nat) : (bumpC s o n).pending = s.pending := rfl
@[simp] theorem bumpC_out (s : State) (o n : Nat) : (bumpC s o n).out = s.out := rfl
@[simp] theorem bumpC_fresh (s : State) (o n : Nat) : (bumpC s o n).fresh = s.fresh := rfl
@[simp] theorem bumpC_shadow (s : State) (o n : Nat) : (bumpC s o n).shadow = s.shadow := rfl
@[simp] theorem bumpC_time (s : State) (o n : Nat) : (bumpC s o n).time = s.time := rfl
@[simp] theorem bumpC_spec (s : State) (o n : Nat) : (bumpC s o n).spec = s.spec := rfl
@[simp] theorem bumpC_hci (s : State) (o n : Nat) : (bumpC s o n).hci = s.hci := rfl
@[simp] theorem bumpC_oxvan (s : State) (o n : Nat) : (bumpC s o n).oxvan = s.oxvan := rfl
@[simp] theorem bumpC_mac0 (s : State) (o n : Nat) : (bumpC s o n).mac0 = s.mac0 := rfl
@[simp] theorem bumpC_mac1 (s : State) (o n : Nat) : (bumpC s o n).mac1 = s.mac1 := rfl
@[simp] theorem bumpC_mgmt (s : State) (o n : Nat) : (bumpC s o n).mgmt = s.mgmt := rfl
@[simp] theorem bumpC_media (s : State) (o n : Nat) : (bumpC s o n).media = s.media := rfl
@[simp] theorem bumpC_units (s : State) (o n : Nat) : (bumpC s o n).units = s.units := rfl
@[simp] theorem bumpC_sched (s : State) (o n : Nat) : (bumpC s o n).sched = s.sched := rfl
@[simp] theorem bumpC_dma (s : State) (o n : Nat) : (bumpC s o n).dma = s.dma := rfl
@[simp] theorem bumpC_memory (s : State) (o n : Nat) : (bumpC s o n).memory = s.memory := rfl
@[simp] theorem bumpC_grn (s : State) (o n : Nat) : (bumpC s o n).grn = s.grn := rfl
@[simp] theorem bumpC_err (s : State) (o n : Nat) : (bumpC s o n).err = s.err := rfl
@[simp] theorem bumpC_power (s : State) (o n : Nat) : (bumpC s o n).power = s.power := rfl
@[simp] theorem bumpC_sec (s : State) (o n : Nat) : (bumpC s o n).sec = s.sec := rfl
@[simp] theorem bumpC_mram (s : State) (o n : Nat) : (bumpC s o n).mram = s.mram := rfl

-- ## setSlot

@[simp] theorem setSlot_pending (s : State) (n : Nat) (sl : Slot) : (setSlot s n sl).pending = s.pending := rfl
@[simp] theorem setSlot_out (s : State) (n : Nat) (sl : Slot) : (setSlot s n sl).out = s.out := rfl
@[simp] theorem setSlot_fresh (s : State) (n : Nat) (sl : Slot) : (setSlot s n sl).fresh = s.fresh := rfl
@[simp] theorem setSlot_regs (s : State) (n : Nat) (sl : Slot) : (setSlot s n sl).regs = s.regs := rfl
@[simp] theorem setSlot_shadow (s : State) (n : Nat) (sl : Slot) : (setSlot s n sl).shadow = s.shadow := rfl
@[simp] theorem setSlot_time (s : State) (n : Nat) (sl : Slot) : (setSlot s n sl).time = s.time := rfl
@[simp] theorem setSlot_spec (s : State) (n : Nat) (sl : Slot) : (setSlot s n sl).spec = s.spec := rfl
@[simp] theorem setSlot_oxvan (s : State) (n : Nat) (sl : Slot) : (setSlot s n sl).oxvan = s.oxvan := rfl
@[simp] theorem setSlot_mac0 (s : State) (n : Nat) (sl : Slot) : (setSlot s n sl).mac0 = s.mac0 := rfl
@[simp] theorem setSlot_mac1 (s : State) (n : Nat) (sl : Slot) : (setSlot s n sl).mac1 = s.mac1 := rfl
@[simp] theorem setSlot_mgmt (s : State) (n : Nat) (sl : Slot) : (setSlot s n sl).mgmt = s.mgmt := rfl
@[simp] theorem setSlot_media (s : State) (n : Nat) (sl : Slot) : (setSlot s n sl).media = s.media := rfl
@[simp] theorem setSlot_units (s : State) (n : Nat) (sl : Slot) : (setSlot s n sl).units = s.units := rfl
@[simp] theorem setSlot_sched (s : State) (n : Nat) (sl : Slot) : (setSlot s n sl).sched = s.sched := rfl
@[simp] theorem setSlot_dma (s : State) (n : Nat) (sl : Slot) : (setSlot s n sl).dma = s.dma := rfl
@[simp] theorem setSlot_memory (s : State) (n : Nat) (sl : Slot) : (setSlot s n sl).memory = s.memory := rfl
@[simp] theorem setSlot_grn (s : State) (n : Nat) (sl : Slot) : (setSlot s n sl).grn = s.grn := rfl
@[simp] theorem setSlot_err (s : State) (n : Nat) (sl : Slot) : (setSlot s n sl).err = s.err := rfl
@[simp] theorem setSlot_power (s : State) (n : Nat) (sl : Slot) : (setSlot s n sl).power = s.power := rfl
@[simp] theorem setSlot_sec (s : State) (n : Nat) (sl : Slot) : (setSlot s n sl).sec = s.sec := rfl
@[simp] theorem setSlot_mram (s : State) (n : Nat) (sl : Slot) : (setSlot s n sl).mram = s.mram := rfl

-- ## setCq

@[simp] theorem setCq_pending (s : State) (slot q : Nat) (cq : Queue) : (setCq s slot q cq).pending = s.pending := rfl
@[simp] theorem setCq_out (s : State) (slot q : Nat) (cq : Queue) : (setCq s slot q cq).out = s.out := rfl
@[simp] theorem setCq_fresh (s : State) (slot q : Nat) (cq : Queue) : (setCq s slot q cq).fresh = s.fresh := rfl
@[simp] theorem setCq_regs (s : State) (slot q : Nat) (cq : Queue) : (setCq s slot q cq).regs = s.regs := rfl
@[simp] theorem setCq_shadow (s : State) (slot q : Nat) (cq : Queue) : (setCq s slot q cq).shadow = s.shadow := rfl
@[simp] theorem setCq_time (s : State) (slot q : Nat) (cq : Queue) : (setCq s slot q cq).time = s.time := rfl
@[simp] theorem setCq_spec (s : State) (slot q : Nat) (cq : Queue) : (setCq s slot q cq).spec = s.spec := rfl
@[simp] theorem setCq_oxvan (s : State) (slot q : Nat) (cq : Queue) : (setCq s slot q cq).oxvan = s.oxvan := rfl
@[simp] theorem setCq_mac0 (s : State) (slot q : Nat) (cq : Queue) : (setCq s slot q cq).mac0 = s.mac0 := rfl
@[simp] theorem setCq_mac1 (s : State) (slot q : Nat) (cq : Queue) : (setCq s slot q cq).mac1 = s.mac1 := rfl
@[simp] theorem setCq_mgmt (s : State) (slot q : Nat) (cq : Queue) : (setCq s slot q cq).mgmt = s.mgmt := rfl
@[simp] theorem setCq_media (s : State) (slot q : Nat) (cq : Queue) : (setCq s slot q cq).media = s.media := rfl
@[simp] theorem setCq_units (s : State) (slot q : Nat) (cq : Queue) : (setCq s slot q cq).units = s.units := rfl
@[simp] theorem setCq_sched (s : State) (slot q : Nat) (cq : Queue) : (setCq s slot q cq).sched = s.sched := rfl
@[simp] theorem setCq_dma (s : State) (slot q : Nat) (cq : Queue) : (setCq s slot q cq).dma = s.dma := rfl
@[simp] theorem setCq_memory (s : State) (slot q : Nat) (cq : Queue) : (setCq s slot q cq).memory = s.memory := rfl
@[simp] theorem setCq_grn (s : State) (slot q : Nat) (cq : Queue) : (setCq s slot q cq).grn = s.grn := rfl
@[simp] theorem setCq_err (s : State) (slot q : Nat) (cq : Queue) : (setCq s slot q cq).err = s.err := rfl
@[simp] theorem setCq_power (s : State) (slot q : Nat) (cq : Queue) : (setCq s slot q cq).power = s.power := rfl
@[simp] theorem setCq_sec (s : State) (slot q : Nat) (cq : Queue) : (setCq s slot q cq).sec = s.sec := rfl
@[simp] theorem setCq_mram (s : State) (slot q : Nat) (cq : Queue) : (setCq s slot q cq).mram = s.mram := rfl

-- ## dropFetched

@[simp] theorem dropFetched_pending (s : State) (no : Nat) : (dropFetched s no).pending = s.pending := rfl
@[simp] theorem dropFetched_out (s : State) (no : Nat) : (dropFetched s no).out = s.out := rfl
@[simp] theorem dropFetched_fresh (s : State) (no : Nat) : (dropFetched s no).fresh = s.fresh := rfl
@[simp] theorem dropFetched_regs (s : State) (no : Nat) : (dropFetched s no).regs = s.regs := rfl
@[simp] theorem dropFetched_shadow (s : State) (no : Nat) : (dropFetched s no).shadow = s.shadow := rfl
@[simp] theorem dropFetched_time (s : State) (no : Nat) : (dropFetched s no).time = s.time := rfl
@[simp] theorem dropFetched_spec (s : State) (no : Nat) : (dropFetched s no).spec = s.spec := rfl
@[simp] theorem dropFetched_oxvan (s : State) (no : Nat) : (dropFetched s no).oxvan = s.oxvan := rfl
@[simp] theorem dropFetched_mac0 (s : State) (no : Nat) : (dropFetched s no).mac0 = s.mac0 := rfl
@[simp] theorem dropFetched_mac1 (s : State) (no : Nat) : (dropFetched s no).mac1 = s.mac1 := rfl
@[simp] theorem dropFetched_mgmt (s : State) (no : Nat) : (dropFetched s no).mgmt = s.mgmt := rfl
@[simp] theorem dropFetched_media (s : State) (no : Nat) : (dropFetched s no).media = s.media := rfl
@[simp] theorem dropFetched_units (s : State) (no : Nat) : (dropFetched s no).units = s.units := rfl
@[simp] theorem dropFetched_sched (s : State) (no : Nat) : (dropFetched s no).sched = s.sched := rfl
@[simp] theorem dropFetched_dma (s : State) (no : Nat) : (dropFetched s no).dma = s.dma := rfl
@[simp] theorem dropFetched_memory (s : State) (no : Nat) : (dropFetched s no).memory = s.memory := rfl
@[simp] theorem dropFetched_grn (s : State) (no : Nat) : (dropFetched s no).grn = s.grn := rfl
@[simp] theorem dropFetched_err (s : State) (no : Nat) : (dropFetched s no).err = s.err := rfl
@[simp] theorem dropFetched_power (s : State) (no : Nat) : (dropFetched s no).power = s.power := rfl
@[simp] theorem dropFetched_sec (s : State) (no : Nat) : (dropFetched s no).sec = s.sec := rfl
@[simp] theorem dropFetched_mram (s : State) (no : Nat) : (dropFetched s no).mram = s.mram := rfl

-- ## dramWrite

@[simp] theorem dramWrite_pending (s : State) (a : Nat) (bs : List Byte) : (dramWrite s a bs).pending = s.pending := rfl
@[simp] theorem dramWrite_out (s : State) (a : Nat) (bs : List Byte) : (dramWrite s a bs).out = s.out := rfl
@[simp] theorem dramWrite_fresh (s : State) (a : Nat) (bs : List Byte) : (dramWrite s a bs).fresh = s.fresh := rfl
@[simp] theorem dramWrite_regs (s : State) (a : Nat) (bs : List Byte) : (dramWrite s a bs).regs = s.regs := rfl
@[simp] theorem dramWrite_shadow (s : State) (a : Nat) (bs : List Byte) : (dramWrite s a bs).shadow = s.shadow := rfl
@[simp] theorem dramWrite_time (s : State) (a : Nat) (bs : List Byte) : (dramWrite s a bs).time = s.time := rfl
@[simp] theorem dramWrite_spec (s : State) (a : Nat) (bs : List Byte) : (dramWrite s a bs).spec = s.spec := rfl
@[simp] theorem dramWrite_hci (s : State) (a : Nat) (bs : List Byte) : (dramWrite s a bs).hci = s.hci := rfl
@[simp] theorem dramWrite_oxvan (s : State) (a : Nat) (bs : List Byte) : (dramWrite s a bs).oxvan = s.oxvan := rfl
@[simp] theorem dramWrite_mac0 (s : State) (a : Nat) (bs : List Byte) : (dramWrite s a bs).mac0 = s.mac0 := rfl
@[simp] theorem dramWrite_mac1 (s : State) (a : Nat) (bs : List Byte) : (dramWrite s a bs).mac1 = s.mac1 := rfl
@[simp] theorem dramWrite_mgmt (s : State) (a : Nat) (bs : List Byte) : (dramWrite s a bs).mgmt = s.mgmt := rfl
@[simp] theorem dramWrite_media (s : State) (a : Nat) (bs : List Byte) : (dramWrite s a bs).media = s.media := rfl
@[simp] theorem dramWrite_units (s : State) (a : Nat) (bs : List Byte) : (dramWrite s a bs).units = s.units := rfl
@[simp] theorem dramWrite_sched (s : State) (a : Nat) (bs : List Byte) : (dramWrite s a bs).sched = s.sched := rfl
@[simp] theorem dramWrite_dma (s : State) (a : Nat) (bs : List Byte) : (dramWrite s a bs).dma = s.dma := rfl
@[simp] theorem dramWrite_grn (s : State) (a : Nat) (bs : List Byte) : (dramWrite s a bs).grn = s.grn := rfl
@[simp] theorem dramWrite_err (s : State) (a : Nat) (bs : List Byte) : (dramWrite s a bs).err = s.err := rfl
@[simp] theorem dramWrite_power (s : State) (a : Nat) (bs : List Byte) : (dramWrite s a bs).power = s.power := rfl
@[simp] theorem dramWrite_sec (s : State) (a : Nat) (bs : List Byte) : (dramWrite s a bs).sec = s.sec := rfl
@[simp] theorem dramWrite_mram (s : State) (a : Nat) (bs : List Byte) : (dramWrite s a bs).mram = s.mram := rfl

-- ## putTask

@[simp] theorem putTask_pending (s : State) (id : Nat) (t : Task) : (putTask s id t).pending = s.pending := rfl
@[simp] theorem putTask_out (s : State) (id : Nat) (t : Task) : (putTask s id t).out = s.out := rfl
@[simp] theorem putTask_fresh (s : State) (id : Nat) (t : Task) : (putTask s id t).fresh = s.fresh := rfl
@[simp] theorem putTask_regs (s : State) (id : Nat) (t : Task) : (putTask s id t).regs = s.regs := rfl
@[simp] theorem putTask_shadow (s : State) (id : Nat) (t : Task) : (putTask s id t).shadow = s.shadow := rfl
@[simp] theorem putTask_time (s : State) (id : Nat) (t : Task) : (putTask s id t).time = s.time := rfl
@[simp] theorem putTask_spec (s : State) (id : Nat) (t : Task) : (putTask s id t).spec = s.spec := rfl
@[simp] theorem putTask_hci (s : State) (id : Nat) (t : Task) : (putTask s id t).hci = s.hci := rfl
@[simp] theorem putTask_oxvan (s : State) (id : Nat) (t : Task) : (putTask s id t).oxvan = s.oxvan := rfl
@[simp] theorem putTask_mac0 (s : State) (id : Nat) (t : Task) : (putTask s id t).mac0 = s.mac0 := rfl
@[simp] theorem putTask_mac1 (s : State) (id : Nat) (t : Task) : (putTask s id t).mac1 = s.mac1 := rfl
@[simp] theorem putTask_mgmt (s : State) (id : Nat) (t : Task) : (putTask s id t).mgmt = s.mgmt := rfl
@[simp] theorem putTask_media (s : State) (id : Nat) (t : Task) : (putTask s id t).media = s.media := rfl
@[simp] theorem putTask_units (s : State) (id : Nat) (t : Task) : (putTask s id t).units = s.units := rfl
@[simp] theorem putTask_dma (s : State) (id : Nat) (t : Task) : (putTask s id t).dma = s.dma := rfl
@[simp] theorem putTask_memory (s : State) (id : Nat) (t : Task) : (putTask s id t).memory = s.memory := rfl
@[simp] theorem putTask_grn (s : State) (id : Nat) (t : Task) : (putTask s id t).grn = s.grn := rfl
@[simp] theorem putTask_err (s : State) (id : Nat) (t : Task) : (putTask s id t).err = s.err := rfl
@[simp] theorem putTask_power (s : State) (id : Nat) (t : Task) : (putTask s id t).power = s.power := rfl
@[simp] theorem putTask_sec (s : State) (id : Nat) (t : Task) : (putTask s id t).sec = s.sec := rfl
@[simp] theorem putTask_mram (s : State) (id : Nat) (t : Task) : (putTask s id t).mram = s.mram := rfl

-- ## putCore

@[simp] theorem putCore_pending (s : State) (k : Nat) (c : Core) : (putCore s k c).pending = s.pending := rfl
@[simp] theorem putCore_out (s : State) (k : Nat) (c : Core) : (putCore s k c).out = s.out := rfl
@[simp] theorem putCore_fresh (s : State) (k : Nat) (c : Core) : (putCore s k c).fresh = s.fresh := rfl
@[simp] theorem putCore_regs (s : State) (k : Nat) (c : Core) : (putCore s k c).regs = s.regs := rfl
@[simp] theorem putCore_shadow (s : State) (k : Nat) (c : Core) : (putCore s k c).shadow = s.shadow := rfl
@[simp] theorem putCore_time (s : State) (k : Nat) (c : Core) : (putCore s k c).time = s.time := rfl
@[simp] theorem putCore_spec (s : State) (k : Nat) (c : Core) : (putCore s k c).spec = s.spec := rfl
@[simp] theorem putCore_hci (s : State) (k : Nat) (c : Core) : (putCore s k c).hci = s.hci := rfl
@[simp] theorem putCore_oxvan (s : State) (k : Nat) (c : Core) : (putCore s k c).oxvan = s.oxvan := rfl
@[simp] theorem putCore_mac0 (s : State) (k : Nat) (c : Core) : (putCore s k c).mac0 = s.mac0 := rfl
@[simp] theorem putCore_mac1 (s : State) (k : Nat) (c : Core) : (putCore s k c).mac1 = s.mac1 := rfl
@[simp] theorem putCore_mgmt (s : State) (k : Nat) (c : Core) : (putCore s k c).mgmt = s.mgmt := rfl
@[simp] theorem putCore_media (s : State) (k : Nat) (c : Core) : (putCore s k c).media = s.media := rfl
@[simp] theorem putCore_units (s : State) (k : Nat) (c : Core) : (putCore s k c).units = s.units := rfl
@[simp] theorem putCore_dma (s : State) (k : Nat) (c : Core) : (putCore s k c).dma = s.dma := rfl
@[simp] theorem putCore_memory (s : State) (k : Nat) (c : Core) : (putCore s k c).memory = s.memory := rfl
@[simp] theorem putCore_grn (s : State) (k : Nat) (c : Core) : (putCore s k c).grn = s.grn := rfl
@[simp] theorem putCore_err (s : State) (k : Nat) (c : Core) : (putCore s k c).err = s.err := rfl
@[simp] theorem putCore_power (s : State) (k : Nat) (c : Core) : (putCore s k c).power = s.power := rfl
@[simp] theorem putCore_sec (s : State) (k : Nat) (c : Core) : (putCore s k c).sec = s.sec := rfl
@[simp] theorem putCore_mram (s : State) (k : Nat) (c : Core) : (putCore s k c).mram = s.mram := rfl

-- ## putClassList

@[simp] theorem putClassList_pending (s : State) (c : Nat) (xs : List Nat) : (putClassList s c xs).pending = s.pending := rfl
@[simp] theorem putClassList_out (s : State) (c : Nat) (xs : List Nat) : (putClassList s c xs).out = s.out := rfl
@[simp] theorem putClassList_fresh (s : State) (c : Nat) (xs : List Nat) : (putClassList s c xs).fresh = s.fresh := rfl
@[simp] theorem putClassList_regs (s : State) (c : Nat) (xs : List Nat) : (putClassList s c xs).regs = s.regs := rfl
@[simp] theorem putClassList_shadow (s : State) (c : Nat) (xs : List Nat) : (putClassList s c xs).shadow = s.shadow := rfl
@[simp] theorem putClassList_time (s : State) (c : Nat) (xs : List Nat) : (putClassList s c xs).time = s.time := rfl
@[simp] theorem putClassList_spec (s : State) (c : Nat) (xs : List Nat) : (putClassList s c xs).spec = s.spec := rfl
@[simp] theorem putClassList_hci (s : State) (c : Nat) (xs : List Nat) : (putClassList s c xs).hci = s.hci := rfl
@[simp] theorem putClassList_oxvan (s : State) (c : Nat) (xs : List Nat) : (putClassList s c xs).oxvan = s.oxvan := rfl
@[simp] theorem putClassList_mac0 (s : State) (c : Nat) (xs : List Nat) : (putClassList s c xs).mac0 = s.mac0 := rfl
@[simp] theorem putClassList_mac1 (s : State) (c : Nat) (xs : List Nat) : (putClassList s c xs).mac1 = s.mac1 := rfl
@[simp] theorem putClassList_mgmt (s : State) (c : Nat) (xs : List Nat) : (putClassList s c xs).mgmt = s.mgmt := rfl
@[simp] theorem putClassList_media (s : State) (c : Nat) (xs : List Nat) : (putClassList s c xs).media = s.media := rfl
@[simp] theorem putClassList_units (s : State) (c : Nat) (xs : List Nat) : (putClassList s c xs).units = s.units := rfl
@[simp] theorem putClassList_dma (s : State) (c : Nat) (xs : List Nat) : (putClassList s c xs).dma = s.dma := rfl
@[simp] theorem putClassList_memory (s : State) (c : Nat) (xs : List Nat) : (putClassList s c xs).memory = s.memory := rfl
@[simp] theorem putClassList_grn (s : State) (c : Nat) (xs : List Nat) : (putClassList s c xs).grn = s.grn := rfl
@[simp] theorem putClassList_err (s : State) (c : Nat) (xs : List Nat) : (putClassList s c xs).err = s.err := rfl
@[simp] theorem putClassList_power (s : State) (c : Nat) (xs : List Nat) : (putClassList s c xs).power = s.power := rfl
@[simp] theorem putClassList_sec (s : State) (c : Nat) (xs : List Nat) : (putClassList s c xs).sec = s.sec := rfl
@[simp] theorem putClassList_mram (s : State) (c : Nat) (xs : List Nat) : (putClassList s c xs).mram = s.mram := rfl

-- ## setChan

@[simp] theorem setChan_pending (s : State) (ch : Nat) (c : Chan) : (setChan s ch c).pending = s.pending := rfl
@[simp] theorem setChan_out (s : State) (ch : Nat) (c : Chan) : (setChan s ch c).out = s.out := rfl
@[simp] theorem setChan_fresh (s : State) (ch : Nat) (c : Chan) : (setChan s ch c).fresh = s.fresh := rfl
@[simp] theorem setChan_regs (s : State) (ch : Nat) (c : Chan) : (setChan s ch c).regs = s.regs := rfl
@[simp] theorem setChan_shadow (s : State) (ch : Nat) (c : Chan) : (setChan s ch c).shadow = s.shadow := rfl
@[simp] theorem setChan_time (s : State) (ch : Nat) (c : Chan) : (setChan s ch c).time = s.time := rfl
@[simp] theorem setChan_spec (s : State) (ch : Nat) (c : Chan) : (setChan s ch c).spec = s.spec := rfl
@[simp] theorem setChan_hci (s : State) (ch : Nat) (c : Chan) : (setChan s ch c).hci = s.hci := rfl
@[simp] theorem setChan_oxvan (s : State) (ch : Nat) (c : Chan) : (setChan s ch c).oxvan = s.oxvan := rfl
@[simp] theorem setChan_mac0 (s : State) (ch : Nat) (c : Chan) : (setChan s ch c).mac0 = s.mac0 := rfl
@[simp] theorem setChan_mac1 (s : State) (ch : Nat) (c : Chan) : (setChan s ch c).mac1 = s.mac1 := rfl
@[simp] theorem setChan_mgmt (s : State) (ch : Nat) (c : Chan) : (setChan s ch c).mgmt = s.mgmt := rfl
@[simp] theorem setChan_media (s : State) (ch : Nat) (c : Chan) : (setChan s ch c).media = s.media := rfl
@[simp] theorem setChan_units (s : State) (ch : Nat) (c : Chan) : (setChan s ch c).units = s.units := rfl
@[simp] theorem setChan_sched (s : State) (ch : Nat) (c : Chan) : (setChan s ch c).sched = s.sched := rfl
@[simp] theorem setChan_memory (s : State) (ch : Nat) (c : Chan) : (setChan s ch c).memory = s.memory := rfl
@[simp] theorem setChan_grn (s : State) (ch : Nat) (c : Chan) : (setChan s ch c).grn = s.grn := rfl
@[simp] theorem setChan_err (s : State) (ch : Nat) (c : Chan) : (setChan s ch c).err = s.err := rfl
@[simp] theorem setChan_power (s : State) (ch : Nat) (c : Chan) : (setChan s ch c).power = s.power := rfl
@[simp] theorem setChan_sec (s : State) (ch : Nat) (c : Chan) : (setChan s ch c).sec = s.sec := rfl
@[simp] theorem setChan_mram (s : State) (ch : Nat) (c : Chan) : (setChan s ch c).mram = s.mram := rfl

-- ## updChan

@[simp] theorem updChan_pending (s : State) (ch : Nat) (f : Chan → Chan) : (updChan s ch f).pending = s.pending := rfl
@[simp] theorem updChan_out (s : State) (ch : Nat) (f : Chan → Chan) : (updChan s ch f).out = s.out := rfl
@[simp] theorem updChan_fresh (s : State) (ch : Nat) (f : Chan → Chan) : (updChan s ch f).fresh = s.fresh := rfl
@[simp] theorem updChan_regs (s : State) (ch : Nat) (f : Chan → Chan) : (updChan s ch f).regs = s.regs := rfl
@[simp] theorem updChan_shadow (s : State) (ch : Nat) (f : Chan → Chan) : (updChan s ch f).shadow = s.shadow := rfl
@[simp] theorem updChan_time (s : State) (ch : Nat) (f : Chan → Chan) : (updChan s ch f).time = s.time := rfl
@[simp] theorem updChan_spec (s : State) (ch : Nat) (f : Chan → Chan) : (updChan s ch f).spec = s.spec := rfl
@[simp] theorem updChan_hci (s : State) (ch : Nat) (f : Chan → Chan) : (updChan s ch f).hci = s.hci := rfl
@[simp] theorem updChan_oxvan (s : State) (ch : Nat) (f : Chan → Chan) : (updChan s ch f).oxvan = s.oxvan := rfl
@[simp] theorem updChan_mac0 (s : State) (ch : Nat) (f : Chan → Chan) : (updChan s ch f).mac0 = s.mac0 := rfl
@[simp] theorem updChan_mac1 (s : State) (ch : Nat) (f : Chan → Chan) : (updChan s ch f).mac1 = s.mac1 := rfl
@[simp] theorem updChan_mgmt (s : State) (ch : Nat) (f : Chan → Chan) : (updChan s ch f).mgmt = s.mgmt := rfl
@[simp] theorem updChan_media (s : State) (ch : Nat) (f : Chan → Chan) : (updChan s ch f).media = s.media := rfl
@[simp] theorem updChan_units (s : State) (ch : Nat) (f : Chan → Chan) : (updChan s ch f).units = s.units := rfl
@[simp] theorem updChan_sched (s : State) (ch : Nat) (f : Chan → Chan) : (updChan s ch f).sched = s.sched := rfl
@[simp] theorem updChan_memory (s : State) (ch : Nat) (f : Chan → Chan) : (updChan s ch f).memory = s.memory := rfl
@[simp] theorem updChan_grn (s : State) (ch : Nat) (f : Chan → Chan) : (updChan s ch f).grn = s.grn := rfl
@[simp] theorem updChan_err (s : State) (ch : Nat) (f : Chan → Chan) : (updChan s ch f).err = s.err := rfl
@[simp] theorem updChan_power (s : State) (ch : Nat) (f : Chan → Chan) : (updChan s ch f).power = s.power := rfl
@[simp] theorem updChan_sec (s : State) (ch : Nat) (f : Chan → Chan) : (updChan s ch f).sec = s.sec := rfl
@[simp] theorem updChan_mram (s : State) (ch : Nat) (f : Chan → Chan) : (updChan s ch f).mram = s.mram := rfl

-- ## setXfer

@[simp] theorem setXfer_pending (s : State) (id : Nat) (x : Xfer) : (setXfer s id x).pending = s.pending := rfl
@[simp] theorem setXfer_out (s : State) (id : Nat) (x : Xfer) : (setXfer s id x).out = s.out := rfl
@[simp] theorem setXfer_fresh (s : State) (id : Nat) (x : Xfer) : (setXfer s id x).fresh = s.fresh := rfl
@[simp] theorem setXfer_regs (s : State) (id : Nat) (x : Xfer) : (setXfer s id x).regs = s.regs := rfl
@[simp] theorem setXfer_shadow (s : State) (id : Nat) (x : Xfer) : (setXfer s id x).shadow = s.shadow := rfl
@[simp] theorem setXfer_time (s : State) (id : Nat) (x : Xfer) : (setXfer s id x).time = s.time := rfl
@[simp] theorem setXfer_spec (s : State) (id : Nat) (x : Xfer) : (setXfer s id x).spec = s.spec := rfl
@[simp] theorem setXfer_hci (s : State) (id : Nat) (x : Xfer) : (setXfer s id x).hci = s.hci := rfl
@[simp] theorem setXfer_oxvan (s : State) (id : Nat) (x : Xfer) : (setXfer s id x).oxvan = s.oxvan := rfl
@[simp] theorem setXfer_mac0 (s : State) (id : Nat) (x : Xfer) : (setXfer s id x).mac0 = s.mac0 := rfl
@[simp] theorem setXfer_mac1 (s : State) (id : Nat) (x : Xfer) : (setXfer s id x).mac1 = s.mac1 := rfl
@[simp] theorem setXfer_mgmt (s : State) (id : Nat) (x : Xfer) : (setXfer s id x).mgmt = s.mgmt := rfl
@[simp] theorem setXfer_media (s : State) (id : Nat) (x : Xfer) : (setXfer s id x).media = s.media := rfl
@[simp] theorem setXfer_units (s : State) (id : Nat) (x : Xfer) : (setXfer s id x).units = s.units := rfl
@[simp] theorem setXfer_sched (s : State) (id : Nat) (x : Xfer) : (setXfer s id x).sched = s.sched := rfl
@[simp] theorem setXfer_memory (s : State) (id : Nat) (x : Xfer) : (setXfer s id x).memory = s.memory := rfl
@[simp] theorem setXfer_grn (s : State) (id : Nat) (x : Xfer) : (setXfer s id x).grn = s.grn := rfl
@[simp] theorem setXfer_err (s : State) (id : Nat) (x : Xfer) : (setXfer s id x).err = s.err := rfl
@[simp] theorem setXfer_power (s : State) (id : Nat) (x : Xfer) : (setXfer s id x).power = s.power := rfl
@[simp] theorem setXfer_sec (s : State) (id : Nat) (x : Xfer) : (setXfer s id x).sec = s.sec := rfl
@[simp] theorem setXfer_mram (s : State) (id : Nat) (x : Xfer) : (setXfer s id x).mram = s.mram := rfl

-- ## setCtx

@[simp] theorem setCtx_pending (s : State) (c : Nat) (x : Stream) : (setCtx s c x).pending = s.pending := rfl
@[simp] theorem setCtx_out (s : State) (c : Nat) (x : Stream) : (setCtx s c x).out = s.out := rfl
@[simp] theorem setCtx_fresh (s : State) (c : Nat) (x : Stream) : (setCtx s c x).fresh = s.fresh := rfl
@[simp] theorem setCtx_regs (s : State) (c : Nat) (x : Stream) : (setCtx s c x).regs = s.regs := rfl
@[simp] theorem setCtx_shadow (s : State) (c : Nat) (x : Stream) : (setCtx s c x).shadow = s.shadow := rfl
@[simp] theorem setCtx_time (s : State) (c : Nat) (x : Stream) : (setCtx s c x).time = s.time := rfl
@[simp] theorem setCtx_spec (s : State) (c : Nat) (x : Stream) : (setCtx s c x).spec = s.spec := rfl
@[simp] theorem setCtx_hci (s : State) (c : Nat) (x : Stream) : (setCtx s c x).hci = s.hci := rfl
@[simp] theorem setCtx_oxvan (s : State) (c : Nat) (x : Stream) : (setCtx s c x).oxvan = s.oxvan := rfl
@[simp] theorem setCtx_mac0 (s : State) (c : Nat) (x : Stream) : (setCtx s c x).mac0 = s.mac0 := rfl
@[simp] theorem setCtx_mac1 (s : State) (c : Nat) (x : Stream) : (setCtx s c x).mac1 = s.mac1 := rfl
@[simp] theorem setCtx_mgmt (s : State) (c : Nat) (x : Stream) : (setCtx s c x).mgmt = s.mgmt := rfl
@[simp] theorem setCtx_units (s : State) (c : Nat) (x : Stream) : (setCtx s c x).units = s.units := rfl
@[simp] theorem setCtx_sched (s : State) (c : Nat) (x : Stream) : (setCtx s c x).sched = s.sched := rfl
@[simp] theorem setCtx_dma (s : State) (c : Nat) (x : Stream) : (setCtx s c x).dma = s.dma := rfl
@[simp] theorem setCtx_memory (s : State) (c : Nat) (x : Stream) : (setCtx s c x).memory = s.memory := rfl
@[simp] theorem setCtx_grn (s : State) (c : Nat) (x : Stream) : (setCtx s c x).grn = s.grn := rfl
@[simp] theorem setCtx_err (s : State) (c : Nat) (x : Stream) : (setCtx s c x).err = s.err := rfl
@[simp] theorem setCtx_power (s : State) (c : Nat) (x : Stream) : (setCtx s c x).power = s.power := rfl
@[simp] theorem setCtx_sec (s : State) (c : Nat) (x : Stream) : (setCtx s c x).sec = s.sec := rfl
@[simp] theorem setCtx_mram (s : State) (c : Nat) (x : Stream) : (setCtx s c x).mram = s.mram := rfl

-- ## updCtx

@[simp] theorem updCtx_pending (s : State) (c : Nat) (f : Stream → Stream) : (updCtx s c f).pending = s.pending := rfl
@[simp] theorem updCtx_out (s : State) (c : Nat) (f : Stream → Stream) : (updCtx s c f).out = s.out := rfl
@[simp] theorem updCtx_fresh (s : State) (c : Nat) (f : Stream → Stream) : (updCtx s c f).fresh = s.fresh := rfl
@[simp] theorem updCtx_regs (s : State) (c : Nat) (f : Stream → Stream) : (updCtx s c f).regs = s.regs := rfl
@[simp] theorem updCtx_shadow (s : State) (c : Nat) (f : Stream → Stream) : (updCtx s c f).shadow = s.shadow := rfl
@[simp] theorem updCtx_time (s : State) (c : Nat) (f : Stream → Stream) : (updCtx s c f).time = s.time := rfl
@[simp] theorem updCtx_spec (s : State) (c : Nat) (f : Stream → Stream) : (updCtx s c f).spec = s.spec := rfl
@[simp] theorem updCtx_hci (s : State) (c : Nat) (f : Stream → Stream) : (updCtx s c f).hci = s.hci := rfl
@[simp] theorem updCtx_oxvan (s : State) (c : Nat) (f : Stream → Stream) : (updCtx s c f).oxvan = s.oxvan := rfl
@[simp] theorem updCtx_mac0 (s : State) (c : Nat) (f : Stream → Stream) : (updCtx s c f).mac0 = s.mac0 := rfl
@[simp] theorem updCtx_mac1 (s : State) (c : Nat) (f : Stream → Stream) : (updCtx s c f).mac1 = s.mac1 := rfl
@[simp] theorem updCtx_mgmt (s : State) (c : Nat) (f : Stream → Stream) : (updCtx s c f).mgmt = s.mgmt := rfl
@[simp] theorem updCtx_units (s : State) (c : Nat) (f : Stream → Stream) : (updCtx s c f).units = s.units := rfl
@[simp] theorem updCtx_sched (s : State) (c : Nat) (f : Stream → Stream) : (updCtx s c f).sched = s.sched := rfl
@[simp] theorem updCtx_dma (s : State) (c : Nat) (f : Stream → Stream) : (updCtx s c f).dma = s.dma := rfl
@[simp] theorem updCtx_memory (s : State) (c : Nat) (f : Stream → Stream) : (updCtx s c f).memory = s.memory := rfl
@[simp] theorem updCtx_grn (s : State) (c : Nat) (f : Stream → Stream) : (updCtx s c f).grn = s.grn := rfl
@[simp] theorem updCtx_err (s : State) (c : Nat) (f : Stream → Stream) : (updCtx s c f).err = s.err := rfl
@[simp] theorem updCtx_power (s : State) (c : Nat) (f : Stream → Stream) : (updCtx s c f).power = s.power := rfl
@[simp] theorem updCtx_sec (s : State) (c : Nat) (f : Stream → Stream) : (updCtx s c f).sec = s.sec := rfl
@[simp] theorem updCtx_mram (s : State) (c : Nat) (f : Stream → Stream) : (updCtx s c f).mram = s.mram := rfl

-- ## updLeg

@[simp] theorem updLeg_pending (s : State) (l : Nat) (f : Leg → Leg) : (updLeg s l f).pending = s.pending := rfl
@[simp] theorem updLeg_out (s : State) (l : Nat) (f : Leg → Leg) : (updLeg s l f).out = s.out := rfl
@[simp] theorem updLeg_fresh (s : State) (l : Nat) (f : Leg → Leg) : (updLeg s l f).fresh = s.fresh := rfl
@[simp] theorem updLeg_regs (s : State) (l : Nat) (f : Leg → Leg) : (updLeg s l f).regs = s.regs := rfl
@[simp] theorem updLeg_shadow (s : State) (l : Nat) (f : Leg → Leg) : (updLeg s l f).shadow = s.shadow := rfl
@[simp] theorem updLeg_time (s : State) (l : Nat) (f : Leg → Leg) : (updLeg s l f).time = s.time := rfl
@[simp] theorem updLeg_spec (s : State) (l : Nat) (f : Leg → Leg) : (updLeg s l f).spec = s.spec := rfl
@[simp] theorem updLeg_hci (s : State) (l : Nat) (f : Leg → Leg) : (updLeg s l f).hci = s.hci := rfl
@[simp] theorem updLeg_oxvan (s : State) (l : Nat) (f : Leg → Leg) : (updLeg s l f).oxvan = s.oxvan := rfl
@[simp] theorem updLeg_mac0 (s : State) (l : Nat) (f : Leg → Leg) : (updLeg s l f).mac0 = s.mac0 := rfl
@[simp] theorem updLeg_mac1 (s : State) (l : Nat) (f : Leg → Leg) : (updLeg s l f).mac1 = s.mac1 := rfl
@[simp] theorem updLeg_mgmt (s : State) (l : Nat) (f : Leg → Leg) : (updLeg s l f).mgmt = s.mgmt := rfl
@[simp] theorem updLeg_units (s : State) (l : Nat) (f : Leg → Leg) : (updLeg s l f).units = s.units := rfl
@[simp] theorem updLeg_sched (s : State) (l : Nat) (f : Leg → Leg) : (updLeg s l f).sched = s.sched := rfl
@[simp] theorem updLeg_dma (s : State) (l : Nat) (f : Leg → Leg) : (updLeg s l f).dma = s.dma := rfl
@[simp] theorem updLeg_memory (s : State) (l : Nat) (f : Leg → Leg) : (updLeg s l f).memory = s.memory := rfl
@[simp] theorem updLeg_grn (s : State) (l : Nat) (f : Leg → Leg) : (updLeg s l f).grn = s.grn := rfl
@[simp] theorem updLeg_err (s : State) (l : Nat) (f : Leg → Leg) : (updLeg s l f).err = s.err := rfl
@[simp] theorem updLeg_power (s : State) (l : Nat) (f : Leg → Leg) : (updLeg s l f).power = s.power := rfl
@[simp] theorem updLeg_sec (s : State) (l : Nat) (f : Leg → Leg) : (updLeg s l f).sec = s.sec := rfl
@[simp] theorem updLeg_mram (s : State) (l : Nat) (f : Leg → Leg) : (updLeg s l f).mram = s.mram := rfl

-- ## setGroup

@[simp] theorem setGroup_pending (s : State) (g : Nat) (x : LaneGroup) : (setGroup s g x).pending = s.pending := rfl
@[simp] theorem setGroup_out (s : State) (g : Nat) (x : LaneGroup) : (setGroup s g x).out = s.out := rfl
@[simp] theorem setGroup_fresh (s : State) (g : Nat) (x : LaneGroup) : (setGroup s g x).fresh = s.fresh := rfl
@[simp] theorem setGroup_regs (s : State) (g : Nat) (x : LaneGroup) : (setGroup s g x).regs = s.regs := rfl
@[simp] theorem setGroup_shadow (s : State) (g : Nat) (x : LaneGroup) : (setGroup s g x).shadow = s.shadow := rfl
@[simp] theorem setGroup_time (s : State) (g : Nat) (x : LaneGroup) : (setGroup s g x).time = s.time := rfl
@[simp] theorem setGroup_spec (s : State) (g : Nat) (x : LaneGroup) : (setGroup s g x).spec = s.spec := rfl
@[simp] theorem setGroup_hci (s : State) (g : Nat) (x : LaneGroup) : (setGroup s g x).hci = s.hci := rfl
@[simp] theorem setGroup_oxvan (s : State) (g : Nat) (x : LaneGroup) : (setGroup s g x).oxvan = s.oxvan := rfl
@[simp] theorem setGroup_mac0 (s : State) (g : Nat) (x : LaneGroup) : (setGroup s g x).mac0 = s.mac0 := rfl
@[simp] theorem setGroup_mac1 (s : State) (g : Nat) (x : LaneGroup) : (setGroup s g x).mac1 = s.mac1 := rfl
@[simp] theorem setGroup_mgmt (s : State) (g : Nat) (x : LaneGroup) : (setGroup s g x).mgmt = s.mgmt := rfl
@[simp] theorem setGroup_units (s : State) (g : Nat) (x : LaneGroup) : (setGroup s g x).units = s.units := rfl
@[simp] theorem setGroup_sched (s : State) (g : Nat) (x : LaneGroup) : (setGroup s g x).sched = s.sched := rfl
@[simp] theorem setGroup_dma (s : State) (g : Nat) (x : LaneGroup) : (setGroup s g x).dma = s.dma := rfl
@[simp] theorem setGroup_memory (s : State) (g : Nat) (x : LaneGroup) : (setGroup s g x).memory = s.memory := rfl
@[simp] theorem setGroup_grn (s : State) (g : Nat) (x : LaneGroup) : (setGroup s g x).grn = s.grn := rfl
@[simp] theorem setGroup_err (s : State) (g : Nat) (x : LaneGroup) : (setGroup s g x).err = s.err := rfl
@[simp] theorem setGroup_power (s : State) (g : Nat) (x : LaneGroup) : (setGroup s g x).power = s.power := rfl
@[simp] theorem setGroup_sec (s : State) (g : Nat) (x : LaneGroup) : (setGroup s g x).sec = s.sec := rfl
@[simp] theorem setGroup_mram (s : State) (g : Nat) (x : LaneGroup) : (setGroup s g x).mram = s.mram := rfl

-- ## setDec

@[simp] theorem setDec_pending (s : State) (d : Nat) (x : Dec) : (setDec s d x).pending = s.pending := rfl
@[simp] theorem setDec_out (s : State) (d : Nat) (x : Dec) : (setDec s d x).out = s.out := rfl
@[simp] theorem setDec_fresh (s : State) (d : Nat) (x : Dec) : (setDec s d x).fresh = s.fresh := rfl
@[simp] theorem setDec_regs (s : State) (d : Nat) (x : Dec) : (setDec s d x).regs = s.regs := rfl
@[simp] theorem setDec_shadow (s : State) (d : Nat) (x : Dec) : (setDec s d x).shadow = s.shadow := rfl
@[simp] theorem setDec_time (s : State) (d : Nat) (x : Dec) : (setDec s d x).time = s.time := rfl
@[simp] theorem setDec_spec (s : State) (d : Nat) (x : Dec) : (setDec s d x).spec = s.spec := rfl
@[simp] theorem setDec_hci (s : State) (d : Nat) (x : Dec) : (setDec s d x).hci = s.hci := rfl
@[simp] theorem setDec_oxvan (s : State) (d : Nat) (x : Dec) : (setDec s d x).oxvan = s.oxvan := rfl
@[simp] theorem setDec_mac0 (s : State) (d : Nat) (x : Dec) : (setDec s d x).mac0 = s.mac0 := rfl
@[simp] theorem setDec_mac1 (s : State) (d : Nat) (x : Dec) : (setDec s d x).mac1 = s.mac1 := rfl
@[simp] theorem setDec_mgmt (s : State) (d : Nat) (x : Dec) : (setDec s d x).mgmt = s.mgmt := rfl
@[simp] theorem setDec_media (s : State) (d : Nat) (x : Dec) : (setDec s d x).media = s.media := rfl
@[simp] theorem setDec_sched (s : State) (d : Nat) (x : Dec) : (setDec s d x).sched = s.sched := rfl
@[simp] theorem setDec_dma (s : State) (d : Nat) (x : Dec) : (setDec s d x).dma = s.dma := rfl
@[simp] theorem setDec_memory (s : State) (d : Nat) (x : Dec) : (setDec s d x).memory = s.memory := rfl
@[simp] theorem setDec_grn (s : State) (d : Nat) (x : Dec) : (setDec s d x).grn = s.grn := rfl
@[simp] theorem setDec_err (s : State) (d : Nat) (x : Dec) : (setDec s d x).err = s.err := rfl
@[simp] theorem setDec_power (s : State) (d : Nat) (x : Dec) : (setDec s d x).power = s.power := rfl
@[simp] theorem setDec_sec (s : State) (d : Nat) (x : Dec) : (setDec s d x).sec = s.sec := rfl
@[simp] theorem setDec_mram (s : State) (d : Nat) (x : Dec) : (setDec s d x).mram = s.mram := rfl

-- ## updDec

@[simp] theorem updDec_pending (s : State) (d : Nat) (f : Dec → Dec) : (updDec s d f).pending = s.pending := rfl
@[simp] theorem updDec_out (s : State) (d : Nat) (f : Dec → Dec) : (updDec s d f).out = s.out := rfl
@[simp] theorem updDec_fresh (s : State) (d : Nat) (f : Dec → Dec) : (updDec s d f).fresh = s.fresh := rfl
@[simp] theorem updDec_regs (s : State) (d : Nat) (f : Dec → Dec) : (updDec s d f).regs = s.regs := rfl
@[simp] theorem updDec_shadow (s : State) (d : Nat) (f : Dec → Dec) : (updDec s d f).shadow = s.shadow := rfl
@[simp] theorem updDec_time (s : State) (d : Nat) (f : Dec → Dec) : (updDec s d f).time = s.time := rfl
@[simp] theorem updDec_spec (s : State) (d : Nat) (f : Dec → Dec) : (updDec s d f).spec = s.spec := rfl
@[simp] theorem updDec_hci (s : State) (d : Nat) (f : Dec → Dec) : (updDec s d f).hci = s.hci := rfl
@[simp] theorem updDec_oxvan (s : State) (d : Nat) (f : Dec → Dec) : (updDec s d f).oxvan = s.oxvan := rfl
@[simp] theorem updDec_mac0 (s : State) (d : Nat) (f : Dec → Dec) : (updDec s d f).mac0 = s.mac0 := rfl
@[simp] theorem updDec_mac1 (s : State) (d : Nat) (f : Dec → Dec) : (updDec s d f).mac1 = s.mac1 := rfl
@[simp] theorem updDec_mgmt (s : State) (d : Nat) (f : Dec → Dec) : (updDec s d f).mgmt = s.mgmt := rfl
@[simp] theorem updDec_media (s : State) (d : Nat) (f : Dec → Dec) : (updDec s d f).media = s.media := rfl
@[simp] theorem updDec_sched (s : State) (d : Nat) (f : Dec → Dec) : (updDec s d f).sched = s.sched := rfl
@[simp] theorem updDec_dma (s : State) (d : Nat) (f : Dec → Dec) : (updDec s d f).dma = s.dma := rfl
@[simp] theorem updDec_memory (s : State) (d : Nat) (f : Dec → Dec) : (updDec s d f).memory = s.memory := rfl
@[simp] theorem updDec_grn (s : State) (d : Nat) (f : Dec → Dec) : (updDec s d f).grn = s.grn := rfl
@[simp] theorem updDec_err (s : State) (d : Nat) (f : Dec → Dec) : (updDec s d f).err = s.err := rfl
@[simp] theorem updDec_power (s : State) (d : Nat) (f : Dec → Dec) : (updDec s d f).power = s.power := rfl
@[simp] theorem updDec_sec (s : State) (d : Nat) (f : Dec → Dec) : (updDec s d f).sec = s.sec := rfl
@[simp] theorem updDec_mram (s : State) (d : Nat) (f : Dec → Dec) : (updDec s d f).mram = s.mram := rfl

-- ## setCanvas

@[simp] theorem setCanvas_pending (s : State) (c : Nat) (x : Canvas) : (setCanvas s c x).pending = s.pending := rfl
@[simp] theorem setCanvas_out (s : State) (c : Nat) (x : Canvas) : (setCanvas s c x).out = s.out := rfl
@[simp] theorem setCanvas_fresh (s : State) (c : Nat) (x : Canvas) : (setCanvas s c x).fresh = s.fresh := rfl
@[simp] theorem setCanvas_regs (s : State) (c : Nat) (x : Canvas) : (setCanvas s c x).regs = s.regs := rfl
@[simp] theorem setCanvas_shadow (s : State) (c : Nat) (x : Canvas) : (setCanvas s c x).shadow = s.shadow := rfl
@[simp] theorem setCanvas_time (s : State) (c : Nat) (x : Canvas) : (setCanvas s c x).time = s.time := rfl
@[simp] theorem setCanvas_spec (s : State) (c : Nat) (x : Canvas) : (setCanvas s c x).spec = s.spec := rfl
@[simp] theorem setCanvas_hci (s : State) (c : Nat) (x : Canvas) : (setCanvas s c x).hci = s.hci := rfl
@[simp] theorem setCanvas_oxvan (s : State) (c : Nat) (x : Canvas) : (setCanvas s c x).oxvan = s.oxvan := rfl
@[simp] theorem setCanvas_mac0 (s : State) (c : Nat) (x : Canvas) : (setCanvas s c x).mac0 = s.mac0 := rfl
@[simp] theorem setCanvas_mac1 (s : State) (c : Nat) (x : Canvas) : (setCanvas s c x).mac1 = s.mac1 := rfl
@[simp] theorem setCanvas_mgmt (s : State) (c : Nat) (x : Canvas) : (setCanvas s c x).mgmt = s.mgmt := rfl
@[simp] theorem setCanvas_media (s : State) (c : Nat) (x : Canvas) : (setCanvas s c x).media = s.media := rfl
@[simp] theorem setCanvas_sched (s : State) (c : Nat) (x : Canvas) : (setCanvas s c x).sched = s.sched := rfl
@[simp] theorem setCanvas_dma (s : State) (c : Nat) (x : Canvas) : (setCanvas s c x).dma = s.dma := rfl
@[simp] theorem setCanvas_memory (s : State) (c : Nat) (x : Canvas) : (setCanvas s c x).memory = s.memory := rfl
@[simp] theorem setCanvas_grn (s : State) (c : Nat) (x : Canvas) : (setCanvas s c x).grn = s.grn := rfl
@[simp] theorem setCanvas_err (s : State) (c : Nat) (x : Canvas) : (setCanvas s c x).err = s.err := rfl
@[simp] theorem setCanvas_power (s : State) (c : Nat) (x : Canvas) : (setCanvas s c x).power = s.power := rfl
@[simp] theorem setCanvas_sec (s : State) (c : Nat) (x : Canvas) : (setCanvas s c x).sec = s.sec := rfl
@[simp] theorem setCanvas_mram (s : State) (c : Nat) (x : Canvas) : (setCanvas s c x).mram = s.mram := rfl

-- ## updCanvas

@[simp] theorem updCanvas_pending (s : State) (c : Nat) (f : Canvas → Canvas) : (updCanvas s c f).pending = s.pending := rfl
@[simp] theorem updCanvas_out (s : State) (c : Nat) (f : Canvas → Canvas) : (updCanvas s c f).out = s.out := rfl
@[simp] theorem updCanvas_fresh (s : State) (c : Nat) (f : Canvas → Canvas) : (updCanvas s c f).fresh = s.fresh := rfl
@[simp] theorem updCanvas_regs (s : State) (c : Nat) (f : Canvas → Canvas) : (updCanvas s c f).regs = s.regs := rfl
@[simp] theorem updCanvas_shadow (s : State) (c : Nat) (f : Canvas → Canvas) : (updCanvas s c f).shadow = s.shadow := rfl
@[simp] theorem updCanvas_time (s : State) (c : Nat) (f : Canvas → Canvas) : (updCanvas s c f).time = s.time := rfl
@[simp] theorem updCanvas_spec (s : State) (c : Nat) (f : Canvas → Canvas) : (updCanvas s c f).spec = s.spec := rfl
@[simp] theorem updCanvas_hci (s : State) (c : Nat) (f : Canvas → Canvas) : (updCanvas s c f).hci = s.hci := rfl
@[simp] theorem updCanvas_oxvan (s : State) (c : Nat) (f : Canvas → Canvas) : (updCanvas s c f).oxvan = s.oxvan := rfl
@[simp] theorem updCanvas_mac0 (s : State) (c : Nat) (f : Canvas → Canvas) : (updCanvas s c f).mac0 = s.mac0 := rfl
@[simp] theorem updCanvas_mac1 (s : State) (c : Nat) (f : Canvas → Canvas) : (updCanvas s c f).mac1 = s.mac1 := rfl
@[simp] theorem updCanvas_mgmt (s : State) (c : Nat) (f : Canvas → Canvas) : (updCanvas s c f).mgmt = s.mgmt := rfl
@[simp] theorem updCanvas_media (s : State) (c : Nat) (f : Canvas → Canvas) : (updCanvas s c f).media = s.media := rfl
@[simp] theorem updCanvas_sched (s : State) (c : Nat) (f : Canvas → Canvas) : (updCanvas s c f).sched = s.sched := rfl
@[simp] theorem updCanvas_dma (s : State) (c : Nat) (f : Canvas → Canvas) : (updCanvas s c f).dma = s.dma := rfl
@[simp] theorem updCanvas_memory (s : State) (c : Nat) (f : Canvas → Canvas) : (updCanvas s c f).memory = s.memory := rfl
@[simp] theorem updCanvas_grn (s : State) (c : Nat) (f : Canvas → Canvas) : (updCanvas s c f).grn = s.grn := rfl
@[simp] theorem updCanvas_err (s : State) (c : Nat) (f : Canvas → Canvas) : (updCanvas s c f).err = s.err := rfl
@[simp] theorem updCanvas_power (s : State) (c : Nat) (f : Canvas → Canvas) : (updCanvas s c f).power = s.power := rfl
@[simp] theorem updCanvas_sec (s : State) (c : Nat) (f : Canvas → Canvas) : (updCanvas s c f).sec = s.sec := rfl
@[simp] theorem updCanvas_mram (s : State) (c : Nat) (f : Canvas → Canvas) : (updCanvas s c f).mram = s.mram := rfl

-- ## setEnc

@[simp] theorem setEnc_pending (s : State) (c : Nat) (x : Enc) : (setEnc s c x).pending = s.pending := rfl
@[simp] theorem setEnc_out (s : State) (c : Nat) (x : Enc) : (setEnc s c x).out = s.out := rfl
@[simp] theorem setEnc_fresh (s : State) (c : Nat) (x : Enc) : (setEnc s c x).fresh = s.fresh := rfl
@[simp] theorem setEnc_regs (s : State) (c : Nat) (x : Enc) : (setEnc s c x).regs = s.regs := rfl
@[simp] theorem setEnc_shadow (s : State) (c : Nat) (x : Enc) : (setEnc s c x).shadow = s.shadow := rfl
@[simp] theorem setEnc_time (s : State) (c : Nat) (x : Enc) : (setEnc s c x).time = s.time := rfl
@[simp] theorem setEnc_spec (s : State) (c : Nat) (x : Enc) : (setEnc s c x).spec = s.spec := rfl
@[simp] theorem setEnc_hci (s : State) (c : Nat) (x : Enc) : (setEnc s c x).hci = s.hci := rfl
@[simp] theorem setEnc_oxvan (s : State) (c : Nat) (x : Enc) : (setEnc s c x).oxvan = s.oxvan := rfl
@[simp] theorem setEnc_mac0 (s : State) (c : Nat) (x : Enc) : (setEnc s c x).mac0 = s.mac0 := rfl
@[simp] theorem setEnc_mac1 (s : State) (c : Nat) (x : Enc) : (setEnc s c x).mac1 = s.mac1 := rfl
@[simp] theorem setEnc_mgmt (s : State) (c : Nat) (x : Enc) : (setEnc s c x).mgmt = s.mgmt := rfl
@[simp] theorem setEnc_media (s : State) (c : Nat) (x : Enc) : (setEnc s c x).media = s.media := rfl
@[simp] theorem setEnc_sched (s : State) (c : Nat) (x : Enc) : (setEnc s c x).sched = s.sched := rfl
@[simp] theorem setEnc_dma (s : State) (c : Nat) (x : Enc) : (setEnc s c x).dma = s.dma := rfl
@[simp] theorem setEnc_memory (s : State) (c : Nat) (x : Enc) : (setEnc s c x).memory = s.memory := rfl
@[simp] theorem setEnc_grn (s : State) (c : Nat) (x : Enc) : (setEnc s c x).grn = s.grn := rfl
@[simp] theorem setEnc_err (s : State) (c : Nat) (x : Enc) : (setEnc s c x).err = s.err := rfl
@[simp] theorem setEnc_power (s : State) (c : Nat) (x : Enc) : (setEnc s c x).power = s.power := rfl
@[simp] theorem setEnc_sec (s : State) (c : Nat) (x : Enc) : (setEnc s c x).sec = s.sec := rfl
@[simp] theorem setEnc_mram (s : State) (c : Nat) (x : Enc) : (setEnc s c x).mram = s.mram := rfl

-- ## updEnc

@[simp] theorem updEnc_pending (s : State) (c : Nat) (f : Enc → Enc) : (updEnc s c f).pending = s.pending := rfl
@[simp] theorem updEnc_out (s : State) (c : Nat) (f : Enc → Enc) : (updEnc s c f).out = s.out := rfl
@[simp] theorem updEnc_fresh (s : State) (c : Nat) (f : Enc → Enc) : (updEnc s c f).fresh = s.fresh := rfl
@[simp] theorem updEnc_regs (s : State) (c : Nat) (f : Enc → Enc) : (updEnc s c f).regs = s.regs := rfl
@[simp] theorem updEnc_shadow (s : State) (c : Nat) (f : Enc → Enc) : (updEnc s c f).shadow = s.shadow := rfl
@[simp] theorem updEnc_time (s : State) (c : Nat) (f : Enc → Enc) : (updEnc s c f).time = s.time := rfl
@[simp] theorem updEnc_spec (s : State) (c : Nat) (f : Enc → Enc) : (updEnc s c f).spec = s.spec := rfl
@[simp] theorem updEnc_hci (s : State) (c : Nat) (f : Enc → Enc) : (updEnc s c f).hci = s.hci := rfl
@[simp] theorem updEnc_oxvan (s : State) (c : Nat) (f : Enc → Enc) : (updEnc s c f).oxvan = s.oxvan := rfl
@[simp] theorem updEnc_mac0 (s : State) (c : Nat) (f : Enc → Enc) : (updEnc s c f).mac0 = s.mac0 := rfl
@[simp] theorem updEnc_mac1 (s : State) (c : Nat) (f : Enc → Enc) : (updEnc s c f).mac1 = s.mac1 := rfl
@[simp] theorem updEnc_mgmt (s : State) (c : Nat) (f : Enc → Enc) : (updEnc s c f).mgmt = s.mgmt := rfl
@[simp] theorem updEnc_media (s : State) (c : Nat) (f : Enc → Enc) : (updEnc s c f).media = s.media := rfl
@[simp] theorem updEnc_sched (s : State) (c : Nat) (f : Enc → Enc) : (updEnc s c f).sched = s.sched := rfl
@[simp] theorem updEnc_dma (s : State) (c : Nat) (f : Enc → Enc) : (updEnc s c f).dma = s.dma := rfl
@[simp] theorem updEnc_memory (s : State) (c : Nat) (f : Enc → Enc) : (updEnc s c f).memory = s.memory := rfl
@[simp] theorem updEnc_grn (s : State) (c : Nat) (f : Enc → Enc) : (updEnc s c f).grn = s.grn := rfl
@[simp] theorem updEnc_err (s : State) (c : Nat) (f : Enc → Enc) : (updEnc s c f).err = s.err := rfl
@[simp] theorem updEnc_power (s : State) (c : Nat) (f : Enc → Enc) : (updEnc s c f).power = s.power := rfl
@[simp] theorem updEnc_sec (s : State) (c : Nat) (f : Enc → Enc) : (updEnc s c f).sec = s.sec := rfl
@[simp] theorem updEnc_mram (s : State) (c : Nat) (f : Enc → Enc) : (updEnc s c f).mram = s.mram := rfl

-- ## setMix

@[simp] theorem setMix_pending (s : State) (g : Nat) (m : Mix) : (setMix s g m).pending = s.pending := rfl
@[simp] theorem setMix_out (s : State) (g : Nat) (m : Mix) : (setMix s g m).out = s.out := rfl
@[simp] theorem setMix_fresh (s : State) (g : Nat) (m : Mix) : (setMix s g m).fresh = s.fresh := rfl
@[simp] theorem setMix_regs (s : State) (g : Nat) (m : Mix) : (setMix s g m).regs = s.regs := rfl
@[simp] theorem setMix_shadow (s : State) (g : Nat) (m : Mix) : (setMix s g m).shadow = s.shadow := rfl
@[simp] theorem setMix_time (s : State) (g : Nat) (m : Mix) : (setMix s g m).time = s.time := rfl
@[simp] theorem setMix_spec (s : State) (g : Nat) (m : Mix) : (setMix s g m).spec = s.spec := rfl
@[simp] theorem setMix_hci (s : State) (g : Nat) (m : Mix) : (setMix s g m).hci = s.hci := rfl
@[simp] theorem setMix_oxvan (s : State) (g : Nat) (m : Mix) : (setMix s g m).oxvan = s.oxvan := rfl
@[simp] theorem setMix_mac0 (s : State) (g : Nat) (m : Mix) : (setMix s g m).mac0 = s.mac0 := rfl
@[simp] theorem setMix_mac1 (s : State) (g : Nat) (m : Mix) : (setMix s g m).mac1 = s.mac1 := rfl
@[simp] theorem setMix_mgmt (s : State) (g : Nat) (m : Mix) : (setMix s g m).mgmt = s.mgmt := rfl
@[simp] theorem setMix_media (s : State) (g : Nat) (m : Mix) : (setMix s g m).media = s.media := rfl
@[simp] theorem setMix_sched (s : State) (g : Nat) (m : Mix) : (setMix s g m).sched = s.sched := rfl
@[simp] theorem setMix_dma (s : State) (g : Nat) (m : Mix) : (setMix s g m).dma = s.dma := rfl
@[simp] theorem setMix_memory (s : State) (g : Nat) (m : Mix) : (setMix s g m).memory = s.memory := rfl
@[simp] theorem setMix_grn (s : State) (g : Nat) (m : Mix) : (setMix s g m).grn = s.grn := rfl
@[simp] theorem setMix_err (s : State) (g : Nat) (m : Mix) : (setMix s g m).err = s.err := rfl
@[simp] theorem setMix_power (s : State) (g : Nat) (m : Mix) : (setMix s g m).power = s.power := rfl
@[simp] theorem setMix_sec (s : State) (g : Nat) (m : Mix) : (setMix s g m).sec = s.sec := rfl
@[simp] theorem setMix_mram (s : State) (g : Nat) (m : Mix) : (setMix s g m).mram = s.mram := rfl

-- ## updMix

@[simp] theorem updMix_pending (s : State) (g : Nat) (f : Mix → Mix) : (updMix s g f).pending = s.pending := rfl
@[simp] theorem updMix_out (s : State) (g : Nat) (f : Mix → Mix) : (updMix s g f).out = s.out := rfl
@[simp] theorem updMix_fresh (s : State) (g : Nat) (f : Mix → Mix) : (updMix s g f).fresh = s.fresh := rfl
@[simp] theorem updMix_regs (s : State) (g : Nat) (f : Mix → Mix) : (updMix s g f).regs = s.regs := rfl
@[simp] theorem updMix_shadow (s : State) (g : Nat) (f : Mix → Mix) : (updMix s g f).shadow = s.shadow := rfl
@[simp] theorem updMix_time (s : State) (g : Nat) (f : Mix → Mix) : (updMix s g f).time = s.time := rfl
@[simp] theorem updMix_spec (s : State) (g : Nat) (f : Mix → Mix) : (updMix s g f).spec = s.spec := rfl
@[simp] theorem updMix_hci (s : State) (g : Nat) (f : Mix → Mix) : (updMix s g f).hci = s.hci := rfl
@[simp] theorem updMix_oxvan (s : State) (g : Nat) (f : Mix → Mix) : (updMix s g f).oxvan = s.oxvan := rfl
@[simp] theorem updMix_mac0 (s : State) (g : Nat) (f : Mix → Mix) : (updMix s g f).mac0 = s.mac0 := rfl
@[simp] theorem updMix_mac1 (s : State) (g : Nat) (f : Mix → Mix) : (updMix s g f).mac1 = s.mac1 := rfl
@[simp] theorem updMix_mgmt (s : State) (g : Nat) (f : Mix → Mix) : (updMix s g f).mgmt = s.mgmt := rfl
@[simp] theorem updMix_media (s : State) (g : Nat) (f : Mix → Mix) : (updMix s g f).media = s.media := rfl
@[simp] theorem updMix_sched (s : State) (g : Nat) (f : Mix → Mix) : (updMix s g f).sched = s.sched := rfl
@[simp] theorem updMix_dma (s : State) (g : Nat) (f : Mix → Mix) : (updMix s g f).dma = s.dma := rfl
@[simp] theorem updMix_memory (s : State) (g : Nat) (f : Mix → Mix) : (updMix s g f).memory = s.memory := rfl
@[simp] theorem updMix_grn (s : State) (g : Nat) (f : Mix → Mix) : (updMix s g f).grn = s.grn := rfl
@[simp] theorem updMix_err (s : State) (g : Nat) (f : Mix → Mix) : (updMix s g f).err = s.err := rfl
@[simp] theorem updMix_power (s : State) (g : Nat) (f : Mix → Mix) : (updMix s g f).power = s.power := rfl
@[simp] theorem updMix_sec (s : State) (g : Nat) (f : Mix → Mix) : (updMix s g f).sec = s.sec := rfl
@[simp] theorem updMix_mram (s : State) (g : Nat) (f : Mix → Mix) : (updMix s g f).mram = s.mram := rfl

-- ## setLane

@[simp] theorem setLane_pending (s : State) (l : Nat) (ln : Lane) : (setLane s l ln).pending = s.pending := rfl
@[simp] theorem setLane_out (s : State) (l : Nat) (ln : Lane) : (setLane s l ln).out = s.out := rfl
@[simp] theorem setLane_fresh (s : State) (l : Nat) (ln : Lane) : (setLane s l ln).fresh = s.fresh := rfl
@[simp] theorem setLane_regs (s : State) (l : Nat) (ln : Lane) : (setLane s l ln).regs = s.regs := rfl
@[simp] theorem setLane_shadow (s : State) (l : Nat) (ln : Lane) : (setLane s l ln).shadow = s.shadow := rfl
@[simp] theorem setLane_time (s : State) (l : Nat) (ln : Lane) : (setLane s l ln).time = s.time := rfl
@[simp] theorem setLane_spec (s : State) (l : Nat) (ln : Lane) : (setLane s l ln).spec = s.spec := rfl
@[simp] theorem setLane_hci (s : State) (l : Nat) (ln : Lane) : (setLane s l ln).hci = s.hci := rfl
@[simp] theorem setLane_oxvan (s : State) (l : Nat) (ln : Lane) : (setLane s l ln).oxvan = s.oxvan := rfl
@[simp] theorem setLane_mac0 (s : State) (l : Nat) (ln : Lane) : (setLane s l ln).mac0 = s.mac0 := rfl
@[simp] theorem setLane_mac1 (s : State) (l : Nat) (ln : Lane) : (setLane s l ln).mac1 = s.mac1 := rfl
@[simp] theorem setLane_mgmt (s : State) (l : Nat) (ln : Lane) : (setLane s l ln).mgmt = s.mgmt := rfl
@[simp] theorem setLane_units (s : State) (l : Nat) (ln : Lane) : (setLane s l ln).units = s.units := rfl
@[simp] theorem setLane_sched (s : State) (l : Nat) (ln : Lane) : (setLane s l ln).sched = s.sched := rfl
@[simp] theorem setLane_dma (s : State) (l : Nat) (ln : Lane) : (setLane s l ln).dma = s.dma := rfl
@[simp] theorem setLane_memory (s : State) (l : Nat) (ln : Lane) : (setLane s l ln).memory = s.memory := rfl
@[simp] theorem setLane_grn (s : State) (l : Nat) (ln : Lane) : (setLane s l ln).grn = s.grn := rfl
@[simp] theorem setLane_err (s : State) (l : Nat) (ln : Lane) : (setLane s l ln).err = s.err := rfl
@[simp] theorem setLane_power (s : State) (l : Nat) (ln : Lane) : (setLane s l ln).power = s.power := rfl
@[simp] theorem setLane_sec (s : State) (l : Nat) (ln : Lane) : (setLane s l ln).sec = s.sec := rfl
@[simp] theorem setLane_mram (s : State) (l : Nat) (ln : Lane) : (setLane s l ln).mram = s.mram := rfl

-- ## setSec

@[simp] theorem setSec_pending (s : State) (f : Sec → Sec) : (setSec s f).pending = s.pending := rfl
@[simp] theorem setSec_out (s : State) (f : Sec → Sec) : (setSec s f).out = s.out := rfl
@[simp] theorem setSec_fresh (s : State) (f : Sec → Sec) : (setSec s f).fresh = s.fresh := rfl
@[simp] theorem setSec_regs (s : State) (f : Sec → Sec) : (setSec s f).regs = s.regs := rfl
@[simp] theorem setSec_shadow (s : State) (f : Sec → Sec) : (setSec s f).shadow = s.shadow := rfl
@[simp] theorem setSec_time (s : State) (f : Sec → Sec) : (setSec s f).time = s.time := rfl
@[simp] theorem setSec_spec (s : State) (f : Sec → Sec) : (setSec s f).spec = s.spec := rfl
@[simp] theorem setSec_hci (s : State) (f : Sec → Sec) : (setSec s f).hci = s.hci := rfl
@[simp] theorem setSec_oxvan (s : State) (f : Sec → Sec) : (setSec s f).oxvan = s.oxvan := rfl
@[simp] theorem setSec_mac0 (s : State) (f : Sec → Sec) : (setSec s f).mac0 = s.mac0 := rfl
@[simp] theorem setSec_mac1 (s : State) (f : Sec → Sec) : (setSec s f).mac1 = s.mac1 := rfl
@[simp] theorem setSec_mgmt (s : State) (f : Sec → Sec) : (setSec s f).mgmt = s.mgmt := rfl
@[simp] theorem setSec_media (s : State) (f : Sec → Sec) : (setSec s f).media = s.media := rfl
@[simp] theorem setSec_units (s : State) (f : Sec → Sec) : (setSec s f).units = s.units := rfl
@[simp] theorem setSec_sched (s : State) (f : Sec → Sec) : (setSec s f).sched = s.sched := rfl
@[simp] theorem setSec_dma (s : State) (f : Sec → Sec) : (setSec s f).dma = s.dma := rfl
@[simp] theorem setSec_memory (s : State) (f : Sec → Sec) : (setSec s f).memory = s.memory := rfl
@[simp] theorem setSec_grn (s : State) (f : Sec → Sec) : (setSec s f).grn = s.grn := rfl
@[simp] theorem setSec_err (s : State) (f : Sec → Sec) : (setSec s f).err = s.err := rfl
@[simp] theorem setSec_power (s : State) (f : Sec → Sec) : (setSec s f).power = s.power := rfl
@[simp] theorem setSec_mram (s : State) (f : Sec → Sec) : (setSec s f).mram = s.mram := rfl

-- ## setGrnPort

@[simp] theorem setGrnPort_pending (s : State) (p : Nat) (g : GrnPort) : (setGrnPort s p g).pending = s.pending := by
  unfold setGrnPort; split <;> rfl
@[simp] theorem setGrnPort_out (s : State) (p : Nat) (g : GrnPort) : (setGrnPort s p g).out = s.out := by
  unfold setGrnPort; split <;> rfl
@[simp] theorem setGrnPort_fresh (s : State) (p : Nat) (g : GrnPort) : (setGrnPort s p g).fresh = s.fresh := by
  unfold setGrnPort; split <;> rfl
@[simp] theorem setGrnPort_regs (s : State) (p : Nat) (g : GrnPort) : (setGrnPort s p g).regs = s.regs := by
  unfold setGrnPort; split <;> rfl
@[simp] theorem setGrnPort_shadow (s : State) (p : Nat) (g : GrnPort) : (setGrnPort s p g).shadow = s.shadow := by
  unfold setGrnPort; split <;> rfl
@[simp] theorem setGrnPort_time (s : State) (p : Nat) (g : GrnPort) : (setGrnPort s p g).time = s.time := by
  unfold setGrnPort; split <;> rfl
@[simp] theorem setGrnPort_spec (s : State) (p : Nat) (g : GrnPort) : (setGrnPort s p g).spec = s.spec := by
  unfold setGrnPort; split <;> rfl
@[simp] theorem setGrnPort_hci (s : State) (p : Nat) (g : GrnPort) : (setGrnPort s p g).hci = s.hci := by
  unfold setGrnPort; split <;> rfl
@[simp] theorem setGrnPort_oxvan (s : State) (p : Nat) (g : GrnPort) : (setGrnPort s p g).oxvan = s.oxvan := by
  unfold setGrnPort; split <;> rfl
@[simp] theorem setGrnPort_mac0 (s : State) (p : Nat) (g : GrnPort) : (setGrnPort s p g).mac0 = s.mac0 := by
  unfold setGrnPort; split <;> rfl
@[simp] theorem setGrnPort_mac1 (s : State) (p : Nat) (g : GrnPort) : (setGrnPort s p g).mac1 = s.mac1 := by
  unfold setGrnPort; split <;> rfl
@[simp] theorem setGrnPort_mgmt (s : State) (p : Nat) (g : GrnPort) : (setGrnPort s p g).mgmt = s.mgmt := by
  unfold setGrnPort; split <;> rfl
@[simp] theorem setGrnPort_media (s : State) (p : Nat) (g : GrnPort) : (setGrnPort s p g).media = s.media := by
  unfold setGrnPort; split <;> rfl
@[simp] theorem setGrnPort_units (s : State) (p : Nat) (g : GrnPort) : (setGrnPort s p g).units = s.units := by
  unfold setGrnPort; split <;> rfl
@[simp] theorem setGrnPort_sched (s : State) (p : Nat) (g : GrnPort) : (setGrnPort s p g).sched = s.sched := by
  unfold setGrnPort; split <;> rfl
@[simp] theorem setGrnPort_dma (s : State) (p : Nat) (g : GrnPort) : (setGrnPort s p g).dma = s.dma := by
  unfold setGrnPort; split <;> rfl
@[simp] theorem setGrnPort_memory (s : State) (p : Nat) (g : GrnPort) : (setGrnPort s p g).memory = s.memory := by
  unfold setGrnPort; split <;> rfl
@[simp] theorem setGrnPort_err (s : State) (p : Nat) (g : GrnPort) : (setGrnPort s p g).err = s.err := by
  unfold setGrnPort; split <;> rfl
@[simp] theorem setGrnPort_power (s : State) (p : Nat) (g : GrnPort) : (setGrnPort s p g).power = s.power := by
  unfold setGrnPort; split <;> rfl
@[simp] theorem setGrnPort_sec (s : State) (p : Nat) (g : GrnPort) : (setGrnPort s p g).sec = s.sec := by
  unfold setGrnPort; split <;> rfl
@[simp] theorem setGrnPort_mram (s : State) (p : Nat) (g : GrnPort) : (setGrnPort s p g).mram = s.mram := by
  unfold setGrnPort; split <;> rfl

-- ## updGrnPort

@[simp] theorem updGrnPort_pending (s : State) (p : Nat) (f : GrnPort → GrnPort) : (updGrnPort s p f).pending = s.pending := setGrnPort_pending _ _ _
@[simp] theorem updGrnPort_out (s : State) (p : Nat) (f : GrnPort → GrnPort) : (updGrnPort s p f).out = s.out := setGrnPort_out _ _ _
@[simp] theorem updGrnPort_fresh (s : State) (p : Nat) (f : GrnPort → GrnPort) : (updGrnPort s p f).fresh = s.fresh := setGrnPort_fresh _ _ _
@[simp] theorem updGrnPort_regs (s : State) (p : Nat) (f : GrnPort → GrnPort) : (updGrnPort s p f).regs = s.regs := setGrnPort_regs _ _ _
@[simp] theorem updGrnPort_shadow (s : State) (p : Nat) (f : GrnPort → GrnPort) : (updGrnPort s p f).shadow = s.shadow := setGrnPort_shadow _ _ _
@[simp] theorem updGrnPort_time (s : State) (p : Nat) (f : GrnPort → GrnPort) : (updGrnPort s p f).time = s.time := setGrnPort_time _ _ _
@[simp] theorem updGrnPort_spec (s : State) (p : Nat) (f : GrnPort → GrnPort) : (updGrnPort s p f).spec = s.spec := setGrnPort_spec _ _ _
@[simp] theorem updGrnPort_hci (s : State) (p : Nat) (f : GrnPort → GrnPort) : (updGrnPort s p f).hci = s.hci := setGrnPort_hci _ _ _
@[simp] theorem updGrnPort_oxvan (s : State) (p : Nat) (f : GrnPort → GrnPort) : (updGrnPort s p f).oxvan = s.oxvan := setGrnPort_oxvan _ _ _
@[simp] theorem updGrnPort_mac0 (s : State) (p : Nat) (f : GrnPort → GrnPort) : (updGrnPort s p f).mac0 = s.mac0 := setGrnPort_mac0 _ _ _
@[simp] theorem updGrnPort_mac1 (s : State) (p : Nat) (f : GrnPort → GrnPort) : (updGrnPort s p f).mac1 = s.mac1 := setGrnPort_mac1 _ _ _
@[simp] theorem updGrnPort_mgmt (s : State) (p : Nat) (f : GrnPort → GrnPort) : (updGrnPort s p f).mgmt = s.mgmt := setGrnPort_mgmt _ _ _
@[simp] theorem updGrnPort_media (s : State) (p : Nat) (f : GrnPort → GrnPort) : (updGrnPort s p f).media = s.media := setGrnPort_media _ _ _
@[simp] theorem updGrnPort_units (s : State) (p : Nat) (f : GrnPort → GrnPort) : (updGrnPort s p f).units = s.units := setGrnPort_units _ _ _
@[simp] theorem updGrnPort_sched (s : State) (p : Nat) (f : GrnPort → GrnPort) : (updGrnPort s p f).sched = s.sched := setGrnPort_sched _ _ _
@[simp] theorem updGrnPort_dma (s : State) (p : Nat) (f : GrnPort → GrnPort) : (updGrnPort s p f).dma = s.dma := setGrnPort_dma _ _ _
@[simp] theorem updGrnPort_memory (s : State) (p : Nat) (f : GrnPort → GrnPort) : (updGrnPort s p f).memory = s.memory := setGrnPort_memory _ _ _
@[simp] theorem updGrnPort_err (s : State) (p : Nat) (f : GrnPort → GrnPort) : (updGrnPort s p f).err = s.err := setGrnPort_err _ _ _
@[simp] theorem updGrnPort_power (s : State) (p : Nat) (f : GrnPort → GrnPort) : (updGrnPort s p f).power = s.power := setGrnPort_power _ _ _
@[simp] theorem updGrnPort_sec (s : State) (p : Nat) (f : GrnPort → GrnPort) : (updGrnPort s p f).sec = s.sec := setGrnPort_sec _ _ _
@[simp] theorem updGrnPort_mram (s : State) (p : Nat) (f : GrnPort → GrnPort) : (updGrnPort s p f).mram = s.mram := setGrnPort_mram _ _ _

-- ## setMac

@[simp] theorem setMac_pending (s : State) (port : Nat) (m : Mac) : (setMac s port m).pending = s.pending := by
  unfold setMac; split <;> rfl
@[simp] theorem setMac_out (s : State) (port : Nat) (m : Mac) : (setMac s port m).out = s.out := by
  unfold setMac; split <;> rfl
@[simp] theorem setMac_fresh (s : State) (port : Nat) (m : Mac) : (setMac s port m).fresh = s.fresh := by
  unfold setMac; split <;> rfl
@[simp] theorem setMac_regs (s : State) (port : Nat) (m : Mac) : (setMac s port m).regs = s.regs := by
  unfold setMac; split <;> rfl
@[simp] theorem setMac_shadow (s : State) (port : Nat) (m : Mac) : (setMac s port m).shadow = s.shadow := by
  unfold setMac; split <;> rfl
@[simp] theorem setMac_time (s : State) (port : Nat) (m : Mac) : (setMac s port m).time = s.time := by
  unfold setMac; split <;> rfl
@[simp] theorem setMac_spec (s : State) (port : Nat) (m : Mac) : (setMac s port m).spec = s.spec := by
  unfold setMac; split <;> rfl
@[simp] theorem setMac_hci (s : State) (port : Nat) (m : Mac) : (setMac s port m).hci = s.hci := by
  unfold setMac; split <;> rfl
@[simp] theorem setMac_oxvan (s : State) (port : Nat) (m : Mac) : (setMac s port m).oxvan = s.oxvan := by
  unfold setMac; split <;> rfl
@[simp] theorem setMac_mgmt (s : State) (port : Nat) (m : Mac) : (setMac s port m).mgmt = s.mgmt := by
  unfold setMac; split <;> rfl
@[simp] theorem setMac_media (s : State) (port : Nat) (m : Mac) : (setMac s port m).media = s.media := by
  unfold setMac; split <;> rfl
@[simp] theorem setMac_units (s : State) (port : Nat) (m : Mac) : (setMac s port m).units = s.units := by
  unfold setMac; split <;> rfl
@[simp] theorem setMac_sched (s : State) (port : Nat) (m : Mac) : (setMac s port m).sched = s.sched := by
  unfold setMac; split <;> rfl
@[simp] theorem setMac_dma (s : State) (port : Nat) (m : Mac) : (setMac s port m).dma = s.dma := by
  unfold setMac; split <;> rfl
@[simp] theorem setMac_memory (s : State) (port : Nat) (m : Mac) : (setMac s port m).memory = s.memory := by
  unfold setMac; split <;> rfl
@[simp] theorem setMac_grn (s : State) (port : Nat) (m : Mac) : (setMac s port m).grn = s.grn := by
  unfold setMac; split <;> rfl
@[simp] theorem setMac_err (s : State) (port : Nat) (m : Mac) : (setMac s port m).err = s.err := by
  unfold setMac; split <;> rfl
@[simp] theorem setMac_power (s : State) (port : Nat) (m : Mac) : (setMac s port m).power = s.power := by
  unfold setMac; split <;> rfl
@[simp] theorem setMac_sec (s : State) (port : Nat) (m : Mac) : (setMac s port m).sec = s.sec := by
  unfold setMac; split <;> rfl
@[simp] theorem setMac_mram (s : State) (port : Nat) (m : Mac) : (setMac s port m).mram = s.mram := by
  unfold setMac; split <;> rfl

-- ## setEngine

@[simp] theorem setEngine_pending (s : State) (e : Nat) (x : Engine) : (setEngine s e x).pending = s.pending := by
  unfold setEngine; split <;> rfl
@[simp] theorem setEngine_out (s : State) (e : Nat) (x : Engine) : (setEngine s e x).out = s.out := by
  unfold setEngine; split <;> rfl
@[simp] theorem setEngine_fresh (s : State) (e : Nat) (x : Engine) : (setEngine s e x).fresh = s.fresh := by
  unfold setEngine; split <;> rfl
@[simp] theorem setEngine_regs (s : State) (e : Nat) (x : Engine) : (setEngine s e x).regs = s.regs := by
  unfold setEngine; split <;> rfl
@[simp] theorem setEngine_shadow (s : State) (e : Nat) (x : Engine) : (setEngine s e x).shadow = s.shadow := by
  unfold setEngine; split <;> rfl
@[simp] theorem setEngine_time (s : State) (e : Nat) (x : Engine) : (setEngine s e x).time = s.time := by
  unfold setEngine; split <;> rfl
@[simp] theorem setEngine_spec (s : State) (e : Nat) (x : Engine) : (setEngine s e x).spec = s.spec := by
  unfold setEngine; split <;> rfl
@[simp] theorem setEngine_hci (s : State) (e : Nat) (x : Engine) : (setEngine s e x).hci = s.hci := by
  unfold setEngine; split <;> rfl
@[simp] theorem setEngine_oxvan (s : State) (e : Nat) (x : Engine) : (setEngine s e x).oxvan = s.oxvan := by
  unfold setEngine; split <;> rfl
@[simp] theorem setEngine_mac0 (s : State) (e : Nat) (x : Engine) : (setEngine s e x).mac0 = s.mac0 := by
  unfold setEngine; split <;> rfl
@[simp] theorem setEngine_mac1 (s : State) (e : Nat) (x : Engine) : (setEngine s e x).mac1 = s.mac1 := by
  unfold setEngine; split <;> rfl
@[simp] theorem setEngine_mgmt (s : State) (e : Nat) (x : Engine) : (setEngine s e x).mgmt = s.mgmt := by
  unfold setEngine; split <;> rfl
@[simp] theorem setEngine_units (s : State) (e : Nat) (x : Engine) : (setEngine s e x).units = s.units := by
  unfold setEngine; split <;> rfl
@[simp] theorem setEngine_sched (s : State) (e : Nat) (x : Engine) : (setEngine s e x).sched = s.sched := by
  unfold setEngine; split <;> rfl
@[simp] theorem setEngine_dma (s : State) (e : Nat) (x : Engine) : (setEngine s e x).dma = s.dma := by
  unfold setEngine; split <;> rfl
@[simp] theorem setEngine_memory (s : State) (e : Nat) (x : Engine) : (setEngine s e x).memory = s.memory := by
  unfold setEngine; split <;> rfl
@[simp] theorem setEngine_grn (s : State) (e : Nat) (x : Engine) : (setEngine s e x).grn = s.grn := by
  unfold setEngine; split <;> rfl
@[simp] theorem setEngine_err (s : State) (e : Nat) (x : Engine) : (setEngine s e x).err = s.err := by
  unfold setEngine; split <;> rfl
@[simp] theorem setEngine_power (s : State) (e : Nat) (x : Engine) : (setEngine s e x).power = s.power := by
  unfold setEngine; split <;> rfl
@[simp] theorem setEngine_sec (s : State) (e : Nat) (x : Engine) : (setEngine s e x).sec = s.sec := by
  unfold setEngine; split <;> rfl
@[simp] theorem setEngine_mram (s : State) (e : Nat) (x : Engine) : (setEngine s e x).mram = s.mram := by
  unfold setEngine; split <;> rfl

-- ## setPsu

@[simp] theorem setPsu_pending (s : State) (k : Nat) (x : Supply) : (setPsu s k x).pending = s.pending := by
  unfold setPsu; split <;> rfl
@[simp] theorem setPsu_out (s : State) (k : Nat) (x : Supply) : (setPsu s k x).out = s.out := by
  unfold setPsu; split <;> rfl
@[simp] theorem setPsu_fresh (s : State) (k : Nat) (x : Supply) : (setPsu s k x).fresh = s.fresh := by
  unfold setPsu; split <;> rfl
@[simp] theorem setPsu_regs (s : State) (k : Nat) (x : Supply) : (setPsu s k x).regs = s.regs := by
  unfold setPsu; split <;> rfl
@[simp] theorem setPsu_shadow (s : State) (k : Nat) (x : Supply) : (setPsu s k x).shadow = s.shadow := by
  unfold setPsu; split <;> rfl
@[simp] theorem setPsu_time (s : State) (k : Nat) (x : Supply) : (setPsu s k x).time = s.time := by
  unfold setPsu; split <;> rfl
@[simp] theorem setPsu_spec (s : State) (k : Nat) (x : Supply) : (setPsu s k x).spec = s.spec := by
  unfold setPsu; split <;> rfl
@[simp] theorem setPsu_hci (s : State) (k : Nat) (x : Supply) : (setPsu s k x).hci = s.hci := by
  unfold setPsu; split <;> rfl
@[simp] theorem setPsu_oxvan (s : State) (k : Nat) (x : Supply) : (setPsu s k x).oxvan = s.oxvan := by
  unfold setPsu; split <;> rfl
@[simp] theorem setPsu_mac0 (s : State) (k : Nat) (x : Supply) : (setPsu s k x).mac0 = s.mac0 := by
  unfold setPsu; split <;> rfl
@[simp] theorem setPsu_mac1 (s : State) (k : Nat) (x : Supply) : (setPsu s k x).mac1 = s.mac1 := by
  unfold setPsu; split <;> rfl
@[simp] theorem setPsu_mgmt (s : State) (k : Nat) (x : Supply) : (setPsu s k x).mgmt = s.mgmt := by
  unfold setPsu; split <;> rfl
@[simp] theorem setPsu_media (s : State) (k : Nat) (x : Supply) : (setPsu s k x).media = s.media := by
  unfold setPsu; split <;> rfl
@[simp] theorem setPsu_units (s : State) (k : Nat) (x : Supply) : (setPsu s k x).units = s.units := by
  unfold setPsu; split <;> rfl
@[simp] theorem setPsu_sched (s : State) (k : Nat) (x : Supply) : (setPsu s k x).sched = s.sched := by
  unfold setPsu; split <;> rfl
@[simp] theorem setPsu_dma (s : State) (k : Nat) (x : Supply) : (setPsu s k x).dma = s.dma := by
  unfold setPsu; split <;> rfl
@[simp] theorem setPsu_memory (s : State) (k : Nat) (x : Supply) : (setPsu s k x).memory = s.memory := by
  unfold setPsu; split <;> rfl
@[simp] theorem setPsu_grn (s : State) (k : Nat) (x : Supply) : (setPsu s k x).grn = s.grn := by
  unfold setPsu; split <;> rfl
@[simp] theorem setPsu_err (s : State) (k : Nat) (x : Supply) : (setPsu s k x).err = s.err := by
  unfold setPsu; split <;> rfl
@[simp] theorem setPsu_sec (s : State) (k : Nat) (x : Supply) : (setPsu s k x).sec = s.sec := by
  unfold setPsu; split <;> rfl
@[simp] theorem setPsu_mram (s : State) (k : Nat) (x : Supply) : (setPsu s k x).mram = s.mram := by
  unfold setPsu; split <;> rfl

-- ## setFan

@[simp] theorem setFan_pending (s : State) (k : Nat) (x : Fan) : (setFan s k x).pending = s.pending := rfl
@[simp] theorem setFan_out (s : State) (k : Nat) (x : Fan) : (setFan s k x).out = s.out := rfl
@[simp] theorem setFan_fresh (s : State) (k : Nat) (x : Fan) : (setFan s k x).fresh = s.fresh := rfl
@[simp] theorem setFan_regs (s : State) (k : Nat) (x : Fan) : (setFan s k x).regs = s.regs := rfl
@[simp] theorem setFan_shadow (s : State) (k : Nat) (x : Fan) : (setFan s k x).shadow = s.shadow := rfl
@[simp] theorem setFan_time (s : State) (k : Nat) (x : Fan) : (setFan s k x).time = s.time := rfl
@[simp] theorem setFan_spec (s : State) (k : Nat) (x : Fan) : (setFan s k x).spec = s.spec := rfl
@[simp] theorem setFan_hci (s : State) (k : Nat) (x : Fan) : (setFan s k x).hci = s.hci := rfl
@[simp] theorem setFan_oxvan (s : State) (k : Nat) (x : Fan) : (setFan s k x).oxvan = s.oxvan := rfl
@[simp] theorem setFan_mac0 (s : State) (k : Nat) (x : Fan) : (setFan s k x).mac0 = s.mac0 := rfl
@[simp] theorem setFan_mac1 (s : State) (k : Nat) (x : Fan) : (setFan s k x).mac1 = s.mac1 := rfl
@[simp] theorem setFan_mgmt (s : State) (k : Nat) (x : Fan) : (setFan s k x).mgmt = s.mgmt := rfl
@[simp] theorem setFan_media (s : State) (k : Nat) (x : Fan) : (setFan s k x).media = s.media := rfl
@[simp] theorem setFan_units (s : State) (k : Nat) (x : Fan) : (setFan s k x).units = s.units := rfl
@[simp] theorem setFan_sched (s : State) (k : Nat) (x : Fan) : (setFan s k x).sched = s.sched := rfl
@[simp] theorem setFan_dma (s : State) (k : Nat) (x : Fan) : (setFan s k x).dma = s.dma := rfl
@[simp] theorem setFan_memory (s : State) (k : Nat) (x : Fan) : (setFan s k x).memory = s.memory := rfl
@[simp] theorem setFan_grn (s : State) (k : Nat) (x : Fan) : (setFan s k x).grn = s.grn := rfl
@[simp] theorem setFan_err (s : State) (k : Nat) (x : Fan) : (setFan s k x).err = s.err := rfl
@[simp] theorem setFan_sec (s : State) (k : Nat) (x : Fan) : (setFan s k x).sec = s.sec := rfl
@[simp] theorem setFan_mram (s : State) (k : Nat) (x : Fan) : (setFan s k x).mram = s.mram := rfl

-- ## setImage

@[simp] theorem setImage_pending (s : State) (b : Bool) (x : ImageSlot) : (setImage s b x).pending = s.pending := by
  unfold setImage; split <;> rfl
@[simp] theorem setImage_out (s : State) (b : Bool) (x : ImageSlot) : (setImage s b x).out = s.out := by
  unfold setImage; split <;> rfl
@[simp] theorem setImage_fresh (s : State) (b : Bool) (x : ImageSlot) : (setImage s b x).fresh = s.fresh := by
  unfold setImage; split <;> rfl
@[simp] theorem setImage_regs (s : State) (b : Bool) (x : ImageSlot) : (setImage s b x).regs = s.regs := by
  unfold setImage; split <;> rfl
@[simp] theorem setImage_shadow (s : State) (b : Bool) (x : ImageSlot) : (setImage s b x).shadow = s.shadow := by
  unfold setImage; split <;> rfl
@[simp] theorem setImage_time (s : State) (b : Bool) (x : ImageSlot) : (setImage s b x).time = s.time := by
  unfold setImage; split <;> rfl
@[simp] theorem setImage_spec (s : State) (b : Bool) (x : ImageSlot) : (setImage s b x).spec = s.spec := by
  unfold setImage; split <;> rfl
@[simp] theorem setImage_hci (s : State) (b : Bool) (x : ImageSlot) : (setImage s b x).hci = s.hci := by
  unfold setImage; split <;> rfl
@[simp] theorem setImage_oxvan (s : State) (b : Bool) (x : ImageSlot) : (setImage s b x).oxvan = s.oxvan := by
  unfold setImage; split <;> rfl
@[simp] theorem setImage_mac0 (s : State) (b : Bool) (x : ImageSlot) : (setImage s b x).mac0 = s.mac0 := by
  unfold setImage; split <;> rfl
@[simp] theorem setImage_mac1 (s : State) (b : Bool) (x : ImageSlot) : (setImage s b x).mac1 = s.mac1 := by
  unfold setImage; split <;> rfl
@[simp] theorem setImage_mgmt (s : State) (b : Bool) (x : ImageSlot) : (setImage s b x).mgmt = s.mgmt := by
  unfold setImage; split <;> rfl
@[simp] theorem setImage_media (s : State) (b : Bool) (x : ImageSlot) : (setImage s b x).media = s.media := by
  unfold setImage; split <;> rfl
@[simp] theorem setImage_units (s : State) (b : Bool) (x : ImageSlot) : (setImage s b x).units = s.units := by
  unfold setImage; split <;> rfl
@[simp] theorem setImage_sched (s : State) (b : Bool) (x : ImageSlot) : (setImage s b x).sched = s.sched := by
  unfold setImage; split <;> rfl
@[simp] theorem setImage_dma (s : State) (b : Bool) (x : ImageSlot) : (setImage s b x).dma = s.dma := by
  unfold setImage; split <;> rfl
@[simp] theorem setImage_memory (s : State) (b : Bool) (x : ImageSlot) : (setImage s b x).memory = s.memory := by
  unfold setImage; split <;> rfl
@[simp] theorem setImage_grn (s : State) (b : Bool) (x : ImageSlot) : (setImage s b x).grn = s.grn := by
  unfold setImage; split <;> rfl
@[simp] theorem setImage_err (s : State) (b : Bool) (x : ImageSlot) : (setImage s b x).err = s.err := by
  unfold setImage; split <;> rfl
@[simp] theorem setImage_power (s : State) (b : Bool) (x : ImageSlot) : (setImage s b x).power = s.power := by
  unfold setImage; split <;> rfl
@[simp] theorem setImage_sec (s : State) (b : Bool) (x : ImageSlot) : (setImage s b x).sec = s.sec := by
  unfold setImage; split <;> rfl

-- ## setPtp

@[simp] theorem setPtp_pending (s : State) (port : Nat) (p : PtpPort) : (setPtp s port p).pending = s.pending := by
  unfold setPtp; split <;> rfl
@[simp] theorem setPtp_out (s : State) (port : Nat) (p : PtpPort) : (setPtp s port p).out = s.out := by
  unfold setPtp; split <;> rfl
@[simp] theorem setPtp_fresh (s : State) (port : Nat) (p : PtpPort) : (setPtp s port p).fresh = s.fresh := by
  unfold setPtp; split <;> rfl
@[simp] theorem setPtp_regs (s : State) (port : Nat) (p : PtpPort) : (setPtp s port p).regs = s.regs := by
  unfold setPtp; split <;> rfl
@[simp] theorem setPtp_shadow (s : State) (port : Nat) (p : PtpPort) : (setPtp s port p).shadow = s.shadow := by
  unfold setPtp; split <;> rfl
@[simp] theorem setPtp_spec (s : State) (port : Nat) (p : PtpPort) : (setPtp s port p).spec = s.spec := by
  unfold setPtp; split <;> rfl
@[simp] theorem setPtp_hci (s : State) (port : Nat) (p : PtpPort) : (setPtp s port p).hci = s.hci := by
  unfold setPtp; split <;> rfl
@[simp] theorem setPtp_oxvan (s : State) (port : Nat) (p : PtpPort) : (setPtp s port p).oxvan = s.oxvan := by
  unfold setPtp; split <;> rfl
@[simp] theorem setPtp_mac0 (s : State) (port : Nat) (p : PtpPort) : (setPtp s port p).mac0 = s.mac0 := by
  unfold setPtp; split <;> rfl
@[simp] theorem setPtp_mac1 (s : State) (port : Nat) (p : PtpPort) : (setPtp s port p).mac1 = s.mac1 := by
  unfold setPtp; split <;> rfl
@[simp] theorem setPtp_mgmt (s : State) (port : Nat) (p : PtpPort) : (setPtp s port p).mgmt = s.mgmt := by
  unfold setPtp; split <;> rfl
@[simp] theorem setPtp_media (s : State) (port : Nat) (p : PtpPort) : (setPtp s port p).media = s.media := by
  unfold setPtp; split <;> rfl
@[simp] theorem setPtp_units (s : State) (port : Nat) (p : PtpPort) : (setPtp s port p).units = s.units := by
  unfold setPtp; split <;> rfl
@[simp] theorem setPtp_sched (s : State) (port : Nat) (p : PtpPort) : (setPtp s port p).sched = s.sched := by
  unfold setPtp; split <;> rfl
@[simp] theorem setPtp_dma (s : State) (port : Nat) (p : PtpPort) : (setPtp s port p).dma = s.dma := by
  unfold setPtp; split <;> rfl
@[simp] theorem setPtp_memory (s : State) (port : Nat) (p : PtpPort) : (setPtp s port p).memory = s.memory := by
  unfold setPtp; split <;> rfl
@[simp] theorem setPtp_grn (s : State) (port : Nat) (p : PtpPort) : (setPtp s port p).grn = s.grn := by
  unfold setPtp; split <;> rfl
@[simp] theorem setPtp_err (s : State) (port : Nat) (p : PtpPort) : (setPtp s port p).err = s.err := by
  unfold setPtp; split <;> rfl
@[simp] theorem setPtp_power (s : State) (port : Nat) (p : PtpPort) : (setPtp s port p).power = s.power := by
  unfold setPtp; split <;> rfl
@[simp] theorem setPtp_sec (s : State) (port : Nat) (p : PtpPort) : (setPtp s port p).sec = s.sec := by
  unfold setPtp; split <;> rfl
@[simp] theorem setPtp_mram (s : State) (port : Nat) (p : PtpPort) : (setPtp s port p).mram = s.mram := by
  unfold setPtp; split <;> rfl

end Sys2Proof.Machine
end

