-- ==== Sys2Proof/Laws/Table.lean ====
section
/-! SUPPORT. Laws of sparse tables and of stored registers: what is put is read back, and no other key changes. -/

namespace Sys2Proof.Machine

theorem Tbl.get?_put {α : Type} (t : Tbl α) (k p : Nat) (v : α) :
    Tbl.get? (Tbl.put t k v) p = if p = k then some v else Tbl.get? t p := by
  induction t with
  | nil => simp [Tbl.put, Tbl.get?, eq_comm]
  | cons q t ih =>
    obtain ⟨a, b⟩ := q
    simp only [Tbl.put]
    split
    · simp [Tbl.get?, eq_comm]
    · split
      · subst_vars; simp [Tbl.get?, eq_comm]; grind
      · simp [Tbl.get?, ih]; grind

theorem Tbl.get?_del {α : Type} (t : Tbl α) (k p : Nat) :
    Tbl.get? (Tbl.del t k) p = if p = k then none else Tbl.get? t p := by
  induction t with
  | nil => simp [Tbl.del, Tbl.get?]
  | cons q t ih =>
    obtain ⟨a, b⟩ := q
    simp only [Tbl.del, List.filter_cons] at *
    by_cases h : a = k
    · subst h
      simp only [bne_self_eq_false, Bool.false_eq_true, if_false, Tbl.get?]
      rw [ih]
      grind
    · have : (a != k) = true := by simpa using h
      simp only [this, if_true, Tbl.get?]
      rw [ih]
      grind

@[simp] theorem Tbl.get?_put_self {α : Type} (t : Tbl α) (k : Nat) (v : α) : Tbl.get? (Tbl.put t k v) k = some v := by
  simp [Tbl.get?_put]

/-- Strictly rising keys: the head's key lies below every other. -/
theorem Tbl.sorted_head {α : Type} {a : Nat × α} {t : Tbl α} (h : Tbl.sorted (a :: t) = true) :
    Tbl.sorted t = true ∧ ∀ p ∈ t, a.1 < p.1 := by
  induction t generalizing a with
  | nil => exact ⟨rfl, fun p hp => by cases hp⟩
  | cons b r ih =>
    simp only [Tbl.sorted, Bool.and_eq_true, decide_eq_true_eq] at h
    refine ⟨h.2, fun p hp => ?_⟩
    rcases List.mem_cons.1 hp with rfl | hp
    · exact h.1
    · exact Nat.lt_trans h.1 ((ih h.2).2 p hp)

/-- A register holds what was stored last, and every other register is as it was. -/
theorem regRaw_setRaw (s : State) (o p : Nat) (v : Word) :
    regRaw (setRaw s o v) p = if p = o then v else regRaw s p := by
  simp only [regRaw, setRaw]
  split
  · rw [Tbl.get?_del]; split <;> simp_all
  · rw [Tbl.get?_put]; split <;> simp_all

@[simp] theorem regRaw_setRaw_self (s : State) (o : Nat) (v : Word) : regRaw (setRaw s o v) o = v := by
  simp [regRaw_setRaw]

theorem regRaw_setRaw_ne (s : State) (o p : Nat) (v : Word) (h : p ≠ o) : regRaw (setRaw s o v) p = regRaw s p := by
  simp [regRaw_setRaw, h]

theorem regRaw_setF_ne (s : State) (o hi lo x p : Nat) (h : p ≠ o) : regRaw (setF s o hi lo x) p = regRaw s p :=
  regRaw_setRaw_ne s o p _ h

theorem regRaw_bumpF_ne (s : State) (o hi lo x p : Nat) (h : p ≠ o) : regRaw (bumpF s o hi lo x) p = regRaw s p :=
  regRaw_setRaw_ne s o p _ h

theorem regRaw_bumpC_ne (s : State) (o n p : Nat) (h : p ≠ o) : regRaw (bumpC s o n) p = regRaw s p :=
  regRaw_setRaw_ne s o p _ h

end Sys2Proof.Machine
end

