-- ==== Sys2Proof/WellFormed.lean ====
section
/-! DEFINITION. What makes a command one that the outside can send: numbers within the manual's ranges, blocks of host
memory of the length that the command reads, frames and datagrams whose parts agree. The meanings do not depend on it. -/

namespace Sys2Proof

/-- Bytes that a command reads from host memory at once: as many as it asks for. -/
def HostData.ofLength (d : HostData) (n : Nat) : Bool :=
  match d with
  | .bytes bs => bs.length == n
  | .denied => true
  | .timeout => true

/-- R165: at most 64 items; a message that breaks a rule of FORMAT is one that a station can send. -/
def MgmtFrame.wf (f : MgmtFrame) : Bool :=
  match f.body with
  | .udp _ _ _ _ payload => decide (payload.length ≤ 1472)
  | .echo _ _ data => decide (data.length ≤ 1472)
  | _ => true

/-- R120: the eight bytes of the request that the module reads. -/
def CmReq.wf (r : CmReq) : Bool := r.priv.length == 8

/-- R190, R216: an RTP packet has a header and fits into a frame, and its layers are within their fields. -/
def RtpFacts.wf (h : RtpFacts) : Bool :=
  decide (12 ≤ h.bytes.length) && decide (h.bytes.length ≤ 9216) && decide (h.s < 8) && decide (h.t < 8)

/-- R216: an SRTCP packet holds at least the words that stand clear. -/
def RtcpFacts.wf (h : RtcpFacts) : Bool := decide (8 ≤ h.bytes.length) && decide (h.bytes.length ≤ 9216)

/-- What a media datagram carries. -/
def Media.wf (m : Media) : Bool :=
  match m with
  | .rtp h => h.wf
  | .rtcp h => h.wf

/-- The body of a frame: a MAC control frame names at most eight classes. -/
def FrameBody.wf (b : FrameBody) : Bool :=
  match b with
  | .macControl _ _ q => decide (q.length ≤ 8)
  | .udp _ _ _ _ _ _ m => m.wf
  | .roce _ => true
  | .ptp _ _ => true
  | .arp _ => true
  | .other => true

/-- R193: a frame carries at most two tags. -/
def Frame.wf (f : Frame) : Bool := decide (f.tags.length ≤ 2) && f.body.wf

/-- R461: a Grinal payload of at most 9,216 bytes. -/
def GrnFrame.wf (f : GrnFrame) : Bool := decide (f.payload.length < 16384)

/-- The facts of a decoded picture: a size, and operating-point layers of R225. -/
def PicFacts.wf (p : PicFacts) : Bool := decide (0 < p.width) && decide (0 < p.height) && decide (p.s < 8) && decide (p.t < 8)

/-- R149: numbers of objects. -/
def ctxWf (n : Nat) : Bool := decide (n < 5242880)
def legWf (n : Nat) : Bool := decide (n < 131072)
def shaperWf (n : Nat) : Bool := decide (n < 262144)
def decWf (n : Nat) : Bool := decide (n < 16384)
def canvasWf (n : Nat) : Bool := decide (n < 4096)
def encWf (n : Nat) : Bool := decide (n < 4096)
def groupWf (n : Nat) : Bool := decide (n < 8192)

/-- A block of decoded audio: 20 ms or 10 ms at 48 kHz, within full scale (R368). -/
def samplesWf (xs : List Int) : Bool := (xs.length == 960 || xs.length == 480) && xs.all (fun x => decide (x.natAbs ≤ 2 ^ 23))
def Sound.wf (x : Sound) : Bool :=
  match x with
  | .mono xs => samplesWf xs
  | .stereo l r => samplesWf l && samplesWf r && l.length == r.length

/-- Whether a command is well formed. -/
def Instr.wf (i : Instr) : Bool :=
  match i with
  | .keyInstall _ blob => blob.ofLength 64
  | .cipherJob _ block _ => block.ofLength 128
  | .canvasSetLayers c records => records.ofLength (48 * bits c.w4 3 0)
  | .encCreate _ block => block.ofLength 96
  | .mixCreate _ block => block.ofLength 48
  | .attestQuote _ request => request.ofLength 64
  | .hello f _ => f.wf
  | .beacon f => f.wf
  | .media f h => f.wf && h.wf
  | .partialMix f => f.wf
  | .rankReport f => f.wf
  | .seatDecision f => f.wf
  | .dmaWrite f => f.wf
  | .dmaRead f => f.wf
  | .dmaData f => f.wf
  | .ack f => f.wf
  | .confAttach f => f.wf
  | .confDetach f => f.wf
  | .streamSubscribe f => f.wf
  | .keyPictureRequest f => f.wf
  | .preserveFetch f => f.wf
  | .mixJoin f => f.wf
  | .join f _ => f.wf
  | .mirrorGapTimeout ctx => ctxWf ctx
  | .seatMerge g => groupWf g
  | .decisionMissing g => groupWf g
  | .partialMixDeadline g => groupWf g
  | .cmReq _ r => r.wf
  | .oxvanOpen f => f.wf
  | .oxvanBatch f => f.wf
  | .oxvanClose f => f.wf
  | .oxvanPing f => f.wf
  | .registerWrite off _ => decide (off < 2 ^ 24)
  | .macFrameReceive _ f => f.wf
  | .ticketStep ctx _ => ctxWf ctx
  | .shaperEvaluate n => shaperWf n
  | .pauseFrame _ _ _ q => decide (q.length ≤ 8)
  | .rtcpSr ctx _ _ => ctxWf ctx
  | .rtcpRr leg _ _ => legWf leg
  | .rtcpNack ctx _ => ctxWf ctx
  | .rtcpPliFir ctx _ => ctxWf ctx
  | .rtcpCcfb leg _ => legWf leg
  | .rtcpBye leg _ => legWf leg
  | .rtcpReportTimer leg => legWf leg
  | .ccfbReportTimer leg => legWf leg
  | .nackTimer ctx _ => ctxWf ctx
  | .estimateStale leg => legWf leg
  | .switchInstant ctx => ctxWf ctx
  | .jbRelease ctx => ctxWf ctx
  | .pictureDecoded d p => decWf d && p.wf
  | .redecodeRunDone d _ => decWf d
  | .taintRequestTimer d => decWf d
  | .canvasPictureStart n => canvasWf n
  | .composeRowDone n => canvasWf n
  | .composeRowDeadline n _ => canvasWf n
  | .encPictureStart n => encWf n
  | .encBlockRow n _ _ _ _ => encWf n
  | .encLastRowDeadline n => encWf n
  | .encPictureFinal n ps => encWf n && ps.all RtpFacts.wf
  | .mixPeriodStart g xs => groupWf g && xs.all (fun p => legWf p.1 && p.2.wf)
  | .mixFrameFinal g _ h => groupWf g && h.wf
  | .mixFrameDrop g _ => groupWf g
  | .nop _ => true
  | .ringCreate _ => true
  | .ringDestroy _ => true
  | .cqCreate _ => true
  | .cqDestroy _ => true
  | .regionAdd _ => true
  | .regionRemove _ => true
  | .windowOpen _ => true
  | .windowClose _ => true
  | .barrier _ => true
  | .connInfo _ => true
  | .timeRead _ => true
  | .timeSetIncr _ => true
  | .timeStep _ => true
  | .timeSubscribe _ => true
  | .timePathAck _ => true
  | .confCreate _ => true
  | .confDestroy _ => true
  | .streamCreate _ => true
  | .streamModify _ => true
  | .streamDestroy _ => true
  | .streamQuery _ => true
  | .legCreate _ => true
  | .legModify _ => true
  | .legDestroy _ => true
  | .legLayers _ => true
  | .meterSet _ => true
  | .shaperSet _ => true
  | .keyRetire _ => true
  | .keyQuery _ => true
  | .decCreate _ => true
  | .decModify _ => true
  | .decDestroy _ => true
  | .decRequestIntra _ => true
  | .canvasCreate _ => true
  | .canvasDestroy _ => true
  | .encModify _ => true
  | .encDestroy _ => true
  | .encRefresh _ => true
  | .mixModify _ => true
  | .mixDestroy _ => true
  | .audioLegSet _ => true
  | .dmaSubmit _ => true
  | .dmaCancel _ => true
  | .dmaQuery _ => true
  | .preserveExport _ _ => true
  | .preserveQuery _ => true
  | .memQuery _ => true
  | .brambleQuery _ => true
  | .statRead _ => true
  | .diagRun _ => true
  | .statRipeness _ => true
  | .identityRead _ _ => true
  | .helloSend _ => true
  | .beaconSend => true
  | .joinRepeat => true
  | .memberLoss _ => true
  | .beaconLoss => true
  | .reclaim => true
  | .ackTimeout _ => true
  | .grinalLinkAbsent _ _ => true
  | .unwrap _ => true
  | .grinalLinkUp _ => true
  | .grnEnable _ => true
  | .rtu _ => true
  | .rtuTimeout _ => true
  | .mraRepeat _ => true
  | .dreq _ => true
  | .rdmaErrorNak _ => true
  | .rdmaRetryExhausted _ => true
  | .holdExpiry _ => true
  | .cnpReceived _ => true
  | .recoveryPeriodEnd _ => true
  | .ecnCePacket _ => true
  | .windowRdmaRead _ _ _ _ => true
  | .windowRdmaWrite _ _ _ _ => true
  | .bootSlotWrite _ _ _ => true
  | .bootGo _ => true
  | .ringPi _ _ _ => true
  | .cqCi _ _ _ => true
  | .eqCi _ _ => true
  | .cqArm _ _ _ => true
  | .eqArm _ _ => true
  | .doorbellIgnored _ => true
  | .wakeDelayExpiry _ _ => true
  | .descriptorFetch _ _ _ => true
  | .eventBacklogPost _ _ => true
  | .oxvanDrop f => f.wf
  | .sessionExpiry => true
  | .stepGo _ _ => true
  | .snap => true
  | .tbIncrWrite _ => true
  | .ptpPortWrite _ _ => true
  | .stateReqActive => true
  | .stateReqQuiet => true
  | .stateReqDormant => true
  | .stateReqRestart => true
  | .stateReqWindfall => true
  | .stateTransitionDone => true
  | .profileSave => true
  | .profileSaveDone => true
  | .profileClear => true
  | .partCommit => true
  | .partApplied => true
  | .oxvanCfgWrite _ => true
  | .mgtCtrlWrite _ => true
  | .mgtAddressWrite _ _ => true
  | .slotDisable _ => true
  | .gateCommit _ => true
  | .gateChangeTime _ => true
  | .gateEntry _ => true
  | .cipFlush _ => true
  | .spareGo _ => true
  | .sparingDone => true
  | .scrubRead _ => true
  | .dmaChCommit _ => true
  | .dmaChannelEnable _ _ => true
  | .dmaTransferStart _ => true
  | .dmaTransferDone _ _ => true
  | .dmaTransferError _ _ _ => true
  | .dmaArmTrigger _ => true
  | .dmaRequest _ _ => true
  | .dmaWindowOpen _ => true
  | .dmaWindowClose _ => true
  | .fwBegin _ _ => true
  | .fwData _ => true
  | .fwVerify => true
  | .fwVerifyDone _ => true
  | .fwActivate => true
  | .fwAbort => true
  | .fwReverify _ => true
  | .kekLoad _ _ => true
  | .kekClear _ => true
  | .lampTest => true
  | .lampTestEnd => true
  | .packetClassify _ => true
  | .arpRequest _ _ => true
  | .lockstepCompare _ _ => true
  | .mediaGateAdmit _ => true
  | .cipherLaneStart _ => true
  | .cipherLaneEnd _ _ _ => true
  | .fifoPop _ => true
  | .streamEnginePacket => true
  | .keyReserveWritten _ => true
  | .txSelect _ => true
  | .pauseQuantaExpiry _ _ => true
  | .pfcRepeat _ => true
  | .pauseWatchdog _ _ _ => true
  | .pauseWatchdogEnd _ _ _ => true
  | .plugInsert _ _ => true
  | .plugRemove _ => true
  | .cmisRetry _ => true
  | .dataLinkUp _ => true
  | .dataLinkDown _ _ => true
  | .mgmtLinkChange _ _ _ => true
  | .mgmtArp f => f.wf
  | .mgmtEcho f => f.wf
  | .mgmtDrop f => f.wf
  | .mgmtTransmit _ => true
  | .mgmtBackoffExpiry => true
  | .pointRateUpdate => true
  | .specCommitDeadline _ => true
  | .joinEntryFreed => true
  | .taskEnd _ => true
  | .taskYield _ _ => true
  | .schedTick => true
  | .coreFault _ => true
  | .tskWindowEnd => true
  | .ptpSync _ _ _ _ _ _ => true
  | .ptpFollowUp _ _ _ _ => true
  | .ptpDelayResp _ _ _ => true
  | .ptpAnnounce _ _ _ _ => true
  | .announceTimeout _ => true
  | .ptpMessageTimer _ _ => true
  | .ppsInEdge _ => true
  | .ppsOutRise => true
  | .ppsOutFall => true
  | .ref10Valid => true
  | .ref10Locked => true
  | .ref10Lost => true
  | .queueOverflow _ => true
  | .mainsOn _ => true
  | .pwrOk _ => true
  | .ready => true
  | .readyTimeout => true
  | .startConfirmed => true
  | .moduleErrorRestart _ _ _ _ => true
  | .powerFail => true
  | .railsDrop => true
  | .supplyFailed _ _ _ _ => true
  | .supplyInserted _ _ _ => true
  | .fanFailed _ _ _ => true
  | .redundancyRestored _ _ => true
  | .thermalWarning _ _ => true
  | .thermalCritical _ _ => true
  | .windfallButtonPress => true
  | .windfallButtonFeedback => true
  | .windfallButtonArm => true
  | .windfallButtonRelease => true
  | .ptpDelayReq _ _ _ _ => true
  | .localAckTimeout _ => true
  | .rnrNak _ => true
  | .cmisError _ => true
  | .fanInserted _ _ => true
  | .supplyInputRestored _ => true
  | .fanSpeedReached => true
  | .flashProgramDone => true
  | .selfTestDone _ _ => true

end Sys2Proof
end

