-- ==== Sys2Proof/Tests/Slice0.lean ====
section
/-! SUPPORT. The author's own tests: what WellFormed refuses, worked examples of the manual, and for each statement with
hypotheses states and operands that meet them, clause by clause. -/

namespace Sys2Proof.Tests

-- one theorem at a time: each check of a state asks for a thread of its own
set_option Elab.async false

open Sys2Proof Sys2Proof.Machine

-- ## Small states

/-- A connection slot bound on port 0 with ring 0, queue 0, and a region that the module may read and write. -/
def boundSlot : Slot :=
  { phase := .bound, cfg := word 0x138869980000, rings := [(0, {})], cqs := [(0, { log2 := 6, reserved := 1 })],
    eq := some {}, regions := [(0, { addr := 0, len := 65536, moduleRead := true, moduleWrite := true })] }

/-- The module in Active with slot 0 bound, ready for commands; bridge time is about 100 s. -/
def atWork : State :=
  { power := { st := .active, aon := 80000000000 }
    time := { released := true, raw := 80000000000 }
    hci := { slots := boundSlot :: List.replicate 7 {} } }

/-- The fetched descriptor of command `c`. -/
def front (op : Nat) (c : Cmd) : Fetched := ⟨0, c.slot, c.ring, cmdDesc op c⟩

/-- `s` with command `c` fetched and nothing else. -/
def withCmd (s : State) (op : Nat) (c : Cmd) : State :=
  { s with hci := { s.hci with fetched := [front op c], inflight := [], nextNo := 1 } }

/-- Command `c` begins at `s` with `c` fetched, and `p` holds there. -/
def Shows (op : Nat) (s : State) (c : Cmd) (p : State → Cmd → Bool) : Prop :=
  Begins (withCmd s op c) op c (front op c) ∧ p (withCmd s op c) c = true

/-- A command fetched alone begins. -/
theorem shows {op : Nat} {s : State} {c : Cmd} {p : State → Cmd → Bool}
    (h : (running s && p (withCmd s op c) c) = true) : Shows op s c p := by
  rw [Bool.and_eq_true] at h
  refine ⟨⟨?_, ?_, h.1⟩, h.2⟩
  · simp [findFetched, withCmd, front]
  · simp [eligible, withCmd, front]

/-- A command of slot 0 and ring 0 with its words. -/
def cmd (w1 w2 w3 w4 : Word) (flags : BitVec 12 := 0) : Cmd :=
  { slot := 0, ring := 0, flags := flags, w1 := w1, w2 := w2, w3 := w3, w4 := w4 }

/-- The same with all its words. -/
def cmd7 (w1 w2 w3 w4 w5 w6 w7 : Word) (flags : BitVec 12 := 0) : Cmd :=
  { slot := 0, ring := 0, flags := flags, w1 := w1, w2 := w2, w3 := w3, w4 := w4, w5 := w5, w6 := w6, w7 := w7 }

/-- `s` with slot 0 changed. -/
def withSlot (s : State) (x : Slot) : State := { s with hci := { s.hci with slots := x :: List.replicate 7 {} } }

/-- `s` with a register at a value. -/
def withReg (s : State) (o : Nat) (v : Word) : State := setRaw s o v

-- ## Host control

theorem witness_hostRingCommands :
    Shows 0x000 atWork (cmd 0 0 0 0) (fun _ c => reservedBad c 0 [] = false) ∧
    Shows 0x001 atWork (cmd 0x1000 (word (16 * 2 ^ 32)) 0 0) (fun s c =>
      reservedBad c 0 [full, 2 ^ 38 - 1, 0x3F] = false ∧ noQueue s c.slot (bits c.w3 5 0) = false ∧ 6 ≤ bits c.w2 37 32 ∧
      bits c.w2 37 32 ≤ 16 ∧ c.w1.toNat % 64 = 0 ∧ (getSlot s c.slot).rings.length < 64) ∧
    Shows 0x003 atWork (cmd 0x40 (word (18 * 2 ^ 32)) 0 0) (fun s c =>
      reservedBad c 0 [full, 2 ^ 38 - 1] = false ∧ 6 ≤ bits c.w2 37 32 ∧ bits c.w2 37 32 ≤ 18 ∧
      c.w1.toNat % 64 = 0 ∧ (getSlot s c.slot).cqs.length < 64) ∧
    Shows 0x005 atWork (cmd 0 (word (3 * 2 ^ 32)) (word (2 ^ 40)) 0) (fun s c =>
      reservedBad c 0 [full, 2 ^ 34 - 1, full] = false ∧ c.w3 ≠ 0 ∧ c.w3.toNat ≤ 2 ^ 40 ∧
      (getSlot s c.slot).regions.length < 1024) ∧
    Shows 0x007 atWork (cmd (word ((partition atWork).getD 3 (0, 0)).1) 4096 1 0) (fun s c =>
      reservedBad c 0 [full, full, 3] = false ∧ insideAny s [2, 3, 4, 5, 9] c.w1.toNat c.w2.toNat = true ∧ c.w2 ≠ 0 ∧
      c.w1.toNat % 4096 = 0 ∧ c.w2.toNat % 4096 = 0 ∧ s.hci.windows.length < 256) ∧
    Shows 0x008 { atWork with hci := { atWork.hci with windows := [(0, ⟨0, 0, 4096, true, true, 0⟩)] } }
      (cmd (ownHandle atWork 0x0E 0) 0 0 0) (fun s c =>
      reservedBad c 0 [full] = false ∧ handleErr s [0x0E] c.w1 = none ∧ Tbl.has s.hci.windows (hIndex c.w1) = true) ∧
    Shows 0x00A atWork (cmd 0 0 0 0) (fun _ c => reservedBad c 0 [] = false) ∧
    Shows 0x004 (withSlot atWork { boundSlot with cqs := boundSlot.cqs ++ [(63, {})] }) (cmd (ownHandle atWork 0x0C 63) 0 0 0)
      (fun s c => reservedBad c 0 [full] = false ∧ handleErr s [0x0C] c.w1 = none ∧
      hIndex c.w1 / 64 = c.slot ∧ hIndex c.w1 % 64 ≠ 0 ∧ noQueue s c.slot (hIndex c.w1 % 64) = false ∧
      (getSlot s c.slot).rings.any (fun r => r.2.cq == hIndex c.w1 % 64) = false) ∧
    Shows 0x002 (withSlot atWork { boundSlot with rings := boundSlot.rings ++ [(1, {})] }) (cmd (ownHandle atWork 0x0B 1) 0 0 0)
      (fun s c => reservedBad c 0 [full] = false ∧ handleErr s [0x0B] c.w1 = none ∧
      hIndex c.w1 / 64 = c.slot ∧ hIndex c.w1 % 64 ≠ 0 ∧ Tbl.has (getSlot s c.slot).rings (hIndex c.w1 % 64) = true) ∧
    Shows 0x006 atWork (cmd (ownHandle atWork 0x0D 0) 0 0 0) (fun s c =>
      reservedBad c 0 [full] = false ∧ (regionCheck s c.slot c.w1).1 = false) ∧
    Shows 0x009 atWork (cmd 0 0 0 0) (fun _ c => reservedBad c 0 [] = false) := by
  constructorm* _ ∧ _ <;> exact shows (by decide +kernel)

theorem witness_connectionEvents :
    (let s := withReg (withReg (withReg atWork (oHciSlotCfg 1) 0x138869980001) (oMacIp4 0) 0x10A000001) (oMacIp4 1) 0x10A000001
     let r : CmReq := { src := { bits := 0 }, dst := { bits := 0x0A000001 }, priv := [1, 0, 0, 0, 0, 0, 0, 0] }
     running s = true ∧ leaving s = false ∧ getB s oHciCtrl 0 = true ∧ reqUnfit s 0 r = false ∧ reqUnfit s 1 r = false ∧
       (getSlot s (r.priv.getD 0 0).toNat).phase = .free) ∧
    (let s := withSlot atWork { phase := .awaitRtu false (now atWork) }
     (getSlot s 0).phase = .awaitRtu false (now atWork) ∧ now s ≤ now atWork) ∧
    (getSlot (withSlot atWork { phase := .awaitRtu true (now atWork) }) 0).phase = .awaitRtu true (now atWork) ∧
    (let m : Mra := { port := 0, mac := 0, peer := { bits := 0 }, again := 0 }
     let s0 := withSlot atWork { phase := .closing (some m) }
     let s : State := { s0 with hci := { s0.hci with
       inflight := [{ no := 0, slot := 0, ring := 0, cq := 0, tag := 0, quiet := false, wait := .barrier }] } }
     (getSlot s 0).phase = .closing (some m) ∧ slotBusy s 0 = true ∧ m.again ≤ now s) ∧
    ((getSlot atWork 0).connected = true ∧ bits (getSlot atWork 0).cfg 47 32 ≠ 0 ∧ (getSlot atWork 0).retries < 7) ∧
    (let s := withSlot atWork { boundSlot with ackFrom := some 0 }
     (getSlot s 0).connected = true ∧ (getSlot s 0).ackFrom = some 0 ∧ 0 + durNs 67108864 ≤ now s ∧ (getSlot s 0).retries < 7) ∧
    (getSlot (withSlot atWork { phase := .suspended (some 0) }) 0).phase = .suspended (some 0) ∧
    (getB atWork oHciCtrl 2 = true ∧ getB atWork oHciCtrl 1 = true ∧ (getSlot atWork 0).lastCnp = none ∧
      (getSlot atWork 0).periodFrom + durUs (getF atWork oHciCnp 47 32) ≤ now atWork ∧
      (getSlot atWork 0).cnpInPeriod = false) ∧
    (let s := withSlot atWork { boundSlot with cnpInPeriod := true, lastCnp := some 0 }
     (getSlot s 0).connected = true ∧ (getSlot s 0).cnpInPeriod = true ∧ 0 + durUs (getF s oHciCnp 15 0) ≤ now s) ∧
    (let s := withSlot atWork { boundSlot with lastCnp := some (now atWork) }
     (getSlot s 0).connected = true ∧ now s < now atWork + durUs (getF s oHciCnp 15 0)) := by
  decide +kernel

/-- A window of slot 0 over the first page of region 3. -/
def windowed : State :=
  { atWork with hci := { atWork.hci with windows := [(0, ⟨0, (regionAt atWork 3).1, 4096, true, true, 7⟩)] } }

/-- The window of `windowed`, and one over the same page that the host may read and not write. -/
def openWindow : Window := ⟨0, (regionAt atWork 3).1, 4096, true, true, 7⟩
def readWindow : Window := { openWindow with hostWrite := false }

theorem witness_windowAccesses :
    (getSlot windowed 0).connected = true ∧
    (windowFor windowed 0 (regionAt atWork 3).1 4096 7 = some openWindow ∧ openWindow.hostRead = true ∧
      openWindow.hostWrite = true ∧ heldBy windowed (regionAt atWork 3).1 4096 = [] ∧
      onDoorbellPage windowed 0 (regionAt atWork 3).1 4096 7 = false) ∧
    (let s : State := { windowed with units := { windowed.units with
       held := [{ entry := 0, base := (regionAt atWork 3).1, len := 64 }] } }
     windowFor s 0 (regionAt atWork 3).1 64 7 = some openWindow ∧ heldBy s (regionAt atWork 3).1 64 ≠ [] ∧
     (s.hci.waitingReads.filter (fun r => r.slot == 0)).length < 16) ∧
    windowFor windowed 0 (regionAt atWork 3).1 4097 7 = none ∧
    (let s : State := { atWork with hci := { atWork.hci with windows := [(0, readWindow)] } }
     windowFor s 0 (regionAt atWork 3).1 64 7 = some readWindow ∧ readWindow.hostWrite = false ∧
     onDoorbellPage s 0 (regionAt atWork 3).1 64 7 = false) ∧
    (onDoorbellPage atWork 0 (doorbellPage 0 + 0x100) 8 0 = true ∧ (doorbellPage 0 + 0x100) % 4096 = 0x100 + 8 * 0 ∧
      onDoorbellPage atWork 0 (doorbellPage 0 + 0x300) 8 0 = true ∧ (doorbellPage 0 + 0x300) % 4096 = 0x300 + 8 * 0 ∧
      onDoorbellPage atWork 0 (doorbellPage 0 + 0x7F8) 8 0 = true ∧ (doorbellPage 0 + 0x7F8) % 4096 = 0x600 + 8 * 63) := by
  decide +kernel

theorem witness_doorbellPage :
    (getSlot (withSlot atWork { phase := .unbound }) 7).phase = .free ∧
    (let b : BitVec 64 := BitVec.ofNat 64 (16 * 2 ^ 32)
     let s := withSlot atWork { phase := .unbound, boot := [0, b, 64, BitVec.ofNat 64 (18 * 2 ^ 32), 0, b] }
     (getSlot s 0).phase = .unbound ∧ bits b 37 32 ≤ 16 ∧ 6 ≤ bits b 37 32 ∧ bits (64 : BitVec 64) 47 0 % 64 = 0) ∧
    ((getSlot atWork 0).connected = true ∧ Tbl.get? (getSlot atWork 0).rings 0 = some {} ∧
      ((64 : BitVec 32) - ({} : Ring).fc).toNat ≤ 2 ^ ({} : Ring).log2) ∧
    (let q : Queue := { pi := 2, ci := 1, recs := [{ w0 := 0 }], arm := some { delayUs := 0, count := 1, armedAt := 0 } }
     let s := withSlot atWork { boundSlot with cqs := [(0, q)], eq := some { pi := 1 } }
     Tbl.get? (getSlot s 0).cqs 0 = some q ∧ ((2 : BitVec 32) - q.ci).toNat ≤ (q.pi - q.ci).toNat ∧
     (q.pi - q.ci).toNat < ((3 : BitVec 32) - q.ci).toNat ∧ (getSlot s 0).phase = .bound ∧
     q.arm = some { delayUs := 0, count := 1, armedAt := 0 } ∧ 1 ≤ (q.pi - q.ci).toNat ∧ 0 + durUs 0 ≤ now s ∧
     (getSlot s 0).eq = some { pi := 1 } ∧ ((1 : BitVec 32) - 0).toNat ≤ ((1 : BitVec 32) - 0).toNat) ∧
    (Tbl.get? (getSlot atWork 0).cqs 0 = some { log2 := 6, reserved := 1 } ∧
      ({ log2 := 6, reserved := 1 } : Queue).arm = none) := by
  decide +kernel

theorem witness_descriptorFetches :
    (let s := withSlot atWork { boundSlot with rings := [(0, { pi := 64 })] }
     Tbl.get? (getSlot s 0).rings 0 = some { pi := 64 } ∧
     Tbl.get? (getSlot s 0).cqs 0 = some { log2 := 6, reserved := 1 } ∧ (getSlot s 0).phase = .bound ∧
     s.hci.fetchHeld = false ∧ running s = true ∧ nextVisit s = some (0, 0) ∧ leaving s = false ∧
     slotGranted s clsCtl 2 = true) ∧
    (let s := withSlot atWork { boundSlot with firstDrop := some 1 }
     (getSlot s 0).phase = .bound ∧ (getSlot s 0).firstDrop = some 1 ∧ (getSlot s 0).eq = some {} ∧
     ({} : ErrQueue).spare ≠ 0 ∧ (getSlot s 0).connected = true) := by
  decide +kernel

-- ## Time

theorem witness_timeRingCommands :
    Shows 0x100 atWork (cmd 0 0 0 0) (fun _ c => reservedBad c 0 [] = false) ∧
    Shows 0x101 atWork (cmd (word 94541776987050) 0 0 0) (fun _ c => reservedBad c 0 [full] = false ∧
      94352882327736 ≤ c.w1.toNat ∧ c.w1.toNat ≤ 94541776987050) ∧
    Shows 0x102 atWork (cmd 0 1 0 0) (fun s c => reservedBad c 1 [full, full] = false ∧
      stepTooLarge s (stepAmount c.w1 c.w2) (cmdFlag c 0) = false) ∧
    Shows 0x103 atWork (cmd 0 0 0 0) (fun _ c => reservedBad c 0 [0x3F, 0x1FF] = false ∧ bits c.w2 8 0 = 0) ∧
    Shows 0x103 atWork (cmd 0 0x1FF 0 0) (fun s c => reservedBad c 0 [0x3F, 0x1FF] = false ∧ bits c.w2 8 0 ≠ 0 ∧
      noQueue s c.slot (bits c.w1 5 0) = false) ∧
    Shows 0x104 (withReg atWork oTbStatus (word (2 ^ 11))) (cmd 1 0 0 0) (fun s c => reservedBad c 0 [0xF] = false ∧
      bits c.w1 3 0 < 2 ∧ getB s oTbStatus (10 + bits c.w1 3 0) = true) ∧
    Shows 0x104 atWork (cmd 3 0 0 0) (fun _ c => reservedBad c 0 [0xF] = false ∧ bits c.w1 3 0 ≤ 3 ∧ 2 ≤ bits c.w1 3 0) ∧
    Shows 0x104 atWork (cmd 1 0 0 0) (fun s c => reservedBad c 0 [0xF] = false ∧ bits c.w1 3 0 ≤ 3 ∧
      getB s oTbStatus (10 + bits c.w1 3 0) = false) := by
  constructorm* _ ∧ _ <;> exact shows (by decide +kernel)

theorem witness_incrRange :
    setupOpen atWork = true ∧ atWork.power.st ≠ .windfall ∧ (thisCycle atWork).incrCmd = false ∧
    (thisCycle { atWork with cyc := { no := atWork.power.aon, incrCmd := true } }).incrCmd = true ∧ incrBad (word 94352882327736) = false ∧
    incrBad (word 94352882327735) = true ∧ incrBad (word 94541776987050) = false ∧ incrBad (word 94541776987051) = true := by
  decide +kernel

theorem witness_incrRange_command :
    Shows 0x101 atWork (cmd (word 94541776987051) 0 0 0) (fun _ c => reservedBad c 0 [full] = false ∧
      94541776987050 < c.w1.toNat) := shows (by decide +kernel)

theorem witness_stepAndSnapWrites :
    (stepTooLarge atWork (stepAmount (regRaw atWork oTbStepSec) (regRaw atWork oTbStepFrac)) false = false ∧
      (thisCycle atWork).cmdStep = 0) ∧
    (let s := withReg { atWork with time := { atWork.time with isSet := true } } oTbStepSec 0x7FFFFFFFFFFF
     setupOpen s = true ∧ s.power.st ≠ .windfall ∧
     stepTooLarge s (stepAmount (regRaw s oTbStepSec) (regRaw s oTbStepFrac)) false = true) := by
  decide +kernel

/-- Port 0 with a link and PTP enabled, in a PTP state. -/
def ptpAt (st : BitVec 4) : State :=
  let s := withReg atWork (oTbPtpPort 0) 0x310001
  { s with mac0 := { s.mac0 with link := true }, time := { s.time with ptp0 := { s.time.ptp0 with state := st } } }

theorem witness_ptpMessages :
    (ptpTaken (ptpAt 9) 0 0 = true ∧ following (getPtp (ptpAt 9) 0).state = true ∧ (getPtp (ptpAt 9) 0).state = 9 ∧
      getB (ptpAt 9) (oTbPtpPort 0) 1 = false ∧ (getPtp (ptpAt 6) 0).state = 6 ∧ ptpTaken (ptpAt 6) 0 0 = true) ∧
    (let s := ptpAt 9
     let t : State := { s with time := { s.time with ptp0 := { s.time.ptp0 with syncWaiting := [(1, 5, 0)] } } }
     ptpTaken t 0 0 = true ∧ (getPtp t 0).syncWaiting = [(1, 5, 0)] ∧ (getPtp s 0).syncWaiting = []) ∧
    (let s := ptpAt 9
     let t : State := { s with time := { s.time with ptp0 := { s.time.ptp0 with reqSent := some (1, 0), syncDiff := some 8 } } }
     let u : State := { s with time := { s.time with ptp0 := { s.time.ptp0 with reqSent := some (1, 0) } } }
     (getPtp t 0).reqSent = some ((1 : BitVec 16).toNat, 0) ∧
     (measuredDelay (setPtp t 0 { getPtp t 0 with reqSent := none }) 0 0 0 0 0).isSome = true ∧
     (getPtp u 0).reqSent = some ((1 : BitVec 16).toNat, 0) ∧
     measuredDelay (setPtp u 0 { getPtp u 0 with reqSent := none }) 0 0 0 0 0 = none) ∧
    (let s := ptpAt 9
     let t : State := { s with time := { s.time with ptp0 := { s.time.ptp0 with master := some 5 } } }
     ptpTaken t 0 0 = true ∧ (getPtp t 0).state = 9 ∧ (getPtp t 0).master = some 5 ∧ (5 : BitVec 64) ≠ 6) ∧
    (let s := withReg (ptpAt 6) (oTbPtpPort 0) 0x310003
     ptpTaken s 0 0 = true ∧ getB s (oTbPtpPort 0) 1 = true ∧ 4 ≤ (getPtp s 0).state.toNat) ∧
    (running (ptpAt 9) = true ∧ (getMac (ptpAt 9) 0).link = true ∧ getB (ptpAt 9) (oTbPtpPort 0) 0 = true ∧
      (1 : BitVec 8).toNat ≠ getF (ptpAt 9) oTbCtrl 13 6) ∧
    ((getPtp atWork 0).refValid = false) ∧
    (let s : State := { atWork with time := { atWork.time with ptp0 := { refValid := true } } }
     (getPtp s 0).refValid = true ∧ getF s oTbStepThresh 23 0 ≠ 0 ∧ (getPtp s 0).pending = false ∧
     (0 - (getPtp s 0).ref).natAbs * 1000000000 ≤ getF s oTbStepThresh 23 0 * 2 ^ 76 ∧
     getF s oTbStepThresh 23 0 * 2 ^ 76 < ((2 ^ 60 : Int) - (getPtp s 0).ref).natAbs * 1000000000) := by
  decide +kernel

theorem witness_ptpTimersAndWrites :
    (running (ptpAt 6) = true ∧ (getMac (ptpAt 6) 0).link = true ∧ getB (ptpAt 6) (oTbPtpPort 0) 0 = true ∧
      (getPtp (ptpAt 6) 0).state = 6 ∧ bitAt (regRaw (ptpAt 6) (oTbPtpPort 0)) 2 = false ∧
      (getPtp (ptpAt 6) 0).lastSync + logDur (bits (regRaw (ptpAt 6) (oTbPtpPort 0)) 15 12) ≤ now (ptpAt 6) ∧
      following (getPtp (ptpAt 9) 0).state = true ∧ bitAt (regRaw (ptpAt 9) (oTbPtpPort 0)) 1 = false ∧
      (getPtp (ptpAt 9) 0).lastDelayReq + logDur (bits (regRaw (ptpAt 9) (oTbPtpPort 0)) 11 8) ≤ now (ptpAt 9)) ∧
    (let s0 := ptpAt 6
     let s : State := { s0 with time := { s0.time with raw := 80000000001 } }
     (getPtp s 0).lastAnnounceSent + logDur (bits (regRaw s (oTbPtpPort 0)) 19 16) ≤ now s) ∧
    (let s0 := withReg (ptpAt 8) oTbCtrl 0x4000
     let s : State := { s0 with time := { s0.time with raw := 80000000002 } }
     running s = true ∧ getB s (oTbPtpPort 0) 0 = true ∧ (getPtp s 0).state = 8 ∧ getB s oTbCtrl 14 = true ∧
     (getPtp s 0).lastAnnounce + bits (regRaw s (oTbPtpPort 0)) 23 20 * logDur (bits (regRaw s (oTbPtpPort 0)) 19 16)
       ≤ now s) ∧
    (ptpPortBad 0x310001 = false ∧ ptpPortBad 0x110001 = true) ∧
    (let s := withReg atWork oTbCtrl 0x4002
     s.time.released = true ∧ getB s oTbCtrl 1 = true ∧ getB s oTbCtrl 2 = false ∧ s.time.lastPpsIn = none ∧
     now s < now s + durMs 500) ∧
    (let s0 := withReg atWork oTbPpsOut 0x1186A0
     let s : State := { s0 with time := { s0.time with isSet := true, ppsSecond := some 0 } }
     s.time.ppsSecond = some 0 ∧ ppsOn s = true ∧ 0 < now s / 2 ^ 76 ∧
     (let t : State := { s with time := { s.time with ppsHigh := true } }
      t.time.ppsHigh = true ∧ 0 * 2 ^ 76 + durUs (getF t oTbPpsOut 19 0) ≤ now t)) ∧
    (let s := withReg atWork oTbCtrl 0x4001
     s.time.released = true ∧ getB s oTbCtrl 0 = true ∧ s.time.ref10 = .off ∧ s.time.refFrom + durMs 10 ≤ now s) ∧
    (let s : State := { atWork with time := { atWork.time with ref10 := .acquiring } }
     s.time.ref10 = .acquiring ∧ withinFrom s.time + durS 2 ≤ now s) ∧
    (-50 ≤ atWork.time.oscPpm ∧ atWork.time.oscPpm ≤ 50) := by
  decide +kernel
-- ## Set-up and power

theorem witness_registerWrites :
    setupOpen atWork = true ∧ atWork.power.st ≠ .windfall ∧ atWork.oxvan.addressChanged = false ∧
    atWork.oxvan.partApplying = false ∧ Tbl.get? atWork.regs oGlbPartA = none ∧ Tbl.get? atWork.regs oSeedId = none ∧
    4 % 8 ≠ 0 ∧ 0xFFFFF8 % 8 = 0 ∧ ¬ (0x28 ≤ 0xFFFFF8 ∧ 0xFFFFF8 ≤ 0x38) ∧ (regAt 0xFFFFF8).isNone = true := by
  decide +kernel

theorem witness_setupRows :
    (setupOpen atWork = true ∧ atWork.power.st ≠ .windfall ∧ atWork.oxvan.addressChanged = false ∧
      atWork.oxvan.saving = none ∧ mramWritable atWork = true) ∧
    (let s : State := { atWork with oxvan := { atWork.oxvan with saving := some (some []) } }
     setupOpen s = true ∧ s.oxvan.addressChanged = false ∧ s.oxvan.saving = some (some []) ∧ mramWritable s = true) ∧
    (let s : State := { atWork with oxvan := { atWork.oxvan with saving := some none } }
     s.oxvan.saving = some none ∧ mramWritable s = true) ∧
    (bits (0x1DBA1E00 : Word) 31 16 ≠ 0 ∧ bits (0x1DBA1E00 : Word) 15 8 ≠ 0 ∧ atWork.oxvan.session = none) ∧
    (bits (0x3F5 : Word) 8 4 ≠ 0 ∧ bits (0x3F5 : Word) 2 1 < 3) ∧ bits (0x3F1 : Word) 2 1 < 2 ∧
    (getSlot atWork 7).phase = .free := by
  decide +kernel

/-- The operator's station, its session, and a message of it. -/
def station : Station := { addr := { bits := 0xC0A80102 }, port := 5000 }
def session : Session :=
  { id := 7, station := station, via := .v4, last := 4, stored := some { type := 0x82, session := 7, seq := 4, status := .ok },
    idleFrom := 100 * 2 ^ 76 }
def msg (type : BitVec 8) (id seq : BitVec 32) : OxMsg :=
  { station := station, mac := 0x020304050607, own := { bits := 0xC0A80164 }, port := 7610, type := type, session := id,
    seq := seq, count := 0, len := 16, clean := true, items := [] }

/-- A datagram of the station to MGMT, broadcast, and the bytes of a message without items. -/
def udpFrame (bs : List Byte) : MgmtFrame :=
  { dst := word (2 ^ 48 - 1), src := 0x020304050607,
    body := .udp { bits := 0xC0A80102 } { bits := 0xC0A80164 } 5000 7610 bs }
def bytesOf (type : BitVec 8) (id seq : BitVec 32) : List Byte :=
  [0x4F, 0x58, 0x01, type] ++ leBytes 4 id.toNat ++ leBytes 4 seq.toNat ++ [0, 0, 0, 0]

/-- MGMT has a link; an Oxvan session is open or not. -/
def atMgmt (x : Option Session) : State :=
  { atWork with mgmt := { link := true, speed := 2 }, oxvan := { atWork.oxvan with session := x } }

/-- A broadcast frame is for the module whatever its own MAC address. -/
theorem mgmtMacOk_broadcast (s : State) : mgmtMacOk s (word (2 ^ 48 - 1)) = true := by
  simp [mgmtMacOk]

theorem witness_oxvanSessions_frames :
    (∀ t ∈ [(1 : BitVec 8), 3, 4], mgmtTake (atMgmt none) (udpFrame (bytesOf t 7 5)) = .oxvan (msg t 7 5)) ∧
    mgmtTake (atMgmt none) (udpFrame (bytesOf 4 0 5)) = .oxvan (msg 4 0 5) ∧
    (∀ t ∈ [(1 : BitVec 8), 3, 4], mgmtTake (atMgmt (some session)) (udpFrame (bytesOf t 8 5)) = .oxvan (msg t 8 5)) ∧
    (∀ t ∈ [(1 : BitVec 8), 3, 4], mgmtTake (atMgmt (some session)) (udpFrame (bytesOf t 7 5)) = .oxvan (msg t 7 5)) ∧
    mgmtTake (atMgmt none) (udpFrame [0x4F, 0x58, 0x02]) = .oxDropped := by
  refine ⟨?_, ?_, ?_, ?_, ?_⟩ <;> simp only [mgmtTake, udpFrame, mgmtMacOk_broadcast] <;> decide +kernel

theorem witness_oxvanSessions :
    (mgmtAnswers (atMgmt none) = true ∧ idleOver (atMgmt none) = false ∧
      (∀ t ∈ [(1 : BitVec 8), 3, 4], msgMalformed (msg t 7 5) = false) ∧
      (atMgmt none).oxvan.session = none ∧ msgMalformed (msg 4 0 5) = true ∧
      (atMgmt none).mgmt.link = true ∧ mgmtHalf (atMgmt none) = false ∧ (atMgmt none).mgmt.queue = []) ∧
    (mgmtAnswers (atMgmt (some session)) = true ∧ idleOver (atMgmt (some session)) = false ∧
      (atMgmt (some session)).oxvan.session.isSome = true ∧ msgOwn (msg 1 8 5) (atMgmt (some session)) = false ∧
      msgOwn (msg 3 7 5) (atMgmt (some session)) = true ∧ msgOwn (msg 4 7 5) (atMgmt (some session)) = true) ∧
    (let x := { session with idleFrom := 0 }
     (atMgmt (some x)).oxvan.session = some x ∧
     x.idleFrom + getF (atMgmt (some x)) oGlbOxvanCfg 15 8 * 2 ^ 76 ≤ mgmtTime (atMgmt (some x))) := by
  decide +kernel

theorem witness_oxvanBatches_frames :
    mgmtTake (atMgmt (some session)) (udpFrame (bytesOf 2 7 5)) = .oxvan (msg 2 7 5) ∧
    mgmtTake (atMgmt (some session)) (udpFrame (bytesOf 2 7 4)) = .oxvan (msg 2 7 4) ∧
    mgmtTake (atMgmt (some session)) (udpFrame (bytesOf 2 7 6)) = .oxvan (msg 2 7 6) ∧
    mgmtTake (atMgmt (some session)) (udpFrame (bytesOf 2 8 5)) = .oxvan (msg 2 8 5) := by
  refine ⟨?_, ?_, ?_, ?_⟩ <;> simp only [mgmtTake, udpFrame, mgmtMacOk_broadcast] <;> decide +kernel

theorem witness_oxvanBatches :
    let s := atMgmt (some session)
    mgmtAnswers s = true ∧ idleOver s = false ∧ msgMalformed (msg 2 7 5) = false ∧ s.oxvan.session = some session ∧
    (msgOwn (msg 2 7 5) s = true ∧ (msg 2 7 5).seq = session.last + 1) ∧
    (msgOwn (msg 2 7 4) s = true ∧ (msg 2 7 4).seq = session.last ∧ (msg 2 7 4).seq ≠ session.last + 1 ∧
      session.stored = some { type := 0x82, session := 7, seq := 4, status := .ok }) ∧
    ((msg 2 7 6).seq ≠ session.last ∧ (msg 2 7 6).seq ≠ session.last + 1) ∧ msgOwn (msg 2 8 5) s = false ∧
    (runItem s ⟨2, BitVec.ofNat 24 oTbStepSec, 5⟩).2.1 = .ok ∧ s.power.st ≠ .windfall := by
  decide +kernel

/-- The module in a power state, headed for another or not. -/
def inState (st : PState) (target : Option PState) : State :=
  { atWork with power := { atWork.power with st := st, target := target } }

theorem witness_stateRequests :
    ((inState .quiet none).power.powerFailAt = none ∧ (inState .quiet none).power.target = none ∧
      (inState .quiet none).oxvan.partApplying = false) ∧
    (drained (inState .active (some .quiet)) = true) ∧
    (let s0 := inState .active (some .quiet)
     let s : State := { s0 with mac0 := { s0.mac0 with txq := [{ len := 64, kind := .reply }] :: List.replicate 7 [] } }
     s.power.target = some .quiet ∧ s.power.st = .active ∧ drained s = false) := by
  decide +kernel

theorem witness_startsOfTheModule :
    (State.reset.power.st = .off ∧ (getPsu State.reset 0).present = true ∧ (getPsu State.reset 0).inOk = false ∧
      (getPsu State.reset 0).codeOk = true) ∧
    ((inState .starting none).power.pwrOk = false ∧ State.reset.mram.historyValid = true ∧ State.reset.mram.armed = none) ∧
    (let s : State := { atWork with mram := { atWork.mram with armed := some true } }
     s.mram.historyValid = true ∧ s.mram.armed = some true) ∧
    (let s : State := { atWork with mram := { atWork.mram with failCount := 3, incr := some 94541776987050 } }
     s.mram.armed = none ∧ 3 ≤ s.mram.failCount ∧ s.mram.incr = some 94541776987050) ∧
    (let s : State := { power := { st := .starting, pwrOk := true, aon := aonUs 2000000 - 1 } }
     s.power.st = .starting ∧ s.power.pwrOk = true ∧ withinStart s = true ∧ s.power.critical = false ∧
     s.power.procDc ≤ 950 ∧ getB s oPwrCtrl 1 = false) ∧
    (let s : State := { power := { st := .starting, pwrOk := true, aon := aonUs 2000000 } }
     s.power.st = .starting ∧ s.power.pwrOk = true ∧ withinStart s = false) ∧
    (let s : State := { power := { st := .active, readyAt := some 0, aon := aonUs 60000000 } }
     s.power.readyAt = some 0 ∧ 0 + aonUs 60000000 ≤ s.power.aon ∧ s.power.moduleErr = false ∧
     s.power.confirmed = false ∧ mramWritable s = true) := by
  decide +kernel

theorem witness_powerLoss :
    (atWork.power.st ≠ .off ∧ atWork.power.powerFailAt = none) ∧
    (let s : State := { power := { st := .active, powerFailAt := some 0, aon := aonUs 8000 } }
     s.power.powerFailAt = some 0 ∧ 0 + aonUs 8000 ≤ s.power.aon) ∧
    (let s : State := { power := { st := .active, powerFailAt := some 0, aon := aonUs 8000 - 1 } }
     s.power.powerFailAt = some 0 ∧ s.power.aon < 0 + aonUs 8000) ∧
    (atWork.power.st = .active ∧ (0x0F02 : BitVec 16) ≠ 0x1305 ∧ (0x0F02 : BitVec 16) ≠ 0x1306) := by
  decide +kernel

theorem witness_suppliesFansAndHeat :
    ((getPsu atWork 0).present = true ∧ (true || false || false) = true ∧ (getPsu atWork 0).inOk = false) ∧
    (let s : State := { atWork with power := { atWork.power with psu0 := { present := false }, psu1 := { outOk := true } } }
     (getPsu s 0).present = false ∧ s.power.st = .active ∧ (getPsu s (1 - 0)).outOk = true) ∧
    (let s : State := { atWork with power := { atWork.power with psu1 := { outOk := true } } }
     (getPsu s 0).present = true ∧ (getPsu s 0).inOk = false ∧ (getPsu s (1 - 0)).outOk = true) ∧
    (getFan atWork 5).present = true ∧
    (let s : State := { atWork with power := { atWork.power with fans := { present := false } :: List.replicate 5 {} } }
     (getFan s 0).present = false ∧ s.power.st = .active) ∧
    (let s : State := { atWork with power := { atWork.power with
       aon := aonUs 10000000, fansRaised := true, fans := { failed := true, workingSince := some 0 } :: List.replicate 5 {} } }
     (getFan s 0).failed = true ∧ (getFan s 0).workingSince = some 0 ∧ 0 + aonUs 10000000 ≤ s.power.aon ∧
     s.power.fansRaised = true) ∧
    (950 < (951 : BitVec 16).toNat ∧ 1050 < (1051 : BitVec 16).toNat ∧ (1050 : BitVec 16).toNat ≤ 1050 ∧
      atWork.power.target = none ∧ atWork.power.buttonAt = none ∧ setupOpen atWork = true) ∧
    (let s : State := { power := { st := .active, buttonAt := some 0, aon := aonUs 8000000, lampFrom := some 0 } }
     s.power.buttonAt = some 0 ∧ s.power.buttonArmed = false ∧ 0 + aonUs 1000000 ≤ s.power.aon ∧
     0 + aonUs 8000000 ≤ s.power.aon ∧ mramWritable s = true ∧ s.power.lampFrom = some 0 ∧
     0 + aonUs 3000000 ≤ s.power.aon) ∧
    (let s : State := { power := { st := .active, buttonAt := some 0, aon := aonUs 1000000 - 1 } }
     s.power.buttonAt = some 0 ∧ s.power.aon < 0 + aonUs 8000000 ∧ s.power.aon < 0 + aonUs 1000000) ∧
    (let s : State := setF atWork oErrStatus 7 7 1
     s.power.st = .active ∧ s.power.lampFrom = none ∧ feedbackOn s = false ∧ getB s oErrStatus 7 = true ∧
     getB s oPwrLed 0 = true ∧ getB atWork oErrStatus 6 = false ∧ getB atWork oErrStatus 7 = false) ∧
    (let s : State := { power := { st := .active, buttonAt := some 0, aon := aonUs 1000000 } }
     feedbackOn s = true ∧ s.power.buttonArmed = false) := by
  decide +kernel

theorem witness_firmwareAndKeys :
    (setupOpen atWork = true ∧ atWork.sec.fw.rests = true ∧ isRunningSlot atWork true = false ∧
      1024 ≤ (1024 : BitVec 32).toNat ∧ (167772160 : BitVec 32).toNat ≤ 167772160 ∧ (getImage atWork true).valid = true) ∧
    (let s : State := { atWork with sec := { fw := .receiving, length := 1024 } }
     s.sec.fw = .receiving ∧ s.sec.staged.length + 6 ≤ 4194304) ∧
    (let s : State := { atWork with sec := { fw := .receiving, length := 1024, received := 1026 } }
     s.sec.fw = .receiving ∧ s.sec.length ≤ s.sec.received ∧ s.sec.staged = []) ∧
    (({ atWork with sec := { fw := .verifying } } : State).sec.fw = .verifying) ∧
    (let s : State := { atWork with sec := { fw := .verified } }
     s.sec.fw = .verified ∧ mramWritable s = true) ∧
    (let s : State := { atWork with sec := { fw := .verifying, slotB := true }
                                    mram := { atWork.mram with slotB := { bytes := some [] }, minSvn := 1 } }
     (getImage s true).bytes = some [] ∧ ([] : List Byte).take 4 ≠ [0x50, 0x58, 0x46, 0x57] ∧
     leNat ((([] : List Byte).drop 4).take 2) ≠ 9 ∧ leNat ((([] : List Byte).drop 6).take 2) < s.mram.minSvn ∧
     (([] : List Byte).drop 32).take 32 ≠ sha256 ((([] : List Byte).drop 1024).take (leNat ((([] : List Byte).drop 8).take 4)))) ∧
    ((kekBytes atWork).drop 16).any (fun b => b != 0) = false ∧
    (let s : State := { atWork with sec := { kekWords := [0, 0, 0, 1, 0, 0] } }
     ((kekBytes s).drop 16).any (fun b => b != 0) = true) := by
  decide +kernel

/-- An IDENTITY_READ of the intermediate certificate to a region of `n` bytes, for a length. -/
theorem witness_identityRead :
    let s := withSlot atWork { boundSlot with regions := [(0, { addr := 0, len := 2 ^ 40, moduleWrite := true })] }
    Shows 0xC00 s (cmd (ownHandle atWork 0x0D 0) 0 1 (word (2 ^ 40))) (fun s c =>
      reservedBad c 0 [full, full, 1, full] = false ∧ (regionCheck s c.slot c.w1).1 = false ∧ c.w2.toNat % 64 = 0 ∧
      regionBounds s c.slot c.w1 c.w2.toNat (2 ^ 40) true = false ∧ 2 ^ 40 ≤ c.w4.toNat ∧ bitAt c.w3 0 = true ∧
      s.power.identityOk = false ∧
      regionBounds s c.slot c.w1 (2 ^ 41) 0 true = true) := shows (by decide +kernel)

/-- Every certificate fits that region. -/
theorem cert_fits (i : Bool) : (Config.cert i).length ≤ 2 ^ 40 := by
  cases i <;> simp [Config.cert]

theorem witness_identity :
    Shows 0xC00 { atWork with power := { atWork.power with identityOk := true } }
      (cmd (ownHandle atWork 0x0D 0) 64 0 4096) (fun s c =>
      reservedBad c 0 [full, full, 1, full] = false ∧ (regionCheck s c.slot c.w1).1 = false ∧ c.w2.toNat % 64 = 0 ∧
      s.power.identityOk = true) ∧
    Shows 0xC01 { atWork with power := { atWork.power with identityOk := true } }
      (cmd (ownHandle atWork 0x0D 0) 0 65024 0) (fun s c =>
      reservedBad c 0 [full, full, full] = false ∧ (regionCheck s c.slot c.w1).1 = false ∧
      regionBounds s c.slot c.w1 c.w2.toNat 64 false = false ∧ s.power.identityOk = true ∧
      ((List.replicate 64 (0 : Byte)).drop 32).any (fun x => x != 0) = false ∧
      regionBounds s c.slot c.w1 c.w3.toNat 512 true = false ∧ c.w2.toNat % 64 = 0 ∧ c.w3.toNat % 64 = 0) ∧
    Shows 0xC01 atWork (cmd (ownHandle atWork 0x0D 0) 0 65024 0) (fun s c =>
      reservedBad c 0 [full, full, full] = false ∧ (regionCheck s c.slot c.w1).1 = false ∧
      regionBounds s c.slot c.w1 c.w2.toNat 64 false = false ∧ s.power.identityOk = false ∧
      regionBounds s c.slot c.w1 c.w3.toNat 512 true = false ∧ c.w2.toNat % 64 = 0 ∧ c.w3.toNat % 64 = 0) := by
  constructorm* _ ∧ _ <;> exact shows (by decide +kernel)

-- ## Ports

/-- Port 0 with a link and a ready plug-in. -/
def linked : State := { atWork with mac0 := { atWork.mac0 with plug := 2, link := true, module_ := some { watts := 16 } } }

theorem witness_cagesAndLinks :
    (cagePowered atWork 0 = true ∧ plugValue (some { watts := 16 }) ≠ 5 ∧ plugValue (some { watts := 17 }) = 4 ∧
      (getMac atWork 0).link = false) ∧
    (let s : State := { atWork with mac0 := { atWork.mac0 with plug := 5, cmisRetryAt := some 0 } }
     (getMac s 0).cmisRetryAt = some 0) ∧
    (let s : State := { atWork with mac0 := { atWork.mac0 with plug := 2 } }
     (getMac s 0).plug = 2 ∧ (getMac s 0).link = false ∧ cagePowered s 0 = true ∧ (getMac s 0).plugAt ≠ s.power.aon) ∧
    (getMac linked 0).link = true := by
  decide +kernel

/-- A frame to port 0's own address in the unicast table. -/
def listening : State := withReg linked (oMacUc 0 0) 0

theorem witness_frameReception :
    ((getMac linked 0).link = true ∧
      frameCheck linked 0 { len := 63, da := 0, body := .other } = some 2 ∧
      frameCheck linked 0 { len := 9217, da := 0, body := .other } = some 3 ∧
      frameCheck linked 0 { len := 64, fcsOk := false, da := 0, body := .other } = some 4 ∧
      getF linked (oMacCtrl 0) 45 32 < 9217 ∧ 9216 ≤ getF linked (oMacCtrl 0) 45 32) ∧
    (frameCheck linked 0 { len := 64, da := 0xFFFFFFFFFFFF, body := .other } = none ∧
      rxBytes (getMac linked 0).mediaQ + 64 ≤ 16777216 ∧ rxBytes (getMac linked 0).ctrlQ + 64 ≤ 524288 ∧
      frameCheck linked 0 { len := 64, da := 0xFFFFFFFFFFFF, body := .roce { dip := { bits := 0 }, qp := none } } = none) ∧
    (let s : State := { linked with mac0 := { linked.mac0 with
       mediaQ := [{ frame := { len := 16777216, da := 0, body := .other }, time := 0 }] } }
     16777216 < rxBytes (getMac s 0).mediaQ + 64 ∧ (getMac s 0).link = true) ∧
    (getF (withReg linked (oMacFc 0) 0x6400000004) (oMacFc 0) 3 2 = 1 ∧
      getF (withReg linked (oMacFc 0) 0x6400000008) (oMacFc 0) 3 2 = 2 ∧ getF linked (oMacFc 0) 3 2 = 0) ∧
    (let s : State := { withReg linked (oMacFc 0) 0x6400000008 with mac0 := { linked.mac0 with
       paused := [(7, 0)], stoppedSince := [(7, 0)], ignoreUntil := [(7, 0)] } }
     Tbl.get? (getMac s 0).paused 7 = some 0 ∧ Tbl.get? (getMac s 0).stoppedSince 7 = some 0 ∧
     Tbl.get? (getMac s 0).ignoreUntil 7 = some 0 ∧ getF s (oMacFc 0) 47 32 ≠ 0 ∧
     0 + durMs (getF s (oMacFc 0) 47 32) ≤ now s) ∧
    (let s : State := { withReg linked (oMacFc 0) 0x640001000A with mac0 := { linked.mac0 with ctrlXoff := true, mediaXoff := true } }
     heldClasses s 0 (getMac s 0) ≠ [] ∧ (getMac s 0).xoffSentAt + durUs 40 ≤ now s) := by
  decide +kernel

theorem witness_frameTransmission_kind : ∀ m, TxKind.reply ≠ .ptp m := nofun

theorem witness_frameTransmission :
    (let f : TxFrame := { len := 64, kind := .reply }
     let s : State := { linked with mac0 := { linked.mac0 with txq := (List.replicate 7 []) ++ [[f]] } }
     (getMac s 0).replies = [] ∧ s.time.ptpOut = [] ∧ s.hci.sendQ = [] ∧ neverFits (getMac s 0) 7 64 = false ∧
     262144 < (((getMac s 0).txq.getD 7 []).map (fun x => x.len)).sum + 262081 ∧ neverFits (getMac s 0) 7 262081 = false ∧
     (getMac s 0).link = true ∧ (getMac s 0).txq.getD 7 [] = [f] ∧ (getMac s 0).oper = none ∧
     classOpen s (getMac s 0) 7 = true ∧ ∀ d : Fin 8, 7 < d → (getMac s 0).txq.getD d [] = []) ∧
    (∀ c : Fin 8, (getMac linked 0).txq.getD c [] = []) ∧
    (let s := withReg linked (oMacIp4 0) 0x10A000001
     running s = true ∧ ownsAddr s 0 { bits := 0x0A000001 } = true ∧ ownsAddr s 0 { bits := 0x0A000002 } = false) ∧
    (let s := withReg linked (oMacGateCycle 0) 999
     (gatePending s 0 0).cycleNs < 1000 ∧ ¬ (gatePending (withReg linked (oMacGateCycle 0) 1000) 0 0).cycleNs < 1000) ∧
    (let g : GateList := { entries := [{ gates := 1, intervalNs := 1000 }, { gates := 255, intervalNs := 1000 }], cycleNs := 2000,
                           extNs := 0, start := now linked - durNs 1500 }
     let s : State := { linked with mac0 := { linked.mac0 with admin := some g } }
     (getMac s 0).admin = some g ∧ g.start ≤ now s ∧ (getMac s 0).adminRegs = [] ∧
     (let t : State := { linked with mac0 := { linked.mac0 with oper := some g } }
      (getMac t 0).oper = some g ∧ (getMac t 0).admin = none ∧
      (g.cycle[(getMac t 0).entryIndex]?) = some { gates := 1, intervalNs := 1000 } ∧
      g.start + durNs ((getMac t 0).entryNs + 1000) ≤ now t ∧
      (g.cycle[(getMac t 0).entryIndex + 1]?) = some { gates := 255, intervalNs := 1000 }) ∧
     (let t : State := { linked with mac0 := { linked.mac0 with oper := some g, entryIndex := 1, entryNs := 1000 } }
      (g.cycle[(getMac t 0).entryIndex]?) = some { gates := 255, intervalNs := 1000 } ∧
      now t < g.start + durNs ((getMac t 0).entryNs + 1000) ∧ (getMac t 0).entryIndex + 1 = g.cycle.length ∧
      (g.cycle[0]?) = some { gates := 1, intervalNs := 1000 })) := by
  decide +kernel

/-- Frames of the sender of `udpFrame` with another body. -/
def mgmtFrame (b : MgmtBody) : MgmtFrame := { dst := word (2 ^ 48 - 1), src := 0x020304050607, body := b }

theorem witness_managementPort_frames :
    mgmtTake (atMgmt none) (mgmtFrame (.arp { bits := 0xC0A80164 })) = .arp { bits := 0xC0A80164 } ∧
    mgmtTake (atMgmt none) (mgmtFrame (.echo { bits := 0xC0A80102 } { bits := 0xC0A80164 } [1]))
      = .echo { bits := 0xC0A80102 } { bits := 0xC0A80164 } [1] ∧
    mgmtTake (withReg (atMgmt none) oMgtCtrl 0x1F5) (mgmtFrame (.echo { bits := 0xC0A80102 } { bits := 0xC0A80164 } [1]))
      = .dropped ∧
    mgmtTake (atMgmt none) (mgmtFrame .other) = .dropped ∧
    mgmtTake (atMgmt none) { mgmtFrame .other with fcsOk := false } = .badFcs := by
  refine ⟨?_, ?_, ?_, ?_, ?_⟩ <;> simp only [mgmtTake, mgmtFrame, mgmtMacOk_broadcast] <;> decide +kernel

theorem witness_managementPort :
    (atWork.power.st ≠ .off ∧ mgmtAnswers (atMgmt none) = true ∧ mgmtOwns (atMgmt none) { bits := 0xC0A80164 } = true ∧
      (atMgmt none).mgmt.backoffUntil = none ∧ (atMgmt none).mgmt.half = false) ∧
    (atWork.mgmt.queue = [] ∧ mgmtSpeed atWork 4 0 = some (2, false) ∧ getB atWork oMgtCtrl 0 = true ∧
      getB atWork oMgtCtrl 8 = true ∧ (4 : BitVec 3).getLsbD 2 = true) ∧
    (let s := withReg atWork oMgtCtrl 0x2F5
     getB s oMgtCtrl 0 = true ∧ getB s oMgtCtrl 8 = false ∧ getB s oMgtCtrl 7 = true ∧ (6 : BitVec 3).getLsbD 1 = true) ∧
    (let f : MgmtOut := { dst := 0, body := .arpReply { bits := 0 } }
     let s : State := { atMgmt none with mgmt := { link := true, speed := 1, half := true, attempt := 14, queue := [f] } }
     mgmtAnswers s = true ∧ s.mgmt.half = true ∧ s.mgmt.speed ≠ 2 ∧ s.mgmt.attempt < 15 ∧ s.mgmt.queue = f :: [] ∧
     s.mgmt.backoffUntil = none) ∧
    (let s : State := { atMgmt none with mgmt := { link := true, speed := 1, half := true, attempt := 15, backoffUntil := some 0 } }
     15 ≤ s.mgmt.attempt ∧ s.mgmt.backoffUntil = some 0 ∧ 0 ≤ mgmtTime s) := by
  decide +kernel
-- ## Streams, packets and keys

/-- Conference 0 with leg 0, its inbound context 0 and its outbound context 1, and the produced context 2; conference 1
is empty. -/
def confs : State :=
  { atWork with media := { atWork.media with
      confs := [(0, { eventsEn := true }), (1, {})]
      legs := [(0, { conf := 0, ccfb := true })]
      streams := [(0, { kind := 1, ssrc := 1, clock := 3, owner := 0, nackEn := true }), (1, { kind := 3, ssrc := 2, clock := 3, owner := 0 }),
                  (2, { kind := 5, ssrc := 3, owner := 0 }), (3, { kind := 4, owner := 0 })] } }

/-- Handles of the module's own objects. -/
def hConf (n : Nat) : Word := ownHandle atWork 3 n
def hLeg (n : Nat) : Word := ownHandle atWork 2 n
def hCtx (n : Nat) : Word := ownHandle atWork 1 n

theorem witness_streamObjectCommands_create :
    Shows 0x200 confs (cmd 0x40 0 0 0) (fun s c => reservedBad c 0 [0x7F, 1] = false ∧
      (bitAt c.w1 6 && noQueue s c.slot (bits c.w1 5 0)) = false ∧ (bitAt c.w2 0 && !(inBramble s)) = false ∧
      s.media.confs.length < 16384) ∧
    Shows 0x201 confs (cmd (hConf 1) 0 0 0) (fun s c => reservedBad c 0 [full] = false ∧
      (hObj s [3] c.w1 (confNamed s)).1 = false ∧ confUsed s (hIndex c.w1) = false ∧
      s.media.legs.any (fun p => p.2.conf == hIndex c.w1) = false ∧
      ((getConf s (hIndex c.w1)).map (fun x => !x.attached.isEmpty)).getD false = false) ∧
    Shows 0x210 confs (cmd7 (hLeg 0) (word (1 * 2 ^ 44 + 96 * 2 ^ 32 + 9)) (word (1 * 2 ^ 44 + 1 * 2 ^ 40 + 500)) 0 0 0 0)
      (fun s c =>
      reservedBad c 0 [full, mask 47 40 + mask 38 0, full, full, full, mask 47 37, mask 47 47 + mask 38 0] = false ∧
      (streamOf c).kind ≠ 5 ∧ (hObj s [2] c.w1 (legLive s)).1 = false ∧
      (hCheck0 s [4] c.w4).1 = false ∧ c.w5 = 0 ∧ streamRange s (streamOf c) = false ∧
      flowClash s (streamOf c).owner (streamOf c).kind (streamOf c).ssrc
        (if (streamOf c).rtxEn then some (streamOf c).rtxSsrc else none) none = false ∧
      legFull s (streamOf c) = false ∧ ctxAtMax s = false ∧ ctxNoRoom s = false) ∧
    Shows 0x210 confs (cmd7 (hConf 0) (word (5 * 2 ^ 44 + 96 * 2 ^ 32 + 9)) (word (1 * 2 ^ 44 + 1 * 2 ^ 40)) 0 0 0 0)
      (fun s c => (streamOf c).kind = 5 ∧ (hObj s [3] c.w1 (fun n => (getConf s n).isSome)).1 = false ∧
      streamRange s (streamOf c) = false) := by
  constructorm* _ ∧ _ <;> exact shows (by decide +kernel)

theorem witness_streamObjectCommands_modify :
    (∀ sel : Fin 4, Shows 0x211 confs (cmd (hCtx 0) 0 0 0 (BitVec.ofNat 12 sel.val)) (fun s c =>
      cmdSel c = sel.val ∧ cmdSel c ≤ 3 ∧ reservedBad c 0xF [full, modifyMask (cmdSel c)] = false ∧
      (hObj s [1] c.w1 (ctxNamed s)).1 = false ∧ getCtx s (hIndex c.w1) ≠ none ∧ (hCheck0 s [4] c.w2).1 = false ∧
      bits c.w2 47 40 ≤ 100 ∧ flowClash s 0 1 1 none (some (hIndex c.w1)) = false ∧
      quarantined s (hIndex c.w1) = false)) ∧
    Shows 0x212 confs (cmd (hCtx 2) 0 0 0) (fun s c => reservedBad c 0 [full] = false ∧
      (hObj s [1] c.w1 (ctxNamed s)).1 = false ∧ ctxRead s (hIndex c.w1) = false) ∧
    Shows 0x213 confs (cmd (hCtx 0) 0x112 0 0) (fun s c => reservedBad c 0 [full, 0x1FF] = false ∧ hType c.w1 = 1 ∧
      (hObj s [1, 2] c.w1 (ctxNamed s)).1 = false ∧ bits c.w2 7 0 ≤ 0x12 ∧ quarantined s (hIndex c.w1) = false ∧
      getCtx s (hIndex c.w1) ≠ none) ∧
    Shows 0x213 confs (cmd (hLeg 0) 0x123 0 0) (fun s c => reservedBad c 0 [full, 0x1FF] = false ∧ hType c.w1 = 2 ∧
      (hObj s [1, 2] c.w1 (legLive s)).1 = false ∧ 0x20 ≤ bits c.w2 7 0 ∧ bits c.w2 7 0 ≤ 0x23 ∧
      getLeg s (hIndex c.w1) ≠ none) ∧
    Shows 0x230 confs (cmd (ownHandle atWork 4 1048575) (word (2 ^ 24 + 1)) (word (9216 * 2 ^ 24 + 9216)) 7) (fun s c =>
      reservedBad c 0 [full, full, full, 7] = false ∧ (hCheck s [4] c.w1).1 = false ∧
      bits c.w2 47 24 ≤ bits c.w2 23 0 ∧ 1 ≤ bits c.w2 23 0 ∧ 9216 ≤ bits c.w3 47 24 ∧ 9216 ≤ bits c.w3 23 0) ∧
    Shows 0x231 confs (cmd (ownHandle atWork 5 0) (word (64 * 2 ^ 24 + 9216)) (word (200 * 2 ^ 40 + 2 ^ 32 + 9216)) 0)
      (fun s c => reservedBad c 0 [full, full, mask 47 40 + mask 33 32 + mask 23 0] = false ∧
      (hCheck s [5] c.w1).1 = false ∧ 64 ≤ bits c.w2 47 24 ∧ 100 ≤ bits c.w3 47 40 ∧ bits c.w3 47 40 ≤ 200 ∧
      9216 ≤ bits c.w3 23 0 ∧ (bitAt c.w3 33 && decide ((legsOfShaper s (hIndex c.w1)).length > 1)) = false ∧
      bitAt c.w3 32 = true) ∧
    Shows 0x231 confs (cmd (ownHandle atWork 5 0) (word (64 * 2 ^ 24 + 9216)) (word (100 * 2 ^ 40 + 9216)) 0)
      (fun s c => (hCheck s [5] c.w1).1 = false ∧ legsOfShaper s (hIndex c.w1) = []) := by
  refine ⟨?_, ?_, ?_, ?_, ?_, ?_, ?_⟩
  · intro sel; fin_cases sel <;> exact shows (by decide +kernel)
  all_goals exact shows (by decide +kernel)

theorem witness_legCommands :
    Shows 0x220 confs (cmd7 (hConf 0) 1 (word (5000 * 2 ^ 32 + 6000 * 2 ^ 16 + 1)) 0x0A000002 0 (word (2 ^ 32)) 0) (fun s c =>
      reservedBad c 0 [full, full, mask 47 5 + mask 3 0, full, full, full, full] = false ∧
      (hCheck0 s [5] c.w7).1 = false ∧ legRange (legWith { conf := 0 } c.w2 c.w3 c.w4 c.w5 c.w6) c.w4 c.w5 c.w6 = false ∧
      bits c.w3 3 0 ≤ 1 ∧ shaperTaken s c.w7 none = false ∧
      legClash s (legWith { conf := 0 } c.w2 c.w3 c.w4 c.w5 c.w6) none = false ∧ s.media.legs.length < 131072 ∧
      ofMember s 3 c.w1 = false ∧ (hObj s [3] c.w1 (confNamed s)).1 = false) ∧
    Shows 0x220 { confs with grn := { state := .member, roster := 3 } }
      (cmd7 (handle 3 1 0) 1 (word (5000 * 2 ^ 32 + 6000 * 2 ^ 16)) 0x0A000002 0 (word (2 ^ 32)) 0) (fun s c =>
      legRange (legWith { conf := 0 } c.w2 c.w3 c.w4 c.w5 c.w6) c.w4 c.w5 c.w6 = false ∧
      ofMember s 3 c.w1 = true ∧ hIndex c.w1 < 16384 ∧ confOf s c.w1 = none ∧ s.media.confs.length < 16384) ∧
    Shows 0x221 confs (cmd7 (hLeg 0) 1 (word (5000 * 2 ^ 32 + 6000 * 2 ^ 16)) 0x0A000002 0 (word (2 ^ 32)) 0) (fun s c =>
      cmdSel c = 0 ∧ reservedBad c 0xF (legMasks (cmdSel c)) = false ∧ (hObj s [2] c.w1 (legLive s)).1 = false ∧
      getLeg s (hIndex c.w1) = some { conf := 0, ccfb := true } ∧
      legRange (legWith { conf := 0, ccfb := true } c.w2 c.w3 c.w4 c.w5 c.w6) c.w4 c.w5 c.w6 = false ∧ bits c.w3 3 0 = 0 ∧
      legClash s (legWith { conf := 0, ccfb := true } c.w2 c.w3 c.w4 c.w5 c.w6) (some (hIndex c.w1)) = false) ∧
    Shows 0x221 confs (cmd (hLeg 0) (word (500 * 2 ^ 32 + 20 * 2 ^ 16 + 200)) (word (2 ^ 32 + 20 * 2 ^ 16 + 25 * 2 ^ 8 + 10)) 0 1)
      (fun s c => cmdSel c = 1 ∧ reservedBad c 0xF (legMasks (cmdSel c)) = false ∧
      (hObj s [2] c.w1 (legLive s)).1 = false ∧ lineRange { conf := 0, ccfb := true } c.w2 c.w3 = false) ∧
    Shows 0x221 confs (cmd (hLeg 0) (ownHandle atWork 5 7) 0 0 2) (fun s c => cmdSel c = 2 ∧
      reservedBad c 0xF (legMasks (cmdSel c)) = false ∧ (hObj s [2] c.w1 (legLive s)).1 = false ∧
      (hCheck0 s [5] c.w2).1 = false ∧ shaperTaken s c.w2 (some (hIndex c.w1)) = false) ∧
    Shows 0x221 confs (cmd (hLeg 0) 7 0 0 3) (fun s c => cmdSel c = 3 ∧
      reservedBad c 0xF (legMasks (cmdSel c)) = false ∧ (hObj s [2] c.w1 (legLive s)).1 = false ∧ bits c.w2 15 0 ≠ 0) ∧
    Shows 0x222 confs (cmd (hLeg 0) 0 0 0) (fun s c => reservedBad c 0 [full] = false ∧
      (hObj s [2] c.w1 (legLive s)).1 = false ∧ getLeg s (hIndex c.w1) ≠ none ∧
      s.media.streams.any (fun p => p.2.owner == hIndex c.w1 && p.2.kind != 5 && ctxRead s p.1) = false) ∧
    Shows 0x223 confs (cmd (hLeg 0) (hCtx 1) 0 0) (fun s c => reservedBad c 0 [full, full, full, mask 47 32] = false ∧
      (hObj s [2] c.w1 (legLive s)).1 = false ∧ (hObj s [1] c.w2 (ctxNamed s)).1 = false ∧ kindOf s (hIndex c.w2) = 3 ∧
      ownerOf s (hIndex c.w2) = hIndex c.w1 ∧ boundOut s (hIndex c.w2) = false ∧ c.w3 = 0 ∧
      quarantined s (hIndex c.w2) = false) ∧
    Shows 0x223 confs (cmd (hLeg 0) (hCtx 1) (hCtx 0) 0) (fun s c => boundOut s (hIndex c.w2) = false ∧ c.w3 ≠ 0 ∧
      ofMember s 1 c.w3 = false ∧ (hObj s [1] c.w3 (ctxNamed s)).1 = false ∧ kindOf s (hIndex c.w3) = 1 ∧
      codecOf s (hIndex c.w3) = codecOf s (hIndex c.w2) ∧ bits c.w4 47 44 < spatialCount s (hIndex c.w3) ∧
      bits c.w4 43 40 < temporalCount s (hIndex c.w3) ∧ quarantined s (hIndex c.w3) = false) := by
  constructorm* _ ∧ _ <;> exact shows (by decide +kernel)

/-- A frame in an input queue, and packets. -/
def item : RxItem := { frame := { len := 64, da := 0, body := .other }, time := 0 }
/-- An RTP packet of 100 bytes: payload type 0, sequence number 7, timestamp 0, SSRC 1. -/
def rtpBytes : List Byte := [0x80, 0, 0, 7, 0, 0, 0, 0, 0, 0, 0, 1] ++ List.replicate 88 0
def rtpIn (ctx : Nat) : Pkt := { port := 0, time := 0, len := 200, leg := 0, ctx := ctx, media := .rtp { bytes := rtpBytes } }
/-- An empty receiver report of SSRC 1. -/
def rtcpIn : Pkt :=
  { port := 0, time := 0, len := 200, leg := 0, ctx := 0, media := .rtcp { bytes := [0x80, 201, 0, 1, 0, 0, 0, 1], index := 0 } }
def pktOut : OutPkt := { leg := 0, ctx := 1, len := 200, bytes := rtpBytes }

theorem witness_mediaPackets :
    (let s : State := { confs with mac0 := { confs.mac0 with ctrlQ := [item] } }
     running s = true ∧ (getEngine s 0).out = false ∧ servingEngine s (getEngine s 0).turn = 0 ∧
     portElsewhere s 0 (getEngine s 0).turn = false ∧
     (getMac s (getEngine s 0).turn).ctrlQ = [item]) ∧
    (let s : State := { confs with mac1 := { confs.mac1 with mediaQ := [item] } }
     (getEngine s 1).out = false ∧ servingEngine s (getEngine s 1).turn = 1 ∧ (getMac s (getEngine s 1).turn).ctrlQ = [] ∧
     portElsewhere s 1 (getEngine s 1).turn = false ∧
     (getMac s (getEngine s 1).turn).mediaQ = [item] ∧ (getEngine s 1).passed = []) ∧
    (let s : State := { confs with media := { confs.media with engine0 := { out := true } } }
     (getEngine s 0).out = true) ∧
    (let i : EngItem := { port := 0, item := item, pkt := some (rtpIn 0) }
     let s : State := { confs with media := { confs.media with engine0 := { fifo := [i] } } }
     (getEngine s 0).fifo = [i] ∧ (getEngine s 0).out = false ∧ (getEngine s 0).replay = false ∧ i.port = 0 ∧
     (getEngine s 0).mismatches = []) ∧
    (let i : EngItem := { port := 0, item := item }
     let s : State := { confs with media := { confs.media with engine0 := { fifo := [i] } } }
     (getEngine s 0).fifo = [i] ∧ i.pkt = none ∧ (getEngine s 0).handover = none) ∧
    (let s : State := { confs with media := { confs.media with engine0 := { passed := [rtpIn 0] } } }
     (getEngine s 0).passed = [rtpIn 0] ∧ s.media.gateTurn = 0 ∧ s.media.gateNext ≤ now s) ∧
    (let s : State := { confs with media := { confs.media with gateNext := now confs + 1 } }
     now s < s.media.gateNext) ∧
    (let s : State := { confs with media := { confs.media with shapers := [(0, { queue := [pktOut] })] } }
     running s = true ∧ Tbl.has s.media.shapers 0 = true ∧ (getShaper s 0).queue = [pktOut]) ∧
    (let s : State := { confs with media := { confs.media with engineIn := [rtcpIn] } }
     running s = true ∧ s.media.engineIn = [rtcpIn] ∧ (getCtx s rtcpIn.ctx).map (fun x => x.quarantined) = some false) ∧
    (let x : Stream := { kind := 1, ssrc := 1, owner := 0, highestSeq := some 7, heldSeqs := [7] }
     let s : State := { confs with media := { confs.media with engineIn := [rtpIn 0], streams := [(0, x)] } }
     running s = true ∧ s.media.engineIn = [rtpIn 0] ∧ getCtx s 0 = some x ∧ (rtpIn 0).rtx = false ∧
     RtpFacts.seq { bytes := rtpBytes } = 7 ∧
     heldAlready s 0 x (extendSeq x (rtpIn 0).index 7) = true) := by
  decide +kernel

theorem witness_rtcpAndRates :
    (running confs = true ∧ (getCtx confs 0).map (fun x => (x.kind, x.nackEn)) = some (1, true) ∧
      (getCtx confs 1).map (fun x => (x.kind, x.sub)) = some (3, none) ∧
      (getLeg confs 0).map (fun l => (l.destroying, l.ccfb, l.conf, l.stale)) = some (false, true, 0, false) ∧
      (getConf confs 0).map (fun x => x.eventsEn) = some true ∧ legCtxs confs 0 1 ≠ []) ∧
    (let b : Sub := { source := 0, maxS := 0, maxT := 0, priority := 0
                      prefetch := some { entry := none, point := 0, target := (0, 0), instant := 0, staged := [] } }
     let s : State := { confs with media := { confs.media with streams := [(1, { kind := 3, sub := some b })] } }
     (getCtx s 1).map (fun x => x.sub) = some (some b) ∧ subOf s 1 = some b ∧ b.prefetch.map (fun p => p.instant) = some 0 ∧
     0 ≤ now s ∧ (getLeg s 0).map (fun l => decide (l.nextReport ≤ now s)) = some true ∧ legCtxs s 0 1 = []) ∧
    legCtxs { confs with media := { confs.media with streams := [] } } 0 3 = [] ∧
    (let p : Prefetch := { entry := none, point := 0, target := (0, 0), instant := now confs + 1, staged := [] }
     now confs < p.instant) ∧
    (let s : State := { confs with media := { confs.media with legs := [(0, { conf := 0, nextReport := now confs + 1, lastCcfb := now confs })] } }
     (getLeg s 0).map (fun l => (l.ccfb, decide (now s < l.nextReport))) = some (false, true) ∧
     (getLeg s 0).map (fun l => decide (now s < l.lastCcfb + durMs (getF s oStrFeedback 47 32))) = some true) ∧
    (0 + durMs (getF confs oStrFeedback 47 32) ≤ now confs ∧ 0 + (0 + 1) * durMs 500 ≤ now confs) ∧
    (let x : Stream := { kind := 1, nackEn := true, missing := [{ seq := 5, seenAt := 0 }, { seq := 6, seenAt := 0, nacks := 2 }] }
     x.missing.find? (fun m => m.seq == 5) = some { seq := 5, seenAt := 0 } ∧ 0 + durMs x.reorderMs ≤ now confs ∧
     x.missing.find? (fun m => m.seq == 6) = some { seq := 6, seenAt := 0, nacks := 2 } ∧ 0 + durMs 30 ≤ now confs) ∧
    (let l : Leg := { conf := 0, ccfb := true, stale := true }
     l.staleFrom + durMs l.staleMs ≤ now confs) ∧
    confs.media.lastRateUpdate + durMs 100 ≤ now confs ∧
    (let s : State := { confs with media := { confs.media with lastRateUpdate := now confs } }
     now s < s.media.lastRateUpdate + durMs 100) := by
  decide +kernel

theorem witness_rtcpAndRates_points :
    (let b : Sub := { source := 0, maxS := 0, maxT := 0, priority := 0, cur := some (0, 0) }
     let x : Stream := { kind := 3, owner := 0, sub := some b, sentSinceSr := true }
     let s : State := { confs with media := { confs.media with
       streams := [(0, { kind := 1 }), (1, x), (3, { kind := 4, owner := 0 })] } }
     getCtx s 1 = some x ∧ x.kind = 3 ∧ x.sub = some b ∧ b.cur = some (0, 0) ∧ pointCtx s b.source (0, 0) = 0 ∧
     actsOnRequest s 0 = false ∧ legCtxs s 0 3 = [1] ∧ x.sentSinceSr = true ∧ rtcpCtx s 0 = some 3 ∧
     (getLeg s 0).map (fun l => (l.destroying, decide (l.nextReport ≤ now s))) = some (false, true)) ∧
    (let b : Sub := { source := 0, maxS := 0, maxT := 0, priority := 0 }
     let s : State := { confs with media := { confs.media with streams := [(1, { kind := 3, sub := some b })] } }
     (getCtx s 1).map (fun x => x.sub) = some (some b) ∧ b.cur = none) := by
  decide +kernel

/-- The wrapping of keys is not demanded. -/
def plainKeys : State := withReg confs oCipCtrl 0x400

/-- A blob of 30 bytes of material. -/
def blob : List Byte := List.replicate 30 5 ++ List.replicate 34 0

theorem witness_keyCommands :
    Shows 0x300 plainKeys (cmd7 (hCtx 0) (word (1 * 2 ^ 40)) (ownHandle atWork 0x0D 0) 64 0 0 0) (fun s c =>
      reservedBad c 0 [full, mask 47 37 + 0x3F, full, full, full, full, if bitAt c.w2 37 then full else 0] = false ∧
      (hObj s [1] c.w1 (ctxNamed s)).1 = false ∧ (getCtx s (hIndex c.w1)).map (fun x => (x.kind, x.cur)) = some (1, none) ∧
      noQueue s c.slot (bits c.w2 5 0) = false ∧ (regionCheck s c.slot c.w3).1 = false ∧
      regionBounds s c.slot c.w3 c.w4.toNat 64 false = false ∧ c.w4.toNat % 64 = 0 ∧
      suiteOf (bits c.w2 47 40) = some (16, 14, 10, 10) ∧ getB s oCipCtrl 1 = false ∧
      material (kekOf s c.slot) (bitAt c.w2 38) (16 + 14) (blob.set 63 1) = none ∧
      material (kekOf s c.slot) (bitAt c.w2 38) (16 + 14) blob = some (List.replicate 30 5) ∧
      keysHeld s < keyCapacity s) ∧
    (let x : Stream := { kind := 3, out := { hwm := 10 } }
     (9 : Word).toNat < markOf confs x false 0 false ∧ markOf confs x false 0 false ≤ (10 : Word).toNat) ∧
    Shows 0x301 confs (cmd (hCtx 0) 0 0 0) (fun s c => reservedBad c 0 [full, 3] = false ∧
      (hObj s [1] c.w1 (ctxNamed s)).1 = false ∧ (getCtx s (hIndex c.w1)).map (fun x => (x.kind, x.cur)) = some (1, none)) ∧
    (let k : Key := { id := 1, suite := 1, start := 0 }
     Shows 0x301 { confs with media := { confs.media with streams := [(0, { kind := 1, owner := 0, cur := some k, next := some k })] } }
      (cmd (hCtx 0) 1 0 0) (fun s c => (hObj s [1] c.w1 (ctxNamed s)).1 = false ∧
      (getCtx s (hIndex c.w1)).map (fun x => (x.cur, x.next)) = some (some k, some k) ∧ bitAt c.w2 1 = false ∧
      bitAt c.w2 0 = true)) ∧
    (let k : Key := { id := 1, suite := 1, start := 0, persist := some 7 }
     Shows 0x301 { confs with media := { confs.media with streams := [(0, { kind := 1, owner := 0, cur := some k })] } }
      (cmd (hCtx 0) 2 0 0) (fun s c => (hObj s [1] c.w1 (ctxNamed s)).1 = false ∧ reservedBad c 0 [full, 3] = false ∧
      (getCtx s (hIndex c.w1)).map (fun x => x.cur) = some (some k) ∧ bitAt c.w2 1 = true ∧ bitAt c.w2 0 = false)) ∧
    Shows 0x302 confs (cmd (hCtx 0) 0x109 0 0) (fun s c => reservedBad c 0 [full, 0x1FF] = false ∧
      (hObj s [1] c.w1 (ctxNamed s)).1 = false ∧ bits c.w2 7 0 ≤ 9 ∧ getCtx s (hIndex c.w1) ≠ none) ∧
    (let b : List Byte := [1, 16] ++ List.replicate 126 0
     Shows 0x310 confs (cmd7 (ownHandle atWork 0x0D 0) 0 0 0 0 4096 16) (fun s c =>
      reservedBad c 1 [full, full, full, full, full, full, full] = false ∧ (regionCheck s c.slot c.w1).1 = false ∧
      c.w3 = 0 ∧ c.w5 = 0 ∧ regionBounds s c.slot c.w1 c.w2.toNat 128 false = false ∧ c.w2.toNat % 64 = 0 ∧
      (b.getD 0 0).toNat = 1 ∧ (b.getD 1 0).toNat = 16 ∧ bits c.w7 31 0 = 16 ∧ blockReserved 1 b = false ∧
      jobKey (kekOf s c.slot) ((b.getD 2 0).getLsbD 0) 16 b ≠ none ∧ badModuleRange c.w4.toNat 16 = false ∧
      poisoned s c.w4.toNat 16 = false ∧ badModuleRange c.w6.toNat 16 = false)) := by
  refine ⟨shows (by decide +kernel), by decide +kernel, shows (by decide +kernel), shows (by decide +kernel),
    shows (by decide +kernel), shows (by decide +kernel), shows (by decide +kernel)⟩

/-- A lane that works on one packet. -/
def laneWith (p : FifoPkt) (busy : Bool) : State :=
  { confs with media := { confs.media with lanes := [(0, { fifo := [p], busy := busy })] } }

theorem witness_cipherLanes :
    (let s : State := { confs with media := { confs.media with groups := [(0, { inQ := [rtpIn 0], outQ := [pktOut] })] } }
     running s = true ∧ freeLane s 0 = some 0 ∧ (getGroup s 0).inQ = [rtpIn 0] ∧
     (getGroup s 0).turnOut = false ∧ (getGroup s 0).outQ = [pktOut] ∧ reserveHolds s pktOut = false) ∧
    (let s : State := { confs with media := { confs.media with groups := [(15, { outQ := [pktOut] })] } }
     freeLane s 15 ≠ none ∧ (getGroup s 15).inQ = []) ∧
    (let s : State := { confs with media := { confs.media with lanes := (List.range 64).map (fun k => (k, { busy := true })) } }
     freeLane s 0 = none) := by
  decide +kernel

theorem witness_cipherLanes_job :
    let j : Job := { block := [], source := [], decrypt := false, aadLen := 0, length := 16, dstSlot := 0, dstRegion := none,
                     dstAddr := 0, srcRegion := some 0 }
    let s : State := { confs with media := { confs.media with groups := [(0, { jobQ := [5] })], jobs := [(5, j)] } }
    running s = true ∧ freeLane s 0 = some 0 ∧ (getGroup s 0).inQ = [] ∧ (getGroup s 0).outQ = [] ∧
    (getGroup s 0).jobQ = [5] ∧ Tbl.get? s.media.jobs 5 = some j ∧ jobWaits s j = false ∧
    jobsRunning s 0 < getF s oCipCtrl 14 8 := by
  decide +kernel

/-- The packet that a lane works on is the last of its FIFO, when its rows are those of now. -/
def worksOn (s : State) (p : FifoPkt) : Bool :=
  let u := advanceLane s 0
  decide ((getLane u 0).fifo.getLast? = some p) && (getLane u 0).busy

theorem witness_cipherLanes_end :
    (let p : FifoPkt := { work := .inbound (rtpIn 0), len := 100, pushed := dataRows 100 + 1, rowsHeld := dataRows 100 + 1 }
     let s := laneWith p true
     worksOn s p = true ∧ (getLane (advanceLane s 0) 0).endAt p ≤ now s ∧ p.dropping = false ∧ dataRows p.len < p.pushed ∧
     worksOn s { p with work := .outbound pktOut } = false) ∧
    (let p : FifoPkt := { work := .outbound pktOut, len := 100, pushed := dataRows 100 + 1, rowsHeld := dataRows 100 + 1 }
     let s := laneWith p true
     worksOn s p = true ∧ (getLane (advanceLane s 0) 0).endAt p ≤ now s ∧ p.dropping = false ∧ dataRows p.len < p.pushed) ∧
    (let p : FifoPkt := { work := .inbound (rtpIn 0), len := 100, pushed := 1, rowsHeld := 1, dropping := true }
     let s := laneWith p true
     worksOn s p = true ∧ (getLane (advanceLane s 0) 0).endAt p ≤ now s ∧ p.dropping = true) ∧
    (let p : FifoPkt := { work := .outbound pktOut, len := 9216, enc := 9216, pushed := 1, rowsHeld := 1 }
     let s0 := laneWith p true
     let s : State := { s0 with media := { s0.media with lanes := [(0, { fifo := [p], busy := true, startAt := now confs })] } }
     worksOn s p = true ∧ now s < (getLane (advanceLane s 0) 0).endAt p) ∧
    (let p : FifoPkt := { work := .outbound pktOut, len := 9216, pushed := 1, rowsHeld := 1 }
     let ln : Lane := { fifo := [{ work := .outbound pktOut, len := 9216, rowsHeld := 255 }, p], busy := true }
     ln.fifo.getLast? = some p ∧ ln.busy = true ∧ p.dropping = false ∧ p.pushed ≤ dataRows p.len ∧
     ln.startAt + coreDur (p.rowAt p.pushed) ≤ now confs ∧ 256 ≤ fifoDepth ln) := by
  decide +kernel

theorem witness_cipherLanes_tickets :
    (let q := { rtpIn 0 with index := 5 }
     let s := laneWith { work := .inbound q, len := 100, rowsHeld := 4, tagDone := true } false
     (getCtx s 0).map (fun x => (x.replay.valid, x.replay.givenUp, x.next, x.drain, x.replay.doneTicket)) = some (false, [], none, none, 0) ∧
     ticketReady s 0 false 0 = some q ∧ ticketReady s 0 false 1 = none) ∧
    (let x : Stream := { kind := 1, replay := { valid := true, highest := 5, window := 1 } }
     x.replay.valid = true ∧ 5 ≤ x.replay.highest ∧ x.replay.window.testBit (x.replay.highest - 5) = true) ∧
    (let p : FifoPkt := { work := .inbound (rtpIn 0), len := 100, rowsHeld := 1, state := .published }
     let u := advanceLane (laneWith p false) 0
     (getLane u 0).fifo = [p] ∧ earlierHeld u p.work = false ∧ p.rowsHeld = 1) ∧
    (let p : FifoPkt := { work := .inbound (rtpIn 0), len := 100, rowsHeld := 2, state := .void }
     (getLane (advanceLane (laneWith p false) 0) 0).fifo = [p] ∧ 1 < p.rowsHeld) ∧
    (let p : FifoPkt := { work := .outbound pktOut, len := 100, rowsHeld := 2, state := .published }
     earlierHeld (advanceLane (laneWith p false) 0) p.work = false ∧ 1 < p.rowsHeld) ∧
    ((getLane (advanceLane confs 1023) 1023).fifo = [] ∧ mramWritable confs = true) := by
  decide +kernel

-- ## Decode and composition

/-- A task of an affinity running on core 0, as task 5. -/
def runs (s : State) (cls key : Nat) : State :=
  { s with sched := { s.sched with
      tasks := [(5, { cls := cls, band := 2, affinity := key, seq := 5, state := .running, core := some 0 })]
      cores := [(0, { running := some 5 })] } }

/-- A video source, and decode context 0 that reads it with one picture waiting. -/
def video : State :=
  { confs with
    media := { confs.media with streams := [(0, { kind := 1, codec := 1, clock := 3, owner := 0, pliEn := true })] }
    units := { confs.units with decs := [(0, { source := 0, maxW := 1920, maxH := 1080, fps := 30, poolSlots := 6,
                                               waiting := [{ ts := 0, releasedAt := 0 }] })] } }

def hDec (n : Nat) : Word := ownHandle atWork 6 n
def hCanvas (n : Nat) : Word := ownHandle atWork 7 n
def hEnc (n : Nat) : Word := ownHandle atWork 8 n

/-- DEC_CREATE of a 1080p context on context 0. -/
def decMake0 : Cmd :=
  cmd (hCtx 0) (word (1 * 2 ^ 44 + 40 * 2 ^ 36)) (word (1920 * 2 ^ 32 + 1080 * 2 ^ 16 + 30 * 2 ^ 8 + 6)) (word (100 * 2 ^ 32 + 60))

theorem witness_decodeCommands :
    Shows 0x400 video decMake0 (fun s c =>
      reservedBad c 0 [full, mask 47 23 + 0xBF, full, mask 47 32 + mask 9 0] = false ∧ (hMay s 1 c.w1 (ctxNamed s)).1 = false ∧
      bitAt c.w2 7 = false ∧ ofMember s 1 c.w1 = false ∧ kindOf s (hIndex c.w1) = 1 ∧ quarantined s (hIndex c.w1) = false ∧
      firstFail (decChecks s (decOf (cmdDesc 0x400 c) c.slot c.ring (hIndex c.w1)) (bits c.w2 35 34)
        (codecOf s (hIndex c.w1))) = none) ∧
    Shows 0x400 video { decMake0 with w4 := word (99 * 2 ^ 32) } (fun s c =>
      reservedBad c 0 [full, mask 47 23 + 0xBF, full, mask 47 32 + mask 9 0] = false ∧
      firstFail (decChecks s (decOf (cmdDesc 0x400 c) c.slot c.ring (hIndex c.w1)) (bits c.w2 35 34)
        (codecOf s (hIndex c.w1))) = some 0x108) ∧
    Shows 0x400 { video with
        grn := { state := .member, roster := 3 }
        media := { video.media with confs := [(0, { span := true, attached := [1] })]
                                    streams := [(0, { kind := 5, hidden := true, mirrorOf := some (handle 1 1 0) })] } }
      { decMake0 with w1 := handle 1 1 0 } (fun s c => ofMember s 1 c.w1 = true ∧ (hMay s 1 c.w1 (ctxNamed s)).1 = false ∧
      (spanAttached s (hMember c.w1)).isSome = true ∧ (mirrorFor s c.w1).isSome = true) ∧
    Shows 0x401 video (cmd (hDec 0) (word (2 * 2 ^ 24)) 0 0) (fun s c => cmdSel c = 0 ∧
      reservedBad c 0xF ([[full, mask 31 24], [full, mask 9 0], [full, 3, 0xFFFF], [full, 0xBF]].getD (cmdSel c) []) = false ∧
      (hObj s [6] c.w1 (decLive s)).1 = false ∧ (getDec s (hIndex c.w1)).isSome = true ∧ bits c.w2 31 28 = 0 ∧
      bits c.w2 27 24 ≤ 2 ∧ decRefused s (decReserve 1920 1080 30 (bits c.w2 31 28)) 0 = false) ∧
    Shows 0x401 video (cmd (hDec 0) 1000 0 0 1) (fun s c => cmdSel c = 1 ∧
      reservedBad c 0xF [full, mask 9 0] = false ∧ (hObj s [6] c.w1 (decLive s)).1 = false ∧ bits c.w2 9 0 ≤ 1000) ∧
    Shows 0x401 video (cmd (hDec 0) 3 10000 0 2) (fun s c => cmdSel c = 2 ∧ reservedBad c 0xF [full, 3, 0xFFFF] = false ∧
      100 ≤ bits c.w3 15 0 ∧ bits c.w3 15 0 ≤ 10000) ∧
    Shows 0x401 video (cmd (hDec 0) 0x80 0 0 3) (fun s c => cmdSel c = 3 ∧ reservedBad c 0xF [full, 0xBF] = false ∧
      noQueue s c.slot (bits c.w2 5 0) = false) ∧
    Shows 0x402 video (cmd (hDec 0) 0 0 0) (fun s c => reservedBad c 0 [full] = false ∧
      (hObj s [6] c.w1 (decLive s)).1 = false ∧ unitRead s c.w1 = false ∧ (getDec s (hIndex c.w1)).isSome = true) ∧
    Shows 0x403 video (cmd (hDec 0) 0 0 0) (fun s c => reservedBad c 1 [full] = false ∧
      (hObj s [6] c.w1 (decLive s)).1 = false ∧ (getDec s (hIndex c.w1)).map (fun x => x.source) = some 0 ∧
      (getCtx s 0).map (fun y => y.pliEn) = some true) := by
  constructorm* _ ∧ _ <;> exact shows (by decide +kernel)

theorem witness_decodeRows_release :
    (let p : JbPic := { ts := 0, firstAt := 0, seqs := [7] }
     let s : State := { video with media := { video.media with streams := [(0, { kind := 1, owner := 0, jbTarget := 500, jb := [p] })] } }
     running s = true ∧ (getCtx s 0).map (fun x => x.jb) = some [p] ∧ p.firstAt + durMs 500 ≤ now s) ∧
    (let p : JbPic := { ts := 0, firstAt := now video, seqs := [7] }
     now video < p.firstAt + durMs 500 ∧ jbComplete { kind := 1, jb := [p] } p = false) ∧
    (let s := runs video clsDec (keyDec 0)
     let p : PicFacts := { width := 1920, height := 1080 }
     let x : Dec := { source := 0, maxW := 1920, maxH := 1080, fps := 30, poolSlots := 6, level := 255
                      waiting := [{ ts := 0, releasedAt := 0 }] }
     let t : State := { s with units := { s.units with decs := [(0, x)] } }
     getDec t 0 = some x ∧ x.served = none ∧ x.stopped = false ∧ p.more = false ∧
     (runningWith t (keyDec 0)).map (fun p => (p.1, p.2.entry)) = some (5, none) ∧
     featureOf (codecOf t 0) x p = none ∧ featureOf (codecOf t 0) x { p with width := 1921 } = some 0x0B ∧
     passedOver (codecOf t 0) (0, 0) p = false ∧ passedOver 4 (0, 0) { p with s := 1 } = true ∧
     featureOf 4 x { p with s := 1 } = none ∧ poolSlot x = some 0 ∧
     joinBlocked t 0 x { ts := 0, releasedAt := 0 } p (refRipes t 0 (slotPics x p.reads)) = none ∧
     featureOf (codecOf t 0) x { p with randomAccess := true } = none ∧
     joinBlocked t 0 { x with stopped := true } { ts := 0, releasedAt := 0 } { p with randomAccess := true } [] = none) ∧
    (let x : Dec := { source := 0, stopped := true, taintedSince := some 0, taintReq := true }
     ({ width := 16, height := 16 } : PicFacts).randomAccess = false ∧
     max 0 (x.lastTaintReq.getD 0) + durMs x.taintReqMs ≤ now video) ∧
    (let x : Dec := { source := 0, poolSlots := 1, pics := [{ no := 0, slotNo := 0, ts := 0, width := 16, height := 16 }] }
     poolSlot x = none ∧ x.taintedSince = none ∧ featureOf 1 { x with level := 255 } { width := 16, height := 16 } = none) ∧
    (runningWith video (keyDec 0)).isNone = true := by
  decide +kernel

/-- Every join entry is in use, and a picture reads two pictures that wait for different entries. -/
def joinsFull : State :=
  { runs video clsDec (keyDec 0) with spec := { video.spec with table := List.replicate 32768 (9, { cls := .join }) } }

theorem witness_decodeRows_joins :
    let x : Dec := { source := 0, maxW := 1920, maxH := 1080, fps := 30, poolSlots := 6, refs := [(0, 1), (1, 2)]
                     pics := [{ no := 1, slotNo := 0, ts := 0, width := 16, height := 16, ripe := { entry := some 1 } },
                              { no := 2, slotNo := 1, ts := 0, width := 16, height := 16, ripe := { entry := some 2 } }] }
    joinBlocked joinsFull 0 x { ts := 0, releasedAt := 0 } { width := 16, height := 16, reads := [0, 1] }
      [{ entry := some 1 }, { entry := some 2 }] = some { consumer := keyDec 0, opens := [1, 2] } ∧
    slotPics x [0, 1] = [1, 2] ∧ poolSlot x = some 2 := by
  have h : openJoins joinsFull = 32768 := by
    show (List.filter _ (List.replicate 32768 _)).length = 32768
    rw [List.filter_replicate_of_pos rfl, List.length_replicate]
  refine ⟨?_, by decide +kernel, by decide +kernel⟩
  rw [joinBlocked, h]
  decide +kernel

theorem witness_decodeRows_runs :
    (let en : Entry := { cls := .concealment, owner := 0, deadline := some 0 }
     let s : State := { video with spec := { video.spec with table := [(3, en)] } }
     Tbl.get? s.spec.table 3 = some en ∧ en.deadline = some 0 ∧ 0 ≤ now s) ∧
    (let en : Entry := { cls := .concealment, owner := 0, deadline := some (now video + 1) }
     let s : State := { video with
       spec := { video.spec with table := [(3, en)] }
       units := { video.units with decs := [(0, { source := 0, runs := [(3, [])], entries := [3] })] } }
     Tbl.get? s.spec.table 3 = some en ∧ now s < now video + 1 ∧
     (getDec s 0).map (fun x => x.runs.contains (3, [])) = some true) ∧
    (let x : Dec := { source := 0, taintedSince := some (now video), taintReq := true }
     now video < max (now video) (x.lastTaintReq.getD 0) + durMs x.taintReqMs) := by
  decide +kernel

theorem witness_speculations :
    (let en : Entry := { cls := .prefetch, owner := 1, deadline := some 0 }
     let s : State := { confs with spec := { confs.spec with table := [(0, en)] } }
     Tbl.get? s.spec.table 0 = some en ∧ 0 ≤ now s ∧ en.cls = .prefetch ∧ (Tbl.get? s.spec.table 1).isNone = true) ∧
    (let en : Entry := { cls := .concealment, owner := 0, deadline := some (now confs + 1) }
     en.cls = .concealment ∧ now confs < now confs + 1) ∧
    (let s : State := { confs with spec := { confs.spec with joinWaiters := [{ consumer := keyDec 0, opens := [0, 1] }] } }
     s.spec.joinWaiters ≠ [] ∧ openJoins s < 32768) ∧ confs.spec.joinWaiters = [] := by
  decide +kernel

theorem witness_statRipeness :
    Shows 0xB20 confs (cmd 0x6 0 0 0) (fun _ c => reservedBad c 0 [full] = false ∧ 5 < bits c.w1 3 0) ∧
    Shows 0xB20 confs (cmd 0x155 0 0 0) (fun _ c => reservedBad c 0 [full] = false ∧ bits c.w1 47 9 = 0 ∧
      bits c.w1 3 0 ≤ 5 ∧ bits c.w1 7 4 ≤ 5) ∧
    Shows 0xB20 confs (cmd 0x60 0 0 0) (fun _ c => reservedBad c 0 [full] = false ∧ bits c.w1 47 9 = 0 ∧
      bits c.w1 3 0 ≤ 5 ∧ bits c.w1 7 4 = 6) := by
  constructorm* _ ∧ _ <;> exact shows (by decide +kernel)

/-- Canvas 0 at 30 pictures a second, reading decode context 0, which no other canvas reads. -/
def screen : State :=
  { video with units := { video.units with canvases := [(0, { width := 1280, height := 720, memBufs := 2, pxf := 1 })] } }

/-- One record of 48 bytes: decode context 0, cropped to 1,280 × 720 at the origin, opaque. -/
def record0 : List Byte :=
  wordBytes [hDec 0, 0, 0, word (255 * 2 ^ 8), word 1280, word (720 * 2 ^ 32), 0, 0]

theorem witness_canvasCommands :
    Shows 0x500 screen (cmd7 (word (3840 * 2 ^ 32 + 2160 * 2 ^ 16 + 1 * 2 ^ 8)) (word (120 * 2 ^ 32 + 1 * 2 ^ 16)) 0
        (word (8333 * 2 ^ 28 + 3 * 2 ^ 24 + 4 * 2 ^ 18 + 0x80)) 0 0 0) (fun s c =>
      reservedBad c 0 [mask 47 7, full, full, mask 47 18 + 0xBF, mask 23 0] = false ∧
      noQueue s c.slot (bits c.w4 5 0) = false ∧ bits c.w1 47 32 = 3840 ∧ bits c.w1 31 16 = 2160 ∧ bits c.w1 15 8 = 1 ∧
      bits c.w2 47 32 ≤ 120 * bits c.w2 31 16 ∧ bits c.w4 47 28 * bits c.w2 47 32 ≤ 1000000 * bits c.w2 31 16 ∧
      bits c.w4 27 24 = 3 ∧ bits c.w4 23 18 = 4 ∧ s.units.canvases.length < 4096 ∧
      (allocate s 4 (3 * slotBytes 4 3840 2160)).isSome = true) ∧
    Shows 0x501 screen (cmd7 (hCanvas 0) (ownHandle atWork 0x0D 0) 0 2 0 0 0) (fun s c =>
      reservedBad c 1 [full, full, full, 0xF, full] = false ∧ (hObj s [7] c.w1 (canvasLive s)).1 = false ∧
      (regionCheck s c.slot c.w2).1 = false ∧ regionBounds s c.slot c.w2 c.w3.toNat (48 * bits c.w4 3 0) false = false ∧
      c.w3.toNat % 64 = 0 ∧ 2 ≤ bits c.w4 3 0 ∧ bits c.w4 3 0 ≤ 8 ∧
      recordReserved (blockWords s c.slot 8 record0) = false ∧
      (let l := layerOf (blockWords s c.slot 8 record0)
       (sourceCheck s l).1 = false ∧ recordRange s l = false ∧ recordRect { width := 1280, height := 720 } l = false ∧
       deeper s (hIndex c.w1) [l, l] 3 0 = false ∧
       placeHolds s (hIndex c.w1) { width := 1280, height := 720 } [l, l].zipIdx [] = some [])) ∧
    Shows 0x501 screen (cmd7 (hCanvas 0) (ownHandle atWork 0x0D 0) 0 9 0 0 0) (fun s c =>
      reservedBad c 1 [full, full, full, 0xF, full] = false ∧ (hObj s [7] c.w1 (canvasLive s)).1 = false ∧
      (regionCheck s c.slot c.w2).1 = false ∧ regionBounds s c.slot c.w2 c.w3.toNat (48 * bits c.w4 3 0) false = false ∧
      8 < bits c.w4 3 0) ∧
    Shows 0x502 screen (cmd (hCanvas 0) 0 0 0) (fun s c => reservedBad c 0 [full] = false ∧
      (hObj s [7] c.w1 (canvasLive s)).1 = false ∧ unitRead s c.w1 = false) ∧
    Shows 0x502 { screen with units := { screen.units with encs := [(0, { srcs := [hCanvas 0], output := 1, codec := 1 })] } }
      (cmd (hCanvas 0) 0 0 0) (fun s c => (hObj s [7] c.w1 (canvasLive s)).1 = false ∧ unitRead s c.w1 = true) := by
  constructorm* _ ∧ _ <;> exact shows (by decide +kernel)

theorem witness_canvasRows :
    ((getCanvas screen 0).map (fun c => (decide (c.startOf c.nextNo ≤ now screen), c.destroying, c.cur.isNone)) = some (true, false, true) ∧
      mediaOn screen = true ∧ mediaOn (inState .quiet none) = false) ∧
    (let c : Canvas := { width := 64, height := 64, nextNo := 3030 }
     now screen < c.startOf c.nextNo) ∧
    (let p : CanvasPic := { no := 0, start := 0 }
     let s := runs { screen with units := { screen.units with
       canvases := [(0, { width := 1280, height := 720, cur := some p })] } } clsCmp (keyCanvas 0)
     (getCanvas s 0).map (fun c => c.cur) = some (some p) ∧ (runningWith s (keyCanvas 0)).map (·.1) = some 5 ∧
     p.redo = false ∧ p.joinWait = false ∧ p.minSeq ≤ 5 ∧ (runningWith screen (keyCanvas 0)).isNone = true) ∧
    (let c : Canvas := { width := 64, height := 64, cur := some { no := 0, start := 0, joinWait := true } }
     3 + 1 = c.rows ∧ c.lastDue 0 ≤ now screen) ∧ 255 ≤ 255 ∧ 1023 ≤ 1023 := by
  decide +kernel

-- ## Encode, audio, tasks and diagnostics

/-- Canvas 0 and encode channel 0, which codes decode context 0 into the produced context 2; context 4 is free for
another channel. -/
def studio : State :=
  { screen with
    media := { screen.media with streams := [(0, { kind := 1, codec := 1, clock := 3, owner := 0, pliEn := true }),
                                             (4, { kind := 5, codec := 5, owner := 0, ddId := 3 })] }
    units := { screen.units with encs := [(0, { srcs := [hDec 0], output := 2, codec := 5, sizes := [(1280, 720)], caps := [1000] })] } }

/-- The block of ENC_CREATE of an AV1 channel of 1280 × 720 at 30 pictures a second on decode context 0. -/
def encBlock0 : List Byte :=
  wordBytes [hDec 0, 0, 0, hCtx 4, word (5 * 2 ^ 44 + 1 * 2 ^ 36 + 1 * 2 ^ 32 + 1 * 2 ^ 24 + 2 * 2 ^ 16),
    word (128 * 2 ^ 40 + 255 * 2 ^ 32 + 1400 * 2 ^ 16), 1000, word (1280 * 2 ^ 32 + 720 * 2 ^ 16),
    word (30 * 2 ^ 32 + 1 * 2 ^ 16), 0, word (10000 * 2 ^ 28), 0, 0, 0, 0, 0]

theorem witness_encodeCommands :
    Shows 0x600 studio (cmd (ownHandle atWork 0x0D 0) 64 0 0) (fun s c =>
      reservedBad c 0 [full, full] = false ∧ (regionCheck s c.slot c.w1).1 = false ∧
      regionBounds s c.slot c.w1 c.w2.toNat 96 false = false ∧ c.w2.toNat % 64 = 0 ∧
      (let ws := blockWords s c.slot 16 encBlock0
       let e := encOfBlock s c ws
       encReservedBad ws = false ∧ (e.srcs.any (fun w => (encSrcCheck s w).1) = false) ∧
       (hObj s [1] (ws.getD 3 0) (ctxNamed s)).1 = false ∧ e.eventsEn = false ∧ encRange s e ws = false ∧
       sizesBad e.sizes = false ∧ codingOk e.codec e.profile e.sLayers e.tLayers e.depth10 = true ∧
       refreshBad e.codec e.sizes e.refreshP e.fastP = false ∧ s.units.encs.length < 4096 ∧
       (allocate s 4 (refBytes e.codec e.sizes e.tLayers e.depth10)).isSome = true ∧
       encReserve e.sizes e.fpsNum e.fpsDen ≤ e.segments * 600 ∧
       encReserved s + encReserve e.sizes e.fpsNum e.fpsDen ≤ encLimit s ∧ e.rowRc = false ∧
       quarantined s (hIndex (ws.getD 3 0)) = false)) ∧
    Shows 0x601 studio (cmd (hEnc 0) (word (255 * 2 ^ 32)) 1000 0) (fun s c => (hObj s [8] c.w1 (encLive s)).1 = false ∧
      (getEnc s (hIndex c.w1)).isSome = true ∧ cmdSel c = 0 ∧ reservedBad c 0xF [full, mask 47 32, full] = false ∧
      bits c.w2 47 40 ≤ bits c.w2 39 32 ∧ bits c.w2 39 32 ≤ qpLargest 5 ∧ capsBad c.w3 1 = false) ∧
    Shows 0x601 studio (cmd (hEnc 0) (word (2 * 2 ^ 16)) 0 0 1) (fun _ c => cmdSel c = 1 ∧
      reservedBad c 0xF [full, mask 23 8] = false ∧ refreshBad 5 [(1280, 720)] (bits c.w2 23 16) (bits c.w2 15 8) = false) ∧
    Shows 0x601 studio (cmd (hEnc 0) (word (1 * 2 ^ 16)) 0 0 1) (fun _ c =>
      refreshBad 5 [(1280, 720)] (bits c.w2 23 16) (bits c.w2 15 8) = true) ∧
    Shows 0x601 studio (cmd (hEnc 0) (hDec 0) 0 0 2) (fun s c => cmdSel c = 2 ∧
      reservedBad c 0xF [full, full, full, full] = false ∧ (encSrcCheck s c.w2).1 = false ∧
      srcsDiffer s (hIndex c.w1) { srcs := [hDec 0], output := 2, codec := 5, sizes := [(1280, 720)] } [c.w2, c.w3, c.w4] = false ∧
      srcSizes s { srcs := [hDec 0], output := 2, codec := 5, sizes := [(1280, 720)] } [c.w2, c.w3, c.w4] = false) ∧
    Shows 0x601 studio (cmd (hEnc 0) 0x80 0 0 3) (fun s c => cmdSel c = 3 ∧ reservedBad c 0xF [full, 0xBF] = false ∧
      noQueue s c.slot (bits c.w2 5 0) = false) ∧
    Shows 0x601 studio (cmd (hEnc 0) (word (2 * 2 ^ 28 + 64 * 2 ^ 8)) 0 0 4) (fun _ c => cmdSel c = 4 ∧
      reservedBad c 0xF [full, mask 29 28 + mask 15 8] = false ∧ bits c.w2 29 28 ≠ 3 ∧ bits c.w2 15 8 ≤ 64) ∧
    Shows 0x602 studio (cmd (hEnc 0) 0 0 0) (fun s c => reservedBad c 0 [full] = false ∧
      (hObj s [8] c.w1 (encLive s)).1 = false ∧ (getEnc s (hIndex c.w1)).map (fun e => e.cur.isNone) = some true) ∧
    Shows 0x603 studio (cmd (hEnc 0) 0 0 0 1) (fun s c => reservedBad c 1 [full] = false ∧
      (hObj s [8] c.w1 (encLive s)).1 = false) := by
  constructorm* _ ∧ _ <;> exact shows (by decide +kernel)

/-- Encode channel 0 with a picture in work. -/
def codes (p : CodedPic) : State :=
  { screen with units := { screen.units with encs := [(0, { srcs := [hDec 0], output := 2, codec := 5, sizes := [(128, 128)], cur := some p })] } }

theorem witness_encodeRows :
    ((getEnc studio 0).map (fun e => (decide (encStart studio e e.nextNo ≤ now studio), e.fromCanvas, e.stopping, e.cur.isNone))
        = some (true, false, false, true) ∧ mediaOn studio = true ∧
      encStart studio { srcs := [hDec 0], output := 2, codec := 5, nextNo := 3030 } 3030 > now studio) ∧
    (let g : Segment := { layer := 0, seg := 0, share := 0, qg := 0, rows := [0, 1] }
     let p : CodedPic := { start := 0, key := true, temporal := 0, segments := [g] }
     let s := runs (codes p) clsEnc (keyEnc 0 0 0)
     running s = true ∧ (getEnc s 0).map (fun e => e.cur) = some (some p) ∧
     (runningWith s (keyEnc 0 0 0)).map (·.1) = some 5 ∧ p.segments.find? (fun g => g.layer == 0 && g.seg == 0) = some g ∧
     g.next = some 0 ∧ p.redo = false ∧ p.joinWait = false ∧ p.minSeq ≤ 5 ∧
     p.segments.all (fun g => decide (g.rowsDone.length = g.rows.length)) = false ∧
     (getEnc s 0).map (fun e => (rowsArrived s e p 0 0, decide (encEmission s e p.start ≤ now s))) = some (true, true)) ∧
    (let p : CodedPic := { start := now screen, key := true, temporal := 0 }
     p.segments.all (fun g => decide (g.rowsDone.length = g.rows.length)) = true ∧ p.ripe.final = true ∧
     (getEnc (codes p) 0).map (fun e => decide (now (codes p) < encEmission (codes p) e p.start)) = some true) ∧
    (({ entry := some 1 } : Ripe).final = false) ∧
    payloadsFit { srcs := [], output := 2, codec := 5 } { start := 0, key := true, temporal := 0 } [] = true ∧
    (let e : Enc := { srcs := [hCanvas 0], output := 2, codec := 5 }
     let at_ := fun n : Nat => ({ width := 64, height := 64, nextNo := n } : Canvas)
     canvasReached (at_ 0) (encStart screen e e.nextNo) = false ∧ canvasReached (at_ 9000) (encStart screen e e.nextNo) = true ∧
     hCanvas 0 ≠ 0 ∧ e.fromCanvas = true ∧ encStart screen e e.nextNo ≤ now screen) ∧
    (let g : Segment := { layer := 0, seg := 0, share := 0, qg := 0, rows := [0, 1] }
     let p : CodedPic := { start := 0, key := true, temporal := 0, segments := [g], sources := [some (0, 0)] }
     let s0 := codes p
     let s : State := { s0 with units := { s0.units with
       canvases := [(0, { width := 128, height := 128, cur := some { no := 0, start := 0 } })] } }
     rowsArrived s { srcs := [hCanvas 0], output := 2, codec := 5, sizes := [(128, 128)] } p 0 0 = false) ∧
    (getEnc (codes { start := 0, key := true, temporal := 0, joinWait := true }) 0).map
      (fun e => e.cur.map (fun p => p.joinWait)) = some (some true) := by
  decide +kernel

/-- A conference with an Opus SHARED context, an inbound Opus context and an outbound one, and mix group 0 with leg 0
unbound; conference 1 has no group. -/
def hall : State :=
  { confs with
    media := { confs.media with
      streams := [(0, { kind := 1, codec := 8, clock := 1, owner := 0 }), (1, { kind := 3, codec := 8, clock := 1, owner := 0 }),
                  (2, { kind := 5, codec := 8, clock := 1, owner := 0 }), (3, { kind := 5, codec := 8, clock := 1, owner := 1 })] }
    units := { confs.units with mixes := [(0, { conf := 0, formats := [{ shared := 2, codec := 8, kbps := 32 }] })] } }

def hMix (n : Nat) : Word := ownHandle atWork 10 n

/-- The block of MIX_CREATE with one Opus format on context 3. -/
def mixBlock0 : List Byte := wordBytes [hCtx 3, 0, 0, 0, word (8 * 2 ^ 44 + 32 * 2 ^ 32), 0, 0, 0]

theorem witness_audioCommands :
    Shows 0x700 hall (cmd7 (hConf 1) (word (1 * 2 ^ 46 + 16 * 2 ^ 40)) 0 (ownHandle atWork 0x0D 0) 0 0 0) (fun s c =>
      reservedBad c 0 [full, mask 47 46 + mask 44 12 + 0x1BF, full, full, full] = false ∧ ofMember s 3 c.w1 = false ∧
      (hMay s 3 c.w1 (confNamed s)).1 = false ∧ (regionCheck s c.slot c.w4).1 = false ∧
      regionBounds s c.slot c.w4 c.w5.toNat 48 false = false ∧ c.w5.toNat % 64 = 0 ∧ confOf s c.w1 = some 1 ∧
      (getConf s 1).map (fun x => x.span) = some false ∧
      firstFail (mixChecks s c.w2 1 (blockWords s c.slot 8 mixBlock0)) = none) ∧
    Shows 0x700 hall (cmd7 (hConf 1) (word (1 * 2 ^ 46 + 17 * 2 ^ 40)) 0 (ownHandle atWork 0x0D 0) 0 0 0) (fun s c =>
      firstFail (mixChecks s c.w2 1 (blockWords s c.slot 8 mixBlock0)) = some 0x191) ∧
    Shows 0x701 hall (cmd (hMix 0) (word (16 * 2 ^ 40)) 0 0) (fun s c => (hObj s [10] c.w1 (mixLive s)).1 = false ∧
      (getMix s (hIndex c.w1)).map (fun m => m.kMost) = some 4 ∧ cmdSel c = 0 ∧
      reservedBad c 0xF [full, mask 44 12 + 0x100] = false ∧ w2Bad c.w2 = false ∧
      s.media.streams.length + (16 - 4) ≤ contextCapacity s ∧ audFull s (16 - 4) (16 - 4) 0 = false) ∧
    Shows 0x701 hall (cmd (hMix 0) 0 (word (8 * 2 ^ 44 + 510 * 2 ^ 32)) 0 1) (fun s c => cmdSel c = 1 ∧
      reservedBad c 0xF [full, 3, mask 47 20] = false ∧ bits c.w3 47 44 ≠ 0 ∧
      (getMix s (hIndex c.w1)).map (fun m => (m.formats.getD (bits c.w2 1 0) { shared := 0, codec := 0 }).codec) = some (bits c.w3 47 44) ∧
      formatCodecBad c.w3 = false ∧ formatBad c.w3 = false) ∧
    Shows 0x701 hall (cmd (hMix 0) 0 0 0 2) (fun _ c => cmdSel c = 2 ∧ reservedBad c 0xF [full, 0xBF] = false ∧
      bitAt c.w2 7 = false) ∧
    Shows 0x702 hall (cmd (hMix 0) 0 0 0) (fun s c => reservedBad c 0 [full] = false ∧
      (hObj s [10] c.w1 (mixLive s)).1 = false ∧ boundLegs s (hIndex c.w1) = [] ∧
      s.units.pendingBindings.any (fun p => p.2.2 == hIndex c.w1 && p.2.1.isSome) = false) ∧
    Shows 0x702 { hall with units := { hall.units with bindings := [(0, { group := 0 })] } } (cmd (hMix 0) 0 0 0) (fun s c =>
      (hObj s [10] c.w1 (mixLive s)).1 = false ∧ boundLegs s (hIndex c.w1) ≠ []) ∧
    Shows 0x703 hall (cmd7 (hLeg 0) (hMix 0) (hCtx 0) (hCtx 1) (word (0x4000 * 2 ^ 32)) 0 0) (fun s c =>
      reservedBad c 0 [full, full, full, full, mask 47 32 + mask 25 24 + 6] = false ∧ (hObj s [2] c.w1 (legLive s)).1 = false ∧
      c.w2 ≠ 0 ∧ (hObj s [10] c.w2 (mixLive s)).1 = false ∧ (hObj s [1] c.w3 (ctxNamed s)).1 = false ∧
      (hObj s [1] c.w4 (ctxNamed s)).1 = false ∧ bindingBad s (hIndex c.w1) (bindingOf c) c = false ∧
      inboundBad s c = false ∧ (bindingOf c).always = false ∧ quarantined s (hIndex c.w3) = false ∧
      quarantined s (hIndex c.w4) = false) ∧
    Shows 0x703 { hall with units := { hall.units with bindings := [(0, { group := 0 })] } } (cmd7 (hLeg 0) 0 0 0 0 0 0) (fun s c =>
      (hObj s [2] c.w1 (legLive s)).1 = false ∧ s.units.pendingBindings = [] ∧
      (Tbl.get? s.units.bindings (hIndex c.w1)).isSome = true) := by
  constructorm* _ ∧ _ <;> exact shows (by decide +kernel)

theorem witness_audioRows :
    (running hall = true ∧ mediaOn hall = true ∧
      (getMix hall 0).map (fun m => (decide (m.startOf m.m ≤ now hall), m.ending)) = some (true, false) ∧
      now hall < ({ conf := 0, m := 5001 } : Mix).startOf 5001) ∧
    (let o : Owed := { ctx := 2, m := 0, start := now hall, legs := [], format := { shared := 2, codec := 8, dtx := true } }
     let m : Mix := { conf := 0, owed := [o] }
     m.owed.find? (fun o => o.ctx == 2) = some o ∧ now hall ≤ m.due o.start ∧ now hall < m.dropAt o.start ∧
     (m.owed.find? (fun o => o.ctx == 2 && decide (m.dropAt o.start ≤ now hall))).isNone = true ∧ (getCtx hall 2).isSome = true) ∧
    (let o : Owed := { ctx := 2, m := 0, start := 0, legs := [], format := { shared := 2, codec := 8, dtx := true } }
     let m : Mix := { conf := 0, owed := [o] }
     m.dropAt o.start ≤ now hall ∧
     m.owed.find? (fun o => o.ctx == 2 && decide (m.dropAt o.start ≤ now hall)) = some o) ∧
    (let m : Mix := { conf := 0 }
     let o : Owed := { ctx := 2, m := 0, start := now hall - m.period - 1, legs := [], format := { shared := 2, codec := 8, dtx := true } }
     m.due o.start < now hall ∧ now hall < m.dropAt o.start) ∧
    (let f : Format := { shared := 2, codec := 8, dtx := true }
     frameFits { conf := 0 } f (rtpBytes.take 12) = true ∧ rtpPayload (rtpBytes.take 12) = [] ∧
     frameFits { conf := 0 } f (rtpBytes.take 12 ++ [8, 0, 0]) = true ∧ rtpPayload (rtpBytes.take 12 ++ [8, 0, 0]) ≠ []) := by
  decide +kernel

theorem witness_taskRows :
    ((getCore atWork 151).running = none ∧ (getCore atWork 0).out = false ∧ 1 < (liveCores atWork (coreClass 0)).length) ∧
    (let s := runs atWork clsDec (keyDec 0)
     (getCore s 0).running = some 5 ∧ (getTask s 5).isSome = true ∧ (getTask s 5).map (fun t => t.affinity) = some (keyDec 0) ∧
     mustYield s (keyDec 0) .heldPage = false ∧ (getCore s 0).stopped = false ∧
     mustYield (updDec (runs video clsDec (keyDec 0)) 0 (fun x => { x with poolSlots := 0 })) (keyDec 0) .poolSlot = true) ∧
    (let s : State := { atWork with sched := { atWork.sched with
       cores := ((coresOf (coreClass 151)).filter (fun k => k != 151)).map (fun k => (k, { out := true })) } }
     (getCore s 151).out = false ∧ (liveCores s (coreClass 151)).length = 1) ∧
    (let s : State := { atWork with sched := { atWork.sched with lastTick := now atWork, lastWindow := now atWork } }
     tickNo s (now s) = tickNo s s.sched.lastTick ∧ windowNo (now s) = windowNo s.sched.lastWindow) ∧
    (tickNo atWork (now atWork) ≠ tickNo atWork atWork.sched.lastTick ∧ windowNo (now atWork) ≠ windowNo atWork.sched.lastWindow ∧
      Tbl.sorted atWork.sched.cores = true) := by
  decide +kernel

theorem witness_diagnostics :
    Shows 0xB10 atWork (cmd 4 0 0 0) (fun _ c => [1, 2, 3, 16].contains (bits c.w1 7 0) = false) ∧
    Shows 0xB10 atWork (cmd 16 4 0 0) (fun _ c => reservedBad c 1 [0xFF, testMask (bits c.w1 7 0)] = false ∧
      bits c.w1 7 0 = 16 ∧ 1 ≤ bits c.w2 2 0 ∧ bits c.w2 2 0 ≤ 4) ∧
    Shows 0xB10 atWork (cmd 16 5 0 0) (fun _ c => reservedBad c 1 [0xFF, testMask (bits c.w1 7 0)] = false ∧ 4 < bits c.w2 2 0) ∧
    Shows 0xB10 atWork (cmd 3 152 0 0) (fun s c => reservedBad c 1 [0xFF, testMask (bits c.w1 7 0)] = false ∧
      testUnit s (bits c.w1 7 0) c.w2 = none) ∧
    Shows 0xB10 { atWork with sched := { atWork.sched with cores := [(151, { out := true })] } } (cmd 3 151 0 0) (fun s c =>
      reservedBad c 1 [0xFF, testMask (bits c.w1 7 0)] = false ∧ bits c.w1 7 0 ≠ 16 ∧
      testUnit s (bits c.w1 7 0) c.w2 = some (.core 151) ∧ s.err.tests.any (fun t => t.1 == .core 151) = false) ∧
    (let s : State := { atWork with
       err := { atWork.err with tests := [(.core 151, 0)] }
       hci := { atWork.hci with inflight := [{ no := 0, slot := 0, ring := 0, cq := 0, tag := 0, quiet := false
                                               wait := .selfTest (.core 151) true }] } }
     s.err.tests.any (fun t => t.1 == .core 151 && decide (t.2 ≤ now s)) = true ∧
     s.hci.inflight.any (fun i => decide (i.wait = .selfTest (.core 151) true)) = true) ∧
    Shows 0xB00 screen (cmd (hDec 0) 0x10B 0 0) (fun s c => reservedBad c 0 [full, 0x1FF] = false ∧
      (hObj s [6, 7, 8, 10] c.w1 (statLive s (hType c.w1))).1 = false ∧
      statCounter s (hType c.w1) (hIndex c.w1) (bits c.w2 7 0) = some (0, true)) := by
  refine ⟨shows (by decide +kernel), shows (by decide +kernel), shows (by decide +kernel), shows (by decide +kernel),
    shows (by decide +kernel), by decide +kernel, shows (by decide +kernel)⟩

-- ## DMA and memory

/-- Channel 8 takes submitted transfers of slot 0; channel 9 is programmed. -/
def dmaReady : State :=
  withReg (withReg atWork (oDmaChCfg 8) (word (1 * 2 ^ 18 + 2 ^ 17 + 0xFF * 2 ^ 8))) (oDmaChCfg 9)
    (word (2 * 2 ^ 18 + 2 ^ 17 + 1 * 2 ^ 8))

/-- A copy of 64 bytes within region 3. -/
def dmaCmd (ch : Nat) : Cmd :=
  cmd7 (word ch) (word (regionAt atWork 3).1) (word ((regionAt atWork 3).1 + 4096)) (word (64 * 2 ^ 16 + 1)) 0 0 0

theorem witness_dmaCommands :
    Shows 0x800 dmaReady (dmaCmd 8) (fun s c =>
      let x := shapeOf c.w1 c.w2 c.w3 c.w4 c.w5 c.w6
      reservedBad c 3 [mask 47 12 + 0xFF, full, full, full, full, full, full] = false ∧ noRegion s c.slot x.src = false ∧
      noRegion s c.slot x.dst = false ∧ bits c.w1 7 0 = 8 ∧ submitOpen s c.slot 8 = true ∧ x.opBad = false ∧ x.sizeBad = false ∧
      sideSelBad s x true = false ∧ sideSelBad s x false = false ∧ hostSideBad s c.slot x true = false ∧
      hostSideBad s c.slot x false = false ∧ x.alignBad = false ∧ x.overlapBad = false ∧ moduleSideBad s x true = false ∧
      moduleSideBad s x false = false ∧ peerOutside s x = false ∧ regionLeaving s c.slot x.src = false ∧
      regionLeaving s c.slot x.dst = false ∧ chQueued s 8 < 64) ∧
    Shows 0x800 { dmaReady with dma := { dmaReady.dma with
        xfers := (List.range 64).map (fun k => (k, { ch := 8, slot := 0, shape := { op := 0, src := ⟨0, 0, 0, 0⟩, dst := ⟨0, 0, 0, 0⟩
                                                                                    length := 64, lines := 1 } }))
        chans := [(8, { xfers := List.range 64 })] } } (dmaCmd 8) (fun s c => bits c.w1 7 0 = 8 ∧ 64 ≤ chQueued s 8) ∧
    Shows 0x801 dmaReady (cmd 8 0 0 0) (fun s c => reservedBad c 0 [0xFF] = false ∧ chClass s (bits c.w1 7 0) = 1) ∧
    Shows 0x802 dmaReady (cmd 9 0 0 0) (fun s c => reservedBad c 0 [0xFF] = false ∧ chClass s (bits c.w1 7 0) = 2) := by
  constructorm* _ ∧ _ <;> exact shows (by decide +kernel)

/-- The pending set of channel 9: a copy of 64 bytes within region 3. -/
def dmaPending : State :=
  { dmaReady with shadow := [(oDmaChSrc 9, word (regionAt atWork 3).1), (oDmaChDst 9, word ((regionAt atWork 3).1 + 4096)),
      (oDmaChSize 9, word (64 * 2 ^ 16 + 1))] }

theorem witness_dmaChannels :
    (setupOpen dmaReady = true ∧ dmaReady.power.st ≠ .windfall ∧ commitResult dmaReady 8 ≠ 1 ∧ commitResult dmaPending 9 = 1) ∧
    (bitAt (regRaw dmaReady (oDmaChCfg 8)) 17 = true ∧ bits (regRaw dmaReady (oDmaChCfg 8)) 19 18 = 1 ∧
      bits (word (1 * 2 ^ 18 + 2 ^ 17)) 19 18 = 1 ∧ bitAt (word (1 * 2 ^ 18 + 2 ^ 17)) 17 = true ∧
      bitAt (word (1 * 2 ^ 18)) 17 = false ∧ bits (word (3 * 2 ^ 18)) 19 18 = 3 ∧ bits (word (2 * 2 ^ 18)) 19 18 ≠ 1) ∧
    bitAt (regRaw dmaReady (oDmaChCfg 255)) 17 = false := by
  decide +kernel

/-- Channel 8 with one transfer. -/
def moves (x : Xfer) : State :=
  { dmaReady with dma := { dmaReady.dma with xfers := [(0, x)], chans := [(8, { xfers := [0] })] } }
def xferTo (st : XferState) (srcKind : Nat) : Xfer :=
  { ch := 8, slot := 0, state := st, granted := 1
    shape := { op := 0, src := { kind := srcKind, sel := 0, addr := (regionAt atWork 3).1, stride := 0 }
               dst := { kind := 0, sel := 0, addr := (regionAt atWork 3).1 + 4096, stride := 0 }, length := 64, lines := 1 } }

theorem witness_dmaTransfers :
    (let s := moves (xferTo .queued 0)
     running s = true ∧ (chXfers s 8).find? (fun p => p.2.queued) = some (0, xferTo .queued 0) ∧ chEn s 8 = true ∧
     (xferTo .queued 0).armAt = none ∧ ((chXfers s 8).filter (fun p => !p.2.queued)).length < 4 ∧
     ((chXfers s 8).filter (fun p => !p.2.queued)).any (fun q => q.2.fence) = false ∧ (xferTo .queued 0).fence = false) ∧
    (let x := { xferTo .queued 0 with armAt := some (now dmaReady + 1) }
     (chXfers (moves x) 8).find? (fun p => p.2.queued) = some (0, x) ∧ now (moves x) < now dmaReady + 1) ∧
    (let x := xferTo .moving 0
     getXfer (moves x) 0 = some x ∧ x.state ≠ .queued ∧ x.shape.src.kind = 0 ∧ canMove (moves x) x = true ∧
     x.ready.head? = some 0 ∧ lineHeld (moves x) x.shape 0 = false ∧ chNext (moves x) 8 = some 0 ∧
     nextChannel (moves x) = some 8 ∧ 8 ≤ 8 ∧ (chNext (moves x) 8).isSome = true ∧
     (let s : State := { moves x with units := { (moves x).units with
        held := [{ entry := 0, base := (regionAt atWork 3).1, len := 64 }] } }
      getXfer s 0 = some x ∧ lineHeld s x.shape 0 = true ∧ canMove s x = false ∧ x.line = none) ∧
     (let s : State := { moves x with memory := { (moves x).memory with poison := [(regionAt atWork 3).1] } }
      getXfer s 0 = some x ∧ lineHeld s x.shape 0 = false ∧ canMove s x = false ∧
      poisonOf s x 0 = some (regionAt atWork 3).1)) ∧
    (let x := { xferTo .moving 0 with linesDone := 1 }
     getXfer (moves x) 0 = some x ∧ x.ready = [] ∧ x.line = none) ∧
    (let x := xferTo .moving 1
     getXfer (moves x) 0 = some x ∧ x.shape.src.kind = 1 ∧ (x.granted - x.linesDone) * x.shape.length ≤ 64 ∧
     causeFits x .hostRefused = true ∧ DmaCause.hostRefused ≠ .memory) := by
  decide +kernel

theorem witness_dmaTransfers_programmed :
    (let s : State := { dmaReady with dma := { dmaReady.dma with chans := [(9, { armK := some 0, windowK := some 0 })] } }
     progRuns s 9 = true ∧ (getChan s 9).armK = some 0 ∧ gridAt s 9 0 0 ≤ now s ∧ (getChan s 9).windowK = some 0 ∧
     (getChan s 9).windowOpen = false ∧ gridAt s 9 0 (chOpenUs s 9) ≤ now s) ∧
    (let s : State := { dmaReady with dma := { dmaReady.dma with
       chans := [(9, { armK := some 0, windowK := some 0, windowOpen := true, armOrigin := now dmaReady + 1 })] } }
     now s < gridAt s 9 0 0 ∧ now s < gridAt s 9 0 (chOpenUs s 9) ∧ now s < gridAt s 9 0 (chCloseUs s 9)) ∧
    (let s : State := { dmaReady with dma := { dmaReady.dma with
       xfers := [(0, { xferTo .moving 0 with ch := 9 })]
       chans := [(9, { xfers := [0], windowK := some 0, windowOpen := true })] } }
     (getChan s 9).windowOpen = true ∧ gridAt s 9 0 (chCloseUs s 9) ≤ now s ∧ (getChan s 9).xfers = [0] ∧
     (getXfer s 0).map (fun x => decide (x.linesDone < x.shape.lines)) = some true) ∧
    (reqExists dmaReady .canvasRow 0 = false ∧ reqExists screen .canvasRow 0 = true ∧ screen.power.st = .active ∧
      (inState .quiet none).power.st = .quiet) := by
  decide +kernel

/-- The Preserve holds one record of context 0. -/
def kept : State :=
  { confs with
    memory := { confs.memory with recs := [{ pos := 0, ctx := 0, len := 100, seq := 7, ts := 0, time := 0, prevPos := 0 }] }
    media := { confs.media with streams := [(0, { kind := 1, owner := 0, refreshes := [{ pos := 0, time := 0 }] })] } }

theorem witness_memoryCommands :
    Shows 0x900 kept (cmd7 (hCtx 0) 0 0xFFFFFFFFFFFF 0 (word (regionAt atWork 3).1) 4096 0) (fun s c =>
      reservedBad c 3 [full, full, full, full, full, 0xFFFFFFFF] = false ∧ (hObj s [1] c.w1 (ctxNamed s)).1 = false ∧
      (getCtx s (hIndex c.w1)).map (fun x => (x.kind, x.quarantined)) = some (1, false) ∧ c.w4 = 0 ∧ bits c.w6 31 0 ≠ 0 ∧
      (cmdFlag c 1 && cmdFlag c 0) = false ∧ c.w5.toNat % 64 = 0 ∧
      exportFrom s { kind := 1 } (cmdFlag c 1) (cmdFlag c 0) c.w2 (now s) = some 0 ∧
      insideAny s (endpointRegions false) c.w5.toNat
        (exportRecs s (bits c.w6 31 0) s.memory.recs {}).2.bytes.length = true) ∧
    Shows 0x900 kept (cmd7 (hCtx 0) 5 0 (ownHandle atWork 0x0D 0) 0 4096 0 2) (fun s c =>
      (regionCheck s c.slot c.w4).1 = false ∧ exportFrom s { kind := 1 } (cmdFlag c 1) (cmdFlag c 0) c.w2 (now s) = none ∧
      regionBounds s c.slot c.w4 c.w5.toNat (exportRecs s (bits c.w6 31 0) s.memory.recs {}).2.bytes.length true = false) ∧
    Shows 0x901 kept (cmd (hCtx 0) 1 0 0) (fun s c => (hObj s [1] c.w1 (ctxNamed s)).1 = false ∧
      reservedBad c 0 [full, 0x1FFF] = false ∧ bits c.w2 7 0 = 1 ∧
      (getCtx s 0).map (fun x => ((heldRefreshes s x)[bits c.w2 12 8]?).isSome) = some true) ∧
    Shows 0x901 kept (cmd (hCtx 0) 0x1F01 0 0) (fun s c => reservedBad c 0 [full, 0x1FFF] = false ∧
      (getCtx s 0).map (fun x => ((heldRefreshes s x)[bits c.w2 12 8]?).isNone) = some true) ∧
    Shows 0x901 kept (cmd 0 3 0 0) (fun _ c => bits c.w2 7 0 = 3 ∧ reservedBad c 0 [0, 0x1FFF] = false) ∧
    Shows 0x901 kept (cmd 0 4 0 0) (fun _ c => 3 < bits c.w2 7 0) ∧
    Shows 0x902 kept (cmd 0x10 0 0 0) (fun _ c => reservedBad c 0 [0xFF] = false ∧ bits c.w1 7 0 ≤ 0x10) ∧
    Shows 0x902 kept (cmd 0x2A 0 0 0) (fun s c => 0x20 ≤ bits c.w1 7 0 ∧ bits c.w1 7 0 ≤ 0x2A ∧
      useOpen s (bits c.w1 7 0 - 0x20) = false) ∧
    Shows 0x902 kept (cmd 0x27 0 0 0) (fun s c => useOpen s (bits c.w1 7 0 - 0x20) = true) ∧
    Shows 0x902 kept (cmd 0x2B 0 0 0) (fun _ c => 0x2A < bits c.w1 7 0) := by
  constructorm* _ ∧ _ <;> exact shows (by decide +kernel)

theorem witness_memoryRows :
    (atWork.memory.spare = .idle ∧ getF atWork oMemCtrl 31 24 ≠ 0 ∧ atWork.memory.patrol + 64 < 2 ^ 41 ∧
      running State.reset = false ∧ atWork.oxvan.partApplying = false ∧ atWork.power.st ≠ .quiet) ∧
    (let s : State := { atWork with memory := { atWork.memory with spare := .copying, patrol := 2 ^ 41 - 64 } }
     s.memory.spare = .copying ∧ s.memory.copyStart + copyDur ≤ now s ∧ mramWritable s = true ∧ 2 ^ 41 ≤ s.memory.patrol + 64) ∧
    (let s : State := { atWork with memory := { atWork.memory with patrol := (regionAt atWork 9).1, copyStart := now atWork } }
     regionOfAddr s s.memory.patrol = 9 ∧ now s < s.memory.copyStart + copyDur) ∧
    (let s := inState .quiet none
     s.oxvan.partApplying = false ∧ s.power.target = none ∧ setupOpen s = true ∧ bits (partVal s oGlbPartC) 5 0 ≤ 42 ∧
     (partSizes (partVal s oGlbPartA) (partVal s oGlbPartB) (partVal s oGlbPartC)).sum ≤ preserveBase (partVal s oGlbPartC) ∧
     partBroken s (partRegions (partVal s oGlbPartA) (partVal s oGlbPartB) (partVal s oGlbPartC)) = false) ∧
    (let s : State := { inState .quiet none with shadow := [(oGlbPartC, 0x200020002A)] }
     bits (partVal s oGlbPartC) 5 0 ≤ 42 ∧
     preserveBase (partVal s oGlbPartC) < (partSizes (partVal s oGlbPartA) (partVal s oGlbPartB) (partVal s oGlbPartC)).sum ∧
     preserveSize (partVal s oGlbPartC) ≠ preserveSize (regRaw s oGlbPartC)) ∧
    (let s := inState .quiet (some .active)
     s.power.target ≠ none ∧ s.oxvan.partApplying = false) ∧
    (let s0 := inState .quiet none
     let s : State := { s0 with oxvan := { s0.oxvan with partApplying := true }, shadow := [(oGlbPartC, 0x200020002B)] }
     s.oxvan.partApplying = true ∧ setupOpen s = true ∧ 42 < bits (partVal s oGlbPartC) 5 0) := by
  decide +kernel

-- ## The bramble

/-- A port whose link is up and whose neighbour answers. -/
def upPort : GrnPort := { link := true, plug := 2, lastHello := now atWork, linkUpAt := now atWork }

/-- Member 2, in a state of its bramble, in the roster 0 to 3 with master 0; both links are up. -/
def inRing (st : GrnState) (more : Grn → Grn := id) : State :=
  { withReg atWork oGrnCfg 0x42 with
    grn := more { atWork.grn with
      state := st, roster := 15, order := [0, 1, 2, 3], east := upPort, west := upPort, lastBeacon := now atWork } }

/-- A frame of a kind from member 1 for member 2, and a broadcast of member 1. -/
def toMe (kind : BitVec 4) (a b : Word := 0) (payload : List Byte := []) : GrnFrame :=
  { west := false, kind := kind, src := 1, dst := 2, seq := 9, a := a, b := b, payload := payload }
def toAll (kind : BitVec 4) (a b : Word := 0) (payload : List Byte := []) : GrnFrame :=
  { west := false, kind := kind, src := 1, bcast := true, seq := 9, a := a, b := b, payload := payload }

theorem witness_grinalLinks :
    (let s := inRing .member
     running s = true ∧ (getGrnPort s 0).link = true ∧ grnBad s { toMe 2 with ttl := 0 } false = true ∧
     grnBad s { toMe 10 with src := 9 } false = true ∧ grnBad s (toMe 11) false = true ∧
     (∀ e ∈ passRows, Arrives s { toMe (BitVec.ofNat 4 e.1) with dst := 3 } e.1 false) ∧
     (3 : Nat) ≠ grnId s ∧ ({ toMe 2 with crcOk := false } : GrnFrame).crcOk = false ∧ (getGrnPort s 0).lastHelloSent + durUs 2 ≤ now s ∧ grnBad s (toMe 0) true = false ∧ (toMe 0).kind = 0) ∧
    (let s := inRing .member (fun g => { g with east := { upPort with lastHelloSent := now atWork } })
     now s < (getGrnPort s 0).lastHelloSent + durUs 2) ∧
    (let s := inRing .member (fun g => { g with west := { plug := 2 } })
     grnPowered s 1 = true ∧ (getGrnPort s 1).plug = 2 ∧ (getGrnPort s 1).link = false ∧ grnActive s = true ∧
     (getGrnPort s 1).wrapped = false ∧ helloAbsent s (getGrnPort s 0) = false) ∧
    (let s := inRing .member (fun g => { g with
       east := { upPort with wrapped := true, presentSince := some (now atWork) }
       west := { upPort with wrapped := true, presentSince := some 0 } })
     now s < now atWork + durMs 1 ∧ 0 + durMs 1 ≤ now s ∧ helloAbsent s (getGrnPort s 1) = false ∧ running s = true ∧
     (getGrnPort s 1).wrapped = true ∧ (getGrnPort s 1).link = true) ∧
    (let u : Unacked := { seq := 5, kind := 6, dst := 1, due := 0 }
     let v : Unacked := { u with resends := 7 }
     let s := fun (x : Unacked) => inRing .member (fun g => { g with unacked := [x] })
     (s u).grn.unacked.find? (fun x => x.seq == 5 && decide (now (s u) ≥ x.due)) = some u ∧
     u.resends < getF (s u) oGrnTimers 3 0 ∧ getF (s v) oGrnTimers 3 0 ≤ v.resends) := by
  unfold Arrives; decide +kernel

/-- A peer message of an opcode with its words, of member 1 to this member; and the JOIN of member 1. -/
def peerBytes (op : Nat) (w1 w2 w3 : Word) : List Byte := wordBytes [word (op * 2 ^ 36), w1, w2, w3, 0, 0, 0, 0]
def fromOne (op : Nat) (w1 : Word) (w2 w3 : Word := 0) : GrnFrame := toMe 6 0 0 (peerBytes op w1 w2 w3)
def joinOf1 : GrnFrame := toAll 6 0 0 (peerBytes 0xA86 1 0 0)

theorem witness_rosterRows :
    (let s := atWork
     setupOpen s = true ∧ s.power.st ≠ .windfall ∧ bitAt (regRaw s oGrnCfg) 6 = false ∧ bits (0x42 : Word) 5 4 = 0 ∧
     bitAt (0x42 : Word) 7 = false ∧ bitAt (0x42 : Word) 6 = true ∧ s.grn.asBackup = false) ∧
    (let s := inRing .member
     bitAt (regRaw s oGrnCfg) 6 = true ∧ bits (0x43 : Word) 5 0 ≠ bits (regRaw s oGrnCfg) 5 0 ∧
     bits (0x02 : Word) 5 0 = bits (regRaw s oGrnCfg) 5 0 ∧ bitAt (0x02 : Word) 6 = false) ∧
    (let s := withReg (inRing .member (fun g => { g with asBackup := true })) oGrnCfg 0x52
     grnActive s = true ∧ grnRole s = 1 ∧ s.grn.asBackup = true) ∧
    (let s := inRing .master (fun g => { g with master := 2 })
     ForAll s joinOf1 6 true ∧ peerOp joinOf1 = 0xA86 ∧ bits (peerWord joinOf1 1) 3 0 = 1 ∧ joinClash s 2 7 = true ∧ joinClash s 9 7 = false ∧ inRoster s 1 = true ∧
     beaconNo s s.grn.lastBeaconSent < beaconNo s (now s) ∧ s.grn.acting = false ∧
     2 * ((members s.grn.roster).filter (heardNow s).contains).length < (members s.grn.roster).length ∧
     (Tbl.get? s.grn.heard 1).getD 0 + lossDur s ≤ now s ∧ Arrives s { toAll 1 with src := 0 } 1 true ∧
     grnSeen s { toAll 1 with src := 0 } 1 = none) ∧
    (let s := inRing .master (fun g => { g with heard := [(1, now atWork), (3, now atWork)], lastBeaconSent := now atWork })
     (members s.grn.roster).length ≤ 2 * ((members s.grn.roster).filter (heardNow s).contains).length ∧
     beaconNo s (now s) ≤ beaconNo s s.grn.lastBeaconSent ∧ now s < (Tbl.get? s.grn.heard 1).getD 0 + lossDur s) ∧
    (let s := inRing .member (fun g => { g with lastBeacon := 0, backup := some 2, beacons := 1, heard := [(1, now atWork), (3, now atWork)] })
     s.grn.lastBeacon + lossDur s ≤ now s ∧ s.grn.backup = some (grnId s) ∧ s.grn.beacons > 0 ∧ s.grn.lastJoin + durMs 10 ≤ now s ∧
     (members s.grn.roster).length < 2 * (heardNow s).length) ∧
    (let s := inRing .member (fun g => { g with lastBeacon := 0, backup := some 2, lastJoin := now atWork })
     2 * (heardNow s).length ≤ (members s.grn.roster).length ∧ now s < s.grn.lastJoin + durMs 10) ∧
    (let s := inRing .member
     now s < s.grn.lastBeacon + lossDur s ∧ s.grn.backup ≠ some (grnId s) ∧ s.grn.reclaiming = false ∧
     Arrives s (toAll 1 0x000F00000000) 1 true ∧ grnSeen s (toAll 1 0x000F00000000) 1 = none ∧
     (members (bits (toAll 1 0x000F00000000).a 47 32)).contains (grnId s) = true) ∧
    (inRing .joining).grn.state = .joining := by
  unfold ForAll Arrives; decide +kernel

theorem witness_brambleQuery :
    Shows 0xA00 (inRing .member) (cmd 0 0 0 0) (fun s c => bits c.w1 7 0 = 0 ∧ reservedBad c 0 [0xFF] = false ∧ inBramble s = true) ∧
    Shows 0xA00 (inRing .member) (cmd 1 1 0 0) (fun _ c => bits c.w1 7 0 = 1 ∧ reservedBad c 0 [0xFF, 1] = false) ∧
    Shows 0xA00 (inRing .member) (cmd 2 0x40 0 0) (fun s c => bits c.w1 7 0 = 2 ∧ reservedBad c 0 [0xFF, 0x7F] = false ∧
      bitAt c.w2 6 = true ∧ noQueue s c.slot (bits c.w2 5 0) = false) ∧
    Shows 0xA00 (inRing .member) (cmd 3 0 0 0) (fun _ c => 2 < bits c.w1 7 0) ∧
    Shows 0xA00 (inRing .conflict) (cmd 0 0 0 0) (fun s _ => inBramble s = false) := by
  constructorm* _ ∧ _ <;> exact shows (by decide +kernel)

/-- Member 2 with conferences 0 (spanning) and 1, and contexts of its own. -/
def peerHall : State :=
  { inRing .member with media := { confs.media with confs := [(0, { span := true }), (1, {})] } }

theorem witness_peerRows :
    (let s := peerHall
     let f := fromOne 0xA80 (ownHandle s 3 0)
     ForHere s f 6 ∧ grnSeen s f 6 = none ∧ peerOp f = 0xA80 ∧ ownNamed s 3 (peerWord f 1) (confNamed s) = some 0 ∧
     (getConf s 0).map (·.span) = some true ∧ (getConf s 1).map (·.span) = some false ∧
     ownNamed s 3 (peerWord (fromOne 0xA80 (ownHandle s 3 1)) 1) (confNamed s) = some 1 ∧
     ForHere s (fromOne 0xA81 (ownHandle s 3 0)) 6 ∧ peerOp (fromOne 0xA81 (ownHandle s 3 0)) = 0xA81 ∧
     ForHere s (fromOne 0xA85 (ownHandle s 3 0)) 6 ∧ peerOp (fromOne 0xA85 (ownHandle s 3 0)) = 0xA85 ∧
     ownNamed s 3 (peerWord (fromOne 0xA85 (ownHandle s 3 5)) 1) (confNamed s) = none ∧
     ForHere s (fromOne 0xA7F 0) 6 ∧ peerOp (fromOne 0xA7F 0) < 0xA80) ∧
    (let s := peerHall
     (∀ e ∈ [0xA82, 0xA83, 0xA84], ForHere s (fromOne e (ownHandle s 1 0)) 6 ∧ peerOp (fromOne e (ownHandle s 1 0)) = e ∧
       grnSeen s (fromOne e (ownHandle s 1 0)) 6 = none) ∧
     ownNamed s 1 (peerWord (fromOne 0xA82 (ownHandle s 1 0)) 1) (sourceNamed s) = some 0 ∧
     ownNamed s 1 (peerWord (fromOne 0xA82 (ownHandle s 1 1)) 1) (sourceNamed s) = none ∧
     bits (peerWord (fromOne 0xA84 0 0 65) 3) 6 0 = 65 ∧ bits (peerWord (fromOne 0xA84 0 0 64) 3) 6 0 = 64) := by
  unfold ForHere Arrives; decide +kernel

theorem witness_peerRows_dma :
    (grnSeen (inRing .member (fun g => { g with seen := [(22, [(9, 0, [])])] })) (toMe 6) 6 = some (0, [])) ∧
    (let s := peerHall
     let f := toMe 7 (word (regionAt s 3).1) 0 (List.replicate 64 1)
     s.MemInv ∧ ForHere s f 7 ∧ grnSeen s f 7 = none ∧ insideAny s (endpointRegions false) f.a.toNat f.payload.length = true ∧
     insideAny s (endpointRegions false) (regionAt s 9).1 64 = false ∧ ForHere s (toMe 8) 8 ∧ grnSeen s (toMe 8) 8 = none ∧
     bits (8192 : Word) 13 0 = 8192 ∧ insideAny s (endpointRegions true) (regionAt s 9).1 8192 = true ∧
     heldBy s (regionAt s 9).1 8192 = [] ∧ bits (8193 : Word) 13 0 = 8193) ∧
    (let x : Xfer := { ch := 8, slot := 0, shape := ⟨0, 0, 0, ⟨2, 1, 0, 0⟩, ⟨0, 0, 0, 0⟩, 64, 1, 0⟩ }
     let s : State := { peerHall with dma := { peerHall.dma with xfers := [(7, x)] } }
     let f := toMe 9 0 (word (7 * 2 ^ 24))
     ForHere s f 9 ∧ s.dma.xfers.find? (fun p => p.1 % 2 ^ 24 == bits f.b 47 24 && p.2.shape.src.kind == 2
        && p.2.shape.src.sel % 16 == f.src.toNat) = some (7, x)) ∧
    (let u : Unacked := { seq := 5, kind := 7, dst := 1, due := 0 }
     let s := inRing .member (fun g => { g with unacked := [u] })
     let f := toMe 10 (word (7 * 2 ^ 44 + 5)) 0
     ForHere s f 10 ∧ s.grn.unacked.find? (fun u => u.kind == bits f.a 47 44 && u.seq == bits f.a 23 0 && u.dst == f.src.toNat) = some u ∧ u.kind ≠ 6) := by
  unfold State.MemInv ForHere Arrives; decide +kernel

/-- A mirror of member 1's context, its missing number 40 first seen at `t`. -/
def mirrored (t : Nat) : State :=
  { inRing .member with media := { confs.media with streams := [(0,
      { kind := 1, owner := 0, mirrorOf := some (handle 1 1 0), missing := [{ seq := 40, seenAt := t }] })] } }

/-- A spanning group of conference 0 of member 0. -/
def spanMix : Mix := { conf := 0, span := some (handle 3 0 0), m := 1 }

theorem witness_spanningRows :
    (let s := mirrored 0
     let f := toMe 2 (handle 1 1 0) 40
     ForHere s f 2 ∧ mediaOn s = true ∧ mirrorFor s f.a = some 0 ∧ mirrorFor s 0 = none ∧
     (getCtx s 0).map (fun x => (heldAlready s 0 x f.b.toNat, x.mirrorOf.isSome)) = some (false, true) ∧
     (getCtx (ctxCount (ctxCount (counted s f) 0 0x00 1) 0 0x01 f.payload.length) 0).isSome = true ∧
     0 + durMs 2 ≤ now s ∧ grnActive s = true ∧ inRoster s 1 = true ∧ now s < now atWork + durMs 2) ∧
    (let s : State := { inRing .member with units := { atWork.units with mixes := [(0, spanMix)] } }
     let f := toAll 3 (word (confCode (handle 3 0 0))) 1
     ForAll s f 3 false ∧ mediaOn s = true ∧ (spanGroups s (bits f.a 17 0)).length = 1 ∧ spanMix.m ≤ f.b.toNat + 2 ∧
     spanMix.partials.any (fun q => q.1 == f.src.toNat && q.2.1 == f.b.toNat) = false) ∧
    (let s := inRing .member (fun g => { g with master := 1 })
     ForAll s (toAll 5) 5 false ∧ s.grn.state = .member ∧ (toAll 5).src.toNat = s.grn.master ∧
     ForHere (inRing .master) (toMe 4) 4 ∧ ForHere s (toMe 4) 4) := by
  unfold ForHere ForAll Arrives; decide +kernel

theorem witness_spanningRows_periods :
    (let s := inRing .master (fun g => { g with merges := [(0, { since := 0 }), (1, { since := now atWork + 1 }), (2, { merged := true })] })
     mergeDue s 0 { since := 0 } = true ∧ mergeDue s 1 { since := now atWork + 1 } = false ∧ s.grn.state = .master ∧ grnActive s = true) ∧
    (let p : Prediction := { entry := 0, newcomer := 1, leaver := 2, boundary := 2 }
     let m : Mix := { spanMix with prediction := some p }
     running atWork = true ∧ m.startOf p.boundary ≤ now atWork + m.period / 4 ∧ m.decision = none ∧
     now atWork + m.period / 4 < m.startOf 90000) ∧
    (let m : Mix := { spanMix with building := [(1, 0, [])] }
     m.startOf (1 + 1) + m.period / 4 ≤ now atWork ∧ m.startOf (1 + 1) ≤ now atWork ∧ now atWork < m.startOf 90000) := by
  decide +kernel

-- ## The whole machine

theorem witness_commandStages :
    findFetched atWork 0x000 (cmd 0 0 0 0) = none ∧
    (let s := { withCmd atWork 0x000 (cmd 0 0 0 0) with power := { atWork.power with st := .dormant } }
     eligible s (front 0x000 (cmd 0 0 0 0)) = true ∧ running s = false) ∧
    Shows 0x000 atWork (cmd 0 0 0 0 1) (fun _ c => reservedBad c 0 [] = true) ∧
    Shows 0xB20 atWork (cmd 0 1 0 0) (fun _ c => reservedBad c 0 [full] = true) ∧
    (let s := { withCmd atWork 0x009 (cmd 0 0 0 0) with hci := { atWork.hci with
       fetched := [⟨0, 0, 0, cmdDesc 0x009 (cmd 0 0 0 0)⟩, ⟨1, 0, 0, cmdDesc 0x000 (cmd 0 0 0 0)⟩], nextNo := 2 } }
     eligible s ⟨1, 0, 0, cmdDesc 0x000 (cmd 0 0 0 0)⟩ = false) := by
  refine ⟨by decide +kernel, by decide +kernel, shows (by decide +kernel), shows (by decide +kernel), by decide +kernel⟩

theorem witness_memoryBytes :
    State.reset.MemInv ∧ State.reset.IncrInv ∧ memWf (writeBytes [] 4096 [1, 2, 3]) = true ∧
    readByte (dramWrite State.reset 4096 [1, 2, 3]).memory.dram 4098 = 3 ∧
    readByte (dramWrite State.reset 4096 [1, 2, 3]).memory.dram 4099 = 0 ∧
    ({ State.reset with memory := { State.reset.memory with poison := [64, 192] } } : State).memory.poison ≠ [] ∧
    (dramWrite { State.reset with memory := { State.reset.memory with poison := [64, 192] } } 64 (List.replicate 64 7)).memory.poison
      = [192] := by
  unfold State.MemInv State.IncrInv IncrOk; decide +kernel

theorem witness_queue :
    (∃ t, step { State.reset with pending := [.schedTick] } = .next t ∧ t.pending = []) ∧
    (∃ t, step State.reset = .next t) := by
  exact ⟨⟨_, rfl, by decide +kernel⟩, ⟨_, rfl⟩⟩

-- ## What WellFormed refuses

theorem test_wf_blocks :
    (Instr.keyInstall (cmd 0 0 0 0) (.bytes [])).wf = false ∧ (Instr.cipherJob (cmd 0 0 0 0) (.bytes [1]) .denied).wf = false ∧
    (Instr.canvasSetLayers (cmd 0 0 0 2) (.bytes [1])).wf = false ∧ (Instr.encCreate (cmd 0 0 0 0) (.bytes [1])).wf = false ∧
    (Instr.mixCreate (cmd 0 0 0 0) (.bytes [1])).wf = false ∧ (Instr.attestQuote (cmd 0 0 0 0) (.bytes [1])).wf = false ∧
    (Instr.keyInstall (cmd 0 0 0 0) .denied).wf = true := by decide +kernel

theorem test_wf_frames :
    (Instr.ack { toMe 10 with payload := List.replicate 16384 0 }).wf = false ∧ (Instr.ack (toMe 10)).wf = true ∧
    (Instr.media (toMe 2) { bytes := rtpBytes.take 11 }).wf = false ∧
    (Instr.media (toMe 2) { bytes := List.replicate 9217 0 }).wf = false ∧
    (Instr.media (toMe 2) { bytes := rtpBytes, s := 8 }).wf = false ∧ (Instr.media (toMe 2) { bytes := rtpBytes, t := 8 }).wf = false ∧
    Media.wf (.rtcp { bytes := rtpBytes.take 7, index := 0 }) = false ∧
    (Instr.macFrameReceive 0 { len := 64, da := 0, tags := List.replicate 3 { tpid := 0x8100, vid := 0, pcp := 0 }, body := .other }).wf = false ∧
    FrameBody.wf (.macControl 0 0 (List.replicate 9 0)) = false ∧
    (udpFrame (List.replicate 1473 0)).wf = false ∧ (mgmtFrame (.echo ⟨false, 0⟩ ⟨false, 0⟩ (List.replicate 1473 0))).wf = false ∧
    ({ src := ⟨false, 0⟩, dst := ⟨false, 0⟩, priv := [] } : CmReq).wf = false ∧
    (Instr.pictureDecoded 0 { width := 0, height := 1 }).wf = false := by decide +kernel

theorem test_wf_numbers :
    (Instr.switchInstant 5242880).wf = false ∧ (Instr.rtcpReportTimer 131072).wf = false ∧ (Instr.shaperEvaluate 262144).wf = false ∧
    (Instr.redecodeRunDone 16384 0).wf = false ∧ (Instr.canvasPictureStart 4096).wf = false ∧ (Instr.encPictureStart 4096).wf = false ∧
    (Instr.seatMerge 8192).wf = false ∧ (Instr.registerWrite (2 ^ 24) 0).wf = false ∧
    (Instr.mixPeriodStart 0 [(0, .mono [1, 2])]).wf = false ∧ (Instr.seatMerge 8191).wf = true := by decide +kernel

-- ## Worked examples of the manual

/-- R67's example: BT96 seconds 0x1388 and fraction 2^24. -/
theorem test_bt_to_ptp : btToPtp (0x1388 * second + 2 ^ 24 * 2 ^ 28) = (5000, 59, 39626) := by decide +kernel

/-- Chapter 09's example: a slot of 1,280 × 720; chapter 11's: one of 1,920 × 1,088. -/
theorem test_slot_bytes : slotBytes 1 1280 720 = 1441792 ∧ slotBytes 1 1920 1088 = 3407872 := by decide +kernel

/-- Chapter 11's example: the parameter block of the recording channel. -/
theorem test_enc_block :
    (let e := encOfBlock atWork (cmd 0 0 0 0) [0x07000000000C, 0, 0, 0x0100000157C0, 0x1311421E1084, 0x1A2D04B00A00, 0x177]
     e.output = 88000 ∧ e.codec = 1 ∧ e.profile = 3 ∧ e.sLayers = 1 ∧ e.tLayers = 1 ∧ e.depth10 = false ∧ e.rowRc = true ∧
     e.reqMode = 0 ∧ e.segments = 2 ∧ e.refreshP = 30 ∧ e.search = 16 ∧ e.eventsEn = true ∧ e.queue = 4 ∧ e.qpTarget = 26 ∧
     e.qpMax = 45 ∧ e.payloadMax = 1200 ∧ e.fastP = 10 ∧ refBytes 1 [(1920, 1080)] 1 false = 6815744) ∧
    encReserve [(1920, 1080)] 30 1 = 63 := by decide +kernel

/-- FIPS 197, appendix C.1, and FIPS 180-4's example of one block, "abc". -/
theorem test_aes128 :
    beNat (aes (beBytes 16 0x000102030405060708090a0b0c0d0e0f) (beBytes 16 0x00112233445566778899aabbccddeeff))
      = 0x69c4e0d86a7b0430d8cdb78070b4c55a := by decide +kernel
theorem test_sha256 : beNat (sha256 [0x61, 0x62, 0x63])
    = 0xba7816bf8f01cfea414140de5dae2223b00361a396177a9cb410ff61f20015ad := by decide +kernel

/-- Chapter 16's example: GRN_STATUS of members 2 and 1 once member 1 has taken over. -/
theorem test_grn_status :
    (let s := inRing .member (fun g => { g with roster := 14, master := 1, acting := true })
     grnStatus s = 0x000E10420003 ∧
     grnStatus { s with grn := { s.grn with state := .master, west := { wrapped := true } } } = 0x000E10430006) := by
  decide +kernel

/-- A handle names its type, member and index (R13): chapter 16's PRODUCED context 88,000 of member 0. -/
theorem test_handle : handle 1 0 88000 = 0x0100000157C0 ∧ hType (handle 7 2 12) = 7 ∧ hMember (handle 7 2 12) = 2 ∧
    hIndex (handle 7 2 12) = 12 := by decide +kernel

/-- R31 and R10: registers right after reset: SEED_ID, TB_INCR and a WO register. -/
theorem test_reset_registers :
    (regAt 0).map (fun x => (readReg State.reset x.1 x.2.1 x.2.2 0).toNat) = some 0x5EED01080023 ∧
    (regAt 0x20010).map (fun x => (readReg State.reset x.1 x.2.1 x.2.2 0x20010).toNat) = some 94447329657393 ∧
    (regAt 0x10010).map (fun x => (readReg State.reset x.1 x.2.1 x.2.2 0x10010).toNat) = some 0 := by decide +kernel

/-- R546 and R547: chapter 19's example: feed A has failed, so PSU0 blinks amber and PSU1 is green; the lowest row wins. -/
theorem test_supply_lamps :
    (let s : State := { atWork with power := { atWork.power with
       psu0 := { inOk := false }, psu1 := { inOk := true, outOk := true } } }
     psuLed s 0 = some (.blink .amber 1000) ∧ psuLed s 1 = some (.steady .green)) ∧
    psuLed State.reset 0 = some .dark ∧ statusLed State.reset = some .dark ∧ syncLed State.reset = some .dark := by
  decide +kernel

/-- RFC 3711, appendix B.3: the session keys of a master key and salt. -/
theorem test_srtp_keys :
    (let key := beBytes 16 0xE1F97A0D3E018BE0D64FA32C06DE4139
     let salt := beBytes 14 0x0EC675AD498AFEEBB6960B3AABE6
     beNat (deriveKey key salt 0 16) = 0xC61E7A93744F39EE10734AFE3FF7A087 ∧
     beNat (deriveKey key salt 2 14) = 0x30CBBC08863D8C85D49DB34A9AE1 ∧
     beNat (deriveKey key salt 1 20) = 0xCEBE321F6FF7716B6FD4AB49AF256A156D38BAA4) := by decide +kernel

/-- The second clause of `incrChangeHasNoStep` at the least RAW value. -/
theorem witness_incrChangeHasNoStep :
    (let s : State := { State.reset with time := { State.reset.time with raw := 1 } }
     s.time.raw ≠ 0 ∧ (thisCycle s).before = none) := by decide +kernel
end Sys2Proof.Tests
end

section
/-! Laws of posting records: an event record that is posted, held or dropped reaches connection slots, waiting packets and
counters, and nothing else of the module (R70, R133, R138, R140, R141). -/

namespace Sys2Proof.Machine

/-- State `t` is state `s` but for its host interface and its register counters. -/
def OnlyPosts (s t : State) : Prop := ∃ hci regs, t = { s with hci := hci, regs := regs }

namespace OnlyPosts

theorem refl (s : State) : OnlyPosts s s := ⟨s.hci, s.regs, rfl⟩

theorem trans {s t u : State} (hst : OnlyPosts s t) (htu : OnlyPosts t u) : OnlyPosts s u := by
  obtain ⟨_, _, rfl⟩ := hst
  obtain ⟨hci, regs, rfl⟩ := htu
  exact ⟨hci, regs, rfl⟩

variable {s t : State}

theorem time_eq (h : OnlyPosts s t) : t.time = s.time := by obtain ⟨_, _, rfl⟩ := h; rfl

theorem thisCycle_eq (h : OnlyPosts s t) : thisCycle t = thisCycle s := by obtain ⟨_, _, rfl⟩ := h; rfl

end OnlyPosts

theorem onlyPosts_setSlot (s : State) (n : Nat) (sl : Slot) : OnlyPosts s (setSlot s n sl) := ⟨_, _, rfl⟩

theorem onlyPosts_setCq (s : State) (slot q : Nat) (cq : Queue) : OnlyPosts s (setCq s slot q cq) := ⟨_, _, rfl⟩

theorem onlyPosts_bumpF (s : State) (o hi lo n : Nat) : OnlyPosts s (bumpF s o hi lo n) := ⟨_, _, rfl⟩

theorem onlyPosts_writeCqStatus (s : State) (slot : Nat) (cq : Queue) (imm : Option (BitVec 32)) :
    OnlyPosts s (writeCqStatus s slot cq imm) := ⟨_, _, rfl⟩

theorem onlyPosts_writeCqRec (s : State) (slot : Nat) (cq : Queue) (i : BitVec 32) (r : CRec) :
    OnlyPosts s (writeCqRec s slot cq i r) := ⟨_, _, rfl⟩

theorem onlyPosts_wakeCq (s : State) (slot q : Nat) : OnlyPosts s (wakeCq s slot q) := by
  unfold wakeCq
  split
  next => exact .refl s
  next cq _ =>
    split
    next => exact .refl s
    next =>
      split
      next => exact (onlyPosts_setCq s slot q _).trans (onlyPosts_writeCqStatus _ slot cq _)
      next => exact .refl s

theorem onlyPosts_pushRec (s : State) (slot q : Nat) (r : CRec) : OnlyPosts s (pushRec s slot q r) := by
  unfold pushRec
  dsimp only
  split
  next => exact .refl s
  next cq _ =>
    refine .trans ?_ (onlyPosts_wakeCq _ slot q)
    split
    next =>
      exact (onlyPosts_setCq s slot q _).trans
        ((onlyPosts_writeCqRec _ slot cq cq.pi r).trans (onlyPosts_writeCqStatus _ slot _ none))
    next => exact onlyPosts_setCq s slot q _

theorem onlyPosts_loseEvent (s : State) (slot q : Nat) (cq : Queue) (tag : BitVec 24) (ring : Nat) :
    OnlyPosts s (loseEvent s slot q cq tag ring) :=
  (onlyPosts_setCq s slot q _).trans (onlyPosts_bumpF _ _ _ _ _)

theorem onlyPosts_postRec (s : State) (slot q : Nat) (tag : BitVec 24) (ring : Nat) (r : CRec) :
    OnlyPosts s (postRec s slot q tag ring r) := by
  unfold postRec
  dsimp only
  split
  next => exact .refl s
  next =>
    split
    next => exact .refl s
    next cq _ =>
      split
      next => exact onlyPosts_pushRec s slot q r
      next =>
        split
        next => exact onlyPosts_setSlot s slot _
        next => exact onlyPosts_loseEvent s slot q cq tag ring

theorem onlyPosts_postOrDrop (s : State) (slot q : Nat) (tag : BitVec 24) (ring : Nat) (r : CRec) :
    OnlyPosts s (postOrDrop s slot q tag ring r) := by
  unfold postOrDrop
  split
  next => exact .refl s
  next =>
    split
    next => exact onlyPosts_bumpF s _ _ _ _
    next => exact onlyPosts_postRec s slot q tag ring r

/-- A time event is posted to one subscriber after another (R68, R70). -/
theorem onlyPosts_timeEvent (s : State) (kind port : Nat) (w1 rest : Word) (n : Nat) :
    OnlyPosts s (timeEvent s kind port w1 rest n) := by
  induction n with
  | zero => exact .refl s
  | succ n ih =>
    refine ih.trans ?_
    rw [timeEvent]
    dsimp only
    split
    next => exact .refl _
    next =>
      split
      next => exact .refl _
      next =>
        split
        next => exact onlyPosts_postOrDrop _ n _ _ _ _
        next => exact onlyPosts_postRec _ n _ _ _ _

@[simp] theorem timeEvent_time (s : State) (kind port : Nat) (w1 rest : Word) (n : Nat) :
    (timeEvent s kind port w1 rest n).time = s.time := (onlyPosts_timeEvent s kind port w1 rest n).time_eq

@[simp] theorem thisCycle_timeEvent (s : State) (kind port : Nat) (w1 rest : Word) (n : Nat) :
    thisCycle (timeEvent s kind port w1 rest n) = thisCycle s := (onlyPosts_timeEvent s kind port w1 rest n).thisCycle_eq

end Sys2Proof.Machine
end

section
/-! A change of INCR (R48, R49, R52): the re-anchored time base, what the cycle of the change keeps, and the two ways of
writing the value. -/

open Sys2Proof Sys2Proof.Machine

namespace Sys2Proof.Machine

-- ## The re-anchored time base (R48)

/-- At its anchor a time base reads OFFSET, whatever its INCR: this is why a change of INCR leaves no step. -/
theorem bridgeTime_anchor (offset : Int) (anchor incr : Nat) :
    bridgeTime offset anchor incr anchor = (offset % (2 ^ 124 : Int)).toNat := by
  simp [bridgeTime]

/-- `n` cycles after its anchor a time base has advanced by `n` times INCR. -/
theorem bridgeTime_anchor_add (offset : Int) (anchor incr n : Nat) :
    bridgeTime offset anchor incr ((anchor + n : Nat) : Int)
      = ((offset + (n : Int) * (incr : Int)) % (2 ^ 124 : Int)).toNat := by
  have elapsed : ((anchor + n : Nat) : Int) - (anchor : Int) = n := by omega
  rw [bridgeTime, elapsed]

theorem TimeBase.now_reanchor (t : TimeBase) (v : Word) : (t.reanchor v).now = t.now :=
  bridgeTime_anchor (t.reanchor v).offset t.raw v.toNat

/-- From the cycle of the change on, the new INCR counts. -/
theorem TimeBase.now_reanchor_later (t : TimeBase) (v : Word) (n : Nat) :
    ({ t.reanchor v with raw := t.raw + n } : TimeBase).now
      = (((t.reanchor v).offset + (n : Int) * (v.toNat : Int)) % (2 ^ 124 : Int)).toNat :=
  bridgeTime_anchor_add (t.reanchor v).offset t.raw v.toNat n

-- ## The cycle of the change (R48, R51)

theorem setIncr_time (s : State) (v : Word) : (setIncr s v).time = s.time.reanchor v := by
  unfold setIncr
  dsimp only
  rw [timeEvent_time]
  split <;> rfl

theorem thisCycle_no (s : State) : (thisCycle s).no = s.power.aon := by
  unfold thisCycle
  split
  next h => exact h
  next => rfl

theorem thisCycle_noteTime (s : State) : thisCycle (noteTime s) = { thisCycle s with
    before := some ((thisCycle s).before.getD (s.time.offset, s.time.anchor, s.time.incr)) } :=
  if_pos (thisCycle_no s)

theorem thisCycle_setIncr (s : State) (v : Word) : thisCycle (setIncr s v) = thisCycle (noteTime s) := by
  unfold setIncr
  dsimp only
  rw [thisCycle_timeEvent]
  split <;> rfl

/-- The cycle before the change keeps the bridge time that it had. -/
theorem lastCycle_setIncr (s : State) (v : Word) : lastCycle (setIncr s v) = lastCycle s := by
  have raw_kept : (setIncr s v).time.raw = s.time.raw := by rw [setIncr_time]; rfl
  simp only [lastCycle, raw_kept, thisCycle_setIncr, thisCycle_noteTime, Option.getD_some]

/-- In a cycle that has changed nothing yet, the time base as it stands tells the time of the cycle before. -/
theorem lastCycle_of_before_none {s : State} (hraw : s.time.raw ≠ 0) (hbefore : (thisCycle s).before = none) :
    lastCycle s = bridgeTime s.time.offset s.time.anchor s.time.incr ((s.time.raw : Int) - 1) := by
  simp only [lastCycle, hraw, if_false, hbefore, Option.getD_none]

-- ## The values that are accepted, and the two ways of writing one (R49, R52)

theorem incrBad_eq_false_iff (v : Word) : incrBad v = false ↔ IncrOk v.toNat := by
  simp [incrBad, IncrOk]

theorem incrBad_of_not_incrOk {v : Word} (h : ¬ IncrOk v.toNat) : incrBad v = true := by
  rwa [← incrBad_eq_false_iff, Bool.not_eq_false] at h

theorem tbIncrWrite_of_incrOk {s : State} {v : Word} (hv : IncrOk v.toNat) (hcmd : (thisCycle s).incrCmd = false) :
    tbIncrWrite s v = (setIncr s v, .ok) := by
  simp [tbIncrWrite, (incrBad_eq_false_iff v).mpr hv, hcmd]

theorem tbIncrWrite_of_incrCmd {s : State} {v : Word} (hv : IncrOk v.toNat) (hcmd : (thisCycle s).incrCmd = true) :
    tbIncrWrite s v = (timeEvent s 8 noPort v 0 8, .ok) := by
  simp [tbIncrWrite, (incrBad_eq_false_iff v).mpr hv, hcmd]

theorem tbIncrWrite_of_not_incrOk {s : State} {v : Word} (hv : ¬ IncrOk v.toNat) : tbIncrWrite s v = (s, .refused) := by
  simp [tbIncrWrite, incrBad_of_not_incrOk hv]

/-- A set-up write while Oxvan is answered, outside Windfall mode, takes its effect and reports its status (R175, R529). -/
theorem setupItem_open {s : State} (hopen : setupOpen s = true) (hst : s.power.st ≠ .windfall) (r : State × IStatus) :
    setupItem s r = emit r.1 (.itemStatus r.2) := by
  simp [setupItem, hopen, hst]

theorem exec_tbIncrWrite_open {s : State} (hopen : setupOpen s = true) (hst : s.power.st ≠ .windfall) (v : Word) :
    exec (.tbIncrWrite v) s = .next (emit (tbIncrWrite s v).1 (.itemStatus (tbIncrWrite s v).2)) :=
  congrArg Host.Outcome.next (setupItem_open hopen hst (tbIncrWrite s v))

/-- TIME_SET_INCR of a value out of range ends with 0x130 and changes nothing (R49, R77). -/
theorem exec_timeSetIncr_refused {s : State} {c : Cmd} {f : Fetched} (hbegins : Begins s 0x101 c f)
    (hreserved : reservedBad c 0 [full] = false) (hv : ¬ IncrOk c.w1.toNat) :
    exec (.timeSetIncr c) s = .next (answered s c (taken s f) 0x130 0 0) := by
  refine congrArg Host.Outcome.next (runRing_reply hbegins ?_)
  rw [guarded_pass _ _ _ _ hreserved, guarded_fail _ _ _ _ (incrBad_of_not_incrOk hv), Body.fail]

end Sys2Proof.Machine

/-- Settles O10: the new anchor is the RAW value of the change, where bridge time is OFFSET under any INCR, and the cycle of
the change keeps the values before it. -/
theorem incrChangeHasNoStep : Obligations.incrChangeHasNoStep := by
  unfold Obligations.incrChangeHasNoStep
  constructor
  · intro t v
    exact ⟨t.now_reanchor v, rfl, rfl, rfl, rfl, t.now_reanchor_later v⟩
  · intro s v
    refine ⟨setIncr_time s v, fun hraw hbefore => ?_⟩
    rw [lastCycle_setIncr, lastCycle_of_before_none hraw hbefore]

/-- Settles O11: both ways of writing INCR ask the range of R49 first, and the set-up write then asks whether a command has
set INCR in this cycle (R52). -/
theorem incrRange : Obligations.incrRange := by
  unfold Obligations.incrRange
  intro v s
  refine ⟨incrBad_eq_false_iff v, ?accepted, ?behindCommand, ?refused, fun c f => exec_timeSetIncr_refused⟩
  case accepted =>
    intro hopen hst hv hcmd
    rw [exec_tbIncrWrite_open hopen hst, tbIncrWrite_of_incrOk hv hcmd]
  case behindCommand =>
    intro hopen hst hv hcmd
    rw [exec_tbIncrWrite_open hopen hst, tbIncrWrite_of_incrCmd hv hcmd, noPort]
  case refused =>
    intro hopen hst hv
    rw [exec_tbIncrWrite_open hopen hst, tbIncrWrite_of_not_incrOk hv, emit]
end

section
/-! The Preserve and memory commands (R456 to R459): what each completes with, clause by clause of its table. -/

open Sys2Proof Sys2Proof.Machine

namespace Sys2Proof.Machine

-- ## What a taken descriptor leaves of the Preserve and the partition

@[simp] theorem getCtx_taken (s : State) (f : Fetched) (n : Nat) : getCtx (taken s f) n = getCtx s n := rfl

@[simp] theorem ctxNamed_taken (s : State) (f : Fetched) : ctxNamed (taken s f) = ctxNamed s := rfl

@[simp] theorem hObj_taken (s : State) (f : Fetched) (tys : List Nat) (w : Word) (ex : Nat → Bool) :
    hObj (taken s f) tys w ex = hObj s tys w ex := rfl

@[simp] theorem ownRecs_taken (s : State) (f : Fetched) (n : Nat) : ownRecs (taken s f) n = ownRecs s n := rfl

@[simp] theorem heldRefreshes_taken (s : State) (f : Fetched) (x : Stream) :
    heldRefreshes (taken s f) x = heldRefreshes s x := rfl

@[simp] theorem stackState_taken (s : State) (f : Fetched) (n : Nat) : stackState (taken s f) n = stackState s n := rfl

@[simp] theorem regionUse_taken (s : State) (f : Fetched) (r : Nat) : regionUse (taken s f) r = regionUse s r := rfl

@[simp] theorem regionAt_taken (s : State) (f : Fetched) (r : Nat) : regionAt (taken s f) r = regionAt s r := rfl

@[simp] theorem useOpen_taken (s : State) (f : Fetched) (r : Nat) : useOpen (taken s f) r = useOpen s r := rfl

-- ## PRESERVE_EXPORT (R457)

/-- The end of the range that PRESERVE_EXPORT copies: TO, or the bridge time of the command where that is earlier. -/
def exportTo (s : State) (c : Cmd) : Nat := min (deadlineAt (nearest (now s) c.w3)) (now s)

/-- Where PRESERVE_EXPORT of context `x` starts, or none where it ends with 0x1C0. -/
def exportStart (s : State) (c : Cmd) (x : Stream) : Option Nat :=
  exportFrom s x (cmdFlag c 1) (cmdFlag c 0) c.w2 (exportTo s c)

/-- The held records that PRESERVE_EXPORT selects; without a start, none. -/
def exportSelected (s : State) (c : Cmd) (start : Option Nat) : List PRec :=
  (ownRecs s (hIndex c.w1)).filter (fun r => start.isSome && decide (t48 r.time ≤ t48 (exportTo s c))
    && (if cmdFlag c 1 then decide (start.getD 0 < r.pos) else decide (t48 (start.getD 0) ≤ t48 r.time)))

theorem exportSelected_none (s : State) (c : Cmd) : exportSelected s c none = [] := by
  simp [exportSelected]

theorem exportSelected_some (s : State) (c : Cmd) (fr : Nat) :
    exportSelected s c (some fr) = (ownRecs s (hIndex c.w1)).filter (fun r => decide (t48 r.time ≤ t48 (exportTo s c))
      && (if cmdFlag c 1 then decide (fr < r.pos) else decide (t48 fr ≤ t48 r.time))) := by
  simp [exportSelected]

/-- Word 3 of PRESERVE_EXPORT: MORE, records written, records skipped as poisoned. -/
def exportCounts (r : Export) : Word := word (b2n r.more * 2 ^ 47 + r.taken % 2 ^ 23 * 2 ^ 24 + r.skipped % 2 ^ 24)

/-- What PRESERVE_EXPORT answers once its operands are accepted and its records `r` are read: the checks of its destination,
of its start and of its context, then the copy. -/
def exportCopy (s : State) (c : Cmd) (host : HostData) (x : Stream) (start : Option Nat) (r : State × Export) : Body :=
  guarded s [(c.w4 != 0 && regionBounds s c.slot c.w4 c.w5.toNat r.2.bytes.length true, 0x115),
      (c.w5.toNat % 64 != 0, 0x118),
      (c.w4 == 0 && !(insideAny s (endpointRegions false) c.w5.toNat r.2.bytes.length), 0x1A2), (start.isNone, 0x1C0),
      (x.quarantined, 0x401)]
    (let s1 := prsCount r.1 pExportBytes r.2.bytes.length
     if c.w4 = 0 then .reply (dramWrite s1 c.w5.toNat r.2.bytes) 0 (word r.2.bytes.length) (exportCounts r.2)
     else
       match host with
       | .bytes _ => .reply (regionWrite s1 c.slot (hIndex c.w4 % 1024) c.w5.toNat r.2.bytes) 0 (word r.2.bytes.length)
           (exportCounts r.2)
       | d => hostFailure s c d)

/-- The operands of PRESERVE_EXPORT are accepted: they name context `x`, of kind 0x1 or 0x5, module memory or a host region
of the connection, a LIMIT and at most one of the two flags. -/
structure ExportAccepted (s : State) (c : Cmd) (x : Stream) : Prop where
  reserved : reservedBad c 3 [full, full, full, full, full, 0xFFFFFFFF] = false
  named : (hObj s [1] c.w1 (ctxNamed s)).1 = false
  found : getCtx s (hIndex c.w1) = some x
  kind : x.kind = 1 ∨ x.kind = 5
  region : c.w4 = 0 ∨ (regionCheck s c.slot c.w4).1 = false
  limit : bits c.w6 31 0 ≠ 0
  flags : (cmdFlag c 1 && cmdFlag c 0) = false

theorem ExportAccepted.kind_check {s : State} {c : Cmd} {x : Stream} (h : ExportAccepted s c x) :
    (!(x.kind == 1 || x.kind == 5)) = false := by
  rcases h.kind with h1 | h5
  · simp [h1]
  · simp [h5]

theorem ExportAccepted.region_check {s : State} {c : Cmd} {x : Stream} (h : ExportAccepted s c x) :
    (if c.w4 = 0 then (false, 0) else regionCheck s c.slot c.w4).1 = false := by
  split
  next => rfl
  next hhost => exact h.region.resolve_left hhost

theorem ExportAccepted.limit_check {s : State} {c : Cmd} {x : Stream} (h : ExportAccepted s c x) :
    (bits c.w6 31 0 == 0 || (cmdFlag c 1 && cmdFlag c 0)) = false := by
  rw [h.flags, Bool.or_false]
  exact beq_false_of_ne h.limit

/-- PRESERVE_EXPORT with accepted operands answers as its copy does. -/
theorem exec_preserveExport_accepted {s : State} {c : Cmd} {f : Fetched} {x : Stream} {host : HostData} {start : Option Nat}
    {r : State × Export} {s1 : State} {st : Nat} {w1 w3 : Word} (hbegins : Begins s 0x900 c f) (hops : ExportAccepted s c x)
    (hstart : exportStart s c x = start)
    (hread : exportRecs (taken s f) (bits c.w6 31 0) (exportSelected s c start) {} = r)
    (hcopy : exportCopy (taken s f) c host x start r = .reply s1 st w1 w3) :
    exec (.preserveExport c host) s = .next (answered s c s1 st w1 w3) := by
  subst hstart hread
  refine congrArg Host.Outcome.next (runRing_reply hbegins ?_)
  simp only [getCtx_taken, hops.found, Option.getD_some]
  refine (guarded_pass _ _ _ _ hops.reserved).trans ?_
  refine (guarded_pass _ _ _ _ hops.named).trans ?_
  refine (guarded_pass _ _ _ _ hops.kind_check).trans ?_
  refine (guarded_pass _ _ _ _ hops.region_check).trans ?_
  refine (guarded_pass _ _ _ _ hops.limit_check).trans ?_
  exact hcopy

/-- With no start (R457), PRESERVE_EXPORT into module memory ends with 0x1C0. -/
theorem exportCopy_noStart {s : State} {c : Cmd} (host : HostData) (x : Stream) (hmodule : c.w4 = 0)
    (haligned : c.w5.toNat % 64 = 0) (hinside : insideAny s (endpointRegions false) c.w5.toNat 0 = true) :
    exportCopy s c host x none (s, {}) = .reply s 0x1C0 0 0 := by
  simp [exportCopy, guarded_pass, guarded_fail, Body.fail, hmodule, haligned, hinside]

theorem exportCopy_module {s : State} {c : Cmd} {x : Stream} {r : State × Export} (host : HostData) (fr : Nat)
    (hmodule : c.w4 = 0) (haligned : c.w5.toNat % 64 = 0)
    (hinside : insideAny s (endpointRegions false) c.w5.toNat r.2.bytes.length = true) (hwhole : x.quarantined = false) :
    exportCopy s c host x (some fr) r = .reply (dramWrite (prsCount r.1 pExportBytes r.2.bytes.length) c.w5.toNat r.2.bytes)
      0 (word r.2.bytes.length) (exportCounts r.2) := by
  simp [exportCopy, guarded_pass, hmodule, haligned, hinside, hwhole]

theorem exportCopy_host {s : State} {c : Cmd} {x : Stream} {r : State × Export} (bs : List Byte) (fr : Nat)
    (hhost : c.w4 ≠ 0#48) (hbounds : regionBounds s c.slot c.w4 c.w5.toNat r.2.bytes.length true = false)
    (haligned : c.w5.toNat % 64 = 0) (hwhole : x.quarantined = false) :
    exportCopy s c (.bytes bs) x (some fr) r = .reply
      (regionWrite (prsCount r.1 pExportBytes r.2.bytes.length) c.slot (hIndex c.w4 % 1024) c.w5.toNat r.2.bytes)
      0 (word r.2.bytes.length) (exportCounts r.2) := by
  simp [exportCopy, guarded_pass, hhost, beq_false_of_ne hhost, hbounds, haligned, hwhole]

-- ## PRESERVE_QUERY (R458)

section
variable {s : State} {c : Cmd} {f : Fetched} {x : Stream} (hbegins : Begins s 0x901 c f)

section
variable (hnamed : (hObj s [1] c.w1 (ctxNamed s)).1 = false) (hfound : getCtx s (hIndex c.w1) = some x)
  (hwhole : x.quarantined = false) (hreserved : reservedBad c 0 [full, 0x1FFF] = false)
include hbegins hnamed hfound hwhole hreserved

theorem exec_preserveQuery_receiveTimes (hsel : bits c.w2 7 0 = 0) :
    exec (.preserveQuery c) s = .next (answered s c (taken s f) 0
      (((ownRecs s (hIndex c.w1)).head?.map (fun r => bt48 r.time)).getD 0)
      (((ownRecs s (hIndex c.w1)).getLast?.map (fun r => bt48 r.time)).getD 0)) := by
  refine congrArg Host.Outcome.next (runRing_reply hbegins ?_)
  simp [guarded_pass, hsel, hreserved, hnamed, hfound, hwhole]

theorem exec_preserveQuery_refresh (hsel : bits c.w2 7 0 = 1) {p : Refresh}
    (hheld : (heldRefreshes s x)[bits c.w2 12 8]? = some p) :
    exec (.preserveQuery c) s = .next (answered s c (taken s f) 0 (bt48 p.time) (word p.pos)) := by
  refine congrArg Host.Outcome.next (runRing_reply hbegins ?_)
  simp [guarded_pass, hsel, hreserved, hnamed, hfound, hheld, hwhole]

omit hwhole in
theorem exec_preserveQuery_noRefresh (hsel : bits c.w2 7 0 = 1)
    (hheld : (heldRefreshes s x)[bits c.w2 12 8]? = none) :
    exec (.preserveQuery c) s = .next (answered s c (taken s f) 0x1C0 0 0) := by
  refine congrArg Host.Outcome.next (runRing_reply hbegins ?_)
  simp [guarded_pass, guarded_fail, Body.fail, hsel, hreserved, hnamed, hfound, hheld]

theorem exec_preserveQuery_refreshCount (hsel : bits c.w2 7 0 = 2) :
    exec (.preserveQuery c) s = .next (answered s c (taken s f) 0 (word (heldRefreshes s x).length) 0) := by
  refine congrArg Host.Outcome.next (runRing_reply hbegins ?_)
  simp [guarded_pass, hsel, hreserved, hnamed, hfound, hwhole]

end

include hbegins

theorem exec_preserveQuery_wholePreserve (hsel : bits c.w2 7 0 = 3) (hreserved : reservedBad c 0 [0, 0x1FFF] = false) :
    exec (.preserveQuery c) s = .next (answered s c (taken s f) 0
      ((s.memory.recs.head?.map (fun r => bt48 r.time)).getD 0) (word s.memory.writePos)) := by
  refine congrArg Host.Outcome.next (runRing_reply hbegins ?_)
  simp [guarded_pass, hsel, hreserved]

theorem exec_preserveQuery_otherSelect (hsel : 3 < bits c.w2 7 0) :
    exec (.preserveQuery c) s = .next (answered s c (taken s f) 0x108 0 0) := by
  refine congrArg Host.Outcome.next (runRing_reply hbegins ?_)
  rw [guarded_fail _ _ _ _ (decide_eq_true hsel), Body.fail]

end

-- ## MEM_QUERY (R459)

section
variable {s : State} {c : Cmd} {f : Fetched} (hbegins : Begins s 0x902 c f)
include hbegins

section
variable (hreserved : reservedBad c 0 [0xFF] = false)
include hreserved

theorem exec_memQuery_stack (hstack : bits c.w1 7 0 ≤ 0x10) :
    exec (.memQuery c) s = .next (answered s c (taken s f) 0 (word (getF s (oMemCorr (bits c.w1 7 0)) 47 16))
      (word (getF s (oMemCorr (bits c.w1 7 0)) 15 0 * 2 ^ 32 + stackState s (bits c.w1 7 0) * 2 ^ 28
        + Tbl.count s.memory.uncorrectable (bits c.w1 7 0)))) := by
  refine congrArg Host.Outcome.next (runRing_reply hbegins ?_)
  simp [guarded_pass, hstack, hreserved]

section
variable (hfrom : 0x20 ≤ bits c.w1 7 0) (hto : bits c.w1 7 0 ≤ 0x2A)
include hfrom hto

theorem exec_memQuery_region (hopen : useOpen s (bits c.w1 7 0 - 0x20) = false) :
    exec (.memQuery c) s = .next (answered s c (taken s f) 0 (word (regionUse s (bits c.w1 7 0 - 0x20)))
      (word (regionAt s (bits c.w1 7 0 - 0x20)).2)) := by
  have hnoStack : ¬ bits c.w1 7 0 ≤ 0x10 := by omega
  refine congrArg Host.Outcome.next (runRing_reply hbegins ?_)
  simp [guarded_pass, hnoStack, hfrom, hto, hreserved, hopen]

/-- Where the manual states no size, the use of the region is a free value (assumption 43). -/
theorem exec_memQuery_openRegion (hopen : useOpen s (bits c.w1 7 0 - 0x20) = true) :
    exec (.memQuery c) s = .next (answered s c (nextFree (taken s f)) 0 (freeVal s 48)
      (word (regionAt s (bits c.w1 7 0 - 0x20)).2)) := by
  have hnoStack : ¬ bits c.w1 7 0 ≤ 0x10 := by omega
  refine congrArg Host.Outcome.next (runRing_reply hbegins ?_)
  simp [guarded_pass, hnoStack, hfrom, hto, hreserved, hopen]

end
end

theorem exec_memQuery_otherSelect (hsel : 0x10 < bits c.w1 7 0 ∧ bits c.w1 7 0 < 0x20 ∨ 0x2A < bits c.w1 7 0) :
    exec (.memQuery c) s = .next (answered s c (taken s f) 0x108 0 0) := by
  have hunlisted : (!(decide (bits c.w1 7 0 ≤ 0x10) || (decide (0x20 ≤ bits c.w1 7 0) && decide (bits c.w1 7 0 ≤ 0x2A))))
      = true := by
    simp; omega
  refine congrArg Host.Outcome.next (runRing_reply hbegins ?_)
  rw [guarded_fail _ _ _ _ hunlisted, Body.fail]

end

end Sys2Proof.Machine

/-- Settles O48: each clause is a row of the tables of R457 to R459, read off the checks of its command in their order.
PRESERVE_EXPORT copies what `exportRecs` reads, once its operands are accepted. -/
theorem memoryCommands : Obligations.memoryCommands := by
  unfold Obligations.memoryCommands
  intro c s f
  refine ⟨?copies, ?queries, fun hb hsel hreserved => exec_preserveQuery_wholePreserve hb hsel hreserved,
    fun hb hsel => exec_preserveQuery_otherSelect hb hsel, ?memory⟩
  case copies =>
    rintro x host _ _ hbegins hreserved hnamed hfound hkind hregion hlimit hflags rfl rfl
    have hops : ExportAccepted s c x := ⟨hreserved, hnamed, hfound, hkind, hregion, hlimit, hflags⟩
    refine ⟨fun _ hmodule haligned hstart hinside => ?noStart, fun fr r hwhole hstart hr haligned => ?start⟩
    case noStart =>
      have hread : exportRecs (taken s f) (bits c.w6 31 0) (exportSelected s c none) {} = (taken s f, {}) := by
        rw [exportSelected_none, exportRecs]
      exact exec_preserveExport_accepted hbegins hops hstart hread (exportCopy_noStart host x hmodule haligned hinside)
    case start =>
      have hread : exportRecs (taken s f) (bits c.w6 31 0) (exportSelected s c (some fr)) {} = r := by
        rw [exportSelected_some, hr, exportTo]
      exact ⟨fun hmodule hinside => exec_preserveExport_accepted hbegins hops hstart hread
          (exportCopy_module host fr hmodule haligned hinside hwhole),
        fun bs hhost hbounds => exec_preserveExport_accepted hbegins hops hstart hread
          (exportCopy_host bs fr hhost hbounds haligned hwhole)⟩
  case queries =>
    intro x hbegins hnamed hfound hwhole hreserved
    exact ⟨exec_preserveQuery_receiveTimes hbegins hnamed hfound hwhole hreserved,
      fun hsel => ⟨fun _ => exec_preserveQuery_refresh hbegins hnamed hfound hwhole hreserved hsel,
        exec_preserveQuery_noRefresh hbegins hnamed hfound hreserved hsel⟩,
      exec_preserveQuery_refreshCount hbegins hnamed hfound hwhole hreserved⟩
  case memory =>
    intro hbegins hreserved
    exact ⟨exec_memQuery_stack hbegins hreserved,
      fun hfrom hto => ⟨exec_memQuery_region hbegins hreserved hfrom hto,
        exec_memQuery_openRegion hbegins hreserved hfrom hto⟩,
      exec_memQuery_otherSelect hbegins⟩
end

section
/-! What every step keeps: the queue behind its front command, INCR in the range of R49, and memory in its canonical form. One
lemma per function of the model that hands on a state, in the order in which they call each other; a row's lemma is put
together from those of the functions that it calls. -/

-- Elaborating many small theorems side by side takes a thread's stack for each: one after the other they fit in memory.
set_option Elab.async false

namespace Sys2Proof.Machine

/-- From state `s` to state `t` the waiting commands stay as they are, INCR stays in the range of R49, and memory stays in its
canonical form. -/
structure Keeps (s t : State) : Prop where
  pending_eq : t.pending = s.pending
  incr : s.IncrInv → t.IncrInv
  mem : s.MemInv → t.MemInv

/-- A command answers a next state, and it keeps what `Keeps` says from `s₀` on. -/
def Answers (s₀ : State) (o : Out) : Prop := ∃ t, o = .next t ∧ Keeps s₀ t

/-- The state that a command's body hands on. -/
def Body.state (b : Body) : State :=
  match b with
  | .reply s _ _ _ => s
  | .waits s _ => s

theorem Keeps.refl (s : State) : Keeps s s := ⟨rfl, id, id⟩

section
variable {s₀ s : State} (h : Keeps s₀ s)

theorem Answers.next {t : State} (ht : Keeps s₀ t) : Answers s₀ (.next t) := ⟨t, rfl, ht⟩

theorem Keeps.ite {a b : State} {c : Prop} [Decidable c] (ha : Keeps s₀ a) (hb : Keeps s₀ b) :
    Keeps s₀ (if c then a else b) := by
  split
  · exact ha
  · exact hb

theorem Keeps.pair {α : Type} {t : State} {x : α} (ht : Keeps s₀ t) : Keeps s₀ (t, x).1 := ht

theorem Keeps.ite_fst {α : Type} {a b : State × α} {c : Prop} [Decidable c] (ha : Keeps s₀ a.1) (hb : Keeps s₀ b.1) :
    Keeps s₀ (if c then a else b).1 := by
  split
  · exact ha
  · exact hb

theorem Keeps.ite_state {a b : Body} {c : Prop} [Decidable c] (ha : Keeps s₀ a.state) (hb : Keeps s₀ b.state) :
    Keeps s₀ (if c then a else b).state := by
  split
  · exact ha
  · exact hb

theorem Keeps.foldl_fst {α β : Type} {f : State × β → α → State × β} {xs : List α} {a : State × β}
    (hf : ∀ a x, Keeps s₀ a.1 → Keeps s₀ (f a x).1) (ha : Keeps s₀ a.1) : Keeps s₀ (xs.foldl f a).1 := by
  induction xs generalizing a with
  | nil => exact ha
  | cons x xs ih => exact ih (hf a x ha)

include h

/-- An update of other fields keeps the three. -/
theorem Keeps.congr {t : State} (hp : t.pending = s.pending) (hi : t.time.incr = s.time.incr)
    (hm : t.memory.dram = s.memory.dram) : Keeps s₀ t := by
  obtain ⟨h1, h2, h3⟩ := h
  refine ⟨hp.trans h1, fun i => ?_, fun i => ?_⟩
  · have := h2 i
    rwa [State.IncrInv, ← hi] at this
  · have := h3 i
    rwa [State.MemInv, ← hm] at this

/-- An update of the other fields, field by field, keeps the three. -/
theorem Keeps.update {out fresh regs shadow time cyc spec hci oxvan mac0 mac1 mgmt media units sched dma memory grn
    err power sec
    mram} (hi : time.incr = s.time.incr := by rfl) (hm : memory.dram = s.memory.dram := by rfl) : Keeps s₀ { s with
      out := out, fresh := fresh, regs := regs, shadow := shadow, time := time, cyc := cyc, spec := spec, hci := hci
      oxvan := oxvan, mac0 := mac0, mac1 := mac1, mgmt := mgmt, media := media, units := units, sched :=
          sched, dma := dma
      memory := memory, grn := grn, err := err, power := power, sec := sec, mram := mram } :=
  h.congr rfl hi hm

/-- A change of memory that keeps its canonical form, whatever else it changes but INCR and the queue. -/
theorem Keeps.withMemory {t : State} (hm : memWf s.memory.dram = true → memWf t.memory.dram = true)
    (hp : t.pending = s.pending := by rfl) (hi : t.time.incr = s.time.incr := by rfl) : Keeps s₀ t := by
  obtain ⟨h1, h2, h3⟩ := h
  refine ⟨hp.trans h1, fun i => ?_, fun i => hm (h3 i)⟩
  have := h2 i
  rwa [State.IncrInv, ← hi] at this

theorem Keeps.foldl {α : Type} {f : State → α → State} {xs : List α} (hf : ∀ t x, Keeps s₀ t → Keeps s₀ (f t x)) :
    Keeps s₀ (xs.foldl f s) := by
  induction xs generalizing s with
  | nil => exact h
  | cons x xs ih => exact ih (hf s x h)

protected theorem Keeps.setRaw {o v} : Keeps s₀ (setRaw s o v) := h.update

protected theorem Keeps.setF {o hi lo v} : Keeps s₀ (setF s o hi lo v) := h.setRaw

protected theorem Keeps.bumpF {o hi lo n} : Keeps s₀ (bumpF s o hi lo n) := h.setF

protected theorem Keeps.bumpC {o n} : Keeps s₀ (bumpC s o n) := h.setRaw

-- ## The registers, time, output and free values

protected theorem Keeps.noteTime : Keeps s₀ (noteTime s) := h.update

protected theorem Keeps.raiseBit {o i} : Keeps s₀ (raiseBit s o i) := h.setF.update

protected theorem Keeps.lateEvents {n} : Keeps s₀ (lateEvents s n) := .ite h h.bumpF.raiseBit

protected theorem Keeps.armEvent {deadline} : Keeps s₀ (armEvent s deadline) := h.lateEvents

protected theorem Keeps.idle : Keeps s₀ (idle s) := by
  unfold Machine.idle
  cases s.time.released
  · exact h.update
  · exact h.update

protected theorem Keeps.setPtp {port p} : Keeps s₀ (setPtp s port p) := .ite h.update h.update

protected theorem Keeps.emit {e} : Keeps s₀ (emit s e) := h.update

protected theorem Keeps.emits {es} : Keeps s₀ (emits s es) := h.update

protected theorem Keeps.nextFree : Keeps s₀ (nextFree s) := h.update

protected theorem Keeps.dramWrite {a bs} : Keeps s₀ (dramWrite s a bs) := h.withMemory (memWf_writeBytes _ _ _)

protected theorem Keeps.setupItem {r : State × IStatus} (hr : Keeps s₀ r.1) : Keeps s₀ (setupItem s r) :=
    .ite h (.ite h.emit hr.emit)

protected theorem Keeps.setSlot {n sl} : Keeps s₀ (setSlot s n sl) := h.update

protected theorem Keeps.sendPkts {ps} : Keeps s₀ (sendPkts s ps) := h.update

protected theorem Keeps.sendRoce {n m} : Keeps s₀ (sendRoce s n m) := h.sendPkts

protected theorem Keeps.sendWrite {n addr rkey data imm} : Keeps s₀ (sendWrite s n addr rkey data imm) := h.sendPkts

protected theorem Keeps.sendData_ {n data} : Keeps s₀ (sendData_ s n data) := h.sendPkts

protected theorem Keeps.regionWrite {n region off data} : Keeps s₀ (regionWrite s n region off data) := by
  unfold Machine.regionWrite
  split
  · exact h
  · exact h.sendWrite

protected theorem Keeps.writeCqStatus {slot cq imm} : Keeps s₀ (writeCqStatus s slot cq imm) := h.sendWrite

protected theorem Keeps.writeEqStatus {slot eq imm} : Keeps s₀ (writeEqStatus s slot eq imm) := h.sendWrite

protected theorem Keeps.writeCqRec {slot cq i r} : Keeps s₀ (writeCqRec s slot cq i r) := h.sendWrite

protected theorem Keeps.writeEqRec {slot eq i r} : Keeps s₀ (writeEqRec s slot eq i r) := h.sendWrite

protected theorem Keeps.setCq {slot q cq} : Keeps s₀ (setCq s slot q cq) := h.setSlot

protected theorem Keeps.wakeCq {slot q} : Keeps s₀ (wakeCq s slot q) := by
  unfold Machine.wakeCq
  split
  · exact h
  · split
    · exact h
    · exact .ite h.setCq.writeCqStatus h

protected theorem Keeps.wakeEq {slot} : Keeps s₀ (wakeEq s slot) := by
  unfold Machine.wakeEq
  dsimp only
  split
  · exact h
  · split
    · exact h
    · exact .ite h.setSlot.writeEqStatus h

protected theorem Keeps.pushRec {slot q r} : Keeps s₀ (pushRec s slot q r) := by
  unfold Machine.pushRec
  dsimp only
  split
  · exact h
  · exact (Keeps.ite h.setCq.writeCqRec.writeCqStatus h.setCq).wakeCq

protected theorem Keeps.complete {slot ring q tag quiet status w1 w3} :
    Keeps s₀ (complete s slot ring q tag quiet status w1 w3) := by
  unfold Machine.complete
  dsimp only
  split
  · exact h
  · split
    · exact h.setCq
    · exact h.setCq
    · exact .ite h.setCq h.setCq.pushRec

protected theorem Keeps.loseEvent {slot q cq tag ring} : Keeps s₀ (loseEvent s slot q cq tag ring) := h.setCq.bumpF

protected theorem Keeps.postRec {slot q tag ring r} : Keeps s₀ (postRec s slot q tag ring r) := by
  unfold Machine.postRec
  dsimp only
  split
  · exact h
  · split
    · exact h
    · exact .ite h.pushRec (.ite h.setSlot h.loseEvent)

protected theorem Keeps.postEvent {slot q tag ring status w1 w3} :
    Keeps s₀ (postEvent s slot q tag ring status w1 w3) :=
  h.postRec

protected theorem Keeps.postOrDrop {slot q tag ring r} : Keeps s₀ (postOrDrop s slot q tag ring r) := by
  unfold Machine.postOrDrop
  split
  · exact h
  · exact .ite h.bumpF h.postRec

protected theorem Keeps.drainBacklog {slot q n} : Keeps s₀ (drainBacklog s slot q n) := by
  induction n generalizing s with
  | zero => exact h
  | succ n ih =>
    rw [drainBacklog]
    split
    · exact h
    · refine .ite h ?_
      split
      · exact ih h.setCq.pushRec
      · split
        · exact h
        · exact ih h.setSlot.pushRec

protected theorem Keeps.logError {r} : Keeps s₀ (logError s r) := .ite h.update h

protected theorem Keeps.pushErr {slot r} : Keeps s₀ (pushErr s slot r) := by
  unfold Machine.pushErr
  dsimp only
  split
  · exact h
  · exact (Keeps.ite h.setSlot.writeEqRec.writeEqStatus h.setSlot).wakeEq

protected theorem Keeps.errToSlot {slot r} : Keeps s₀ (errToSlot s slot r) := by
  unfold Machine.errToSlot
  dsimp only
  split
  · exact h.setSlot
  · exact h.setSlot
  · split
    · exact h
    · exact .ite h.pushErr h.setSlot.bumpF
  · exact h

protected theorem Keeps.errToSlots {r n} : Keeps s₀ (errToSlots s r n) := by
  induction n with
  | zero => exact h
  | succ n ih => exact .ite ih.errToSlot ih

protected theorem Keeps.recordErr {e} : Keeps s₀ (recordErr s e).1 :=
  .ite h.update.bumpF.raiseBit.logError h.update.bumpF.raiseBit

protected theorem Keeps.raiseErr {e} : Keeps s₀ (raiseErr s e) := .ite h.recordErr.errToSlots h.recordErr

protected theorem Keeps.endHandling {code inst} : Keeps s₀ (endHandling s code inst) := h.update

-- ## The task scheduler

protected theorem Keeps.slotRefused : Keeps s₀ (slotRefused s) := h.bumpF

protected theorem Keeps.putTask {id t} : Keeps s₀ (putTask s id t) := h.update

protected theorem Keeps.putCore {k c} : Keeps s₀ (putCore s k c) := h.update

protected theorem Keeps.putClassList {c xs} : Keeps s₀ (putClassList s c xs) := h.update

protected theorem Keeps.runTask {k id} : Keeps s₀ (runTask s k id) := by
  unfold Machine.runTask
  split
  · exact h
  · split
    · exact h.putTask.putCore.update.endHandling
    · exact h.putTask.putCore.update

protected theorem Keeps.ask {k} : Keeps s₀ (ask s k) := by
  unfold Machine.ask
  dsimp only
  refine .ite h ?_
  split
  · split
    · exact .ite h.putClassList.runTask h.putCore.runTask
    · exact h.putCore.runTask
  · exact h.putCore.runTask
  · exact h.putClassList.runTask
  · split
    · exact h
    · refine .ite h ?_
      split
      · exact h
      · exact h.putCore.putCore.runTask

protected theorem Keeps.wakeClass {cls} : Keeps s₀ (wakeClass s cls) := h.foldl fun _ _ h1 => h1.ask

protected theorem Keeps.wakeCore {k} : Keeps s₀ (wakeCore s k) := h.update

protected theorem Keeps.wakeOne {cls} : Keeps s₀ (wakeOne s cls) := by
  unfold Machine.wakeOne
  split
  · exact h.wakeCore
  · exact h

protected theorem Keeps.askWoken : Keeps s₀ (askWoken s) := h.update.foldl fun _ _ h1 => h1.ask

protected theorem Keeps.toClass {id t} : Keeps s₀ (toClass s id t) := h.putClassList.wakeOne

protected theorem Keeps.toCore {c id t} : Keeps s₀ (toCore s c id t) :=
  .ite ((Keeps.ite h.putCore.wakeCore h.putCore).wakeOne) (.ite h.putCore.wakeCore h.putCore)

protected theorem Keeps.place {id t0} : Keeps s₀ (place s id t0) := by
  unfold Machine.place
  dsimp only
  split
  · exact .ite h.putTask.toCore h.putTask.toClass
  · exact h.putTask.toClass

protected theorem Keeps.tryReady {id} : Keeps s₀ (tryReady s id) := by
  unfold Machine.tryReady
  split
  · exact h
  · exact .ite h.putTask h.place

protected theorem Keeps.createTask {t0} : Keeps s₀ (createTask s t0) := by
  unfold Machine.createTask
  dsimp only
  split
  · refine .ite ?_ ?_
    · exact h.update.putTask.setF.putTask
    · exact (Keeps.ite h.update.putTask.setF.bumpF.lateEvents h.update.putTask.setF).tryReady
  · exact h.update.putTask.setF.tryReady

protected theorem Keeps.createTasks {ts} : Keeps s₀ (createTasks s ts) := (h.foldl fun _ _ h1 => h1.createTask).askWoken

protected theorem Keeps.offerSlots {n blocked} : Keeps s₀ (offerSlots s n blocked) := by
  induction n generalizing s blocked with
  | zero => exact h
  | succ n ih =>
    rw [offerSlots]
    split
    · exact h
    · exact .ite (ih (h.update).createTasks) (ih h)

protected theorem Keeps.slotFreed : Keeps s₀ (slotFreed s) := .ite h.offerSlots.update h.offerSlots

protected theorem Keeps.requestTask {t} : Keeps s₀ (requestTask s t).1 := .ite_fst h.createTasks h.update.slotRefused

protected theorem Keeps.requestAll {ts} : Keeps s₀ (requestAll s ts).1 := by
  have grants : Keeps s₀ (ts.foldl (fun (a : State × Bool) t =>
      if a.2 && slotGranted a.1 t.cls t.band then (createTask a.1 t, true) else (a.1, false)) (s, true)).1 := by
    refine Keeps.foldl_fst (fun a t ha => ?_) h
    split
    · exact ha.createTask
    · exact ha
  unfold Machine.requestAll
  dsimp only
  split
  · exact grants.askWoken
  · exact h.slotRefused

protected theorem Keeps.unlist {id} : Keeps s₀ (unlist s id) := h.update

protected theorem Keeps.releaseSerial {key} : Keeps s₀ (releaseSerial s key) := by
  unfold Machine.releaseSerial
  split
  · exact h
  · exact h.foldl fun _ _ h1 => h1.tryReady

protected theorem Keeps.stopBusy {k} : Keeps s₀ (stopBusy s k) := by
  unfold Machine.stopBusy
  dsimp only
  split
  · exact h
  · exact h.putCore

protected theorem Keeps.removeTask {id} : Keeps s₀ (removeTask s id) := by
  unfold Machine.removeTask
  split
  · exact h
  · exact h.update.unlist.releaseSerial.askWoken.slotFreed

protected theorem Keeps.endOn {k} : Keeps s₀ (endOn s k) := by
  unfold Machine.endOn
  split
  · exact h
  · exact h.stopBusy.putCore.removeTask.ask

protected theorem Keeps.yieldOn {k why} : Keeps s₀ (yieldOn s k why) := by
  unfold Machine.yieldOn
  split
  · exact h
  · split
    · exact h
    · exact h.stopBusy.putCore.putTask.ask

protected theorem Keeps.resumeTasks {why p} : Keeps s₀ (resumeTasks s why p) :=
    (h.foldl fun _ _ h1 => h1.place).askWoken

protected theorem Keeps.cancelTasks {p} : Keeps s₀ (cancelTasks s p) := h.update.foldl fun _ _ h1 => h1.bumpF.removeTask

protected theorem Keeps.stopCores : Keeps s₀ (stopCores s) := h.foldl fun _ _ h1 => h1.putCore

protected theorem Keeps.startCores : Keeps s₀ (startCores s) :=
  (h.foldl fun _ _ h1 => h1.putCore).foldl fun _ _ h1 => h1.wakeClass

protected theorem Keeps.execSchedTick : Answers s₀ (execSchedTick s) :=
  .next (.ite h (((h.foldl fun _ _ h1 => h1.tryReady).update).askWoken))

protected theorem Keeps.closeCore {t p} : Keeps s₀ (closeCore t s p) := h.setRaw.setRaw.putCore

protected theorem Keeps.closeClass {c} : Keeps s₀ (closeClass s c) := h.setRaw

protected theorem Keeps.execTskWindowEnd : Answers s₀ (execTskWindowEnd s) :=
  .next (.ite h (((h.foldl fun _ _ h1 => h1.closeCore).foldl fun _ _ h1 => h1.closeClass).update))

protected theorem Keeps.dropFetched {no} : Keeps s₀ (dropFetched s no) := h.update

protected theorem Keeps.fail {status} : Keeps s₀ (Body.fail s status).state := h

protected theorem Keeps.guarded {cs k} (hk : Keeps s₀ k.state) : Keeps s₀ (guarded s cs k).state := by
  unfold Machine.guarded
  split
  · exact h
  · exact hk

protected theorem Keeps.forgetQueue {n q} : Keeps s₀ (forgetQueue s n q) := h.update

protected theorem Keeps.freeSlot {n} : Keeps s₀ (freeSlot s n) := h.forgetQueue.setSlot.update

protected theorem Keeps.sendRep {slot port peer mac resumed} : Keeps s₀ (sendRep s slot port peer mac resumed) :=
  h.nextFree.nextFree.setSlot.sendRoce

protected theorem Keeps.sendRej {slot port peer mac reason} : Keeps s₀ (sendRej s slot port peer mac reason) :=
  h.sendPkts.bumpF

protected theorem Keeps.closeDone {n} : Keeps s₀ (closeDone s n) := by
  unfold Machine.closeDone
  split
  · refine .ite h ?_
    split
    · exact h.freeSlot
    · exact .ite h.freeSlot.sendRep h.freeSlot.sendRej
  · exact h

protected theorem Keeps.closeSlot {n mra} : Keeps s₀ (closeSlot s n mra) := h.setSlot.closeDone

protected theorem Keeps.dropPkts {f} : Keeps s₀ (dropPkts s f) := h.update

protected theorem Keeps.loseConn {n} : Keeps s₀ (loseConn s n) := .ite (.ite h.dropPkts.closeSlot h.dropPkts.setSlot) h

protected theorem Keeps.retireRecs {ks} : Keeps s₀ (retireRecs s ks) := .ite h h.update

protected theorem Keeps.freeLeg {leg} : Keeps s₀ (freeLeg s leg) := h.update.retireRecs

protected theorem Keeps.completeInflight {i status w1 w3} : Keeps s₀ (completeInflight s i status w1 w3) :=
  h.update.complete

protected theorem Keeps.finishWait {i} : Keeps s₀ (finishWait s i) := by
  unfold Machine.finishWait
  split
  · exact h.setSlot.completeInflight
  · exact h.setSlot.completeInflight
  · exact h.freeLeg.completeInflight
  · exact h.completeInflight
  · exact h.update.completeInflight
  · exact h.update.completeInflight
  · exact h.update.completeInflight
  · exact h.completeInflight

/-- What ends now keeps what `Keeps` says. -/
theorem Keeps.of_settleOne {t} (ht : settleOne s = some t) : Keeps s₀ t := by
  unfold settleOne at ht
  split at ht
  · cases ht
    exact h.dropFetched.complete
  · split at ht
    · cases ht
      exact h.finishWait
    · cases ht

protected theorem Keeps.settleN {n} : Keeps s₀ (settleN s n) := by
  induction n generalizing s with
  | zero => exact h
  | succ n ih =>
    rw [settleN]
    split
    next t ht => exact ih (h.of_settleOne ht)
    next => exact h

protected theorem Keeps.closeAll {n} : Keeps s₀ (closeAll s n) := by
  induction n with
  | zero => exact h
  | succ n ih => exact ih.closeDone

protected theorem Keeps.settle : Keeps s₀ (settle s) := h.settleN.closeAll

/-- A ring command keeps what its body keeps: fetching, completing and waiting change none of it. -/
protected theorem Keeps.runRing {op c} {body : State → Body} (hbody : ∀ {t}, Keeps s₀ t → Keeps s₀ (body t).state) :
    Keeps s₀ (runRing s op c body) := by
  unfold Machine.runRing
  split
  · exact h
  · next f _ =>
    refine .ite ?_ h
    have hrun : Keeps s₀ (if running s then body (dropFetched s f.no) else Body.fail (
        dropFetched s f.no) 0x106).state := by
      split
      · exact hbody h.dropFetched
      · exact h.dropFetched
    split
    next hreply =>
      rw [hreply] at hrun
      exact (show Keeps s₀ _ from hrun).complete.settle
    next hwaits =>
      rw [hwaits] at hrun
      exact ((show Keeps s₀ _ from hrun).update).settle

protected theorem Keeps.completeWhere {p status w1 w3} : Keeps s₀ (completeWhere s p status w1 w3) := by
  unfold Machine.completeWhere
  split
  · exact h
  · exact h.completeInflight.settle

protected theorem Keeps.hostFailure {c d} : Keeps s₀ (hostFailure s c d).state := by
  unfold Machine.hostFailure
  split
  · exact h.loseConn
  · exact h.loseConn

-- ## Speculations and module memory

protected theorem Keeps.specCount {cls ctr n} : Keeps s₀ (specCount s cls ctr n) := h.update

protected theorem Keeps.addEntry {e} : Keeps s₀ (addEntry s e) := h.update.specCount

protected theorem Keeps.openEntry {cls owner deadline} : Keeps s₀ (openEntry s cls owner deadline).1 :=
  .ite_fst h.specCount h.addEntry.armEvent

protected theorem Keeps.pullN {n e d} : Keeps s₀ (pullN s n e d) := by
  induction n generalizing s e with
  | zero => exact h
  | succ n ih =>
    rw [pullN]
    split
    · exact h
    · refine .ite (h.foldl fun _ _ ht => ih ht) ?_
      split
      · exact h
      · exact .ite (h.update).specCount.armEvent h

protected theorem Keeps.pullForward {e d} : Keeps s₀ (pullForward s e d) := h.pullN

protected theorem Keeps.joinWaits {w} : Keeps s₀ (joinWaits s w) := .ite h h.update.specCount

protected theorem Keeps.joinServed {consumer} : Keeps s₀ (joinServed s consumer) := h.update

protected theorem Keeps.joinOf {consumer inputs emission} : Keeps s₀ (joinOf s consumer inputs emission).1 := by
  unfold Machine.joinOf
  dsimp only
  split
  · exact h
  · exact h
  · exact .ite_fst h.joinWaits h.joinServed.addEntry

protected theorem Keeps.joinBound {consumer inputs emission} : Keeps s₀ (joinBound s consumer inputs emission).1 := by
  unfold Machine.joinBound
  dsimp only
  split
  · exact h.joinOf.pullForward
  · exact h.joinOf

protected theorem Keeps.overwritten {a n} : Keeps s₀ (overwritten s a n) := h.update

protected theorem Keeps.holdPages {a n e} : Keeps s₀ (holdPages s a n e) := h.update

protected theorem Keeps.releasePages {e} : Keeps s₀ (releasePages s e) := h.update

protected theorem Keeps.eraseHeld {e} : Keeps s₀ (eraseHeld s e) := h.withMemory (memWf_filter _ _)

protected theorem Keeps.pullHeld {a n d} : Keeps s₀ (pullHeld s a n d) := h.foldl fun _ _ h1 => h1.pullForward

protected theorem Keeps.closeEntry {e outcome} : Keeps s₀ (closeEntry s e outcome) := by
  unfold Machine.closeEntry
  split
  · exact h
  · extract_lets spec s0 s1 s2
    have h0 : Keeps s₀ s0 := h.update.specCount
    have h1 : Keeps s₀ s1 := (Keeps.ite h0.eraseHeld h0).releasePages
    have h2 : Keeps s₀ s2 := .ite h1.cancelTasks h1
    exact h2.resumeTasks

protected theorem Keeps.concedeLater {e} : Keeps s₀ (concedeLater s e) := .ite h h.update

protected theorem Keeps.releaseReads : Keeps s₀ (releaseReads s) := h.update.foldl fun _ _ h1 => h1.sendData_

-- ## The host interface

protected theorem Keeps.execNop {c} : Answers s₀ (execNop c s) := .next (h.runRing fun h1 => h1.guarded h1)

protected theorem Keeps.execRingCreate {c} : Answers s₀ (execRingCreate c s) :=
  .next (h.runRing fun h1 => h1.guarded h1.setSlot)

protected theorem Keeps.execRingDestroy {c} : Answers s₀ (execRingDestroy c s) :=
  .next (h.runRing fun h1 => h1.guarded h1.setSlot)

protected theorem Keeps.execCqCreate {c} : Answers s₀ (execCqCreate c s) :=
  .next (h.runRing fun h1 => h1.guarded h1.setSlot)

protected theorem Keeps.execCqDestroy {c} : Answers s₀ (execCqDestroy c s) :=
  .next (h.runRing fun h1 => h1.guarded h1.forgetQueue.setSlot)

protected theorem Keeps.execRegionAdd {c} : Answers s₀ (execRegionAdd c s) :=
  .next (h.runRing fun h1 => h1.guarded h1.setSlot)

protected theorem Keeps.execRegionRemove {c} : Answers s₀ (execRegionRemove c s) :=
  .next (h.runRing fun h1 => h1.guarded h1.setSlot)

protected theorem Keeps.execWindowOpen {c} : Answers s₀ (execWindowOpen c s) :=
  .next (h.runRing fun h1 => h1.guarded h1.update.nextFree)

protected theorem Keeps.execWindowClose {c} : Answers s₀ (execWindowClose c s) :=
  .next (h.runRing fun h1 => h1.guarded h1.update)

protected theorem Keeps.execBarrier {c} : Answers s₀ (execBarrier c s) := .next (h.runRing fun h1 => h1.guarded h1)

protected theorem Keeps.execConnInfo {c} : Answers s₀ (execConnInfo c s) := .next (h.runRing fun h1 => h1.guarded h1)

protected theorem Keeps.sendMra {slot m} : Keeps s₀ (sendMra s slot m) := h.sendPkts

protected theorem Keeps.execCmReq {port r} : Answers s₀ (execCmReq port r s) := by
  refine .next ?_
  refine .ite h.sendRej ?_
  refine .ite h.sendRej ?_
  split
  · exact h.sendRep
  · exact h.sendRej
  · exact h.sendRej
  · exact .ite h.dropPkts.sendRep h.sendRej
  · exact .ite h.sendRep h.sendMra.closeSlot
  · exact h.sendMra.closeSlot

protected theorem Keeps.rewriteCq {slot cq} : Keeps s₀ (rewriteCq s slot cq) :=
  (h.foldl fun _ _ h1 => h1.writeCqRec).writeCqStatus

protected theorem Keeps.rewriteEq {slot eq} : Keeps s₀ (rewriteEq s slot eq) :=
  (h.foldl fun _ _ h1 => h1.writeEqRec).writeEqStatus

protected theorem Keeps.resumeSlot {slot} : Keeps s₀ (resumeSlot s slot) := by
  unfold Machine.resumeSlot
  refine Keeps.wakeEq ?_
  refine Keeps.foldl ?_ fun _ _ h1 => h1.wakeCq
  refine Keeps.foldl ?_ fun _ _ h1 => h1.errToSlot
  split
  · exact (h.setSlot.foldl fun _ _ h1 => h1.rewriteCq).rewriteEq
  · exact h.setSlot.foldl fun _ _ h1 => h1.rewriteCq

protected theorem Keeps.execRtu {slot} : Answers s₀ (execRtu slot s) := by
  refine .next ?_
  split
  · exact .ite h (.ite h.resumeSlot h.setSlot)
  · exact h

protected theorem Keeps.execRtuTimeout {slot} : Answers s₀ (execRtuTimeout slot s) := by
  refine .next ?_
  split
  · exact .ite h.closeSlot h
  · exact h

protected theorem Keeps.execMraRepeat {slot} : Answers s₀ (execMraRepeat slot s) := by
  refine .next ?_
  split
  · exact .ite h.closeDone (.ite h h.setSlot.sendMra)
  · exact h

protected theorem Keeps.execDreq {slot} : Answers s₀ (execDreq slot s) := .next (.ite h.sendRoce.loseConn h)

protected theorem Keeps.execRdmaErrorNak {slot} : Answers s₀ (execRdmaErrorNak slot s) := .next h.loseConn

protected theorem Keeps.execRdmaRetryExhausted {slot} : Answers s₀ (execRdmaRetryExhausted slot s) := .next h.loseConn

protected theorem Keeps.execHoldExpiry {slot} : Answers s₀ (execHoldExpiry slot s) := by
  refine .next ?_
  split
  · exact .ite h.closeSlot h
  · exact h

protected theorem Keeps.resend {slot} : Keeps s₀ (resend s slot) := h.update

protected theorem Keeps.execLocalAckTimeout {slot} : Answers s₀ (execLocalAckTimeout slot s) := by
  refine .next ?_
  dsimp only
  split
  · exact h
  · exact .ite h.setSlot.resend h

protected theorem Keeps.execRnrNak {slot} : Answers s₀ (execRnrNak slot s) := .next (.ite h.resend h)

protected theorem Keeps.takeAck {slot n} : Keeps s₀ (takeAck s slot n) := .ite h h.setSlot

protected theorem Keeps.execCnpReceived {slot} : Answers s₀ (execCnpReceived slot s) := .next (.ite h.setSlot h)

protected theorem Keeps.execRecoveryPeriodEnd {slot} : Answers s₀ (execRecoveryPeriodEnd slot s) :=
    .next (.ite h.setSlot h)

protected theorem Keeps.execEcnCePacket {slot} : Answers s₀ (execEcnCePacket slot s) :=
    .next (.ite h.setSlot.sendRoce h)

protected theorem Keeps.dbErr : Keeps s₀ (dbErr s) := h.bumpF

protected theorem Keeps.bootSlotSet {slot index value} : Keeps s₀ (bootSlotSet s slot index value) := by
  unfold Machine.bootSlotSet
  dsimp only
  split
  · exact h.setSlot
  · exact h.dbErr
  · exact h

protected theorem Keeps.execBootSlotWrite {slot index value} : Answers s₀ (execBootSlotWrite slot index value s) :=
  .next h.bootSlotSet

protected theorem Keeps.bootGo {slot} : Keeps s₀ (bootGo s slot) := by
  unfold Machine.bootGo
  dsimp only
  split
  · exact .ite h.sendRoce.freeSlot.dbErr h.setSlot
  · exact h.dbErr
  · exact h

protected theorem Keeps.execBootGo {slot} : Answers s₀ (execBootGo slot s) := .next h.bootGo

protected theorem Keeps.ringPiSet {slot ring value} : Keeps s₀ (ringPiSet s slot ring value) := by
  unfold Machine.ringPiSet
  refine .ite h ?_
  split
  · exact h.dbErr
  · exact .ite h.dbErr.raiseErr h.setSlot

protected theorem Keeps.execRingPi {slot ring value} : Answers s₀ (execRingPi slot ring value s) := .next h.ringPiSet

protected theorem Keeps.cqCiSet {slot queue value} : Keeps s₀ (cqCiSet s slot queue value) := by
  unfold Machine.cqCiSet
  refine .ite h ?_
  split
  · exact h.dbErr
  · exact .ite h.setCq h.dbErr

protected theorem Keeps.execCqCi {slot queue value} : Answers s₀ (execCqCi slot queue value s) := .next h.cqCiSet

protected theorem Keeps.eqCiSet {slot value} : Keeps s₀ (eqCiSet s slot value) := by
  unfold Machine.eqCiSet
  refine .ite h ?_
  split
  · exact h.dbErr
  · exact .ite h.setSlot h.dbErr

protected theorem Keeps.execEqCi {slot value} : Answers s₀ (execEqCi slot value s) := .next h.eqCiSet

protected theorem Keeps.cqArmSet {slot queue value} : Keeps s₀ (cqArmSet s slot queue value) := by
  unfold Machine.cqArmSet
  refine .ite h ?_
  split
  · exact h.dbErr
  · exact h.setCq.wakeCq

protected theorem Keeps.execCqArm {slot queue value} : Answers s₀ (execCqArm slot queue value s) := .next h.cqArmSet

protected theorem Keeps.eqArmSet {slot value} : Keeps s₀ (eqArmSet s slot value) := by
  unfold Machine.eqArmSet
  refine .ite h ?_
  split
  · exact h.dbErr
  · exact h.setSlot.wakeEq

protected theorem Keeps.execEqArm {slot value} : Answers s₀ (execEqArm slot value s) := .next h.eqArmSet

protected theorem Keeps.doorbellLost {slot} : Keeps s₀ (doorbellLost s slot) := .ite h.dbErr h

protected theorem Keeps.execDoorbellIgnored {slot} : Answers s₀ (execDoorbellIgnored slot s) := .next h.doorbellLost

protected theorem Keeps.doorbell {slot off v} : Keeps s₀ (doorbell s slot off v) :=
  .ite h.bootSlotSet (.ite h.bootGo (.ite h.ringPiSet (.ite h.cqCiSet (.ite h.eqCiSet (.ite h.cqArmSet (
      .ite h.eqArmSet h.doorbellLost))))))

protected theorem Keeps.ringDoorbells {slot off data} : Keeps s₀ (ringDoorbells s slot off data) :=
  h.foldl fun _ _ h1 => .ite h1.doorbell h1.doorbellLost

protected theorem Keeps.execWindowRdmaRead {slot addr len rkey} :
    Answers s₀ (execWindowRdmaRead slot addr len rkey s) := by
  refine .next ?_
  refine .ite h ?_
  split
  · exact h.sendRoce
  · exact .ite h.sendRoce (.ite h.sendData_ (.ite h.sendRoce h.pullHeld.update))

protected theorem Keeps.execWindowRdmaWrite {slot addr data rkey} :
    Answers s₀ (execWindowRdmaWrite slot addr data rkey s) := by
  refine .next ?_
  refine .ite h ?_
  refine .ite h.ringDoorbells ?_
  split
  · exact h.sendRoce
  · exact .ite h.dramWrite h.sendRoce

protected theorem Keeps.execWakeDelayExpiry {slot queue} : Answers s₀ (execWakeDelayExpiry slot queue s) := by
  refine .next ?_
  split
  · exact h.wakeCq
  · exact h.wakeEq

protected theorem Keeps.readDescs {slot r n} : Keeps s₀ (readDescs s slot r n) := h.sendRoce

protected theorem Keeps.execDescriptorFetch {slot ring r} : Answers s₀ (execDescriptorFetch slot ring r s) := by
  refine .next ?_
  dsimp only
  split
  · exact h
  · split
    · exact h
    · refine .ite h ?_
      refine .ite h.update.slotRefused ?_
      split
      · exact h.readDescs.loseConn
      · exact h.readDescs.loseConn
      · exact h.readDescs.setSlot.update.settle

protected theorem Keeps.execEventBacklogPost {slot queue} : Answers s₀ (execEventBacklogPost slot queue s) :=
  .next (.ite h.drainBacklog h)

protected theorem Keeps.execQueueOverflow {slot} : Answers s₀ (execQueueOverflow slot s) := by
  refine .next ?_
  dsimp only
  split
  · exact .ite h h.recordErr.setSlot.setRaw.pushErr
  · exact h

-- ## The ports

protected theorem Keeps.setMac {port m} : Keeps s₀ (setMac s port m) := .ite h.update h.update

protected theorem Keeps.macCount {port c n} : Keeps s₀ (macCount s port c n) := h.bumpC

protected theorem Keeps.plugInit {port} : Keeps s₀ (plugInit s port) := h.setMac

protected theorem Keeps.setGrnPort {p g} : Keeps s₀ (setGrnPort s p g) := .ite h.update h.update

protected theorem Keeps.grnPlugInit {p} : Keeps s₀ (grnPlugInit s p) := h.setGrnPort

protected theorem Keeps.loseOnPort {port n} : Keeps s₀ (loseOnPort s port n) := by
  induction n with
  | zero => exact h
  | succ n ih => exact .ite ih.loseConn ih

protected theorem Keeps.dropPtp {port} : Keeps s₀ (dropPtp s port) := h.update

protected theorem Keeps.cutFrame {port} : Keeps s₀ (cutFrame s port) := by
  unfold Machine.cutFrame
  dsimp only
  split
  · exact h.setMac
  · exact .ite h.setMac.setRaw.setRaw.emit.macCount h.setMac

protected theorem Keeps.linkFalls {port lf rf} : Keeps s₀ (linkFalls s port lf rf) := by
  unfold Machine.linkFalls
  extract_lets m s1
  have h1 : Keeps s₀ s1 := h.setMac
  split
  next s2 s3 s4 _ =>
    have h4 : Keeps s₀ s4 := h1.macCount.macCount.cutFrame.dropPtp.dropPkts.raiseBit.loseOnPort
    exact .ite h4.emit h4
  · exact h1

protected theorem Keeps.execPlugInsert {cage p} : Answers s₀ (execPlugInsert cage p s) :=
  .next (.ite h.setMac.plugInit h.setGrnPort.grnPlugInit)

protected theorem Keeps.grnLinkOff {p} : Keeps s₀ (grnLinkOff s p) := .ite h.setGrnPort.raiseBit h.setGrnPort

protected theorem Keeps.linkDrop {port} : Keeps s₀ (linkDrop s port) := .ite h.linkFalls.emit h.linkFalls

protected theorem Keeps.execPlugRemove {cage} : Answers s₀ (execPlugRemove cage s) :=
  .next (.ite h.linkDrop.setMac.plugInit h.grnLinkOff.setGrnPort.grnPlugInit)

protected theorem Keeps.execCmisRetry {cage} : Answers s₀ (execCmisRetry cage s) := by
  refine .next ?_
  refine .ite ?_ ?_
  · split
    · exact .ite h.plugInit h
    · exact h
  · split
    · exact .ite h.grnPlugInit h
    · exact h

protected theorem Keeps.execCmisError {cage} : Answers s₀ (execCmisError cage s) :=
  .next (.ite (.ite h.linkDrop.setMac h) (.ite h.grnLinkOff.setGrnPort h))

protected theorem Keeps.execDataLinkUp {port} : Answers s₀ (execDataLinkUp port s) := .next (.ite h.setMac.emit h)

protected theorem Keeps.execDataLinkDown {port remoteFault} : Answers s₀ (execDataLinkDown port remoteFault s) :=
  .next (.ite h.linkFalls.emit (.ite h.setMac.emit h.setMac))

protected theorem Keeps.sendPause {port cs quanta} : Keeps s₀ (sendPause s port cs quanta) := .ite h h.emit.macCount

protected theorem Keeps.flowCheck {port} : Keeps s₀ (flowCheck s port) := h.setMac.sendPause.sendPause

protected theorem Keeps.execPfcRepeat {port} : Answers s₀ (execPfcRepeat port s) := .next (.ite h h.setMac.sendPause)

protected theorem Keeps.takePause {port opcode enables quanta} : Keeps s₀ (takePause s port opcode enables quanta) :=
  .ite h.setMac (.ite h.setMac h.macCount)

protected theorem Keeps.countRx {port len} : Keeps s₀ (countRx s port len) := h.macCount.macCount

protected theorem Keeps.execPauseFrame {port opcode enables quanta} :
    Answers s₀ (execPauseFrame port opcode enables quanta s) :=
  .next (.ite h.countRx.takePause h)

protected theorem Keeps.execPauseQuantaExpiry {port cls} : Answers s₀ (execPauseQuantaExpiry port cls s) := by
  refine .next ?_
  dsimp only
  split
  · exact .ite h.setMac h
  · exact h

protected theorem Keeps.execPauseWatchdog {port cls own} : Answers s₀ (execPauseWatchdog port cls own s) := by
  refine .next ?_
  dsimp only
  split
  · exact h
  · exact .ite h (((Keeps.ite h.setMac.sendPause h.setMac).macCount).raiseErr)

protected theorem Keeps.execPauseWatchdogEnd {port cls own} : Answers s₀ (execPauseWatchdogEnd port cls own s) := by
  refine .next ?_
  dsimp only
  split
  · exact h
  · exact .ite h (.ite (.ite h.setMac.sendPause h.setMac) h.setMac)

protected theorem Keeps.execMacFrameReceive {port f} : Answers s₀ (execMacFrameReceive port f s) := by
  refine .next ?_
  refine .ite h ?_
  split
  · exact h.macCount.macCount.macCount
  · split
    · exact h.macCount.macCount.countRx.takePause
    · refine .ite ?_ ?_
      · exact .ite h.macCount.macCount.countRx.macCount h.macCount.macCount.countRx.setMac.flowCheck
      · exact .ite h.macCount.macCount.countRx.macCount h.macCount.macCount.countRx.setMac.flowCheck

protected theorem Keeps.txAdd {port cls f} : Keeps s₀ (txAdd s port cls f).1 := by
  unfold Machine.txAdd
  dsimp only
  refine .ite_fst ?_ ?_
  · exact h.macCount
  · exact .ite_fst (.ite_fst h.macCount h.macCount.setMac.raiseErr) (.ite_fst h h.setMac)

protected theorem Keeps.fillReplies {port n} : Keeps s₀ (fillReplies s port n) := by
  induction n generalizing s with
  | zero => exact h
  | succ n ih =>
    rw [fillReplies]
    split
    · exact h
    · exact .ite (ih h.txAdd.setMac) h

protected theorem Keeps.fillPtp {port ms} : Keeps s₀ (fillPtp s port ms) := by
  induction ms generalizing s with
  | nil => exact h
  | cons m ms ih => exact .ite (ih h) (.ite (ih (h.txAdd.update)) h)

protected theorem Keeps.pktGone {p len} : Keeps s₀ (pktGone s p len) := by
  unfold Machine.pktGone
  split
  · exact h
  · exact h.setSlot

protected theorem Keeps.fillRoce {port kept ps} : Keeps s₀ (fillRoce s port kept ps) := by
  induction ps generalizing s kept with
  | nil => exact h.update
  | cons p ps ih => exact .ite (ih h) (.ite (ih h.txAdd.pktGone) (ih h))

protected theorem Keeps.fillQueues {port} : Keeps s₀ (fillQueues s port) := h.fillReplies.fillPtp.update.fillRoce

protected theorem Keeps.ptpSent {port m} : Keeps s₀ (ptpSent s port m).1 := by
  unfold Machine.ptpSent
  split
  · exact .ite_fst h h.update
  · exact h.setPtp
  · exact h.setPtp
  · exact .ite_fst h h.update
  · exact h
  · exact h
  · exact h
  · exact h

protected theorem Keeps.frameSent {port f} : Keeps s₀ (frameSent s port f).1 := by
  unfold Machine.frameSent
  split
  · exact h.ptpSent
  · exact h

protected theorem Keeps.sendLast {port} : Keeps s₀ (sendLast s port) :=
  .ite h (h.setMac.foldl fun _ _ h1 => h1.emit.macCount.macCount)

protected theorem Keeps.selectTx {port n} : Keeps s₀ (selectTx s port n) := by
  induction n generalizing s with
  | zero => exact h
  | succ n ih =>
    rw [selectTx]
    split
    · exact ih h
    · exact .ite (ih h) (.ite (ih (.ite h.setMac h.setMac.macCount)) h.setMac.frameSent.emit.macCount.macCount)

protected theorem Keeps.execTxSelect {port} : Answers s₀ (execTxSelect port s) := .next (.ite h.fillQueues.selectTx h)

protected theorem Keeps.answerArp {port target sender} : Keeps s₀ (answerArp s port target sender) :=
  .ite h.setMac.fillReplies h

protected theorem Keeps.execArpRequest {port q} : Answers s₀ (execArpRequest port q s) := .next (.ite h.answerArp h)

protected theorem Keeps.applyRegs {vs} : Keeps s₀ (applyRegs s vs) := h.foldl fun _ _ h1 => h1.setRaw

protected theorem Keeps.gateChange {port} : Keeps s₀ (gateChange s port) := by
  unfold Machine.gateChange
  dsimp only
  split
  · exact h
  · exact .ite h h.applyRegs.setMac.setF.setF.setF.setF

protected theorem Keeps.gateCommitNow {port} : Keeps s₀ (gateCommitNow s port).1 := by
  unfold Machine.gateCommitNow
  split
  · exact h.setF
  · exact .ite_fst h.update.applyRegs.setMac.setRaw h.update.setMac.setF.setF.setF

protected theorem Keeps.gateCommitWrite {port} : Keeps s₀ (gateCommitWrite s port).1 := h.gateChange.gateCommitNow

protected theorem Keeps.execGateChangeTime {port} : Answers s₀ (execGateChangeTime port s) := .next h.gateChange

protected theorem Keeps.gateAdvance {port} : Keeps s₀ (gateAdvance s port) := by
  unfold Machine.gateAdvance
  dsimp only
  split
  · exact h
  · exact .ite h h.setMac

protected theorem Keeps.execGateEntry {port} : Answers s₀ (execGateEntry port s) := .next h.gateAdvance

-- ## Restarts

protected theorem Keeps.cipCount {c n} : Keeps s₀ (cipCount s c n) := h.bumpC

protected theorem Keeps.setLane {l ln} : Keeps s₀ (setLane s l ln) := h.update

protected theorem Keeps.advanceLane {l} : Keeps s₀ (advanceLane s l) := by
  unfold Machine.advanceLane
  split
  · exact h
  · exact .ite h.setLane h.setLane.cipCount

protected theorem Keeps.flushDone {l} : Keeps s₀ (flushDone s l) := h.setLane.raiseBit.endHandling

protected theorem Keeps.flushLane {l} : Keeps s₀ (flushLane s l) :=
  .ite h.advanceLane (.ite h.advanceLane.setLane.cipCount h.advanceLane.setLane.cipCount.flushDone)

protected theorem Keeps.flushAll : Keeps s₀ (flushAll s) := h.foldl fun _ _ h1 => h1.flushLane

protected theorem Keeps.completeFetched {status} : Keeps s₀ (completeFetched s status) :=
  h.foldl fun _ _ h1 => h1.dropFetched.complete

protected theorem Keeps.completeAll {status} : Keeps s₀ (completeAll s status) :=
  (h.foldl fun _ _ h1 => h1.completeInflight).completeFetched

protected theorem Keeps.dropSlots {n} : Keeps s₀ (dropSlots s n) := by
  induction n with
  | zero => exact h
  | succ n ih => exact (Keeps.ite ih.sendRoce ih).freeSlot

protected theorem Keeps.abortHost : Keeps s₀ (abortHost s) := h.completeAll.dropSlots

/-- Rails off or a restart: INCR is nominal and memory empty again (R447, R511). -/
protected theorem Keeps.coldState {p} : Keeps s₀ (coldState s p) := by
  obtain ⟨hpending, _, _⟩ := h
  have nominal : IncrOk 94447329657393 := ⟨by decide, by decide⟩
  exact ⟨hpending, fun _ => nominal, fun _ => rfl⟩

protected theorem Keeps.ppsDropped : Keeps s₀ (ppsDropped s) := .ite h.emit h

protected theorem Keeps.restart : Keeps s₀ (restart s) := h.ppsDropped.coldState

protected theorem Keeps.countFailedStart {cause} : Keeps s₀ (countFailedStart s cause) := .ite h.update h

protected theorem Keeps.moduleAction : Keeps s₀ (moduleAction s) := by
  unfold Machine.moduleAction
  refine .ite h ?_
  split
  · exact h
  · exact h
  · exact h
  · exact (Keeps.ite h.completeAll.countFailedStart h.completeAll).restart

protected theorem Keeps.raiseUnit {e} : Keeps s₀ (raiseUnit s e) := .ite h.raiseErr.moduleAction h.raiseErr

protected theorem Keeps.laneFault {l} : Keeps s₀ (laneFault s l) := .ite h.raiseUnit h.raiseUnit.flushLane.setLane.setF

-- ## Grinal frames

protected theorem Keeps.grnPortCount {p c n} : Keeps s₀ (grnPortCount s p c n) := h.bumpC

protected theorem Keeps.grnCount {c n} : Keeps s₀ (grnCount s c n) := h.bumpC

protected theorem Keeps.grnEmit {f} : Keeps s₀ (grnEmit s f) := h.emit.grnPortCount

protected theorem Keeps.grnSend {kind dst bcast conceded a b payload} :
    Keeps s₀ (grnSend s kind dst bcast conceded a b payload).1 :=
  h.update.grnEmit

protected theorem Keeps.grnSendAcked {kind dst a b payload cmd xfer} :
    Keeps s₀ (grnSendAcked s kind dst a b payload cmd xfer).1 :=
  h.grnSend.update

protected theorem Keeps.peerSend {dst op fl w1 w2 w3 cmd} : Keeps s₀ (peerSend s dst op fl w1 w2 w3 cmd).1 :=
    h.grnSendAcked

protected theorem Keeps.brambleEvent {kind w1 n} : Keeps s₀ (brambleEvent s kind w1 n) := by
  induction n with
  | zero => exact h
  | succ n ih =>
    rw [brambleEvent]
    split
    · exact ih
    · exact ih.postEvent

-- ## The Preserve

protected theorem Keeps.prsCount {c n} : Keeps s₀ (prsCount s c n) := h.bumpC

protected theorem Keeps.withWritePos {p} : Keeps s₀ { s with memory := { s.memory with writePos := p } } := h.update

protected theorem Keeps.padBlock {rows} : Keeps s₀ (padBlock s rows) := .ite h h.dramWrite.withWritePos

protected theorem Keeps.setCtx {c x} : Keeps s₀ (setCtx s c x) := h.update

protected theorem Keeps.updCtx {c f} : Keeps s₀ (updCtx s c f) := h.update

protected theorem Keeps.withRecs {p rs} : Keeps s₀ { s with memory := { s.memory with writePos := p, recs := rs } } := h.update

protected theorem Keeps.preserveWrite {r switches plain} : Keeps s₀ (preserveWrite s r switches plain).1 :=
  .ite_fst h (.pair h.padBlock.dramWrite.withRecs.updCtx.prsCount)

protected theorem Keeps.readRec {pos} : Keeps s₀ (readRec s pos).1 := by
  unfold Machine.readRec
  split
  · exact h
  · exact .ite_fst h.prsCount.raiseErr h

-- ## Media objects

protected theorem Keeps.updLeg {l f} : Keeps s₀ (updLeg s l f) := h.update

protected theorem Keeps.setGroup {g x} : Keeps s₀ (setGroup s g x) := h.update

protected theorem Keeps.ctxCount {c k n} : Keeps s₀ (ctxCount s c k n) := h.updCtx

protected theorem Keeps.legCount {l k n} : Keeps s₀ (legCount s l k n) := h.updLeg

protected theorem Keeps.keyCount {c k n} : Keeps s₀ (keyCount s c k n) := h.updCtx

protected theorem Keeps.confEvent {leg kind w1} : Keeps s₀ (confEvent s leg kind w1) := by
  unfold Machine.confEvent
  split
  · exact h
  · exact .ite h.postEvent h

protected theorem Keeps.keyEvent {k status w1 w3} : Keeps s₀ (keyEvent s k status w1 w3) := h.postEvent

protected theorem Keeps.reserveMore {k rtx next} : Keeps s₀ (reserveMore s k rtx next) := by
  unfold Machine.reserveMore
  split
  · exact h
  · exact h.update

protected theorem Keeps.exhausted {c x rtx} : Keeps s₀ (exhausted s c x rtx) := by
  unfold Machine.exhausted
  refine .ite h.keyCount.cipCount ?_
  split
  · exact h.keyCount.cipCount.updCtx
  · exact h.keyCount.cipCount.updCtx.keyEvent

protected theorem Keeps.assignIndex {c rtx} : Keeps s₀ (assignIndex s c rtx).1 := by
  unfold Machine.assignIndex
  dsimp only
  split
  · exact h
  · refine .ite_fst h.keyCount.cipCount ?_
    refine .ite_fst h.exhausted ?_
    split
    · exact h.keyCount.cipCount
    · exact .ite h.setCtx.retireRecs.reserveMore.keyEvent h.setCtx.retireRecs.reserveMore

protected theorem Keeps.queueOut {p} : Keeps s₀ (queueOut s p) := h.setGroup.update

protected theorem Keeps.enterLane {l p} : Keeps s₀ (enterLane s l p) := by
  unfold Machine.enterLane
  dsimp only
  split
  · exact h
  · refine .ite h ?_
    refine .ite ?_ ?_
    · split
      · exact h.keyCount.cipCount
      · exact h.queueOut
    · split
      · exact h.assignIndex
      · exact h.assignIndex.queueOut

protected theorem Keeps.sendOut {p} : Keeps s₀ (sendOut s p) := by
  unfold Machine.sendOut
  split
  · exact h
  · exact .ite h.enterLane h.updLeg

protected theorem Keeps.sendHeld {leg n} : Keeps s₀ (sendHeld s leg n) := by
  induction n generalizing s with
  | zero => exact h
  | succ n ih =>
    rw [sendHeld]
    split
    · exact h
    · split
      · exact h
      · exact .ite (ih h.updLeg.enterLane) h

protected theorem Keeps.drainHeld {g} : Keeps s₀ (drainHeld s g) := h.foldl fun _ _ h1 => h1.sendHeld

protected theorem Keeps.remember {p} : Keeps s₀ (remember s p) := by
  unfold Machine.remember
  split
  · exact h
  · exact h.updCtx

protected theorem Keeps.handed {p} : Keeps s₀ (handed s p) :=
  .ite h.ctxCount.ctxCount.ctxCount (.ite h.ctxCount.ctxCount.ctxCount.updCtx.updLeg
      h.ctxCount.ctxCount.ctxCount.updCtx.updLeg.remember)

protected theorem Keeps.reported {leg} : Keeps s₀ (reported s leg) := h.foldl fun _ _ h1 => h1.updCtx

protected theorem Keeps.sendRtcp {leg rs} : Keeps s₀ (sendRtcp s leg rs) := by
  unfold Machine.sendRtcp
  split
  · exact h
  · exact h.sendOut.reported

protected theorem Keeps.sendFeedback {leg r} : Keeps s₀ (sendFeedback s leg r) := h.sendRtcp

protected theorem Keeps.encRequest {ch key} : Keeps s₀ (encRequest s ch key).1 := by
  unfold Machine.encRequest
  split
  · exact h
  · exact h.update

protected theorem Keeps.keyRequest {src fir} : Keeps s₀ (keyRequest s src fir) := by
  unfold Machine.keyRequest
  split
  · exact h
  · split
    · exact .ite h.peerSend h
    · refine .ite ?_ (.ite h.updCtx.ctxCount.sendFeedback h)
      split
      · exact h.encRequest
      · exact h

-- ## Forwarding

protected theorem Keeps.updSub {o f} : Keeps s₀ (updSub s o f) := h.updCtx

protected theorem Keeps.forwardRec {o r bytes conceded} : Keeps s₀ (forwardRec s o r bytes conceded) := by
  unfold Machine.forwardRec
  split
  · exact h
  · exact h.setCtx.sendOut

protected theorem Keeps.forwardRecs {o rs conceded} : Keeps s₀ (forwardRecs s o rs conceded) :=
  h.foldl fun _ _ h1 => h1.forwardRec

protected theorem Keeps.readRecs {ps} : Keeps s₀ (readRecs s ps).1 := by
  induction ps generalizing s with
  | nil => exact h
  | cons p ps ih =>
    rw [readRecs]
    dsimp only
    split
    · exact h.readRec
    · exact ih h.readRec

protected theorem Keeps.awaitSwitch {o b p baseOnly} : Keeps s₀ (awaitSwitch s o b p baseOnly) :=
  .ite h.updSub.keyRequest h.updSub

protected theorem Keeps.switchFrom {o b p q dir} : Keeps s₀ (switchFrom s o b p q dir) := by
  unfold Machine.switchFrom
  dsimp only
  split
  · exact h.readRecs.awaitSwitch
  · refine Keeps.forwardRecs ?_
    split
    · exact h.readRecs.prsCount.updSub.ctxCount
    · exact h.readRecs.prsCount.updSub

protected theorem Keeps.joinAt {o b p} : Keeps s₀ (joinAt s o b p) := by
  unfold Machine.joinAt
  split
  · exact h.switchFrom
  · exact h.awaitSwitch

protected theorem Keeps.switchDown {o l b cur p} : Keeps s₀ (switchDown s o l b cur p) := by
  unfold Machine.switchDown
  refine .ite ?_ h.updSub
  split
  · exact h.switchFrom
  · exact h.awaitSwitch

protected theorem Keeps.reopen {leg} : Keeps s₀ (reopen s leg) := h.foldl fun _ _ h1 => h1.updSub

protected theorem Keeps.switchUp {o leg l b p} : Keeps s₀ (switchUp s o leg l b p) := by
  unfold Machine.switchUp
  dsimp only
  split
  · exact h.awaitSwitch
  · refine .ite (.ite h h.updSub.specCount) ?_
    split
    · exact h.openEntry.updSub
    · exact h.openEntry.readRecs.updSub
    · exact h.openEntry.readRecs.closeEntry.awaitSwitch

protected theorem Keeps.switchTo {o leg l want} : Keeps s₀ (switchTo s o leg l want) := by
  unfold Machine.switchTo
  split
  · exact h
  · split
    · exact h.updSub
    · exact .ite h (.ite h.joinAt (.ite h h.switchUp))
    · exact .ite h.updSub (.ite h (.ite h.switchDown (.ite h.updSub h.switchUp)))

protected theorem Keeps.chooseLayers {leg} : Keeps s₀ (chooseLayers s leg) := by
  unfold Machine.chooseLayers
  split
  · exact h
  · exact h.foldl fun _ _ h1 => h1.switchTo

protected theorem Keeps.dropPrefetch {o} : Keeps s₀ (dropPrefetch s o) := by
  unfold Machine.dropPrefetch
  split
  · exact h
  · split
    · exact h.updSub.reopen.closeEntry
    · exact h.updSub.reopen

protected theorem Keeps.applyPrefetch {o b p conceded} : Keeps s₀ (applyPrefetch s o b p conceded) := by
  unfold Machine.applyPrefetch
  dsimp only
  refine .ite h.updSub.ctxCount.forwardRecs ?_
  split
  · exact h.updSub.ctxCount.readRecs.forwardRecs
  · exact h.updSub.ctxCount.readRecs

protected theorem Keeps.resolvePrefetch {o late} : Keeps s₀ (resolvePrefetch s o late) := by
  unfold Machine.resolvePrefetch
  split
  · exact h
  · split
    · split
      · exact h
      · refine (Keeps.reopen ?_).chooseLayers
        refine .ite ?_ ?_
        · refine Keeps.applyPrefetch ?_
          split
          · exact h.closeEntry
          · exact h
        · refine .ite ?_ ?_
          · refine Keeps.applyPrefetch ?_
            split
            · exact h.closeEntry
            · exact h
          · refine Keeps.updSub ?_
            split
            · exact h.closeEntry
            · exact h
    · exact h

protected theorem Keeps.estimateChanged {leg} : Keeps s₀ (estimateChanged s leg) := by
  unfold Machine.estimateChanged
  split
  · exact h
  · exact (h.foldl fun _ _ h1 => h1.dropPrefetch).chooseLayers

protected theorem Keeps.forwardOne {r bytes start switches o} : Keeps s₀ (forwardOne s r bytes start switches o) := by
  unfold Machine.forwardOne
  split
  · exact h
  split
  case h_2 => exact h
  next b l _ _ =>
    extract_lets due up s1
    have h1 : Keeps s₀ s1 := by
      unfold s1
      split
      · exact h
      · extract_lets s2
        have h2 : Keeps s₀ s2 := h.updSub
        refine .ite h (.ite h.updSub.chooseLayers ?_)
        split
        · exact h2
        · exact h2.ctxCount
    split
    · exact h1
    next b1 _ =>
      extract_lets inCur s2
      have h2 : Keeps s₀ s2 := by
        unfold s2
        split
        · exact .ite h1.updSub h1
        · exact h1
      exact .ite h2.forwardRec h2

protected theorem Keeps.forwardLive {r bytes start switches} : Keeps s₀ (forwardLive s r bytes start switches) :=
  h.foldl fun _ _ h1 => h1.forwardOne

protected theorem Keeps.refuseRtx {o gone} : Keeps s₀ (refuseRtx s o gone) := h.ctxCount.prsCount

protected theorem Keeps.retransmit {o seq} : Keeps s₀ (retransmit s o seq) := by
  unfold Machine.retransmit
  dsimp only
  split
  · exact h
  · split
    · exact h
    · refine .ite h.refuseRtx ?_
      split
      · exact h.refuseRtx
      · split
        · exact h.readRec.refuseRtx
        · exact .ite h.readRec.refuseRtx h.readRec.updLeg.updCtx.ctxCount.prsCount.sendOut

-- ## Stream commands

protected theorem Keeps.execConfCreate {c} : Answers s₀ (execConfCreate c s) :=
  .next (h.runRing fun h1 => h1.guarded h1.update)

protected theorem Keeps.execConfDestroy {c} : Answers s₀ (execConfDestroy c s) :=
  .next (h.runRing fun h1 => h1.guarded h1.update)

protected theorem Keeps.execStreamCreate {c} : Answers s₀ (execStreamCreate c s) :=
  .next (h.runRing fun h1 => h1.guarded h1.setCtx)

protected theorem Keeps.execStreamModify {c} : Answers s₀ (execStreamModify c s) :=
  .next (h.runRing fun h1 => h1.guarded h1.updCtx)

protected theorem Keeps.pauseReaders {c} : Keeps s₀ (pauseReaders s c) := h.foldl fun _ _ h1 => h1.dropPrefetch.updSub

protected theorem Keeps.releaseMirror {src} : Keeps s₀ (releaseMirror s src) := by
  unfold Machine.releaseMirror
  split
  · exact h
  · exact .ite h ((Keeps.ite h.peerSend h).update)

protected theorem Keeps.unsubscribe {o} : Keeps s₀ (unsubscribe s o) := by
  unfold Machine.unsubscribe
  split
  · exact h
  · exact h.dropPrefetch.updCtx.releaseMirror

protected theorem Keeps.dropCtx {c} : Keeps s₀ (dropCtx s c) := by
  unfold Machine.dropCtx
  split
  · exact h
  · exact h.unsubscribe.pauseReaders.update.retireRecs

protected theorem Keeps.chooseAll : Keeps s₀ (chooseAll s) := h.foldl fun _ _ h1 => h1.chooseLayers

protected theorem Keeps.execStreamDestroy {c} : Answers s₀ (execStreamDestroy c s) :=
  .next (h.runRing fun h1 => h1.guarded h1.dropCtx.chooseAll)

protected theorem Keeps.execStreamQuery {c} : Answers s₀ (execStreamQuery c s) :=
  .next (h.runRing fun h1 => h1.guarded (.ite_state (.ite h1.updCtx h1) (.ite h1.updLeg h1)))

protected theorem Keeps.reclamp {leg} : Keeps s₀ (reclamp s leg) := by
  unfold Machine.reclamp
  split
  · exact h
  · exact h.updLeg.estimateChanged

protected theorem Keeps.addLeg {conf d} : Keeps s₀ (addLeg s conf d).1 := h.update.nextFree

protected theorem Keeps.shadowFor {w} : Keeps s₀ (shadowFor s w).1 := by
  unfold Machine.shadowFor
  split
  · exact h
  · exact h.update

protected theorem Keeps.legCreateFinish {d} : Keeps s₀ (legCreateFinish s d).state := by
  unfold Machine.legCreateFinish
  split
  · exact h
  · exact h.shadowFor.addLeg

protected theorem Keeps.execLegCreate {c} : Answers s₀ (execLegCreate c s) :=
  .next (h.runRing fun h1 => h1.guarded (.ite_state h1.peerSend h1.legCreateFinish))

protected theorem Keeps.execLegModify {c} : Answers s₀ (execLegModify c s) :=
  .next (h.runRing fun h1 => h1.guarded h1.updLeg.reclamp)

protected theorem Keeps.detachShadow {conf} : Keeps s₀ (detachShadow s conf) := by
  unfold Machine.detachShadow
  split
  · exact h
  · exact .ite h (.ite h.update.peerSend h.update)

protected theorem Keeps.retireLeg {leg} : Keeps s₀ (retireLeg s leg) :=
  ((h.foldl fun _ _ h1 => h1.unsubscribe).foldl fun _ _ h1 => h1.dropCtx).updLeg

protected theorem Keeps.execLegDestroy {c} : Answers s₀ (execLegDestroy c s) :=
  .next (h.runRing fun h1 => h1.guarded h1.retireLeg.detachShadow.chooseAll)

protected theorem Keeps.subscribe {leg o src maxS maxT prio} : Keeps s₀ (subscribe s leg o src maxS maxT prio) := by
  unfold Machine.subscribe
  split
  · exact h.updCtx.chooseLayers
  · exact .ite (((Keeps.ite h.dropPrefetch h).updSub).chooseLayers) h.unsubscribe.updCtx.chooseLayers

protected theorem Keeps.makeMirror {w} : Keeps s₀ (makeMirror s w).1 := h.setCtx.nextFree.nextFree.nextFree

protected theorem Keeps.layersReply {o} : Keeps s₀ (layersReply s o).state := h

protected theorem Keeps.layersFinish {d} : Keeps s₀ (layersFinish s d).state := by
  unfold Machine.layersFinish
  dsimp only
  split
  · exact h
  · split
    · exact h.releaseMirror
    · exact h.subscribe.layersReply

protected theorem Keeps.execLegLayers {c} : Answers s₀ (execLegLayers c s) := by
  unfold Machine.execLegLayers
  refine .next (h.runRing fun h1 => h1.guarded ?_)
  exact .ite_state h1.unsubscribe.chooseLayers.layersReply
    (.ite_state ((Keeps.ite h1 h1.makeMirror).peerSend) h1.subscribe.layersReply)

protected theorem Keeps.execMeterSet {c} : Answers s₀ (execMeterSet c s) :=
    .next (h.runRing fun h1 => h1.guarded h1.update)

protected theorem Keeps.execShaperSet {c} : Answers s₀ (execShaperSet c s) :=
  .next (h.runRing fun h1 => h1.guarded (h1.update.foldl fun _ _ h2 => h2.reclamp))

-- ## Packets

protected theorem Keeps.setEngine {e x} : Keeps s₀ (setEngine s e x) := .ite h.update h.update

protected theorem Keeps.unclassified {port} : Keeps s₀ (unclassified s port) := h.bumpC

protected theorem Keeps.execPacketClassify {engine} : Answers s₀ (execPacketClassify engine s) := by
  refine .next ?_
  dsimp only
  refine .ite h ?_
  split
  · exact h
  · split
    · exact h
    · exact h.setMac.setEngine.flowCheck

protected theorem Keeps.takeRoce {port sa f} : Keeps s₀ (takeRoce s port sa f) := by
  unfold Machine.takeRoce
  refine .ite h.unclassified ?_
  refine .ite h.bumpF ?_
  refine .ite h ?_
  refine .ite h.bumpF ?_
  split
  · exact h.bumpF
  · exact .ite h.bumpF (.ite h.setSlot.takeAck.sendRoce h.setSlot.takeAck)

protected theorem Keeps.unknownSsrc {leg ssrc} : Keeps s₀ (unknownSsrc s leg ssrc) := by
  unfold Machine.unknownSsrc
  split
  · exact h.legCount
  · exact .ite h.legCount h.legCount.updLeg.confEvent

protected theorem Keeps.takeFrame {port i unknown} : Keeps s₀ (takeFrame s port i unknown) := by
  unfold Machine.takeFrame
  split
  · exact h.takeRoce
  · exact .ite h.setPtp h
  · exact h
  · exact .ite h.answerArp h.unclassified
  · split
    · exact h.unclassified
    · exact h.unclassified.unknownSsrc
  · exact h.unclassified

protected theorem Keeps.handoverDone {e port} : Keeps s₀ (handoverDone s e port) :=
  .ite h.setEngine.endHandling.endHandling h

protected theorem Keeps.handOver {e port} : Keeps s₀ (handOver s e port) :=
  .ite h.setEngine.setEngine h.setEngine.setEngine.update

protected theorem Keeps.mismatch {e port} : Keeps s₀ (mismatch s e port) := by
  unfold Machine.mismatch
  extract_lets x ms s1 last again
  have h1 : Keeps s₀ s1 := h.setEngine.specCount
  split
  · exact .ite h1.raiseUnit h1.raiseUnit.handOver
  · exact .ite (.ite h1.raiseErr.raiseUnit h1.raiseErr.raiseUnit.handOver) h1.raiseErr

protected theorem Keeps.execLockstepCompare {engine equal} : Answers s₀ (execLockstepCompare engine equal s) := by
  unfold Machine.execLockstepCompare
  refine .next ?_
  extract_lets e
  split
  · exact h
  next s1 s2 s3 _ i rest _ =>
    extract_lets s4 s5
    have h1 : Keeps s₀ s1 := h.specCount
    have h2 : Keeps s₀ s2 := h1.specCount
    have h3 : Keeps s₀ s3 := .ite h2.endHandling h2
    have h4 : Keeps s₀ s4 := .ite h3.bumpC h3
    have h5 : Keeps s₀ s5 := h4.setEngine
    refine .ite h (.ite h1.mismatch ?_)
    split
    · exact h5
    · exact h5.takeFrame.handoverDone

protected theorem Keeps.setFallback {port f} : Keeps s₀ (setFallback s port f) := .ite h.update h.update

protected theorem Keeps.fillFallback {s' port} : Keeps s₀ (fillFallback s' s port) := .ite h.setFallback h

protected theorem Keeps.fallback {p} : Keeps s₀ (fallback s p).1 :=
  .ite_fst h (.ite_fst h.setFallback.bumpC.ctxCount h.setFallback)

protected theorem Keeps.enterInbound {p} : Keeps s₀ (enterInbound s p) := .ite h.ctxCount h.updCtx.setGroup.update

protected theorem Keeps.meterPacket {p} : Keeps s₀ (meterPacket s p) := by
  unfold Machine.meterPacket
  split
  · exact h
  · refine .ite h ?_
    split
    · exact .ite h.fallback.enterInbound h.fallback
    · exact .ite h.update.ctxCount.ctxCount h.update.ctxCount.enterInbound

protected theorem Keeps.execMediaGateAdmit {engine} : Answers s₀ (execMediaGateAdmit engine s) := by
  refine .next ?_
  dsimp only
  split
  · exact h
  · exact .ite h h.setEngine.update.meterPacket.handoverDone

protected theorem Keeps.toMac {p} : Keeps s₀ (toMac s p).1 := by
  unfold Machine.toMac
  dsimp only
  split
  · exact h
  · exact .ite_fst h.txAdd.handed h

protected theorem Keeps.putShaper {k sh} : Keeps s₀ (putShaper s k sh) := h.update

protected theorem Keeps.shaperSend {k n} : Keeps s₀ (shaperSend s k n) := by
  induction n generalizing s with
  | zero => exact h
  | succ n ih =>
    rw [shaperSend]
    split
    · exact h
    · exact .ite h (.ite (ih h.toMac.putShaper) h)

protected theorem Keeps.shaperEval {k} : Keeps s₀ (shaperEval s k) := by
  unfold Machine.shaperEval
  dsimp only
  split
  · exact h
  · exact h.putShaper.shaperSend

protected theorem Keeps.execShaperEvaluate {shaper} : Answers s₀ (execShaperEvaluate shaper s) :=
  .next (.ite h.shaperEval.settle h)

protected theorem Keeps.toShaper {p} : Keeps s₀ (toShaper s p).1 := by
  unfold Machine.toShaper
  split
  · exact h
  · split
    · exact .ite_fst h.ctxCount h.putShaper
    · exact h.toMac

protected theorem Keeps.execRtcpSr {ctx ntp rtp} : Answers s₀ (execRtcpSr ctx ntp rtp s) := .next (.ite h.updCtx h)

protected theorem Keeps.execRtcpRr {leg lsr dlsr} : Answers s₀ (execRtcpRr leg lsr dlsr s) := .next (.ite h h.updLeg)

protected theorem Keeps.execRtcpNack {ctx seqs} : Answers s₀ (execRtcpNack ctx seqs s) :=
  .next (.ite h (h.ctxCount.foldl fun _ _ h1 => h1.retransmit))

protected theorem Keeps.execRtcpPliFir {ctx fir} : Answers s₀ (execRtcpPliFir ctx fir s) := by
  refine .next ?_
  refine .ite h ?_
  split
  · exact h.ctxCount.legCount
  · split
    · exact h.ctxCount.legCount
    · exact .ite h.ctxCount.keyRequest h.ctxCount.legCount

protected theorem Keeps.acceptReport {leg l ps} : Keeps s₀ (acceptReport s leg l ps) := by
  unfold Machine.acceptReport
  refine ((Keeps.nextFree ?_).updLeg).estimateChanged
  refine h.foldl fun _ _ h1 => ?_
  split
  · exact h1.ctxCount
  · exact h1

protected theorem Keeps.execRtcpCcfb {leg packets} : Answers s₀ (execRtcpCcfb leg packets s) := by
  refine .next ?_
  split
  · exact h
  · exact .ite h (.ite h.legCount h.acceptReport)

protected theorem Keeps.execRtcpBye {leg ssrc} : Answers s₀ (execRtcpBye leg ssrc s) := .next (.ite h.confEvent h)

protected theorem Keeps.execRtcpReportTimer {leg} : Answers s₀ (execRtcpReportTimer leg s) := by
  refine .next ?_
  split
  · exact h
  · refine .ite h ?_
    refine (Keeps.updLeg ?_).nextFree
    refine .ite h ?_
    refine .ite h.sendRtcp ?_
    refine h.foldl fun _ _ h1 => ?_
    split
    · exact h1.sendRtcp.updCtx
    · exact h1

protected theorem Keeps.execCcfbReportTimer {leg} : Answers s₀ (execCcfbReportTimer leg s) := by
  refine .next ?_
  split
  · exact h
  · exact .ite h (.ite h.updLeg (h.updLeg.sendFeedback.foldl fun _ _ h1 => h1.updCtx))

protected theorem Keeps.sendNack {ctx seq} : Keeps s₀ (sendNack s ctx seq) := by
  unfold Machine.sendNack
  split
  · exact h
  · exact .ite h.updCtx h.updCtx.ctxCount.sendFeedback

protected theorem Keeps.execNackTimer {ctx seq} : Answers s₀ (execNackTimer ctx seq s) := by
  refine .next ?_
  split
  · exact h
  · split
    · exact h
    · exact .ite h h.sendNack

protected theorem Keeps.execEstimateStale {leg} : Answers s₀ (execEstimateStale leg s) := by
  refine .next ?_
  split
  · exact h
  · exact .ite h (.ite h.updLeg.legCount.confEvent h.updLeg.updLeg.estimateChanged)

protected theorem Keeps.execPointRateUpdate : Answers s₀ (execPointRateUpdate s) := .next (.ite h h.update.chooseAll)

protected theorem Keeps.execSwitchInstant {ctx} : Answers s₀ (execSwitchInstant ctx s) := by
  refine .next ?_
  split
  · exact h
  · exact .ite h.resolvePrefetch h

-- ## The cipher

protected theorem Keeps.persistKey {id start startRtx} : Keeps s₀ (persistKey s id start startRtx).1 := by
  unfold Machine.persistKey
  split
  · exact h.update
  · split
    · exact h
    · exact h.update

protected theorem Keeps.keyInstallWith {c suite x mat} : Keeps s₀ (keyInstallWith s c suite x mat).state := by
  have reserved : Keeps s₀ (if bitAt c.w2 37 then persistKey s c.w7.toNat c.w5.toNat c.w6.toNat else (s, false)).1 :=
    .ite_fst h.persistKey h
  exact .ite_state h (.ite_state h (.ite_state h (.ite_state h reserved.update.updCtx.retireRecs)))

protected theorem Keeps.execKeyInstall {c blob} : Answers s₀ (execKeyInstall c blob s) := by
  refine .next ?_
  refine h.runRing fun h1 => ?_
  refine h1.guarded ?_
  split
  · split
    · exact h1
    · exact h1.keyInstallWith
  · exact h1.hostFailure

protected theorem Keeps.execKeyRetire {c} : Answers s₀ (execKeyRetire c s) := by
  refine .next ?_
  refine h.runRing fun h1 => ?_
  refine h1.guarded ?_
  split
  · exact h1
  · refine (Keeps.updCtx ?_).retireRecs
    split
    · exact h1.update
    · exact h1

protected theorem Keeps.execKeyQuery {c} : Answers s₀ (execKeyQuery c s) :=
  .next (h.runRing fun h1 => h1.guarded (.ite h1.updCtx h1))

protected theorem Keeps.execKeyReserveWritten {keyId} : Answers s₀ (execKeyReserveWritten keyId s) :=
  .next (.ite h h.update)

protected theorem Keeps.giveUp {p} : Keeps s₀ (giveUp s p) := h.updCtx

protected theorem Keeps.dropInbound {p c} : Keeps s₀ (dropInbound s p c) := h.keyCount.cipCount.giveUp

protected theorem Keeps.startLane {l p} : Keeps s₀ (startLane s l p) := h.setLane.advanceLane

protected theorem Keeps.startInbound {l p} : Keeps s₀ (startInbound s l p) := by
  unfold Machine.startInbound
  split
  · exact h
  · refine .ite h.giveUp ?_
    split
    · exact h.dropInbound
    · split
      · exact h.dropInbound
      · exact h.startLane

protected theorem Keeps.startOutbound {l p} : Keeps s₀ (startOutbound s l p) := by
  unfold Machine.startOutbound
  split
  · exact h
  · refine .ite h ?_
    split
    · exact h.keyCount.cipCount
    · exact h.startLane

protected theorem Keeps.startJob {l id} : Keeps s₀ (startJob s l id) := by
  unfold Machine.startJob
  split
  · exact h
  · exact h.update.startLane

protected theorem Keeps.execCipherLaneStart {group} : Answers s₀ (execCipherLaneStart group s) := by
  refine .next ?_
  split
  · exact h
  · refine .ite h ?_
    refine .ite ?_ ?_
    · split
      · exact h
      · exact h.setGroup.startOutbound.drainHeld.settle
    · refine .ite ?_ ?_
      · split
        · exact h
        · exact h.setGroup.startInbound
      · split
        · exact h
        · exact .ite h h.setGroup.startJob

protected theorem Keeps.endPacket {l st tagDone} : Keeps s₀ (endPacket s l st tagDone) :=
  .ite ((Keeps.ite h.setLane.cipCount h.setLane).flushDone) (.ite h.setLane.cipCount h.setLane)

protected theorem Keeps.failJob {id} : Keeps s₀ (failJob s id) := h.update.completeWhere

protected theorem Keeps.reapJobs : Keeps s₀ (reapJobs s) := h.foldl fun _ _ h1 => h1.failJob

protected theorem Keeps.nextJobPacket {l id} : Keeps s₀ (nextJobPacket s l id) := by
  unfold Machine.nextJobPacket
  split
  · exact h
  · exact .ite h h.update.startLane

protected theorem Keeps.execCipherLaneEnd {lane tagOk laneFault} :
    Answers s₀ (execCipherLaneEnd lane tagOk laneFault s) := by
  refine .next ?_
  refine .ite h.advanceLane.laneFault.reapJobs ?_
  split
  · exact h.advanceLane
  · refine .ite h.advanceLane ?_
    refine .ite ?_ ?_
    · refine Keeps.settle ?_
      split
      · exact h.advanceLane.endPacket.giveUp
      · exact h.advanceLane.endPacket
      · exact h.advanceLane.endPacket.failJob
    · refine .ite h.advanceLane ?_
      split
      · exact .ite h.advanceLane.endPacket h.advanceLane.endPacket.dropInbound.settle
      · exact h.advanceLane.endPacket.settle
      · exact h.advanceLane.endPacket.nextJobPacket

protected theorem Keeps.markTicket {ctx rtx ticket st} : Keeps s₀ (markTicket s ctx rtx ticket st) := h.update

protected theorem Keeps.execTicketStep {ctx rtx} : Answers s₀ (execTicketStep ctx rtx s) := by
  refine .next ?_
  dsimp only
  split
  · exact h
  · split
    · exact h
    · exact .ite h.setCtx.markTicket.keyCount.cipCount.cipCount.settle h.setCtx.retireRecs.markTicket.settle

protected theorem Keeps.jobOutput {id off bytes} : Keeps s₀ (jobOutput s id off bytes) := by
  unfold Machine.jobOutput
  split
  · exact h
  · refine .ite ?_ ?_
    · refine ((Keeps.update ?_).cipCount).completeWhere
      split
      · exact h.regionWrite
      · exact h.dramWrite
    · refine Keeps.update ?_
      split
      · exact h.regionWrite
      · exact h.dramWrite

protected theorem Keeps.deliver {p} : Keeps s₀ (deliver s p).1 := by
  unfold Machine.deliver
  split
  · exact h.update
  · exact h.toShaper
  · exact h.jobOutput

protected theorem Keeps.execFifoPop {lane} : Answers s₀ (execFifoPop lane s) := by
  refine .next ?_
  dsimp only
  split
  · exact h.advanceLane
  · split
    · exact h.advanceLane
    · exact h.advanceLane.setLane.advanceLane
    · refine .ite ?_ ?_
      · exact h.advanceLane
      · refine .ite ?_ ?_
        · exact h.advanceLane.setLane.advanceLane
        · exact .ite h.advanceLane.setLane.deliver.settle.advanceLane h.advanceLane

protected theorem Keeps.queueJob {j} : Keeps s₀ (queueJob s j).1 := h.setGroup.update

protected theorem Keeps.cipherJobWith {c b source} : Keeps s₀ (cipherJobWith s c b source).state := by
  unfold Machine.cipherJobWith
  dsimp only
  refine h.guarded ?_
  refine .ite_state h.queueJob ?_
  split
  · exact h.queueJob
  · exact h.hostFailure

protected theorem Keeps.execCipherJob {c block source} : Answers s₀ (execCipherJob c block source s) := by
  refine .next ?_
  refine h.runRing fun h1 => ?_
  refine h1.guarded ?_
  split
  · exact h1.cipherJobWith
  · exact h1.hostFailure

protected theorem Keeps.cipFlushWrite {lane} : Keeps s₀ (cipFlushWrite s lane).1 :=
  .ite_fst h (.pair h.update.flushLane.setLane.reapJobs.settle)

-- ## Media units

protected theorem Keeps.setDec {d x} : Keeps s₀ (setDec s d x) := h.update

protected theorem Keeps.updDec {d f} : Keeps s₀ (updDec s d f) := h.update

protected theorem Keeps.setCanvas {c x} : Keeps s₀ (setCanvas s c x) := h.update

protected theorem Keeps.updCanvas {c f} : Keeps s₀ (updCanvas s c f) := h.update

protected theorem Keeps.setEnc {c x} : Keeps s₀ (setEnc s c x) := h.update

protected theorem Keeps.updEnc {c f} : Keeps s₀ (updEnc s c f) := h.update

protected theorem Keeps.decEvent {d kind status w1} : Keeps s₀ (decEvent s d kind status w1) := by
  unfold Machine.decEvent
  split
  · exact h
  · exact .ite h.setDec.postEvent h

protected theorem Keeps.canvasEvent {c kind status w1} : Keeps s₀ (canvasEvent s c kind status w1) := by
  unfold Machine.canvasEvent
  split
  · exact h
  · exact .ite h.setCanvas.postEvent h

protected theorem Keeps.encEvent {c kind status w1} : Keeps s₀ (encEvent s c kind status w1) := by
  unfold Machine.encEvent
  split
  · exact h
  · exact .ite h.setEnc.postEvent h

protected theorem Keeps.decCount {d k n} : Keeps s₀ (decCount s d k n) := h.updDec

protected theorem Keeps.canvasCount {c k n} : Keeps s₀ (canvasCount s c k n) := h.updCanvas

protected theorem Keeps.encCount {c k n} : Keeps s₀ (encCount s c k n) := h.updEnc

protected theorem Keeps.writePicHeader {x p} : Keeps s₀ (writePicHeader s x p) := h.dramWrite

protected theorem Keeps.countOutput {d p} : Keeps s₀ (countOutput s d p) := h.decCount.decCount.bumpC.bumpC.updDec

protected theorem Keeps.keepFinal {d p} : Keeps s₀ (keepFinal s d p) := h.updDec

protected theorem Keeps.picFinal {d p} : Keeps s₀ (picFinal s d p) := by
  unfold Machine.picFinal
  split
  · exact h
  · refine .ite ?_ ?_
    · exact ((Keeps.ite h.setDec.writePicHeader.keepFinal.countOutput h.setDec.writePicHeader).decCount).bumpC
    · exact .ite h.setDec.writePicHeader.keepFinal.countOutput h.setDec.writePicHeader

protected theorem Keeps.prunePics {d} : Keeps s₀ (prunePics s d) := by
  unfold Machine.prunePics
  split
  · exact h
  · exact .ite h h.setDec.resumeTasks

protected theorem Keeps.countRuns {d} : Keeps s₀ (countRuns s d) := by
  unfold Machine.countRuns
  split
  · exact h
  · exact h.setDec.foldl fun _ _ h1 => h1.decCount.bumpC

protected theorem Keeps.settleDec {d} : Keeps s₀ (settleDec s d) := by
  unfold Machine.settleDec
  split
  · exact h
  · exact ((h.foldl fun _ _ h1 => h1.picFinal).countRuns).prunePics

protected theorem Keeps.writeCanvasHeader {c p} : Keeps s₀ (writeCanvasHeader s c p) := .ite h h.dramWrite

protected theorem Keeps.updateHolds {c p is} : Keeps s₀ (updateHolds s c p is).1 := by
  induction is generalizing s c with
  | nil => exact h
  | cons i is ih =>
    rw [updateHolds]
    split
    · split
      · exact ih h
      · exact ih (h.withMemory (memWf_holdCopy _ _ _ _ _ _))
    · exact ih h

protected theorem Keeps.composeNow {c0 p r} : Keeps s₀ (composeNow s c0 p r).1 := by
  unfold Machine.composeNow
  refine Keeps.foldl ?_ fun _ _ h1 => h1.foldl fun _ _ h2 => h2.holdPages
  split
  · exact .ite h.updateHolds h.updateHolds.overwritten
  · exact .ite h.updateHolds h.updateHolds.overwritten.holdPages

protected theorem Keeps.attemptCanvas {id c p} : Keeps s₀ (attemptCanvas s id c p).1 := by
  unfold Machine.attemptCanvas
  dsimp only
  split
  · exact h.joinBound.setCanvas
  · exact h.joinBound.composeNow.setCanvas

protected theorem Keeps.canvasFinal {id p} : Keeps s₀ (canvasFinal s id p) := by
  unfold Machine.canvasFinal
  split
  · exact h
  · refine .ite ?_ ?_
    · exact (((h.setCanvas.writeCanvasHeader.foldl fun _ _ h1 => h1.canvasCount).foldl fun _ _ h1 =>
        h1.bumpC).updCanvas).canvasEvent
    · exact ((h.setCanvas.writeCanvasHeader.foldl fun _ _ h1 => h1.canvasCount).foldl fun _ _ h1 => h1.bumpC).updCanvas

protected theorem Keeps.settleCanvas {id} : Keeps s₀ (settleCanvas s id) := by
  unfold Machine.settleCanvas
  split
  · exact h
  · exact h.foldl fun _ _ h1 => h1.canvasFinal

protected theorem Keeps.holdRefs {e p} : Keeps s₀ (holdRefs s e p) := by
  unfold Machine.holdRefs
  refine h.foldl fun _ _ h1 => ?_
  split
  · exact h1.overwritten.holdPages
  · exact h1.overwritten

protected theorem Keeps.attemptEnc {id e p} : Keeps s₀ (attemptEnc s id e p).1 := by
  unfold Machine.attemptEnc
  dsimp only
  split
  · exact h.joinBound.setEnc
  · exact h.joinBound.setEnc.holdRefs

protected theorem Keeps.redoCanvas {id} : Keeps s₀ (redoCanvas s id) := by
  unfold Machine.redoCanvas
  split
  · exact h
  · split
    · exact h
    · refine .ite ?_ h
      refine .ite ?_ h.attemptCanvas
      split
      · exact h.attemptCanvas.requestTask
      · exact h.attemptCanvas

protected theorem Keeps.redoEnc {id} : Keeps s₀ (redoEnc s id) := by
  unfold Machine.redoEnc
  dsimp only
  split
  · exact h
  · split
    · exact h
    · refine .ite ?_ h
      split
      · exact h.attemptEnc.foldl fun _ _ h1 => h1.requestTask
      · exact h.attemptEnc

protected theorem Keeps.redoAll : Keeps s₀ (redoAll s) :=
  (((h.foldl fun _ _ h1 => h1.redoCanvas).foldl fun _ _ h1 => h1.redoCanvas).foldl fun _ _ h1 =>
      h1.redoCanvas).foldl fun _ _ h1 => h1.redoEnc

protected theorem Keeps.restoreHolds {e outcome} : Keeps s₀ (restoreHolds s e outcome) := by
  unfold Machine.restoreHolds
  refine .ite h ?_
  refine h.foldl fun _ _ h1 => ?_
  split
  · exact .ite (h1.foldl fun _ _ h2 => h2.dramWrite) h1
  · exact h1

protected theorem Keeps.resolveN {n queue} : Keeps s₀ (resolveN s n queue) := by
  induction n generalizing s queue with
  | zero => rw [resolveN]; exact h
  | succ n ih =>
    cases queue with
    | nil => rw [resolveN]; exacts [h, nofun]
    | cons q queue => exact .ite (ih h) (ih (h.closeEntry.restoreHolds.update).cancelTasks)

protected theorem Keeps.sendData {r} : Keeps s₀ (sendData s r) := h.grnSend

protected theorem Keeps.releasePeerReads : Keeps s₀ (releasePeerReads s) := h.update.foldl fun _ _ h1 => h1.sendData

protected theorem Keeps.afterResolve : Keeps s₀ (afterResolve s) :=
  (((((h.foldl fun _ _ h1 => h1.settleDec).foldl fun _ _ h1 =>
      h1.settleCanvas).update).redoAll).releaseReads).releasePeerReads

protected theorem Keeps.resolveEntry {e outcome} : Keeps s₀ (resolveEntry s e outcome) := h.resolveN.afterResolve

-- ## Video decoding

protected theorem Keeps.cancelOne {d x w} : Keeps s₀ (cancelOne s d x w) := by
  unfold Machine.cancelOne
  dsimp only
  split
  · exact h.update
  · split
    · exact h.bumpF.removeTask
    · exact h

protected theorem Keeps.dropWaiting {d x ws} : Keeps s₀ (dropWaiting s d x ws) :=
  ((h.foldl fun _ _ h1 => h1.cancelOne).decCount).bumpC

protected theorem Keeps.requestKey {d x fir} : Keeps s₀ (requestKey s d x fir).1 := by
  have asked : ∀ w, Keeps s₀ (decEvent (decCount (keyRequest s x.source fir) d 0x09 1) d 3 0 w) :=
    fun _ => h.keyRequest.decCount.decEvent
  unfold Machine.requestKey
  split
  · exact h
  · exact .ite_fst (.ite_fst (asked _) (.ite_fst (asked _) h)) (.ite_fst h (.ite_fst h (asked _)))

protected theorem Keeps.requestIf {d on} : Keeps s₀ (requestIf s d on) := by
  unfold Machine.requestIf
  split
  · exact h
  · exact .ite h.requestKey h

protected theorem Keeps.resync {d} : Keeps s₀ (resync s d) := h.updDec.prunePics.requestIf

protected theorem Keeps.addWaiting {d w} : Keeps s₀ (addWaiting s d w) := by
  unfold Machine.addWaiting
  split
  · exact h
  · refine .ite ?_ ?_
    · exact h
    · refine .ite ?_ ?_
      · exact h.setDec.requestTask
      · exact .ite h.setDec.requestTask.updDec.dropWaiting.resync h.setDec.requestTask.updDec.dropWaiting

protected theorem Keeps.nackRelease {c seqs} : Keeps s₀ (nackRelease s c seqs) := by
  unfold Machine.nackRelease
  refine h.foldl fun _ _ h1 => ?_
  split
  · exact .ite h1.sendNack h1
  · exact h1

protected theorem Keeps.releaseFirst {c} : Keeps s₀ (releaseFirst s c) := by
  unfold Machine.releaseFirst
  split
  · exact h
  · split
    · exact h
    · exact (Keeps.ite h.ctxCount.updCtx.nackRelease h.ctxCount.updCtx).foldl fun _ _ h1 => h1.updDec.addWaiting

protected theorem Keeps.releaseComplete {c n} : Keeps s₀ (releaseComplete s c n) := by
  induction n generalizing s with
  | zero => exact h
  | succ n ih =>
    rw [releaseComplete]
    split
    · exact h
    · split
      · exact h
      · exact .ite (ih h.releaseFirst) h

protected theorem Keeps.releaseDue {c n} : Keeps s₀ (releaseDue s c n) := by
  induction n generalizing s with
  | zero => exact h
  | succ n ih =>
    rw [releaseDue]
    split
    · exact h
    · exact .ite (ih h.releaseFirst) h.releaseComplete

protected theorem Keeps.execJbRelease {ctx} : Answers s₀ (execJbRelease ctx s) := by
  refine .next ?_
  split
  · exact h
  · exact .ite h.releaseDue h

protected theorem Keeps.startRun {d e} : Keeps s₀ (startRun s d e) := by
  unfold Machine.startRun
  split
  · exact h
  · exact h.setDec.foldl fun _ _ h1 => h1.requestTask

protected theorem Keeps.decRepair {d seq ts marker unneeded conceded} :
    Keeps s₀ (decRepair s d seq ts marker unneeded conceded) := by
  unfold Machine.decRepair
  split
  · exact h
  · refine .ite h.setDec ?_
    split
    · exact h.decCount
    · exact .ite h.setDec (.ite h.setDec.resolveEntry h.setDec.startRun)

protected theorem Keeps.repairAll {c seq ts marker unneeded conceded} :
    Keeps s₀ (repairAll s c seq ts marker unneeded conceded) :=
  h.foldl fun _ _ h1 => h1.decRepair

protected theorem Keeps.writeSamples {x slot p} : Keeps s₀ (writeSamples s x slot p) :=
  h.withMemory (memWf_writeSamples s x slot p)

protected theorem Keeps.outputPics {d reorder n} : Keeps s₀ (outputPics s d reorder n) := by
  induction n generalizing s with
  | zero => exact h
  | succ n ih =>
    rw [outputPics]
    split
    · exact h
    · split
      · exact h
      · exact ih (.ite h.setDec.writePicHeader.countOutput h.setDec.writePicHeader)

protected theorem Keeps.skipPicture {d unsup} : Keeps s₀ (skipPicture s d unsup) := h.decCount.bumpC

protected theorem Keeps.openConcealment {d x w} : Keeps s₀ (openConcealment s d x w).1 := by
  unfold Machine.openConcealment
  dsimp only
  refine .ite_fst h ?_
  refine .ite_fst h ?_
  split
  · refine Keeps.openEntry ?_
    split
    · exact .ite h.resolveEntry h
    · exact h
  · refine (Keeps.openEntry ?_).updDec
    split
    · exact .ite h.resolveEntry h
    · exact h

protected theorem Keeps.joinRuns {d no r} : Keeps s₀ (joinRuns s d no r) := by
  unfold Machine.joinRuns
  split
  · exact h
  · exact h.foldl fun _ _ h1 => h1.updDec.requestTask

protected theorem Keeps.decodeInto {d slot w p} : Keeps s₀ (decodeInto s d slot w p) := by
  unfold Machine.decodeInto
  split
  · exact h
  next x _ =>
    extract_lets unfilled codec grey lossy opened s1 nos ins flag j ripe s2 concealed y ref pic y1 s3 s4 s5 s6 s7 s8
    have h1 : Keeps s₀ s1 := .ite_fst h.openConcealment (.pair h)
    have h2 : Keeps s₀ s2 := .ite_fst (.pair h1) h1.joinOf
    have h3 : Keeps s₀ s3 := h2.setDec.writeSamples.writePicHeader
    have h4 : Keeps s₀ s4 := by
      unfold s4
      split
      · exact h3.overwritten.holdPages
      · exact h3.overwritten
    have h5 : Keeps s₀ s5 := h4.foldl fun _ _ ht => ht.decCount.bumpC.decEvent
    have h8 : Keeps s₀ s8 := h5.requestIf.outputPics.joinRuns.settleDec
    split
    · exact .ite h8.resolveEntry h8
    · exact h8

protected theorem Keeps.unsupportedPic {d code missingReq} : Keeps s₀ (unsupportedPic s d code missingReq) :=
  h.updDec.decEvent.requestIf.prunePics

protected theorem Keeps.decodeLive {d id x p} : Keeps s₀ (decodeLive s d id x p) := by
  unfold Machine.decodeLive
  dsimp only
  split
  · exact h
  · split
    · exact .ite h.updDec.skipPicture h.updDec.skipPicture.unsupportedPic
    · refine .ite h.updDec.skipPicture ?_
      refine .ite h.updDec.skipPicture ?_
      split
      · exact h
      · split
        · exact h.joinWaits
        · exact (Keeps.ite h.joinServed.updDec.updDec.decEvent h.joinServed.updDec).decodeInto

protected theorem Keeps.decodeAgain {d e x id p} : Keeps s₀ (decodeAgain s d e x id p) := by
  unfold Machine.decodeAgain
  dsimp only
  split
  · exact h.updDec
  · exact h.updDec
  · split
    · split
      · exact h.joinOf
      · split
        · exact h.joinOf.setDec.writeSamples.writePicHeader.overwritten.holdPages
        · exact h.joinOf.setDec.writeSamples.writePicHeader.overwritten
    · exact h

protected theorem Keeps.execPictureDecoded {dec p} : Answers s₀ (execPictureDecoded dec p s) := by
  refine .next ?_
  split
  · refine .ite h ?_
    split
    · exact h.decodeLive
    · exact h.decodeAgain
  · exact h

protected theorem Keeps.execRedecodeRunDone {dec entry} : Answers s₀ (execRedecodeRunDone dec entry s) := by
  refine .next ?_
  split
  · refine .ite h ?_
    refine (Keeps.resolveEntry ?_).resumeTasks
    refine h.setDec.foldl fun _ _ h1 => ?_
    split
    · exact h1.writePicHeader
    · exact h1
  · exact h

protected theorem Keeps.execTaintRequestTimer {dec} : Answers s₀ (execTaintRequestTimer dec s) := by
  refine .next ?_
  split
  · exact h
  · split
    · exact h
    · exact .ite h h.setDec.requestKey

protected theorem Keeps.catchupRecs {rs} : Keeps s₀ (catchupRecs s rs).1 :=
  Keeps.foldl_fst (fun _ _ ha => ha.readRec) h

protected theorem Keeps.catchUp {d x c} : Keeps s₀ (catchUp s d x c) := by
  unfold Machine.catchUp
  split
  · exact h
  · split
    · exact h
    · exact h.catchupRecs.updDec.foldl fun _ _ h1 => h1.requestTask

protected theorem Keeps.decMake {d slot ring src} : Keeps s₀ (decMake s d slot ring src).state := by
  unfold Machine.decMake
  dsimp only
  split
  · exact h
  · exact .ite h.overwritten.setDec.catchUp h.overwritten.setDec

protected theorem Keeps.decFinish {d slot ring} : Keeps s₀ (decFinish s d slot ring).state := by
  unfold Machine.decFinish
  split
  · exact h
  · next src _ =>
    have hmade : Keeps s₀ (decMake s d slot ring src).state := h.decMake
    split
    next hreply =>
      rw [hreply] at hmade
      exact .ite hmade hmade.releaseMirror
    next hwaits =>
      rw [hwaits] at hmade
      exact hmade

protected theorem Keeps.execDecCreate {c} : Answers s₀ (execDecCreate c s) :=
  .next (h.runRing fun h1 => h1.guarded (.ite_state ((Keeps.ite h1 h1.makeMirror).peerSend) h1.decMake))

protected theorem Keeps.setTarget {d ts tt reserve} : Keeps s₀ (setTarget s d ts tt reserve) := by
  unfold Machine.setTarget
  split
  · exact h
  · exact h.setDec.requestIf

protected theorem Keeps.execDecModify {c} : Answers s₀ (execDecModify c s) := by
  refine .next ?_
  refine h.runRing fun h1 => ?_
  refine h1.guarded ?_
  split
  · exact h1.setTarget
  · exact h1.updDec
  · exact h1.updDec
  · exact h1.updDec

protected theorem Keeps.concedeDec {d} : Keeps s₀ (concedeDec s d) := by
  unfold Machine.concedeDec
  split
  · exact h
  · exact h.foldl fun _ _ h1 => h1.resolveEntry

protected theorem Keeps.execDecDestroy {c} : Answers s₀ (execDecDestroy c s) :=
  .next (h.runRing fun h1 => h1.guarded h1.concedeDec.cancelTasks.updDec.releaseMirror)

protected theorem Keeps.execDecRequestIntra {c} : Answers s₀ (execDecRequestIntra c s) :=
  .next (h.runRing fun h1 => h1.guarded h1.requestKey)

-- ## Composition

protected theorem Keeps.endLayers {id w1 w3} : Keeps s₀ (endLayers s id w1 w3) := h.completeWhere

protected theorem Keeps.applyLayers {id n start} : Keeps s₀ (applyLayers s id n start).1 := by
  unfold Machine.applyLayers
  split
  · exact h
  · split
    · exact h
    · exact .ite_fst h h.setCanvas.endLayers

protected theorem Keeps.skipCanvas {id n} : Keeps s₀ (skipCanvas s id n) := h.canvasCount.bumpC.canvasEvent

protected theorem Keeps.startCanvas {id n start} : Keeps s₀ (startCanvas s id n start) := by
  unfold Machine.startCanvas
  dsimp only
  refine .ite h.slotRefused.skipCanvas ?_
  split
  · exact h.applyLayers
  · split
    · exact h.applyLayers.attemptCanvas.createTasks
    · exact h.applyLayers.attemptCanvas

protected theorem Keeps.execCanvasPictureStart {canvas} : Answers s₀ (execCanvasPictureStart canvas s) := by
  refine .next ?_
  split
  · exact h
  · exact .ite h (.ite h.setCanvas (.ite h.setCanvas.skipCanvas h.setCanvas.startCanvas))

protected theorem Keeps.rowsReady {chs} : Keeps s₀ (rowsReady s chs) := h.resumeTasks

protected theorem Keeps.rowDone {id c p} : Keeps s₀ (rowDone s id c p) := by
  have written : Keeps s₀ (if c.memBufs = 0 then s else { s with memory := { s.memory with
      dram := writeLines s.memory.dram (c.planes p.buffer) (16 * p.row) ((p.lines.drop (16 * p.row)).take 16) } }) :=
    .ite h (h.withMemory (memWf_writeLines _ _ _ _))
  exact (Keeps.ite written.setCanvas written.setCanvas.writeCanvasHeader.settleCanvas).rowsReady

protected theorem Keeps.execComposeRowDone {canvas} : Answers s₀ (execComposeRowDone canvas s) := by
  refine .next ?_
  split
  · split
    · exact h
    · exact .ite h h.rowDone.redoAll.settle
  · exact h

protected theorem Keeps.canvasDeadline {canvas row} : Keeps s₀ (canvasDeadline s canvas row) := by
  unfold Machine.canvasDeadline
  split
  · exact h
  · split
    · exact h
    · exact .ite h (h.foldl fun _ _ h1 => h1.resolveEntry)

protected theorem Keeps.execComposeRowDeadline {canvas row} : Answers s₀ (execComposeRowDeadline canvas row s) :=
  .next h.canvasDeadline

protected theorem Keeps.execCanvasCreate {c} : Answers s₀ (execCanvasCreate c s) :=
  .next (h.runRing fun h1 => h1.guarded h1.overwritten.setCanvas)

protected theorem Keeps.setLayersWith {c id x recs} : Keeps s₀ (setLayersWith s c id x recs).state := by
  unfold Machine.setLayersWith
  dsimp only
  split
  · exact h
  · split
    · exact h
    · exact (h.endLayers.foldl fun _ _ h1 => h1.overwritten).updCanvas

protected theorem Keeps.execCanvasSetLayers {c records} : Answers s₀ (execCanvasSetLayers c records s) := by
  refine .next ?_
  refine h.runRing fun h1 => ?_
  refine h1.guarded ?_
  split
  · exact h1.setLayersWith
  · exact h1.hostFailure

protected theorem Keeps.execCanvasDestroy {c} : Answers s₀ (execCanvasDestroy c s) :=
  .next (h.runRing fun h1 => h1.guarded h1.endLayers.updCanvas)

-- ## The stream engine

protected theorem Keeps.videoBuffer {c x time ext hdr sw conceded} :
    Keeps s₀ (videoBuffer s c x time ext hdr sw conceded) :=
  .ite (.ite h.ctxCount.repairAll h) h.updCtx.releaseDue

protected theorem Keeps.setMix {g m} : Keeps s₀ (setMix s g m) := h.update

protected theorem Keeps.updMix {g f} : Keeps s₀ (updMix s g f) := h.update

protected theorem Keeps.mixCount {g k n} : Keeps s₀ (mixCount s g k n) := h.updMix

protected theorem Keeps.mixEvent {g kind status w1} : Keeps s₀ (mixEvent s g kind status w1) := by
  unfold Machine.mixEvent
  split
  · exact h
  · exact .ite h.setMix.postEvent h

protected theorem Keeps.audioBuffer {c leg g m time hdr} : Keeps s₀ (audioBuffer s c leg g m time hdr) := by
  unfold Machine.audioBuffer
  split
  · exact h
  · exact .ite h.setCtx.mixCount.bumpC.mixEvent (.ite h.setCtx.ctxCount.updCtx h.setCtx.updCtx)

protected theorem Keeps.sendMedia {c s0 t0 ext conceded plain} : Keeps s₀ (sendMedia s c s0 t0 ext conceded plain) := by
  unfold Machine.sendMedia
  split
  · exact h
  · exact .ite h (h.foldl fun _ _ h1 => .ite h1.grnSend h1)

protected theorem Keeps.storeRec {c x time ext bits hdr conceded level} :
    Keeps s₀ (storeRec s c x time ext bits hdr conceded level).1 := by
  unfold Machine.storeRec
  refine (Keeps.forwardLive ?_).sendMedia
  split
  · split
    · exact (Keeps.ite h.setCtx.preserveWrite.videoBuffer h.setCtx.preserveWrite).audioBuffer
    · exact .ite h.setCtx.preserveWrite.videoBuffer h.setCtx.preserveWrite
  · exact .ite h.setCtx.preserveWrite.videoBuffer h.setCtx.preserveWrite

protected theorem Keeps.storePacket {c x time ext bits hdr conceded} :
    Keeps s₀ (storePacket s c x time ext bits hdr conceded) :=
  h.storeRec

protected theorem Keeps.acceptRtp {p x hdr} : Keeps s₀ (acceptRtp s p x hdr) := by
  unfold Machine.acceptRtp
  refine .ite h.ctxCount.ctxCount.ctxCount.ctxCount ?_
  split
  · exact h.ctxCount.ctxCount.ctxCount
  · exact h.ctxCount.ctxCount.ctxCount.storePacket

protected theorem Keeps.execStreamEnginePacket : Answers s₀ (execStreamEnginePacket s) := by
  refine .next ?_
  dsimp only
  split
  · exact h
  · split
    · exact h.update
    · refine .ite h.update ?_
      split
      · exact h.update.ctxCount.ctxCount.legCount
      · exact h.update.acceptRtp.settle

protected theorem Keeps.produceRec {c ts hdr marker level conceded} :
    Keeps s₀ (produceRec s c ts hdr marker level conceded).1 := by
  unfold Machine.produceRec
  dsimp only
  split
  · exact h
  · split
    · exact ((Keeps.ite h.nextFree h).ctxCount).ctxCount
    · exact (((Keeps.ite h.nextFree h).ctxCount).ctxCount).storeRec

protected theorem Keeps.producePacket {c ts hdr marker conceded} :
    Keeps s₀ (producePacket s c ts hdr marker conceded) :=
  h.produceRec

-- ## Video encoding

protected theorem Keeps.skipEnc {id} : Keeps s₀ (skipEnc s id) := h.encCount

protected theorem Keeps.startEnc {id e0 start} : Keeps s₀ (startEnc s id e0 start) := by
  unfold Machine.startEnc
  dsimp only
  split
  · exact h.setEnc.skipEnc
  · refine .ite h.setEnc ?_
    split
    · exact h.attemptEnc
    · exact .ite h.attemptEnc.requestAll h.setEnc.slotRefused.skipEnc

protected theorem Keeps.execEncPictureStart {channel} : Answers s₀ (execEncPictureStart channel s) := by
  refine .next ?_
  split
  · exact h
  · refine .ite h ?_
    split
    · exact .ite h.setEnc.startEnc h.setEnc
    · exact .ite h.setEnc (.ite h h.setEnc.skipEnc)

protected theorem Keeps.rowCoded {id e p g r n intra} : Keeps s₀ (rowCoded s id e p g r n intra) := by
  unfold Machine.rowCoded
  dsimp only
  exact h.nextFree.setEnc.resumeTasks

protected theorem Keeps.execEncBlockRow {channel layer segment nbits intra} :
    Answers s₀ (execEncBlockRow channel layer segment nbits intra s) := by
  refine .next ?_
  split
  · split
    · exact h
    · split
      · exact h
      · split
        · exact h
        · exact .ite h h.rowCoded
  · exact h

protected theorem Keeps.encDeadline {channel} : Keeps s₀ (encDeadline s channel) := by
  unfold Machine.encDeadline
  split
  · exact h
  · split
    · exact h
    · exact .ite h (.ite (h.foldl fun _ _ h1 => h1.resolveEntry) (.ite h h.setEnc))

protected theorem Keeps.execEncLastRowDeadline {channel} : Answers s₀ (execEncLastRowDeadline channel s) :=
  .next h.encDeadline

protected theorem Keeps.outputPackets {e p first hs} : Keeps s₀ (outputPackets s e p first hs) := by
  induction hs generalizing s first with
  | nil => exact h
  | cons f hs ih => exact ih h.producePacket

protected theorem Keeps.encEvents {id e p} : Keeps s₀ (encEvents s id e p) := by
  unfold Machine.encEvents
  extract_lets above s1 s2 s3
  have h1 : Keeps s₀ s1 := .ite h.encEvent h
  have h2 : Keeps s₀ s2 := .ite h1.encEvent h1
  have h3 : Keeps s₀ s3 := .ite h2.encEvent h2
  exact .ite h3.encEvent h3

protected theorem Keeps.finishEnc {id e p packets} : Keeps s₀ (finishEnc s id e p packets) :=
  ((((h.setEnc.foldl fun _ _ h1 => h1.encCount).updEnc).foldl fun _ _ h1 => h1.bumpC).encEvents).outputPackets

protected theorem Keeps.execEncPictureFinal {channel packets} : Answers s₀ (execEncPictureFinal channel packets s) := by
  refine .next ?_
  split
  · exact h
  · split
    · exact h
    · exact .ite h h.finishEnc.settle

protected theorem Keeps.encCreateWith {c ws} : Keeps s₀ (encCreateWith s c ws).state := h.guarded h.overwritten.setEnc

protected theorem Keeps.execEncCreate {c block} : Answers s₀ (execEncCreate c block s) := by
  refine .next ?_
  refine h.runRing fun h1 => ?_
  refine h1.guarded ?_
  split
  · exact h1.encCreateWith
  · exact h1.hostFailure

protected theorem Keeps.execEncModify {c} : Answers s₀ (execEncModify c s) :=
  .next (h.runRing fun h1 => h1.guarded h1.updEnc)

protected theorem Keeps.execEncDestroy {c} : Answers s₀ (execEncDestroy c s) :=
  .next (h.runRing fun h1 => h1.guarded (.ite h1.updEnc.cancelTasks h1.updEnc))

protected theorem Keeps.execEncRefresh {c} : Answers s₀ (execEncRefresh c s) :=
  .next (h.runRing fun h1 => h1.guarded h1.encRequest)

-- ## Audio

protected theorem Keeps.seatEvents {g old new predicted} : Keeps s₀ (seatEvents s g old new predicted) :=
  h.foldl fun _ _ h1 => .ite h1 h1.mixCount.mixCount.mixCount.bumpC.mixEvent

protected theorem Keeps.dressSeats {g m} : Keeps s₀ (dressSeats s g m) := by
  unfold Machine.dressSeats
  refine h.foldl fun _ _ h1 => ?_
  split
  · exact h1.updCtx
  · exact h1

protected theorem Keeps.dropPrediction {g} : Keeps s₀ (dropPrediction s g) := by
  unfold Machine.dropPrediction
  split
  · exact h
  · exact h.resolveEntry.updMix

protected theorem Keeps.openPrediction {g hdr w boundary} : Keeps s₀ (openPrediction s g hdr w boundary) := by
  unfold Machine.openPrediction
  dsimp only
  split
  · exact h
  · split
    · exact h.openEntry
    · exact h.openEntry.updMix

protected theorem Keeps.legChanged {g leg} : Keeps s₀ (legChanged s g leg) := by
  unfold Machine.legChanged
  split
  · exact .ite h.dropPrediction h
  · exact h

protected theorem Keeps.moveAnchor {g c m later} : Keeps s₀ (moveAnchor s g c m later) := h.updCtx.mixCount

protected theorem Keeps.handOver_ {g m p quietA c} : Keeps s₀ (handOver_ s g m p quietA c).1 := by
  unfold Machine.handOver_
  split
  · exact h
  · exact (Keeps.ite (((Keeps.ite h.setCtx.moveAnchor h.setCtx).setCtx).moveAnchor) (
      (Keeps.ite h.setCtx.moveAnchor h.setCtx).setCtx)).setCtx

protected theorem Keeps.limitMix {g key ctx xs} : Keeps s₀ (limitMix s g key ctx xs) := by
  unfold Machine.limitMix
  split
  · exact h
  · exact h.setMix.mixCount.mixCount.bumpC

protected theorem Keeps.dropFrames {g m n} : Keeps s₀ (dropFrames s g m n) := .ite h h.mixCount.bumpC.mixEvent

protected theorem Keeps.oweFrames {g m p start own decodes conceded} :
    Keeps s₀ (oweFrames s g m p start own decodes conceded) :=
  .ite h.requestAll.updMix.mixCount.bumpC h.requestAll.dropFrames

protected theorem Keeps.applyParams {g} : Keeps s₀ (applyParams s g) := by
  unfold Machine.applyParams
  dsimp only
  split
  · exact h
  · split
    · exact h.setMix
    · exact h.setMix.seatEvents.foldl fun _ _ h1 => h1.dropCtx

protected theorem Keeps.applyBindings {g} : Keeps s₀ (applyBindings s g) := by
  unfold Machine.applyBindings
  refine h.foldl fun t p ht => ?_
  extract_lets old same s0 clear s1 units s2 s3 s4
  have h0 : Keeps s₀ s0 := .ite ht ht.legChanged
  have hclear : ∀ {t' o on}, Keeps s₀ t' → Keeps s₀ (clear t' o on) := by
    intro t' o on ht'
    cases o with
    | none => exact ht'
    | some c => exact ht'.updCtx
  have h1 : Keeps s₀ s1 := hclear h0
  have h2 : Keeps s₀ s2 := h1.update
  have h3 : Keeps s₀ s3 := hclear h2
  have h4 : Keeps s₀ s4 := by
    refine .ite h3 ?_
    split
    · exact h3.updCtx
    · exact h3
  exact h4.completeWhere

protected theorem Keeps.endMix {g} : Keeps s₀ (endMix s g) := by
  unfold Machine.endMix
  split
  · exact h
  · exact (((h.dropPrediction.foldl fun _ _ h1 => h1.dropCtx).update).cancelTasks).completeWhere

protected theorem Keeps.rankLocal {g n p sc} : Keeps s₀ (rankLocal s g n p sc) := by
  unfold Machine.rankLocal
  dsimp only
  split
  · exact h
  · split
    · refine ((Keeps.updMix ?_).seatEvents).openPrediction
      refine .ite ?_ ?_
      · refine Keeps.dropPrediction ?_
        split
        · exact h.resolveEntry.updMix
        · exact h
      · split
        · exact h.resolveEntry.updMix
        · exact h
    · refine (Keeps.updMix ?_).seatEvents
      refine .ite ?_ ?_
      · refine Keeps.dropPrediction ?_
        split
        · exact h.resolveEntry.updMix
        · exact h
      · split
        · exact h.resolveEntry.updMix
        · exact h

protected theorem Keeps.takeReport {code k hold hyst floor member m xs} :
    Keeps s₀ (takeReport s code k hold hyst floor member m xs) :=
  h.update

protected theorem Keeps.sendReport {g n sc} : Keeps s₀ (sendReport s g n sc) := by
  unfold Machine.sendReport
  split
  · exact h
  · split
    · exact h
    · exact .ite h (.ite h.takeReport h.grnSend)

protected theorem Keeps.applyDecision {g n} : Keeps s₀ (applyDecision s g n) := by
  unfold Machine.applyDecision
  split
  · exact h
  · split
    · exact h
    · exact .ite h h.setMix.seatEvents

protected theorem Keeps.buildMixes {g m own sum mine} : Keeps s₀ (buildMixes s g m own sum mine) := by
  unfold Machine.buildMixes
  refine Keeps.foldl ?_ fun _ _ h1 => ?_
  · refine Keeps.updMix ?_
    split
    · exact h.limitMix
    · exact h
  · split
    · exact .ite h1.limitMix h1
    · exact h1

protected theorem Keeps.handAll {g p m sc active samples} : Keeps s₀ (handAll s g p m sc active samples).1 := by
  refine Keeps.updMix (Keeps.foldl_fst (fun a x ha => ?_) h)
  dsimp only
  split
  · exact ha.handOver_
  · exact ha.handOver_

protected theorem Keeps.runPeriod {g n p samples} : Keeps s₀ (runPeriod s g n p samples) := by
  unfold Machine.runPeriod
  split
  · exact h
  next m0 _ =>
    extract_lets own sc s1
    have h1 : Keeps s₀ s1 := .ite h.applyDecision.updMix.sendReport h.rankLocal
    split
    · exact h1
    · extract_lets s2 target active handed s3
      have h3 : Keeps s₀ s3 := h1.dressSeats.handAll.updMix.mixCount.bumpC
      split
      · exact h3
      · extract_lets mine sum
        split
        · exact h3.buildMixes.oweFrames
        · exact (Keeps.ite h3.grnSend h3).updMix.requestAll

protected theorem Keeps.execMixPeriodStart {group samples} : Answers s₀ (execMixPeriodStart group samples s) := by
  refine .next ?_
  split
  · exact h
  · refine .ite ?_ ?_
    · exact h
    · exact .ite h.updMix (.ite h.updMix.endMix.settle h.updMix.applyParams.applyBindings.runPeriod.settle)

omit h in
protected theorem Keeps.serveFrame {a : State × Option (PRec × List Byte)} {o} (ha : Keeps s₀ a.1) :
    Keeps s₀ (serveFrame a o) := by
  unfold Machine.serveFrame
  split
  · exact ha
  · refine ha.foldl fun _ _ ht => ?_
    split
    · exact ht.forwardRec
    · exact ht

protected theorem Keeps.execMixFrameFinal {group ctx packet} : Answers s₀ (execMixFrameFinal group ctx packet s) := by
  refine .next ?_
  split
  · exact h
  · next m _ =>
    split
    · exact h
    · next o _ =>
      have counted : Keeps s₀ (if decide (now s > m.due o.start) then
          mixEvent (bumpC (mixCount (setMix s group { m with owed := m.owed.erase o }) group 0x01 1) (
              oAudCounter 1) 1) group 2
            0x502 (word o.m)
          else setMix s group { m with owed := m.owed.erase o }) :=
        .ite h.setMix.mixCount.bumpC.mixEvent h.setMix
      refine .ite h (.ite h.setMix.dropFrames (.ite counted.updMix ?_))
      exact (Keeps.serveFrame counted.updMix.produceRec).settle

protected theorem Keeps.execMixFrameDrop {group ctx} : Answers s₀ (execMixFrameDrop group ctx s) := by
  refine .next ?_
  split
  · exact h
  · split
    · exact h
    · exact .ite h.setMix.dropFrames h

protected theorem Keeps.makeSeats {conf n} : Keeps s₀ (makeSeats s conf n).1 := by
  induction n generalizing s with
  | zero => exact h
  | succ n ih => exact ih h.setCtx

protected theorem Keeps.joinHome {conf member w2 w3} : Keeps s₀ (joinHome s conf member w2 w3).1 := by
  unfold Machine.joinHome
  split
  · exact h
  · refine .ite_fst h ?_
    split
    · exact .ite_fst h.update h
    · exact h.update

protected theorem Keeps.mixMake {d slot ring conf span ws} : Keeps s₀ (mixMake s d slot ring conf span ws).state :=
  h.makeSeats.setMix

protected theorem Keeps.mixFinish {d slot ring ws} : Keeps s₀ (mixFinish s d slot ring ws).state := h.guarded h.mixMake

protected theorem Keeps.execMixCreate {c block} : Answers s₀ (execMixCreate c block s) := by
  refine .next ?_
  dsimp only
  refine h.runRing fun h1 => ?_
  refine h1.guarded ?_
  split
  · exact h1.guarded (.ite_state h1.peerSend (.ite_state (.ite_state h1.joinHome.mixMake h1) h1.mixMake))
  · exact h1.hostFailure

protected theorem Keeps.execMixModify {c} : Answers s₀ (execMixModify c s) := by
  refine .next ?_
  refine h.runRing fun h1 => ?_
  refine h1.guarded ?_
  split
  · exact h1.makeSeats.updMix
  · exact h1.updMix
  · exact h1.updMix

protected theorem Keeps.execMixDestroy {c} : Answers s₀ (execMixDestroy c s) :=
  .next (h.runRing fun h1 => h1.guarded h1.updMix)

protected theorem Keeps.execAudioLegSet {c} : Answers s₀ (execAudioLegSet c s) := by
  refine .next ?_
  dsimp only
  refine h.runRing fun h1 => ?_
  refine h1.guarded ?_
  split
  · exact h1.completeWhere.update
  · exact h1.completeWhere.update

-- ## Errors

protected theorem Keeps.execSpecCommitDeadline {entry} : Answers s₀ (execSpecCommitDeadline entry s) := by
  refine .next ?_
  split
  · exact h
  · refine .ite ?_ h
    split
    · exact h.concedeLater
    · exact h.resolvePrefetch.settle
    · exact h
    · exact h

protected theorem Keeps.concedeDue : Keeps s₀ (concedeDue s) :=
  .ite h ((h.update.foldl fun _ _ h1 => h1.resolveEntry).settle)

protected theorem Keeps.showNewest : Keeps s₀ (showNewest s) := h.update.foldl fun _ _ h1 => h1.prunePics

protected theorem Keeps.endCycle : Keeps s₀ (endCycle s) := h.concedeDue.showNewest.idle

protected theorem Keeps.execJoinEntryFreed : Answers s₀ (execJoinEntryFreed s) := .next (.ite h.redoAll.settle h)

protected theorem Keeps.execStatRipeness {c} : Answers s₀ (execStatRipeness c s) :=
  .next (h.runRing fun h1 => h1.guarded (.ite h1.update h1))

protected theorem Keeps.execTaskEnd {core} : Answers s₀ (execTaskEnd core s) := .next h.endOn.settle

protected theorem Keeps.yieldStopped {k id} : Keeps s₀ (yieldStopped s k id) := by
  unfold Machine.yieldStopped
  dsimp only
  split
  · exact h.yieldOn
  · exact h.yieldOn.place

protected theorem Keeps.execTaskYield {core why} : Answers s₀ (execTaskYield core why s) := by
  refine .next ?_
  refine Keeps.settle ?_
  split
  · exact h
  · exact .ite h.yieldOn (.ite h.yieldStopped h)

protected theorem Keeps.coreOut {k} : Keeps s₀ (coreOut s k) := by
  unfold Machine.coreOut
  refine Keeps.askWoken ?_
  split
  · refine Keeps.place ?_
    refine h.stopBusy.putCore.foldl fun _ _ h1 => ?_
    split
    · exact h1.toClass
    · exact h1
  · refine h.stopBusy.putCore.foldl fun _ _ h1 => ?_
    split
    · exact h1.toClass
    · exact h1

protected theorem Keeps.execCoreFault {core} : Answers s₀ (execCoreFault core s) :=
  .next (.ite (.ite h.raiseUnit h) (.ite h.raiseUnit h.raiseUnit.coreOut.settle))

protected theorem Keeps.execDiagRun {c} : Answers s₀ (execDiagRun c s) := by
  refine .next ?_
  refine h.runRing fun h1 => ?_
  refine h1.guarded ?_
  refine .ite_state (.ite_state h1 h1.raiseErr) ?_
  split
  · exact h1
  · exact .ite_state h1 h1.update

protected theorem Keeps.unitReturns {u} : Keeps s₀ (unitReturns s u) := by
  unfold Machine.unitReturns
  split
  · exact h.setEngine.raiseErr
  · exact h.setLane.setF.raiseErr
  · exact h.putCore.ask.raiseErr

protected theorem Keeps.execSelfTestDone {u result} : Answers s₀ (execSelfTestDone u result s) :=
  .next (.ite ((Keeps.ite h.update.unitReturns h.update).completeWhere) h)

protected theorem Keeps.statClear {ty n sel} : Keeps s₀ (statClear s ty n sel) :=
  .ite h.updDec (.ite h.updCanvas (.ite h.updEnc h.updMix))

protected theorem Keeps.execStatRead {c} : Answers s₀ (execStatRead c s) :=
  .next (h.runRing fun h1 => h1.guarded (.ite h1.statClear h1))

-- ## Memory

protected theorem Keeps.greyOut {d u} : Keeps s₀ (greyOut s d u) := by
  unfold Machine.greyOut
  split
  · exact h
  · exact .ite h (h.withMemory (memWf_writeBytes _ _ _)).updDec

protected theorem Keeps.backgroundUnit {id u} : Keeps s₀ (backgroundUnit s id u) := by
  have filled : ∀ bs : List Byte, Keeps s₀ { s with memory := { s.memory with dram := writeBytes s.memory.dram u bs } } :=
    fun bs => h.withMemory (memWf_writeBytes _ _ _)
  unfold Machine.backgroundUnit
  split
  · exact h
  · exact .ite h (filled _)

protected theorem Keeps.quarantine {region u} : Keeps s₀ (quarantine s region u).1 := by
  unfold Machine.quarantine
  dsimp only
  refine .ite_fst (.ite_fst h.updCtx h) ?_
  split
  · exact h.nextFree.updCtx
  · exact h

protected theorem Keeps.pick {α : Type} {xs : List α} : Keeps s₀ (pick s xs).1 := h.nextFree

protected theorem Keeps.losePacket : Keeps s₀ (losePacket s) := by
  unfold Machine.losePacket
  have picked : Keeps s₀ (pick s (s.media.streams.filter (fun p => p.2.jb.any (fun b => !b.seqs.isEmpty)))).1 := h.pick
  split
  next hpick =>
    rw [hpick] at picked
    exact picked
  next hpick =>
    rw [hpick] at picked
    exact picked.updCtx.ctxCount

protected theorem Keeps.dropPeriod {g} : Keeps s₀ (dropPeriod s g) := by
  unfold Machine.dropPeriod
  split
  · exact h
  · exact h.updMix.dropFrames

protected theorem Keeps.taskLost {t} : Keeps s₀ (taskLost s t) := by
  unfold Machine.taskLost
  refine .ite h.update ?_
  refine .ite ?_ ?_
  · split
    · exact h.updCanvas.skipCanvas
    · exact h
  · refine .ite h.updEnc.skipEnc.cancelTasks ?_
    split
    · exact h.dropPeriod
    · exact h

protected theorem Keeps.loseTable {u} : Keeps s₀ (loseTable s u) := by
  have task : Keeps s₀ (pick s (s.sched.tasks.filter (fun p => decide (p.2.state ≠ .running)))).1 := h.pick
  have channel : Keeps s₀ (pick s (((List.range 248).map (· + 8)).filter (fun k => getF s (
      oDmaChCfg k) 19 18 == 2))).1 := h.pick
  unfold Machine.loseTable
  refine .ite ?_ ?_
  · split
    next hpick =>
      rw [hpick] at task
      exact task
    next hpick =>
      rw [hpick] at task
      exact task.bumpF.removeTask.taskLost
  · split
    next hpick =>
      rw [hpick] at channel
      exact channel
    next hpick =>
      rw [hpick] at channel
      exact channel.update

protected theorem Keeps.loseAudio : Keeps s₀ (loseAudio s) := by
  unfold Machine.loseAudio
  have picked : Keeps s₀ (pick s (s.units.mixes.filter (fun p => !p.2.owed.isEmpty))).1 := h.pick
  split
  next hpick =>
    rw [hpick] at picked
    exact picked
  next hpick =>
    rw [hpick] at picked
    exact picked.dropPeriod

protected theorem Keeps.uncorrectable {u} : Keeps s₀ (uncorrectable s u) := by
  have marked : Keeps s₀ (bumpF { s with memory := { s.memory with
    poison := if s.memory.poison.contains u then s.memory.poison else s.memory.poison ++ [u]
    uncorrectable := Tbl.put s.memory.uncorrectable (stackOf s u)
      (satAdd 28 (Tbl.count s.memory.uncorrectable (stackOf s u)) 1) } } oMemCount 47 32 1) := h.update.bumpF
  unfold Machine.uncorrectable
  generalize regionOfAddr s u = region
  generalize stackOf s u = st at marked ⊢
  dsimp only
  generalize bumpF _ oMemCount 47 32 1 = t at marked ⊢
  refine .ite marked (Keeps.raiseUnit ?_)
  refine .ite_fst marked.quarantine (.ite_fst (.pair marked.losePacket) (.ite_fst (.pair marked.loseAudio)
    (.ite_fst (.pair marked.loseTable.settle) ?_)))
  split
  · exact .pair marked.greyOut
  · exact .pair marked.backgroundUnit
  · exact .pair marked.updEnc
  · exact .pair marked

protected theorem Keeps.startSparing {stack} : Keeps s₀ (startSparing s stack) := h.update

protected theorem Keeps.dieFailed {stack die} : Keeps s₀ (dieFailed s stack die) :=
  .ite h.setF.bumpF.raiseErr.startSparing h.setF.bumpF.raiseErr

protected theorem Keeps.corrected {u die} : Keeps s₀ (corrected s u die) := by
  unfold Machine.corrected
  dsimp only
  exact .ite h.bumpF.update.dieFailed h.bumpF.update

protected theorem Keeps.execScrubRead {found} : Answers s₀ (execScrubRead found s) := by
  refine .next ?_
  dsimp only
  refine .ite h ?_
  refine .ite ?_ ?_
  · refine (Keeps.update ?_).bumpF
    split
    · exact h
    · exact h.corrected
    · exact h.uncorrectable
  · refine Keeps.update ?_
    split
    · exact h
    · exact h.corrected
    · exact h.uncorrectable

protected theorem Keeps.spareGoWrite {stack} : Keeps s₀ (spareGoWrite s stack).1 := .ite_fst h.startSparing h

protected theorem Keeps.execSpareGo {stack} : Answers s₀ (execSpareGo stack s) := .next (h.setupItem h.spareGoWrite)

protected theorem Keeps.execSparingDone : Answers s₀ (execSparingDone s) := by
  refine .next ?_
  dsimp only
  exact .ite h.update.raiseErr h

protected theorem Keeps.partCommitWrite : Keeps s₀ (partCommitWrite s).1 := h.update

protected theorem Keeps.execPartCommit : Answers s₀ (execPartCommit s) := .next (h.setupItem h.partCommitWrite)

protected theorem Keeps.execPartApplied : Answers s₀ (execPartApplied s) := by
  have stored : Keeps s₀ ([oGlbPartA, oGlbPartB, oGlbPartC].foldl (fun s o => setRaw s o (partVal s o)) s) :=
    h.foldl fun _ _ ht => ht.setRaw
  exact .next (.ite (.ite (stored.withMemory (memWf_filter _ _)) (stored.withMemory (memWf_filter _ _))) h)

protected theorem Keeps.exportRecs {limit rs x} : Keeps s₀ (exportRecs s limit rs x).1 := by
  induction rs generalizing s x with
  | nil => exact h
  | cons r rs ih =>
    have read : Keeps s₀ (readRec s r.pos).1 := h.readRec
    rw [exportRecs]
    split
    next hread =>
      rw [hread] at read
      exact ih read
    next hread =>
      rw [hread] at read
      dsimp only
      split
      · exact read
      · exact ih read

protected theorem Keeps.execPreserveExport {c host} : Answers s₀ (execPreserveExport c host s) := by
  refine .next ?_
  dsimp only
  refine h.runRing fun h1 => ?_
  refine h1.guarded ?_
  refine .ite_state h1.exportRecs.prsCount.dramWrite ?_
  split
  · exact h1.exportRecs.prsCount.regionWrite
  · exact h1.hostFailure

protected theorem Keeps.execPreserveQuery {c} : Answers s₀ (execPreserveQuery c s) :=
  .next (h.runRing fun h1 => h1.guarded (.ite_state h1 (.ite_state h1 (.ite_state h1 h1))))

protected theorem Keeps.execMemQuery {c} : Answers s₀ (execMemQuery c s) := by
  refine .next ?_
  dsimp only
  exact h.runRing fun h1 => h1.guarded (.ite_state h1 (.ite_state h1.nextFree h1))

-- ## The DMA engine

protected theorem Keeps.setChan {ch c} : Keeps s₀ (setChan s ch c) := h.update

protected theorem Keeps.updChan {ch f} : Keeps s₀ (updChan s ch f) := h.setChan

protected theorem Keeps.setXfer {id x} : Keeps s₀ (setXfer s id x) := h.update

protected theorem Keeps.dmaOverrun : Keeps s₀ (dmaOverrun s) := h.bumpF

protected theorem Keeps.dmaRefused : Keeps s₀ (dmaRefused s) := h.bumpF

protected theorem Keeps.armDma {t} : Keeps s₀ (armDma s t) := h.armEvent.bumpF

protected theorem Keeps.reachHead {ch} : Keeps s₀ (reachHead s ch) := by
  unfold Machine.reachHead
  split
  · exact h
  · split
    · exact h
    · exact .ite h h.setXfer.armDma

protected theorem Keeps.reachPages {id x} : Keeps s₀ (reachPages s id x) := by
  unfold Machine.reachPages
  split
  · exact h.setXfer
  · exact .ite (h.setXfer.foldl fun _ _ h1 => h1.foldl fun _ _ h2 => h2.pullHeld) h.setXfer

protected theorem Keeps.askLines {id x lines} : Keeps s₀ (askLines s id x lines) := by
  unfold Machine.askLines
  refine h.foldl fun _ _ h1 => ?_
  refine h1.foldl fun _ _ h2 => ?_
  refine .ite ?_ (.ite (h2.foldl fun _ _ h3 => h3.grnSendAcked) h2)
  split
  · exact h2.sendRoce
  · exact h2

protected theorem Keeps.grantLines {id n} : Keeps s₀ (grantLines s id n) := by
  unfold Machine.grantLines
  split
  · exact h
  · exact h.reachPages.askLines

protected theorem Keeps.lineOut {id x i off n bs} : Keeps s₀ (lineOut s id x i off n bs) :=
  h.foldl fun _ _ h1 => .ite h1 (.ite h1.dramWrite (.ite h1.regionWrite (h1.foldl fun _ _ h2 => h2.grnSendAcked)))

protected theorem Keeps.countBytes {ch n} : Keeps s₀ (countBytes s ch n) := h.updChan.bumpC

protected theorem Keeps.moveBytes {id fuel n} : Keeps s₀ (moveBytes s id fuel n) := by
  induction fuel generalizing s n with
  | zero => rw [moveBytes]; exact h
  | succ fuel ih =>
    rw [moveBytes.eq_def]
    dsimp only
    split
    · next heq => cases heq
    · exact h
    · next heq _ =>
      cases heq
      refine .ite h ?_
      split
      · split
        · exact h
        · exact ih h.setXfer
      · exact ih h.lineOut.setXfer.countBytes

protected theorem Keeps.serveChannel {ch} : Keeps s₀ (serveChannel s ch) := by
  unfold Machine.serveChannel
  split
  · exact h
  · exact h.moveBytes.update

protected theorem Keeps.serveUntil {id n} : Keeps s₀ (serveUntil s id n) := by
  induction n generalizing s with
  | zero => exact h
  | succ n ih =>
    refine .ite ?_ h
    split
    · exact h
    · exact ih h.serveChannel

protected theorem Keeps.serveXfer {id} : Keeps s₀ (serveXfer s id) := h.serveUntil

protected theorem Keeps.startProg {ch n armAt} : Keeps s₀ (startProg s ch n armAt) :=
  .ite h.dmaRefused (.ite h.updChan.postEvent h.update.setXfer.updChan.grantLines)

protected theorem Keeps.pendTrigger {ch} : Keeps s₀ (pendTrigger s ch) := .ite h.updChan h.dmaOverrun

protected theorem Keeps.fireTrigger {ch armAt} : Keeps s₀ (fireTrigger s ch armAt) := .ite h.startProg h.pendTrigger

protected theorem Keeps.moveGranted {id} : Keeps s₀ (moveGranted s id) := by
  unfold Machine.moveGranted
  split
  · exact h
  · exact .ite h.serveXfer h

protected theorem Keeps.takeRequest {ch} : Keeps s₀ (takeRequest s ch) := by
  unfold Machine.takeRequest
  dsimp only
  split
  · split
    · exact h.startProg.moveGranted
    · exact h.startProg
  · exact .ite h.grantLines.moveGranted h.pendTrigger

protected theorem Keeps.servePending {ch n} : Keeps s₀ (servePending s ch n) := by
  induction n generalizing s with
  | zero => exact h
  | succ n ih =>
    refine .ite h (.ite ?_ (.ite (ih h.setChan.startProg) h))
    split
    · exact .ite (ih h.setChan.takeRequest) h
    · exact ih h.setChan.takeRequest

protected theorem Keeps.closeXfer {id x status cancelled} : Keeps s₀ (closeXfer s id x status cancelled) :=
  .ite h.update.updChan.bumpC.completeWhere (.ite h.update.updChan.bumpC h.update.updChan.bumpC.postEvent)

protected theorem Keeps.abortXfers : Keeps s₀ (abortXfers s) := h.update.foldl fun _ _ h1 => h1.closeXfer

protected theorem Keeps.endXfer {id status cancelled} : Keeps s₀ (endXfer s id status cancelled) := by
  unfold Machine.endXfer
  split
  · exact h
  · exact (((Keeps.ite (h.closeXfer.foldl fun _ _ h1 => h1.fireTrigger) h.closeXfer).servePending).reachHead).settle

protected theorem Keeps.execDmaSubmit {c} : Answers s₀ (execDmaSubmit c s) :=
  .next (h.runRing fun h1 => h1.guarded h1.update.setXfer.updChan.reachHead)

protected theorem Keeps.startHead {k} : Keeps s₀ (startHead s k) := by
  unfold Machine.startHead
  split
  · exact h
  · exact .ite h.setXfer.grantLines.reachHead.settle h

protected theorem Keeps.execDmaTransferStart {ch} : Answers s₀ (execDmaTransferStart ch s) := .next h.startHead

protected theorem Keeps.failPoisoned {id u} : Keeps s₀ (failPoisoned s id u) := h.uncorrectable.endXfer

protected theorem Keeps.finishXfer {id} : Keeps s₀ (finishXfer s id) := by
  unfold Machine.finishXfer
  split
  · exact h
  · exact .ite h.endXfer h

protected theorem Keeps.stopped {id} : Keeps s₀ (stopped s id) := by
  unfold Machine.stopped
  split
  · exact h
  · split
    · exact h.finishXfer
    · refine .ite h ?_
      refine .ite h.reachPages ?_
      split
      · exact h.failPoisoned
      · exact h

protected theorem Keeps.execDmaTransferDone {id host} : Answers s₀ (execDmaTransferDone id host s) := by
  refine .next ?_
  split
  · exact h
  · refine .ite h ?_
    refine .ite ?_ (.ite h h.serveXfer.stopped)
    split
    · exact .ite h h.setXfer.serveXfer.stopped
    · exact h.endXfer
    · exact h.endXfer

protected theorem Keeps.freeBytes {n} : Keeps s₀ (freeBytes s n).1 := by
  induction n generalizing s with
  | zero => exact h
  | succ n ih => exact ih h.nextFree

protected theorem Keeps.movePrefix {id n} : Keeps s₀ (movePrefix s id n) := by
  unfold Machine.movePrefix
  split
  · exact h
  · exact ((Keeps.ite_fst h.freeBytes h).setXfer).moveBytes

protected theorem Keeps.execDmaTransferError {id cause written} :
    Answers s₀ (execDmaTransferError id cause written s) := by
  refine .next ?_
  split
  · exact h
  · refine .ite h ?_
    refine Keeps.endXfer ?_
    split
    · exact h.movePrefix.uncorrectable
    · exact h.movePrefix

protected theorem Keeps.cancelXfer {id x} : Keeps s₀ (cancelXfer s id x) := .ite h.endXfer h.nextFree.movePrefix.endXfer

protected theorem Keeps.execDmaCancel {c} : Answers s₀ (execDmaCancel c s) :=
  .next (h.runRing fun h1 => h1.guarded (h1.foldl fun _ _ h2 => h2.cancelXfer))

protected theorem Keeps.execDmaQuery {c} : Answers s₀ (execDmaQuery c s) := .next (h.runRing fun h1 => h1.guarded h1)

protected theorem Keeps.armChannel {ch} : Keeps s₀ (armChannel s ch) := h.setChan

protected theorem Keeps.fireArm {k} : Keeps s₀ (fireArm s k) := by
  unfold Machine.fireArm
  split
  · exact h
  · exact .ite h.updChan.fireTrigger.settle h

protected theorem Keeps.dmaCommitWrite {ch} : Keeps s₀ (dmaCommitWrite s ch).1 := by
  unfold Machine.dmaCommitWrite
  generalize commitResult s ch = r
  have fired : Keeps s₀ (if r = 1 then fireArm s ch else s) := .ite h.fireArm h
  dsimp only
  generalize (if r = 1 then fireArm s ch else s) = t at fired ⊢
  have stored : Keeps s₀ ((setRegs ch).foldl (fun u o => setRaw u o (pendVal u o))
      (setRaw t oDmaChCommitStatus (word (r * 2 ^ 8 + ch)))) := fired.setRaw.foldl fun _ _ ht => ht.setRaw
  generalize List.foldl _ _ _ = u at stored ⊢
  refine .ite_fst (.pair fired.setRaw) (.pair ?_)
  exact .ite (.ite stored.update.updChan.updChan.armChannel stored.update.updChan.updChan) stored.update.updChan

protected theorem Keeps.execDmaChCommit {ch} : Answers s₀ (execDmaChCommit ch s) := .next (h.setupItem h.dmaCommitWrite)

protected theorem Keeps.dmaCfgWrite {ch v} : Keeps s₀ (dmaCfgWrite s ch v).1 :=
  .ite_fst (.pair h) (.ite_fst (.pair (.ite h.setRaw.armChannel h.setRaw)) (.ite_fst (.pair h.setRaw.updChan) (
      .pair h.setRaw)))

protected theorem Keeps.execDmaChannelEnable {ch v} : Answers s₀ (execDmaChannelEnable ch v s) :=
  .next (h.setupItem h.dmaCfgWrite)

protected theorem Keeps.execDmaArmTrigger {ch} : Answers s₀ (execDmaArmTrigger ch s) := .next h.fireArm

protected theorem Keeps.channelRequest {ch} : Keeps s₀ (channelRequest s ch) :=
  .ite h.takeRequest (.ite h.dmaOverrun h.setChan)

protected theorem Keeps.execDmaRequest {src obj} : Answers s₀ (execDmaRequest src obj s) :=
  .next (.ite ((h.foldl fun _ _ h1 => h1.channelRequest).settle) h)

protected theorem Keeps.takeHeld {ch n} : Keeps s₀ (takeHeld s ch n) := by
  induction n generalizing s with
  | zero => exact h
  | succ n ih => exact ih h.takeRequest

protected theorem Keeps.openWindow {k} : Keeps s₀ (openWindow s k) := by
  unfold Machine.openWindow
  dsimp only
  split
  · exact h
  · exact .ite h.setChan.takeHeld.settle h

protected theorem Keeps.execDmaWindowOpen {ch} : Answers s₀ (execDmaWindowOpen ch s) := .next h.openWindow

protected theorem Keeps.closeWindow {k} : Keeps s₀ (closeWindow s k) := by
  unfold Machine.closeWindow
  dsimp only
  split
  · exact h
  · refine .ite ?_ h
    refine Keeps.settle ?_
    split
    · exact .ite h.setChan.endXfer h.setChan
    · exact h.setChan

protected theorem Keeps.execDmaWindowClose {ch} : Answers s₀ (execDmaWindowClose ch s) := .next h.closeWindow

protected theorem Keeps.sendAck {dst kind seq status record} : Keeps s₀ (sendAck s dst kind seq status record) :=
    h.grnSend

-- ## Bridge time

protected theorem Keeps.timeEvent {kind port w1 rest n} : Keeps s₀ (timeEvent s kind port w1 rest n) := by
  induction n with
  | zero => exact h
  | succ n ih =>
    rw [timeEvent]
    dsimp only
    split
    · exact ih
    · exact .ite ih (.ite ih.postOrDrop ih.postRec)

/-- A new INCR keeps the range of R49 when it lies in it. -/
protected theorem Keeps.setIncr {v} (hv : IncrOk v.toNat) : Keeps s₀ (setIncr s v) := by
  have stepped : Keeps s₀ { noteTime s with time := s.time.reanchor v } := ⟨h.pending_eq, fun _ => hv, h.mem⟩
  exact (Keeps.ite (stepped.update) stepped).timeEvent

protected theorem Keeps.tbIncrWrite {v} : Keeps s₀ (tbIncrWrite s v).1 := by
  cases hbad : incrBad v with
  | true =>
    rw [tbIncrWrite, if_pos hbad]
    exact h
  | false =>
    have hv : IncrOk v.toNat := (incrBad_eq_false_iff v).mp hbad
    cases hcmd : (thisCycle s).incrCmd with
    | true =>
      rw [tbIncrWrite_of_incrCmd hv hcmd]
      exact .pair h.timeEvent
    | false =>
      rw [tbIncrWrite_of_incrOk hv hcmd]
      exact .pair (h.setIncr hv)

protected theorem Keeps.cmdSetIncr {v} (hv : IncrOk v.toNat) : Keeps s₀ (cmdSetIncr s v) :=
  (h.setIncr hv).update

protected theorem Keeps.concedePassed {e} : Keeps s₀ (concedePassed s e) := by
  unfold Machine.concedePassed
  split
  · exact h
  · split
    · exact h.resolvePrefetch
    · exact h.concedeLater
    · exact h.resolveEntry
    · exact h

protected theorem Keeps.fireOneShot {e} : Keeps s₀ (fireOneShot s e) := by
  unfold Machine.fireOneShot
  split
  · exact h.concedePassed
  · exact h.bumpF.tryReady
  · exact h.canvasDeadline
  · exact .ite h.encDeadline h
  · exact h.bumpF.startHead
  · exact h.bumpF.fireArm
  · exact h.bumpF.openWindow
  · exact h.bumpF.closeWindow
  · exact h.gateChange

protected theorem Keeps.moveMixes {new} : Keeps s₀ (moveMixes s new).1 := by
  refine Keeps.foldl_fst (fun a p ha => ?_) h
  dsimp only
  split
  · exact ha
  · exact ha.setMix

protected theorem Keeps.moveArms {new} : Keeps s₀ (moveArms s new).1 := by
  refine Keeps.foldl_fst (fun a p ha => ?_) h
  dsimp only
  split
  · exact ha
  · split
    · exact ha
    · exact .ite ha.setChan.fireArm ha.setChan

protected theorem Keeps.movePort {port old new} : Keeps s₀ (movePort s port old new).1 := by
  unfold Machine.movePort
  dsimp only
  split
  · exact h
  · exact h.setMac

protected theorem Keeps.moveBefore {port new} : Keeps s₀ (moveBefore s port new).1 := by
  unfold Machine.moveBefore
  split
  · exact .ite_fst h.setMac h
  · exact h

protected theorem Keeps.ppsRise {sec} : Keeps s₀ (ppsRise s sec) := by
  unfold Machine.ppsRise
  dsimp only
  exact h.update.emit

protected theorem Keeps.ppsLow : Keeps s₀ (ppsLow s) := by
  unfold Machine.ppsLow
  dsimp only
  exact .ite h.update.emit h

protected theorem Keeps.ppsArm : Keeps s₀ (ppsArm s) := h.update

protected theorem Keeps.movePps {new} : Keeps s₀ (movePps s new).1 := by
  unfold Machine.movePps
  dsimp only
  split
  · exact h
  · exact .ite_fst h h.ppsRise

protected theorem Keeps.stepForward {old} : Keeps s₀ (stepForward s old).1 := by
  unfold Machine.stepForward
  extract_lets new es b0 b1 fired s1 late m a g0 g1 p skipped started s2
  have hfired : Keeps s₀ fired := h.moveBefore.moveBefore.foldl fun _ _ ht => ht.fireOneShot
  have h2 : Keeps s₀ s2 := hfired.askWoken.moveMixes.moveArms.movePort.movePort.movePps.lateEvents
  exact .pair (Keeps.ite h2 h2.bumpF.raiseBit).settle

protected theorem Keeps.applyStep {sec frac} : Keeps s₀ (applyStep s sec frac).1 := by
  unfold Machine.applyStep
  extract_lets amount old noted s0 s1 r
  have h0 : Keeps s₀ s0 := h.noteTime.update
  have h1 : Keeps s₀ s1 := .ite h0 h0.ppsArm
  have hr : Keeps s₀ r.1 := .ite_fst h1.stepForward h1
  exact .pair hr.timeEvent

protected theorem Keeps.cmdStep {sec frac} : Keeps s₀ (cmdStep s sec frac).1 := h.applyStep.update

protected theorem Keeps.snapWrite : Keeps s₀ (snapWrite s) := h.setRaw.setRaw

protected theorem Keeps.stepGoWrite {force snap} : Keeps s₀ (stepGoWrite s force snap).1 := by
  unfold Machine.stepGoWrite
  dsimp only
  exact .ite_fst h (.ite h.applyStep.snapWrite h.applyStep)

protected theorem Keeps.execTimeRead {c} : Answers s₀ (execTimeRead c s) := .next (h.runRing fun h1 => h1.guarded h1)

protected theorem Keeps.execTimeSetIncr {c} : Answers s₀ (execTimeSetIncr c s) := by
  refine .next (h.runRing fun {t} ht => ?_)
  by_cases hv : IncrOk c.w1.toNat
  · exact ht.guarded (ht.cmdSetIncr hv)
  · have hbad : firstFail [(incrBad c.w1, 0x130)] = some 0x130 := by rw [incrBad_of_not_incrOk hv]; rfl
    unfold Machine.guarded
    rw [firstFail, hbad]
    cases reservedBad c 0 [full]
    · exact ht
    · exact ht

protected theorem Keeps.execTimeStep {c} : Answers s₀ (execTimeStep c s) :=
  .next (h.runRing fun h1 => h1.guarded h1.cmdStep)

protected theorem Keeps.execTimeSubscribe {c} : Answers s₀ (execTimeSubscribe c s) :=
  .next (h.runRing fun h1 => h1.guarded h1.setSlot)

protected theorem Keeps.execTimePathAck {c} : Answers s₀ (execTimePathAck c s) :=
  .next (h.runRing fun h1 => h1.guarded (.ite h1.setF h1))

protected theorem Keeps.execStepGo {force snap} : Answers s₀ (execStepGo force snap s) :=
    .next (h.setupItem h.stepGoWrite)

protected theorem Keeps.execSnap : Answers s₀ (execSnap s) := .next (h.setupItem h.snapWrite)

protected theorem Keeps.execTbIncrWrite {v} : Answers s₀ (execTbIncrWrite v s) := .next (h.setupItem h.tbIncrWrite)

protected theorem Keeps.setPtpState {port st} : Keeps s₀ (setPtpState s port st) := h.setPtp.update

protected theorem Keeps.ptpPortWrite {port v} : Keeps s₀ (ptpPortWrite s port v).1 :=
    .ite_fst h h.setRaw.setPtpState.setPtp

protected theorem Keeps.execPtpPortWrite {port v} : Answers s₀ (execPtpPortWrite port v s) :=
  .next (h.setupItem h.ptpPortWrite)

protected theorem Keeps.ptpDrop {port} : Keeps s₀ (ptpDrop s port) := .ite h.setPtp h

protected theorem Keeps.offsetSample {port rx origin correction} :
    Keeps s₀ (offsetSample s port rx origin correction) :=
  h.setPtp.timeEvent.setPtpState

protected theorem Keeps.execPtpSync {port domain seq twoStep origin correction} :
    Answers s₀ (execPtpSync port domain seq twoStep origin correction s) :=
  .next (.ite h.ptpDrop (.ite h (.ite h.setPtp h.offsetSample)))

protected theorem Keeps.execPtpFollowUp {port id origin correction} :
    Answers s₀ (execPtpFollowUp port id origin correction s) := by
  refine .next ?_
  dsimp only
  refine .ite h.ptpDrop ?_
  split
  · exact h
  · exact h.setPtp.offsetSample

protected theorem Keeps.pathDelay {port m} : Keeps s₀ (pathDelay s port m) :=
  .ite h.setPtp (.ite (.ite h.setPtp.raiseBit.timeEvent h.setPtp) h.setPtp)

protected theorem Keeps.execPtpDelayResp {port id m} : Answers s₀ (execPtpDelayResp port id m s) := by
  refine .next ?_
  dsimp only
  refine .ite h.ptpDrop ?_
  split
  · exact h
  · refine .ite h ?_
    split
    · exact h.setPtp.pathDelay
    · exact h.setPtp

protected theorem Keeps.execPtpAnnounce {port domain clockIdentity state} :
    Answers s₀ (execPtpAnnounce port domain clockIdentity state s) := by
  unfold Machine.execPtpAnnounce
  refine .next (.ite h.ptpDrop ?_)
  extract_lets p st found own s1 q s2
  have h1 : Keeps s₀ s1 := h.setPtp.setPtpState
  have h2 : Keeps s₀ s2 := .ite h1.setPtp h1
  exact .ite h2.timeEvent h2

protected theorem Keeps.execAnnounceTimeout {port} : Answers s₀ (execAnnounceTimeout port s) :=
  .next (.ite h (.ite h.setPtp.setPtpState.timeEvent h.setPtp.setPtpState))

protected theorem Keeps.sendPtp {port m} : Keeps s₀ (sendPtp s port m) := h.update

protected theorem Keeps.execPtpMessageTimer {port kind} : Answers s₀ (execPtpMessageTimer port kind s) := by
  refine .next ?_
  refine .ite h ?_
  split
  · exact .ite h h.setPtp.sendPtp
  · exact .ite h h.setPtp.sendPtp
  · exact .ite h h.setPtp.sendPtp
  · exact .ite h h.setPtp.sendPtp

protected theorem Keeps.execPtpDelayReq {port domain seq peer} : Answers s₀ (execPtpDelayReq port domain seq peer s) :=
  .next (.ite h.ptpDrop (.ite (.ite h.sendPtp h) (.ite h.sendPtp h)))

protected theorem Keeps.execPpsInEdge {falling} : Answers s₀ (execPpsInEdge falling s) := by
  refine .next ?_
  dsimp only
  exact .ite h (.ite h.bumpF h.update.raiseBit.timeEvent)

protected theorem Keeps.execPpsOutRise : Answers s₀ (execPpsOutRise s) := by
  refine .next ?_
  split
  · exact h
  · exact .ite h.ppsRise h

protected theorem Keeps.execPpsOutFall : Answers s₀ (execPpsOutFall s) := by
  refine .next ?_
  split
  · exact h
  · exact .ite h.ppsLow h

protected theorem Keeps.freezeOsc {st} : Keeps s₀ (freezeOsc s st) := h.update

protected theorem Keeps.execRef10Valid : Answers s₀ (execRef10Valid s) := .next (.ite h.nextFree.update h)

protected theorem Keeps.execRef10Locked : Answers s₀ (execRef10Locked s) := by
  refine .next ?_
  dsimp only
  exact .ite h.update.timeEvent h

protected theorem Keeps.execRef10Lost : Answers s₀ (execRef10Lost s) := .next (.ite h.freezeOsc.timeEvent h)

-- ## The bramble

protected theorem Keeps.updGrnPort {p f} : Keeps s₀ (updGrnPort s p f) := h.setGrnPort

protected theorem Keeps.grnReceive {f kind open_} : Keeps s₀ (grnReceive s f kind open_).1 := by
  unfold Machine.grnReceive
  dsimp only
  exact .ite_fst h (.ite_fst h.grnPortCount (.ite_fst h.grnPortCount.grnPortCount h.grnPortCount))

protected theorem Keeps.grnPass {f} : Keeps s₀ (grnPass s f) := .ite h.grnPortCount h.grnEmit

protected theorem Keeps.grnNote {f kind status record} : Keeps s₀ (grnNote s f kind status record) := h.update

protected theorem Keeps.grnTake {f kind open_} : Keeps s₀ (grnTake s f kind open_).1 := by
  unfold Machine.grnTake
  dsimp only
  refine .ite_fst ?_ ?_
  · exact h.grnReceive
  · refine .ite_fst ?_ ?_
    · exact .ite_fst h.grnReceive (.ite_fst h.grnReceive.grnPass h.grnReceive.grnPass.grnNote)
    · exact .ite_fst h.grnReceive h.grnReceive.grnPass

protected theorem Keeps.grnAcked {f kind} {act : State → State × Nat × List Byte}
    (hact : ∀ {t}, Keeps s₀ t → Keeps s₀ (act t).1) : Keeps s₀ (grnAcked s f kind act) := by
  refine .ite h.grnTake (.ite (hact h.grnTake) ?_)
  split
  · exact h.grnTake.sendAck
  · exact (hact h.grnTake).grnNote.sendAck

protected theorem Keeps.helloSend {p} : Keeps s₀ (helloSend s p) := .ite h h.update.setGrnPort.grnEmit

protected theorem Keeps.execHelloSend {west} : Answers s₀ (execHelloSend west s) := .next h.helloSend

protected theorem Keeps.execHello {f age} : Answers s₀ (execHello f age s) :=
  .next (.ite h.grnReceive h.grnReceive.updGrnPort)

protected theorem Keeps.execGrinalLinkUp {west} : Answers s₀ (execGrinalLinkUp west s) := .next (.ite h.setGrnPort h)

protected theorem Keeps.execGrinalLinkAbsent {west linkDown} : Answers s₀ (execGrinalLinkAbsent west linkDown s) :=
  .next (.ite h (.ite ((((Keeps.ite h.grnLinkOff h.updGrnPort).updGrnPort).grnPortCount).brambleEvent) (
      .ite h.grnLinkOff h.updGrnPort)))

protected theorem Keeps.execUnwrap {west} : Answers s₀ (execUnwrap west s) := by
  refine .next ?_
  dsimp only
  split
  · exact h
  · exact .ite h.setGrnPort.brambleEvent h

protected theorem Keeps.setRoster {roster master epoch listed} : Keeps s₀ (setRoster s roster master epoch listed) :=
  .ite ((Keeps.ite h.update.brambleEvent h.update).brambleEvent) (.ite h.update.brambleEvent h.update)

protected theorem Keeps.sendJoin : Keeps s₀ (sendJoin s) := h.update.grnSend

protected theorem Keeps.execJoinRepeat : Answers s₀ (execJoinRepeat s) := .next (.ite h.sendJoin h)

protected theorem Keeps.conflict {kind} : Keeps s₀ (conflict s kind) := h.brambleEvent

protected theorem Keeps.execJoin {f mac} : Answers s₀ (execJoin f mac s) :=
  .next (.ite h.grnTake (.ite h.grnTake.sendAck.conflict h.grnTake.update))

protected theorem Keeps.sendBeacon {master} : Keeps s₀ (sendBeacon s master) := h.update.grnSend

protected theorem Keeps.becomeMaster {roster acting} : Keeps s₀ (becomeMaster s roster acting) := h.update.setRoster

protected theorem Keeps.detach : Keeps s₀ (detach s) := h.update

protected theorem Keeps.execBeaconSend : Answers s₀ (execBeaconSend s) := by
  refine .next ?_
  refine .ite h ?_
  refine .ite (.ite h.becomeMaster.sendBeacon h) ?_
  refine .ite h ?_
  refine .ite h.detach ?_
  split
  · exact h.sendBeacon.update
  · exact (Keeps.ite h h.setRoster).sendBeacon

protected theorem Keeps.execMemberLoss {m} : Answers s₀ (execMemberLoss m s) := .next (.ite h.setRoster.update h)

protected theorem Keeps.execBeaconLoss : Answers s₀ (execBeaconLoss s) :=
  .next (.ite h (.ite h.becomeMaster.grnCount h.detach))

protected theorem Keeps.reclaimWrite : Keeps s₀ (reclaimWrite s) := .ite h.update h

protected theorem Keeps.execReclaim : Answers s₀ (execReclaim s) := .next (h.setupItem h.reclaimWrite)

protected theorem Keeps.joinStart : Keeps s₀ (joinStart s) := h.update

protected theorem Keeps.leaveBramble : Keeps s₀ (leaveBramble s) := h.update

protected theorem Keeps.grnCfgWrite {v} : Keeps s₀ (grnCfgWrite s v).1 := by
  unfold Machine.grnCfgWrite
  dsimp only
  refine .ite_fst ?_ ?_
  · exact h
  · refine .ite ?_ ?_
    · exact (Keeps.ite h.setRaw.joinStart (.ite h.setRaw.leaveBramble h.setRaw)).reclaimWrite
    · exact .ite h.setRaw.joinStart (.ite h.setRaw.leaveBramble h.setRaw)

protected theorem Keeps.execGrnEnable {v} : Answers s₀ (execGrnEnable v s) := .next (h.setupItem h.grnCfgWrite)

protected theorem Keeps.beaconSample {f} : Keeps s₀ (beaconSample s f) := h.timeEvent

protected theorem Keeps.beaconOn {f} : Keeps s₀ (beaconOn s f).1 := h.nextFree

protected theorem Keeps.takeBeacon {f} : Keeps s₀ (takeBeacon s f) := by
  unfold Machine.takeBeacon
  extract_lets me roster master listed g s1 g1 s2 t gt t' gt' s3 s4
  have h1 : Keeps s₀ s1 := h.update
  have h2 : Keeps s₀ s2 := h1.update
  have h3 : Keeps s₀ s3 := .ite h2.setRoster.update h2.setRoster.update
  have h4 : Keeps s₀ s4 := .ite h3.beaconSample h3
  exact .ite h1 (.ite h1.update.becomeMaster (.ite h4.sendJoin h4))

protected theorem Keeps.execBeacon {f} : Answers s₀ (execBeacon f s) := by
  unfold Machine.execBeacon
  refine .next (.ite h.grnReceive ?_)
  extract_lets g s1
  have h1 : Keeps s₀ s1 := h.grnReceive.beaconOn.grnPass
  exact .ite h1 (.ite (.ite h1.grnNote.update.conflict h1.grnNote) h1.grnNote.takeBeacon)

protected theorem Keeps.peerGo {i d block} : Keeps s₀ (peerGo s i d block).state := by
  unfold Machine.peerGo
  dsimp only
  exact .ite_state h.legCreateFinish (.ite_state h.layersFinish (.ite_state h.decFinish h.mixFinish))

protected theorem Keeps.peerEnd {i d status} : Keeps s₀ (peerEnd s i d status) := by
  unfold Machine.peerEnd
  refine Keeps.settle ?_
  split
  · exact h.completeInflight.releaseMirror
  · exact h.completeInflight

protected theorem Keeps.unackedEnd {u status} : Keeps s₀ (unackedEnd s u status) := by
  have removed : Keeps s₀ { s with grn := { s.grn with unacked := s.grn.unacked.erase u } } := h.update
  unfold Machine.unackedEnd
  dsimp only
  split
  · exact .ite removed.finishXfer removed.endXfer
  · refine .ite removed ?_
    split
    · exact removed
    · next i d b _ =>
      refine .ite removed.peerEnd ?_
      have went : Keeps s₀ (peerGo { s with grn := { s.grn with unacked := s.grn.unacked.erase u } } i d b).state :=
        removed.peerGo
      split
      next hreply =>
        rw [hreply] at went
        exact (show Keeps s₀ _ from went).completeInflight.settle
      next hwaits =>
        rw [hwaits] at went
        exact went

protected theorem Keeps.execAck {f} : Answers s₀ (execAck f s) := by
  refine .next ?_
  dsimp only
  refine .ite h.grnTake ?_
  split
  · exact h.grnTake.grnCount.unackedEnd
  · exact .ite h.grnTake.update.conflict h.grnTake

protected theorem Keeps.execAckTimeout {seq} : Answers s₀ (execAckTimeout seq s) := by
  refine .next ?_
  split
  · exact h
  · exact .ite h (.ite h.update.grnEmit h.grnCount.unackedEnd)

protected theorem Keeps.peerMsg {f op} {act : State → State × Nat × Word} (hact : ∀ {t},
    Keeps s₀ t → Keeps s₀ (act t).1) :
    Keeps s₀ (peerMsg s f op act) := by
  refine .ite h (h.grnAcked fun ht => ?_).settle
  dsimp only
  split
  · exact hact ht
  · exact ht

protected theorem Keeps.confAttach {member w} : Keeps s₀ (confAttach s member w).1 := by
  unfold Machine.confAttach
  split
  · exact h
  · exact .ite_fst h h.update

protected theorem Keeps.execConfAttach {f} : Answers s₀ (execConfAttach f s) :=
    .next (h.peerMsg fun h1 => h1.confAttach)

protected theorem Keeps.confDetach {member w} : Keeps s₀ (confDetach s member w).1 := by
  unfold Machine.confDetach
  split
  · exact h
  · exact h.update

protected theorem Keeps.execConfDetach {f} : Answers s₀ (execConfDetach f s) :=
    .next (h.peerMsg fun h1 => h1.confDetach)

protected theorem Keeps.streamSubscribe {member w1 w2} : Keeps s₀ (streamSubscribe s member w1 w2).1 := by
  unfold Machine.streamSubscribe
  split
  · exact h
  · exact .ite_fst h.updCtx (.ite_fst h h.updCtx)

protected theorem Keeps.execStreamSubscribe {f} : Answers s₀ (execStreamSubscribe f s) :=
  .next (h.peerMsg fun h1 => h1.streamSubscribe)

protected theorem Keeps.execKeyPictureRequest {f} : Answers s₀ (execKeyPictureRequest f s) := by
  refine .next ?_
  refine h.peerMsg fun h1 => ?_
  split
  · exact h1
  · exact h1.keyRequest

protected theorem Keeps.fetchFor {member c first n} : Keeps s₀ (fetchFor s member c first n).1 := by
  induction n generalizing s first with
  | zero => exact h
  | succ n ih =>
    have read : ∀ o : Option PRec, Keeps s₀ (match o with
        | some x => readRec s x.pos
        | none => (s, none)).1 := by
      rintro (_ | x)
      · exact h
      · exact h.readRec
    refine ih ?_
    split
    · split
      · exact (read _).grnSend
      · exact read _
    · exact read _

protected theorem Keeps.execPreserveFetch {f} : Answers s₀ (execPreserveFetch f s) := by
  refine .next ?_
  dsimp only
  refine h.peerMsg fun h1 => ?_
  split
  · exact h1
  · exact .ite_fst h1 h1.fetchFor

protected theorem Keeps.execMixJoin {f} : Answers s₀ (execMixJoin f s) := by
  refine .next ?_
  refine h.peerMsg fun h1 => ?_
  split
  · exact h1
  · exact h1.joinHome

protected theorem Keeps.execMedia {f hdr} : Answers s₀ (execMedia f hdr s) := by
  refine .next ?_
  dsimp only
  refine .ite h.grnTake ?_
  split
  · exact h.grnTake
  · refine .ite h.grnTake ?_
    split
    · exact h.grnTake.ctxCount.ctxCount
    · exact h.grnTake.ctxCount.ctxCount.storePacket.settle

protected theorem Keeps.execMirrorGapTimeout {ctx} : Answers s₀ (execMirrorGapTimeout ctx s) := by
  refine .next ?_
  dsimp only
  split
  · exact h
  · split
    · exact h
    · split
      · exact h
      · exact .ite h h.updCtx.grnCount.peerSend

protected theorem Keeps.execRankReport {f} : Answers s₀ (execRankReport f s) :=
    .next (.ite h.grnTake h.grnTake.takeReport)

protected theorem Keeps.followPrediction {g b w} : Keeps s₀ (followPrediction s g b w) := by
  unfold Machine.followPrediction
  dsimp only
  split
  · exact h
  · split
    · split
      · exact h
      · exact .ite h.resolveEntry.updMix (.ite h h.dropPrediction)
    · refine .ite ?_ ?_
      · split
        · exact h
        · exact .ite h.resolveEntry.updMix (.ite h h.dropPrediction)
      · refine Keeps.openPrediction ?_
        split
        · exact h
        · exact .ite h.resolveEntry.updMix (.ite h h.dropPrediction)

protected theorem Keeps.decide_ {code b ws} : Keeps s₀ (decide_ s code b ws) :=
  h.foldl fun _ _ h1 => h1.updMix.followPrediction

protected theorem Keeps.execSeatDecision {f} : Answers s₀ (execSeatDecision f s) :=
  .next (.ite h.grnTake h.grnTake.decide_.settle)

protected theorem Keeps.execSeatMerge {group} : Answers s₀ (execSeatMerge group s) := by
  refine .next ?_
  split
  · exact h
  · exact .ite h h.update.grnSend.decide_.settle

protected theorem Keeps.execDecisionMissing {group} : Answers s₀ (execDecisionMissing group s) := by
  refine .next ?_
  split
  · exact h
  · split
    · exact .ite h.dropPrediction.settle h
    · exact h

protected theorem Keeps.execPartialMix {f} : Answers s₀ (execPartialMix f s) :=
  .next (.ite h.grnTake (h.grnTake.foldl fun _ _ h1 => .ite h1 h1.updMix))

protected theorem Keeps.buildSpan {g m n p seats} : Keeps s₀ (buildSpan s g m n p seats) :=
  h.grnCount.updMix.buildMixes.oweFrames

protected theorem Keeps.execPartialMixDeadline {group} : Answers s₀ (execPartialMixDeadline group s) := by
  refine .next ?_
  split
  · exact h
  · split
    · exact h
    · exact .ite h.buildSpan.settle h

protected theorem Keeps.execDmaWrite {f} : Answers s₀ (execDmaWrite f s) := by
  have judged : ∀ p : State → Bool, Answers s₀ (.next (grnAcked s f 7 fun s =>
      if p s then (dramWrite s f.a.toNat f.payload, 0, []) else (s, 0x1A2, []))) :=
    fun p => .next (h.grnAcked fun ht => .ite_fst (.pair ht.dramWrite) (.pair ht))
  exact judged fun s => insideAny s (endpointRegions false) f.a.toNat f.payload.length

protected theorem Keeps.execDmaRead {f} : Answers s₀ (execDmaRead f s) := by
  refine .next ?_
  dsimp only
  exact (h.grnAcked fun h1 => .ite_fst h1 (.ite_fst h1.sendData h1.pullHeld.update)).settle

protected theorem Keeps.execDmaData {f} : Answers s₀ (execDmaData f s) := by
  refine .next ?_
  refine .ite h.grnTake ?_
  split
  · exact h.grnTake
  · exact h.grnTake.setXfer

protected theorem Keeps.execBrambleQuery {c} : Answers s₀ (execBrambleQuery c s) := by
  refine .next ?_
  refine h.runRing fun h1 => ?_
  refine h1.guarded ?_
  split
  · exact h1
  · exact h1
  · exact h1.setSlot

-- ## The management port

protected theorem Keeps.mgmtFlush : Keeps s₀ (mgmtFlush s) := .ite h.update.emits h

protected theorem Keeps.mgmtSend {f} : Keeps s₀ (mgmtSend s f) := h.update.mgmtFlush

protected theorem Keeps.execMgmtLinkChange {up full half} : Answers s₀ (execMgmtLinkChange up full half s) := by
  refine .next ?_
  refine .ite h ?_
  split
  · exact h.update.mgmtFlush
  · exact h.update

protected theorem Keeps.execMgmtArp {f} : Answers s₀ (execMgmtArp f s) := by
  refine .next ?_
  refine .ite h ?_
  split
  · exact h.mgmtSend
  · exact h

protected theorem Keeps.execMgmtEcho {f} : Answers s₀ (execMgmtEcho f s) := by
  refine .next ?_
  refine .ite h ?_
  split
  · exact h.mgmtSend
  · exact h.bumpF
  · exact h

protected theorem Keeps.execMgmtDrop {f} : Answers s₀ (execMgmtDrop f s) := by
  refine .next ?_
  refine .ite h ?_
  split
  · exact h.bumpF
  · exact h.bumpF
  · exact h

protected theorem Keeps.mgmtNext : Keeps s₀ (mgmtNext s) := h.update

protected theorem Keeps.execMgmtTransmit {c} : Answers s₀ (execMgmtTransmit c s) := by
  refine .next ?_
  refine .ite h ?_
  refine .ite h.mgmtFlush ?_
  split
  · exact h
  · exact h
  · exact h.mgmtNext.emit
  · exact h.mgmtNext.emit.bumpF
  · exact .ite h.mgmtNext.emit.bumpF h.update.emit.nextFree

protected theorem Keeps.execMgmtBackoffExpiry : Answers s₀ (execMgmtBackoffExpiry s) := by
  refine .next ?_
  split
  · exact .ite h.update h
  · exact h

-- ## Power

protected theorem Keeps.resolveAll : Keeps s₀ (resolveAll s) :=
  (((h.foldl fun _ _ h1 => h1.resolveEntry).foldl fun _ _ h1 => h1.dropPrediction).foldl fun _ _ h1 =>
      h1.dropPrefetch).update

protected theorem Keeps.arrive {st} : Keeps s₀ (arrive s st) := h.update.endHandling

protected theorem Keeps.enterQuiet : Keeps s₀ (enterQuiet s) := h.resolveAll.stopCores.settle.update.arrive

protected theorem Keeps.passOver : Keeps s₀ (passOver s) := h.update

protected theorem Keeps.enterActive : Keeps s₀ (enterActive s) := h.arrive.passOver.startCores

protected theorem Keeps.stopDomains : Keeps s₀ (stopDomains s) := (h.foldl fun _ _ h1 => h1.dropCtx).update

protected theorem Keeps.dropLinks : Keeps s₀ (dropLinks s) := h.foldl fun _ _ h1 => .ite h1.linkFalls.emit h1

protected theorem Keeps.finishLanes : Keeps s₀ (finishLanes s) := h.foldl fun _ _ h1 => .ite h1.endPacket h1

protected theorem Keeps.closeHost : Keeps s₀ (closeHost s) := h.abortXfers.abortHost.sendLast.sendLast

protected theorem Keeps.enterDormant : Keeps s₀ (enterDormant s) :=
  h.closeHost.flushAll.finishLanes.leaveBramble.dropLinks.stopDomains.arrive

protected theorem Keeps.beginLeaving {st} : Keeps s₀ (beginLeaving s st) := h.completeFetched.update

protected theorem Keeps.beginDormant : Keeps s₀ (beginDormant s) := h.beginLeaving

protected theorem Keeps.grnWake {p} : Keeps s₀ (grnWake s p) := .ite h h.grnPlugInit

protected theorem Keeps.bringUp : Keeps s₀ (bringUp s) := by
  unfold Machine.bringUp
  extract_lets s1 s2
  have h1 : Keeps s₀ s1 := h.foldl fun _ _ ht => (Keeps.ite ht ht.plugInit).grnWake
  have h2 : Keeps s₀ s2 := .ite h1.joinStart h1
  exact h2.foldl fun _ _ ht => .ite ht.armChannel ht

protected theorem Keeps.wake {st} : Keeps s₀ (wake s st) := .ite h.update.arrive.bringUp.stopCores
    h.update.arrive.bringUp

protected theorem Keeps.headFor {st} : Keeps s₀ (headFor s st) := h.update

protected theorem Keeps.requestedRestart : Keeps s₀ (requestedRestart s) := h.beginLeaving

protected theorem Keeps.armWindfall : Keeps s₀ (armWindfall s) := h.update

protected theorem Keeps.stateReqWrite {r} : Keeps s₀ (stateReqWrite s r).1 := by
  unfold Machine.stateReqWrite
  dsimp only
  refine .ite_fst h ?_
  refine .ite_fst h ?_
  refine .ite_fst h ?_
  split
  · exact h.headFor
  · exact h.headFor
  · exact .ite_fst h h.headFor
  · exact .ite_fst h h.headFor
  · exact h.beginDormant
  · exact h.beginDormant
  · exact h.update.requestedRestart
  · exact h.armWindfall.requestedRestart
  · exact h
  · exact h
  · exact h
  · exact h.requestedRestart
  · exact h.armWindfall.requestedRestart
  · exact h

protected theorem Keeps.stateItem {r} : Keeps s₀ (stateItem s r) := .ite h.stateReqWrite.emit h

protected theorem Keeps.execStateReqActive : Answers s₀ (execStateReqActive s) := .next h.stateItem

protected theorem Keeps.execStateReqQuiet : Answers s₀ (execStateReqQuiet s) := .next h.stateItem

protected theorem Keeps.execStateReqDormant : Answers s₀ (execStateReqDormant s) := .next h.stateItem

protected theorem Keeps.execStateReqRestart : Answers s₀ (execStateReqRestart s) := .next h.stateItem

protected theorem Keeps.execStateReqWindfall : Answers s₀ (execStateReqWindfall s) := .next h.stateItem

protected theorem Keeps.execStateTransitionDone : Answers s₀ (execStateTransitionDone s) := by
  refine .next ?_
  refine .ite h ?_
  split
  · exact h
  · exact h.enterDormant
  · exact h.closeHost.restart
  · exact .ite h.wake (.ite h.enterQuiet h)
  · exact .ite h.wake h.enterActive
  · exact h

protected theorem Keeps.enterWindfall {reason} : Keeps s₀ (enterWindfall s reason) := h.update

protected theorem Keeps.setImage {b x} : Keeps s₀ (setImage s b x) := .ite h.update h.update

protected theorem Keeps.mapSpare {f} : Keeps s₀ (mapSpare s f) := by
  unfold Machine.mapSpare
  split
  · exact h.update
  · exact h.update
  · exact .ite h.update h

protected theorem Keeps.releaseTime : Keeps s₀ (releaseTime s) := by
  obtain ⟨hpending, _, hmem⟩ := h
  have nominal : IncrOk 94447329657393 := ⟨by decide, by decide⟩
  refine ⟨hpending, fun _ => ?_, hmem⟩
  unfold Machine.releaseTime State.IncrInv
  dsimp only
  split
  · split
    · exact nominal
    next hgood => exact (incrBad_eq_false_iff _).mp (Bool.not_eq_true _ ▸ hgood)
  · exact nominal

protected theorem Keeps.applyProfile : Keeps s₀ (applyProfile s) :=
  ((h.update.foldl fun _ _ h1 => .ite h1 h1.updChan).foldl fun _ _ h1 => .ite h1.setPtpState h1).foldl fun _ _ h1
      => .ite h1.gateCommitWrite h1

protected theorem Keeps.failStart {cause} : Keeps s₀ (failStart s cause) := h.countFailedStart.restart

protected theorem Keeps.runStart {f b} : Keeps s₀ (runStart s f b) := by
  unfold Machine.runStart
  extract_lets cause s1
  have h1 : Keeps s₀ s1 := .ite h h.setImage
  exact .ite h1.failStart (.ite h1.failStart h1.update.nextFree.releaseTime.mapSpare.applyProfile.plugInit.plugInit)

protected theorem Keeps.lostHistory : Keeps s₀ (lostHistory s) := h.update.nextFree

protected theorem Keeps.startModule {f} : Keeps s₀ (startModule s f) := by
  unfold Machine.startModule
  dsimp only
  refine .ite ((Keeps.ite h.update.lostHistory h.update).enterWindfall) ?_
  split
  · exact h.update.enterWindfall
  · exact .ite h.update.enterWindfall h.update.runStart

protected theorem Keeps.setPsu {k x} : Keeps s₀ (setPsu s k x) := .ite h.update h.update

protected theorem Keeps.mainsReach {k} : Keeps s₀ (mainsReach s k) := .ite h.setPsu.nextFree.update h.setPsu.nextFree

protected theorem Keeps.execMainsOn {inlet} : Answers s₀ (execMainsOn inlet s) := .next (.ite h.mainsReach h)

protected theorem Keeps.startFans : Keeps s₀ (startFans s) := h.update

protected theorem Keeps.execPwrOk {f} : Answers s₀ (execPwrOk f s) := .next (.ite h.startFans.startModule h)

protected theorem Keeps.becomeReady : Keeps s₀ (becomeReady s) :=
  .ite h.update.enterDormant (.ite h.update.arrive.bringUp.stopCores h.update.arrive.bringUp)

protected theorem Keeps.execReady : Answers s₀ (execReady s) := .next (.ite h.becomeReady h)

protected theorem Keeps.execReadyTimeout : Answers s₀ (execReadyTimeout s) := .next (.ite h.failStart h)

protected theorem Keeps.execStartConfirmed : Answers s₀ (execStartConfirmed s) := .next (.ite h.update h)

protected theorem Keeps.execModuleErrorRestart {code instanceNo detailA detailB} :
    Answers s₀ (execModuleErrorRestart code instanceNo detailA detailB s) :=
  .next (.ite h h.raiseErr.moduleAction)

protected theorem Keeps.losePower : Keeps s₀ (losePower s) := .ite h h.update.raiseErr

protected theorem Keeps.execPowerFail : Answers s₀ (execPowerFail s) := .next h.update.losePower

protected theorem Keeps.execRailsDrop : Answers s₀ (execRailsDrop s) := by
  refine .next ?_
  split
  · exact h
  · exact .ite h h.coldState.update

protected theorem Keeps.speedUp : Keeps s₀ (speedUp s) := h.update

protected theorem Keeps.remeasure {k} : Keeps s₀ (remeasure s k) := h.setPsu.setPsu.nextFree

protected theorem Keeps.supplyOut {k x outputFault inputLost} : Keeps s₀ (supplyOut s k x outputFault inputLost) :=
  .ite h.setPsu.remeasure (.ite h.setPsu.remeasure.speedUp.raiseUnit h.setPsu.remeasure.losePower)

protected theorem Keeps.execSupplyFailed {k outputFault inputLost removed} :
    Answers s₀ (execSupplyFailed k outputFault inputLost removed s) :=
  .next (.ite h h.supplyOut)

protected theorem Keeps.execSupplyInserted {k codeOk mains} : Answers s₀ (execSupplyInserted k codeOk mains s) :=
  .next (.ite h (.ite (.ite h.setPsu.mainsReach h.setPsu) ((Keeps.ite h.setPsu.mainsReach h.setPsu).supplyOut)))

protected theorem Keeps.execSupplyInputRestored {k} : Answers s₀ (execSupplyInputRestored k s) :=
  .next (.ite h.mainsReach h)

protected theorem Keeps.setFan {k x} : Keeps s₀ (setFan s k x) := h.update

protected theorem Keeps.fanOut {k x rpm} : Keeps s₀ (fanOut s k x rpm) := .ite h.setFan h.setFan.speedUp.raiseUnit

protected theorem Keeps.execFanFailed {f rpm removed} : Answers s₀ (execFanFailed f rpm removed s) :=
  .next (.ite h h.fanOut)

protected theorem Keeps.execFanInserted {f codeOk} : Answers s₀ (execFanInserted f codeOk s) :=
  .next (.ite h (.ite h.fanOut (.ite h.setFan h.setFan.nextFree)))

protected theorem Keeps.execRedundancyRestored {fan k} : Answers s₀ (execRedundancyRestored fan k s) :=
  .next (.ite (.ite h.setFan.raiseErr h) (.ite h.setPsu.raiseErr h))

protected theorem Keeps.fanSpeeds : Keeps s₀ (fanSpeeds s) := h.update

protected theorem Keeps.execFanSpeedReached : Answers s₀ (execFanSpeedReached s) := .next (.ite h h.fanSpeeds.update)

protected theorem Keeps.measured {proc inlet} : Keeps s₀ (measured s proc inlet) := h.update

protected theorem Keeps.execThermalWarning {proc inlet} : Answers s₀ (execThermalWarning proc inlet s) :=
  .next (.ite h (.ite h.measured.raiseErr h.measured))

protected theorem Keeps.overheat : Keeps s₀ (overheat s) := by
  unfold Machine.overheat
  refine .ite h.update ?_
  split
  · exact h.update
  · exact h.update
  · exact h.update
  · exact h.update.arrive
  · exact h.update
  · exact h.update.beginDormant

protected theorem Keeps.execThermalCritical {proc inlet} : Answers s₀ (execThermalCritical proc inlet s) :=
  .next (.ite h (.ite h.measured (.ite h.measured.raiseErr h.measured.raiseErr.overheat)))

protected theorem Keeps.execWindfallButtonPress : Answers s₀ (execWindfallButtonPress s) := .next (.ite h h.update)

protected theorem Keeps.execWindfallButtonFeedback : Answers s₀ (execWindfallButtonFeedback s) := .next (.ite h.emit h)

protected theorem Keeps.execWindfallButtonArm : Answers s₀ (execWindfallButtonArm s) := .next (.ite h.update.emit h)

protected theorem Keeps.execWindfallButtonRelease : Answers s₀ (execWindfallButtonRelease s) :=
  .next (.ite h (.ite h.update.emit h.update))

protected theorem Keeps.lampTestWrite : Keeps s₀ (lampTestWrite s) := h.update.emit

protected theorem Keeps.execLampTest : Answers s₀ (execLampTest s) := .next (.ite h.lampTestWrite.emit h)

protected theorem Keeps.execLampTestEnd : Answers s₀ (execLampTestEnd s) := by
  refine .next ?_
  split
  · exact .ite h h.update.emit
  · exact h

-- ## Security

protected theorem Keeps.setSec {f} : Keeps s₀ (setSec s f) := h.update

protected theorem Keeps.fwBeginWrite {slotB length} : Keeps s₀ (fwBeginWrite s slotB length).1 :=
  .ite_fst (.pair h) (.pair h.setImage.setSec)

protected theorem Keeps.fwDataWrite {v} : Keeps s₀ (fwDataWrite s v).1 := .ite_fst (.pair h) (.pair h.setSec)

protected theorem Keeps.fwVerifyWrite : Keeps s₀ (fwVerifyWrite s).1 := .ite_fst (.pair h) (.pair h.setSec)

protected theorem Keeps.fwActivateWrite : Keeps s₀ (fwActivateWrite s).1 :=
  .ite_fst (.pair h) (.pair ((Keeps.ite h.setImage.update h.setImage).setSec))

protected theorem Keeps.fwAbortWrite : Keeps s₀ (fwAbortWrite s).1 := .pair h.setSec

protected theorem Keeps.fwReverifyWrite {slotB} : Keeps s₀ (fwReverifyWrite s slotB).1 :=
  .ite_fst (.pair h) (.pair h.setSec)

protected theorem Keeps.fwCtrlWrite {v} : Keeps s₀ (fwCtrlWrite s v).1 := by
  unfold Machine.fwCtrlWrite
  split
  · exact h
  · exact h.fwBeginWrite
  · exact h.fwVerifyWrite
  · exact h.fwActivateWrite
  · exact h.fwAbortWrite
  · exact h.fwReverifyWrite
  · exact h

protected theorem Keeps.secItem {r : State × IStatus} (hr : Keeps s₀ r.1) : Keeps s₀ (secItem s r) := .ite hr.emit h

protected theorem Keeps.execFwBegin {slotB length} : Answers s₀ (execFwBegin slotB length s) :=
  .next (h.secItem h.fwBeginWrite)

protected theorem Keeps.execFwData {v} : Answers s₀ (execFwData v s) := .next (h.secItem h.fwDataWrite)

protected theorem Keeps.execFwVerify : Answers s₀ (execFwVerify s) := .next (h.secItem h.fwVerifyWrite)

protected theorem Keeps.execFwActivate : Answers s₀ (execFwActivate s) := .next (h.secItem h.fwActivateWrite)

protected theorem Keeps.execFwAbort : Answers s₀ (execFwAbort s) := .next (h.secItem h.fwAbortWrite)

protected theorem Keeps.execFwReverify {slotB} : Answers s₀ (execFwReverify slotB s) :=
    .next (h.secItem h.fwReverifyWrite)

protected theorem Keeps.execFwVerifyDone {readback} : Answers s₀ (execFwVerifyDone readback s) :=
  .next (.ite h ((Keeps.ite h.setImage (.ite h.setImage h)).setSec))

protected theorem Keeps.execFlashProgramDone : Answers s₀ (execFlashProgramDone s) := .next (.ite h h.setImage.setSec)

protected theorem Keeps.kekLoadWrite {slot len256} : Keeps s₀ (kekLoadWrite s slot len256).1 :=
  .ite_fst h (.pair h.setSec)

protected theorem Keeps.kekClearWrite {slot} : Keeps s₀ (kekClearWrite s slot).1 := .pair h.setSec

protected theorem Keeps.kekCtrlWrite {v} : Keeps s₀ (kekCtrlWrite s v).1 :=
  .ite_fst h (.ite_fst h.kekLoadWrite (.ite_fst h.kekClearWrite h))

protected theorem Keeps.execKekLoad {slot len256} : Answers s₀ (execKekLoad slot len256 s) :=
  .next (h.secItem h.kekLoadWrite)

protected theorem Keeps.execKekClear {slot} : Answers s₀ (execKekClear slot s) := .next (h.secItem h.kekClearWrite)

protected theorem Keeps.execIdentityRead {c host} : Answers s₀ (execIdentityRead c host s) := by
  refine .next ?_
  refine h.runRing fun h1 => ?_
  refine h1.guarded ?_
  refine .ite_state h1 ?_
  refine h1.guarded ?_
  split
  · exact h1.regionWrite
  · exact h1.hostFailure

protected theorem Keeps.execAttestQuote {c request} : Answers s₀ (execAttestQuote c request s) := by
  refine .next ?_
  refine h.runRing fun h1 => ?_
  refine h1.guarded ?_
  split
  · exact h1.guarded h1.regionWrite
  · exact h1.hostFailure

-- ## Registers and set-up

protected theorem Keeps.plainWrite {d o v} : Keeps s₀ (plainWrite s d o v) := .ite h.setRaw h.setRaw.update

protected theorem Keeps.checked {d o v bad} : Keeps s₀ (checked s d o v bad).1 := .ite_fst h h.plainWrite

protected theorem Keeps.profileWrite {v} : Keeps s₀ (profileWrite s v).1 := by
  unfold Machine.profileWrite
  dsimp only
  exact .ite_fst h (.ite_fst h h.update)

protected theorem Keeps.profileDone : Keeps s₀ (profileDone s) := by
  unfold Machine.profileDone
  split
  · exact h
  · refine .ite h.update ?_
    split
    · exact h.update
    · exact h.update

protected theorem Keeps.endSession : Keeps s₀ (endSession s) := h.update

protected theorem Keeps.expire : Keeps s₀ (expire s) := .ite h.endSession.bumpF h

protected theorem Keeps.oxvanCfgSet {d v} : Keeps s₀ (oxvanCfgSet s d v).1 :=
  .ite_fst h (.ite h.plainWrite.expire.update h.plainWrite.expire)

protected theorem Keeps.tbCtrlSet {d v} : Keeps s₀ (tbCtrlSet s d v).1 := by
  have stored : Keeps s₀ (plainWrite s d oTbCtrl v) := h.plainWrite
  have steered : Keeps s₀ (if bitAt v 0 && getB s oTbCtrl 0 then plainWrite s d oTbCtrl v
      else if bitAt v 0 then { plainWrite s d oTbCtrl v with time := { (
          plainWrite s d oTbCtrl v).time with refFrom := now s } }
      else freezeOsc (plainWrite s d oTbCtrl v) .off) := .ite stored (.ite stored.update stored.freezeOsc)
  exact .ite_fst h (.ite_fst (.ite_fst h steered.stepGoWrite) (.ite steered.snapWrite steered))

protected theorem Keeps.ppsOutSet {d v} : Keeps s₀ (ppsOutSet s d v).1 :=
  .ite_fst h (.ite h.plainWrite.ppsArm (.ite h.plainWrite.ppsLow h.plainWrite))

protected theorem Keeps.slotCfgSet {d n o v} : Keeps s₀ (slotCfgSet s d n o v).1 :=
  .ite ((Keeps.ite h.plainWrite.sendRoce h.plainWrite).closeSlot) h.plainWrite

protected theorem Keeps.macCtrlSet {d p o v} : Keeps s₀ (macCtrlSet s d p o v).1 := by
  unfold Machine.macCtrlSet
  dsimp only
  exact .ite_fst h (.ite_fst h.plainWrite ((Keeps.ite h.plainWrite.linkFalls.emit h.plainWrite).plugInit))

protected theorem Keeps.grnPortSet {d p o v} : Keeps s₀ (grnPortSet s d p o v).1 := by
  unfold Machine.grnPortSet
  dsimp only
  exact .ite_fst h.plainWrite ((Keeps.ite h.plainWrite.grnLinkOff h.plainWrite).grnPlugInit)

protected theorem Keeps.mgtCtrlSet {d v} : Keeps s₀ (mgtCtrlSet s d v).1 := .ite_fst h h.plainWrite.update.emit

protected theorem Keeps.mgtAddressSet {d o v} : Keeps s₀ (mgtAddressSet s d o v).1 :=
    .ite h.plainWrite h.plainWrite.update

protected theorem Keeps.memCtrlSet {d v} : Keeps s₀ (memCtrlSet s d v).1 := by
  unfold Machine.memCtrlSet
  dsimp only
  exact .ite_fst h (.ite_fst (.ite_fst h h.plainWrite.spareGoWrite) h.plainWrite)

protected theorem Keeps.writeReg {d i o v} : Keeps s₀ (writeReg s d i o v).1 := by
  unfold Machine.writeReg
  split
  · exact h.stateReqWrite
  · exact h.profileWrite
  · exact .ite_fst h h.plainWrite
  · exact .ite_fst h h.plainWrite
  · exact .ite_fst h h.plainWrite
  · exact .ite_fst h.partCommitWrite h
  · exact h.oxvanCfgSet
  · exact h.tbCtrlSet
  · exact h.tbIncrWrite
  · exact h.ppsOutSet
  · exact h.ptpPortWrite
  · exact h.checked
  · exact h.slotCfgSet
  · exact h.macCtrlSet
  · exact h.checked
  · exact h.plainWrite
  · exact h.checked
  · exact h.checked
  · exact .ite_fst h.gateCommitWrite h
  · exact h.mgtCtrlSet
  · exact h.mgtAddressSet
  · exact h.mgtAddressSet
  · exact h.mgtAddressSet
  · exact h.mgtAddressSet
  · exact .pair h.plainWrite.fillFallback.fillFallback
  · exact h.checked
  · exact h.checked
  · exact h.checked
  · exact h.checked
  · exact h.checked
  · exact .ite_fst h.cipFlushWrite h
  · exact h.checked
  · exact h.checked
  · exact .ite_fst h.checked h.checked.update
  · exact h.checked
  · exact h.putCore
  · exact .ite_fst h.dmaCommitWrite h
  · exact h.dmaCfgWrite
  · exact h.memCtrlSet
  · exact h.grnCfgWrite
  · exact h.checked
  · exact h.grnPortSet
  · exact h.checked
  · exact .ite h.plainWrite.lampTestWrite h.plainWrite
  · exact h.fwCtrlWrite
  · exact h.fwDataWrite
  · exact h.kekCtrlWrite
  · exact .pair h.setSec
  · exact h.plainWrite

protected theorem Keeps.itemWrite {off v} : Keeps s₀ (itemWrite s off v).1 := by
  unfold Machine.itemWrite
  split
  · exact h
  · exact h
  · exact h.writeReg

protected theorem Keeps.runItem {x} : Keeps s₀ (runItem s x).1 := by
  unfold Machine.runItem
  dsimp only
  refine .ite_fst ?_ ?_
  · split
    · exact h.nextFree
    · exact h
  · refine .ite_fst ?_ h.nextFree
    split
    · exact h.itemWrite
    · exact h.itemWrite.nextFree

protected theorem Keeps.runItems {failed xs} : Keeps s₀ (runItems s failed xs).1 := by
  induction xs generalizing s failed with
  | nil => exact h
  | cons x xs ih =>
    rw [runItems]
    split
    · exact ih h.nextFree
    · exact ih h.runItem

protected theorem Keeps.sendOx {m r} : Keeps s₀ (sendOx s m r) := h.mgmtSend

protected theorem Keeps.reply {m st seq} : Keeps s₀ (reply s m st seq) := h.sendOx

protected theorem Keeps.touch : Keeps s₀ (touch s) := h.update

protected theorem Keeps.withMsg {f own g} (hg : ∀ {m t}, Keeps s₀ t → Keeps s₀ (g m t)) :
    Keeps s₀ (withMsg s f own g) := by
  refine .ite h ?_
  split
  · exact .ite h (.ite h.expire.reply (hg h.expire))
  · exact h

protected theorem Keeps.openSession {m} : Keeps s₀ (openSession m s) := .ite h.bumpF.reply h.update.reply

protected theorem Keeps.execOxvanOpen {f} : Answers s₀ (execOxvanOpen f s) := .next (h.withMsg fun h1 => h1.openSession)

protected theorem Keeps.afterReply : Keeps s₀ (afterReply s) := .ite h.endSession h

protected theorem Keeps.runBatch {m} : Keeps s₀ (runBatch s m) := h.runItems.update.touch.sendOx.afterReply

protected theorem Keeps.batch {m} : Keeps s₀ (batch m s) := by
  unfold Machine.batch
  split
  · exact h.reply
  · refine .ite h.reply ?_
    refine .ite h.runBatch ?_
    refine .ite ?_ h.bumpF.reply
    split
    · exact h.touch.sendOx
    · exact h.touch.reply

protected theorem Keeps.execOxvanBatch {f} : Answers s₀ (execOxvanBatch f s) := .next (h.withMsg fun h1 => h1.batch)

protected theorem Keeps.execOxvanClose {f} : Answers s₀ (execOxvanClose f s) :=
  .next (h.withMsg fun h1 => .ite h1.endSession.reply h1.reply)

protected theorem Keeps.execOxvanPing {f} : Answers s₀ (execOxvanPing f s) :=
  .next (h.withMsg fun h1 => .ite h1.touch.reply h1.reply)

protected theorem Keeps.execOxvanDrop {f} : Answers s₀ (execOxvanDrop f s) := .next (.ite h.bumpF h)

protected theorem Keeps.execSessionExpiry : Answers s₀ (execSessionExpiry s) := .next h.expire

protected theorem Keeps.regItem {off v} : Keeps s₀ (regItem s off v) := .ite h.itemWrite.emit.afterReply h

protected theorem Keeps.execRegisterWrite {offset v} : Answers s₀ (execRegisterWrite offset v s) := .next h.regItem

protected theorem Keeps.execProfileSave : Answers s₀ (execProfileSave s) := .next h.regItem

protected theorem Keeps.execProfileClear : Answers s₀ (execProfileClear s) := .next h.regItem

protected theorem Keeps.execProfileSaveDone : Answers s₀ (execProfileSaveDone s) := .next h.profileDone

protected theorem Keeps.execOxvanCfgWrite {v} : Answers s₀ (execOxvanCfgWrite v s) := .next h.regItem

protected theorem Keeps.execMgtCtrlWrite {v} : Answers s₀ (execMgtCtrlWrite v s) := .next h.regItem

protected theorem Keeps.execMgtAddressWrite {reg v} : Answers s₀ (execMgtAddressWrite reg v s) := .next h.regItem

protected theorem Keeps.execSlotDisable {slot} : Answers s₀ (execSlotDisable slot s) := .next h.regItem

protected theorem Keeps.execGateCommit {port} : Answers s₀ (execGateCommit port s) := .next h.regItem

protected theorem Keeps.execCipFlush {lane} : Answers s₀ (execCipFlush lane s) := .next h.regItem

-- ## All rows

/-- The rows of the table, one by one: every command answers a next state, and keeps the three. -/
theorem Keeps.exec (c : Instr) : Answers s₀ (exec c s) := by
  cases c with
  | nop _ => exact h.execNop
  | ringCreate _ => exact h.execRingCreate
  | ringDestroy _ => exact h.execRingDestroy
  | cqCreate _ => exact h.execCqCreate
  | cqDestroy _ => exact h.execCqDestroy
  | regionAdd _ => exact h.execRegionAdd
  | regionRemove _ => exact h.execRegionRemove
  | windowOpen _ => exact h.execWindowOpen
  | windowClose _ => exact h.execWindowClose
  | barrier _ => exact h.execBarrier
  | connInfo _ => exact h.execConnInfo
  | timeRead _ => exact h.execTimeRead
  | timeSetIncr _ => exact h.execTimeSetIncr
  | timeStep _ => exact h.execTimeStep
  | timeSubscribe _ => exact h.execTimeSubscribe
  | timePathAck _ => exact h.execTimePathAck
  | confCreate _ => exact h.execConfCreate
  | confDestroy _ => exact h.execConfDestroy
  | streamCreate _ => exact h.execStreamCreate
  | streamModify _ => exact h.execStreamModify
  | streamDestroy _ => exact h.execStreamDestroy
  | streamQuery _ => exact h.execStreamQuery
  | legCreate _ => exact h.execLegCreate
  | legModify _ => exact h.execLegModify
  | legDestroy _ => exact h.execLegDestroy
  | legLayers _ => exact h.execLegLayers
  | meterSet _ => exact h.execMeterSet
  | shaperSet _ => exact h.execShaperSet
  | keyInstall _ _ => exact h.execKeyInstall
  | keyRetire _ => exact h.execKeyRetire
  | keyQuery _ => exact h.execKeyQuery
  | cipherJob _ _ _ => exact h.execCipherJob
  | decCreate _ => exact h.execDecCreate
  | decModify _ => exact h.execDecModify
  | decDestroy _ => exact h.execDecDestroy
  | decRequestIntra _ => exact h.execDecRequestIntra
  | canvasCreate _ => exact h.execCanvasCreate
  | canvasSetLayers _ _ => exact h.execCanvasSetLayers
  | canvasDestroy _ => exact h.execCanvasDestroy
  | encCreate _ _ => exact h.execEncCreate
  | encModify _ => exact h.execEncModify
  | encDestroy _ => exact h.execEncDestroy
  | encRefresh _ => exact h.execEncRefresh
  | mixCreate _ _ => exact h.execMixCreate
  | mixModify _ => exact h.execMixModify
  | mixDestroy _ => exact h.execMixDestroy
  | audioLegSet _ => exact h.execAudioLegSet
  | dmaSubmit _ => exact h.execDmaSubmit
  | dmaCancel _ => exact h.execDmaCancel
  | dmaQuery _ => exact h.execDmaQuery
  | preserveExport _ _ => exact h.execPreserveExport
  | preserveQuery _ => exact h.execPreserveQuery
  | memQuery _ => exact h.execMemQuery
  | brambleQuery _ => exact h.execBrambleQuery
  | statRead _ => exact h.execStatRead
  | diagRun _ => exact h.execDiagRun
  | statRipeness _ => exact h.execStatRipeness
  | identityRead _ _ => exact h.execIdentityRead
  | attestQuote _ _ => exact h.execAttestQuote
  | confAttach _ => exact h.execConfAttach
  | confDetach _ => exact h.execConfDetach
  | streamSubscribe _ => exact h.execStreamSubscribe
  | keyPictureRequest _ => exact h.execKeyPictureRequest
  | preserveFetch _ => exact h.execPreserveFetch
  | mixJoin _ => exact h.execMixJoin
  | join _ _ => exact h.execJoin
  | hello _ _ => exact h.execHello
  | beacon _ => exact h.execBeacon
  | media _ _ => exact h.execMedia
  | partialMix _ => exact h.execPartialMix
  | rankReport _ => exact h.execRankReport
  | seatDecision _ => exact h.execSeatDecision
  | dmaWrite _ => exact h.execDmaWrite
  | dmaRead _ => exact h.execDmaRead
  | dmaData _ => exact h.execDmaData
  | ack _ => exact h.execAck
  | helloSend _ => exact h.execHelloSend
  | beaconSend => exact h.execBeaconSend
  | joinRepeat => exact h.execJoinRepeat
  | memberLoss _ => exact h.execMemberLoss
  | beaconLoss => exact h.execBeaconLoss
  | reclaim => exact h.execReclaim
  | ackTimeout _ => exact h.execAckTimeout
  | grinalLinkAbsent _ _ => exact h.execGrinalLinkAbsent
  | unwrap _ => exact h.execUnwrap
  | grinalLinkUp _ => exact h.execGrinalLinkUp
  | mirrorGapTimeout _ => exact h.execMirrorGapTimeout
  | seatMerge _ => exact h.execSeatMerge
  | decisionMissing _ => exact h.execDecisionMissing
  | partialMixDeadline _ => exact h.execPartialMixDeadline
  | grnEnable _ => exact h.execGrnEnable
  | cmReq _ _ => exact h.execCmReq
  | rtu _ => exact h.execRtu
  | rtuTimeout _ => exact h.execRtuTimeout
  | mraRepeat _ => exact h.execMraRepeat
  | dreq _ => exact h.execDreq
  | rdmaErrorNak _ => exact h.execRdmaErrorNak
  | rdmaRetryExhausted _ => exact h.execRdmaRetryExhausted
  | holdExpiry _ => exact h.execHoldExpiry
  | cnpReceived _ => exact h.execCnpReceived
  | recoveryPeriodEnd _ => exact h.execRecoveryPeriodEnd
  | ecnCePacket _ => exact h.execEcnCePacket
  | windowRdmaRead _ _ _ _ => exact h.execWindowRdmaRead
  | windowRdmaWrite _ _ _ _ => exact h.execWindowRdmaWrite
  | bootSlotWrite _ _ _ => exact h.execBootSlotWrite
  | bootGo _ => exact h.execBootGo
  | ringPi _ _ _ => exact h.execRingPi
  | cqCi _ _ _ => exact h.execCqCi
  | eqCi _ _ => exact h.execEqCi
  | cqArm _ _ _ => exact h.execCqArm
  | eqArm _ _ => exact h.execEqArm
  | doorbellIgnored _ => exact h.execDoorbellIgnored
  | wakeDelayExpiry _ _ => exact h.execWakeDelayExpiry
  | descriptorFetch _ _ _ => exact h.execDescriptorFetch
  | eventBacklogPost _ _ => exact h.execEventBacklogPost
  | oxvanOpen _ => exact h.execOxvanOpen
  | oxvanBatch _ => exact h.execOxvanBatch
  | oxvanClose _ => exact h.execOxvanClose
  | oxvanPing _ => exact h.execOxvanPing
  | oxvanDrop _ => exact h.execOxvanDrop
  | sessionExpiry => exact h.execSessionExpiry
  | registerWrite _ _ => exact h.execRegisterWrite
  | stepGo _ _ => exact h.execStepGo
  | snap => exact h.execSnap
  | tbIncrWrite _ => exact h.execTbIncrWrite
  | ptpPortWrite _ _ => exact h.execPtpPortWrite
  | stateReqActive => exact h.execStateReqActive
  | stateReqQuiet => exact h.execStateReqQuiet
  | stateReqDormant => exact h.execStateReqDormant
  | stateReqRestart => exact h.execStateReqRestart
  | stateReqWindfall => exact h.execStateReqWindfall
  | stateTransitionDone => exact h.execStateTransitionDone
  | profileSave => exact h.execProfileSave
  | profileSaveDone => exact h.execProfileSaveDone
  | profileClear => exact h.execProfileClear
  | partCommit => exact h.execPartCommit
  | partApplied => exact h.execPartApplied
  | oxvanCfgWrite _ => exact h.execOxvanCfgWrite
  | mgtCtrlWrite _ => exact h.execMgtCtrlWrite
  | mgtAddressWrite _ _ => exact h.execMgtAddressWrite
  | slotDisable _ => exact h.execSlotDisable
  | gateCommit _ => exact h.execGateCommit
  | gateChangeTime _ => exact h.execGateChangeTime
  | gateEntry _ => exact h.execGateEntry
  | cipFlush _ => exact h.execCipFlush
  | spareGo _ => exact h.execSpareGo
  | sparingDone => exact h.execSparingDone
  | scrubRead _ => exact h.execScrubRead
  | dmaChCommit _ => exact h.execDmaChCommit
  | dmaChannelEnable _ _ => exact h.execDmaChannelEnable
  | dmaTransferStart _ => exact h.execDmaTransferStart
  | dmaTransferDone _ _ => exact h.execDmaTransferDone
  | dmaTransferError _ _ _ => exact h.execDmaTransferError
  | dmaArmTrigger _ => exact h.execDmaArmTrigger
  | dmaRequest _ _ => exact h.execDmaRequest
  | dmaWindowOpen _ => exact h.execDmaWindowOpen
  | dmaWindowClose _ => exact h.execDmaWindowClose
  | fwBegin _ _ => exact h.execFwBegin
  | fwData _ => exact h.execFwData
  | fwVerify => exact h.execFwVerify
  | fwVerifyDone _ => exact h.execFwVerifyDone
  | fwActivate => exact h.execFwActivate
  | fwAbort => exact h.execFwAbort
  | fwReverify _ => exact h.execFwReverify
  | kekLoad _ _ => exact h.execKekLoad
  | kekClear _ => exact h.execKekClear
  | lampTest => exact h.execLampTest
  | lampTestEnd => exact h.execLampTestEnd
  | macFrameReceive _ _ => exact h.execMacFrameReceive
  | packetClassify _ => exact h.execPacketClassify
  | arpRequest _ _ => exact h.execArpRequest
  | lockstepCompare _ _ => exact h.execLockstepCompare
  | mediaGateAdmit _ => exact h.execMediaGateAdmit
  | cipherLaneStart _ => exact h.execCipherLaneStart
  | cipherLaneEnd _ _ _ => exact h.execCipherLaneEnd
  | ticketStep _ _ => exact h.execTicketStep
  | fifoPop _ => exact h.execFifoPop
  | streamEnginePacket => exact h.execStreamEnginePacket
  | keyReserveWritten _ => exact h.execKeyReserveWritten
  | shaperEvaluate _ => exact h.execShaperEvaluate
  | txSelect _ => exact h.execTxSelect
  | pauseFrame _ _ _ _ => exact h.execPauseFrame
  | pauseQuantaExpiry _ _ => exact h.execPauseQuantaExpiry
  | pfcRepeat _ => exact h.execPfcRepeat
  | pauseWatchdog _ _ _ => exact h.execPauseWatchdog
  | pauseWatchdogEnd _ _ _ => exact h.execPauseWatchdogEnd
  | plugInsert _ _ => exact h.execPlugInsert
  | plugRemove _ => exact h.execPlugRemove
  | cmisRetry _ => exact h.execCmisRetry
  | dataLinkUp _ => exact h.execDataLinkUp
  | dataLinkDown _ _ => exact h.execDataLinkDown
  | mgmtLinkChange _ _ _ => exact h.execMgmtLinkChange
  | mgmtArp _ => exact h.execMgmtArp
  | mgmtEcho _ => exact h.execMgmtEcho
  | mgmtDrop _ => exact h.execMgmtDrop
  | mgmtTransmit _ => exact h.execMgmtTransmit
  | mgmtBackoffExpiry => exact h.execMgmtBackoffExpiry
  | rtcpSr _ _ _ => exact h.execRtcpSr
  | rtcpRr _ _ _ => exact h.execRtcpRr
  | rtcpNack _ _ => exact h.execRtcpNack
  | rtcpPliFir _ _ => exact h.execRtcpPliFir
  | rtcpCcfb _ _ => exact h.execRtcpCcfb
  | rtcpBye _ _ => exact h.execRtcpBye
  | rtcpReportTimer _ => exact h.execRtcpReportTimer
  | ccfbReportTimer _ => exact h.execCcfbReportTimer
  | nackTimer _ _ => exact h.execNackTimer
  | estimateStale _ => exact h.execEstimateStale
  | pointRateUpdate => exact h.execPointRateUpdate
  | switchInstant _ => exact h.execSwitchInstant
  | jbRelease _ => exact h.execJbRelease
  | pictureDecoded _ _ => exact h.execPictureDecoded
  | redecodeRunDone _ _ => exact h.execRedecodeRunDone
  | taintRequestTimer _ => exact h.execTaintRequestTimer
  | specCommitDeadline _ => exact h.execSpecCommitDeadline
  | joinEntryFreed => exact h.execJoinEntryFreed
  | canvasPictureStart _ => exact h.execCanvasPictureStart
  | composeRowDone _ => exact h.execComposeRowDone
  | composeRowDeadline _ _ => exact h.execComposeRowDeadline
  | encPictureStart _ => exact h.execEncPictureStart
  | encBlockRow _ _ _ _ _ => exact h.execEncBlockRow
  | encLastRowDeadline _ => exact h.execEncLastRowDeadline
  | encPictureFinal _ _ => exact h.execEncPictureFinal
  | mixPeriodStart _ _ => exact h.execMixPeriodStart
  | mixFrameFinal _ _ _ => exact h.execMixFrameFinal
  | mixFrameDrop _ _ => exact h.execMixFrameDrop
  | taskEnd _ => exact h.execTaskEnd
  | taskYield _ _ => exact h.execTaskYield
  | schedTick => exact h.execSchedTick
  | coreFault _ => exact h.execCoreFault
  | tskWindowEnd => exact h.execTskWindowEnd
  | ptpSync _ _ _ _ _ _ => exact h.execPtpSync
  | ptpFollowUp _ _ _ _ => exact h.execPtpFollowUp
  | ptpDelayResp _ _ _ => exact h.execPtpDelayResp
  | ptpAnnounce _ _ _ _ => exact h.execPtpAnnounce
  | announceTimeout _ => exact h.execAnnounceTimeout
  | ptpMessageTimer _ _ => exact h.execPtpMessageTimer
  | ppsInEdge _ => exact h.execPpsInEdge
  | ppsOutRise => exact h.execPpsOutRise
  | ppsOutFall => exact h.execPpsOutFall
  | ref10Valid => exact h.execRef10Valid
  | ref10Locked => exact h.execRef10Locked
  | ref10Lost => exact h.execRef10Lost
  | queueOverflow _ => exact h.execQueueOverflow
  | mainsOn _ => exact h.execMainsOn
  | pwrOk _ => exact h.execPwrOk
  | ready => exact h.execReady
  | readyTimeout => exact h.execReadyTimeout
  | startConfirmed => exact h.execStartConfirmed
  | moduleErrorRestart _ _ _ _ => exact h.execModuleErrorRestart
  | powerFail => exact h.execPowerFail
  | railsDrop => exact h.execRailsDrop
  | supplyFailed _ _ _ _ => exact h.execSupplyFailed
  | supplyInserted _ _ _ => exact h.execSupplyInserted
  | fanFailed _ _ _ => exact h.execFanFailed
  | redundancyRestored _ _ => exact h.execRedundancyRestored
  | thermalWarning _ _ => exact h.execThermalWarning
  | thermalCritical _ _ => exact h.execThermalCritical
  | windfallButtonPress => exact h.execWindfallButtonPress
  | windfallButtonFeedback => exact h.execWindfallButtonFeedback
  | windfallButtonArm => exact h.execWindfallButtonArm
  | windfallButtonRelease => exact h.execWindfallButtonRelease
  | ptpDelayReq _ _ _ _ => exact h.execPtpDelayReq
  | localAckTimeout _ => exact h.execLocalAckTimeout
  | rnrNak _ => exact h.execRnrNak
  | cmisError _ => exact h.execCmisError
  | fanInserted _ _ => exact h.execFanInserted
  | supplyInputRestored _ => exact h.execSupplyInputRestored
  | fanSpeedReached => exact h.execFanSpeedReached
  | flashProgramDone => exact h.execFlashProgramDone
  | selfTestDone _ _ => exact h.execSelfTestDone

end

theorem exec_keeps (c : Instr) (s : State) : ∃ t, exec c s = .next t ∧ Keeps s t := (Keeps.refl s).exec c

theorem step_of_idle {s : State} (hp : s.pending = []) : step s = .next (endCycle s) := by
  rw [step, hp]

theorem step_of_pending {s : State} {c : Instr} {rest : List Instr} (hp : s.pending = c :: rest) :
    step s = exec c { s with pending := rest } := by
  rw [step, hp]

/-- What a step leads to is kept from the state whose queue has lost its front command. -/
theorem keeps_of_step {s t : State} (hstep : step s = .next t) : Keeps { s with pending := s.pending.tail } t := by
  cases hp : s.pending with
  | nil =>
    rw [step_of_idle hp] at hstep
    cases hstep
    have hself : { s with pending := ([] : List Instr).tail } = s := by rw [List.tail_nil, ← hp]
    rw [hself]
    exact (Keeps.refl s).endCycle
  | cons c rest =>
    rw [step_of_pending hp] at hstep
    obtain ⟨t', heq, hkeeps⟩ := exec_keeps c { s with pending := rest }
    cases heq.symm.trans hstep
    exact hkeeps

end Sys2Proof.Machine

open Sys2Proof Sys2Proof.Machine

/-- Settles O60: every row of the table answers a next state and leaves the queue (`exec_keeps`), and so does the idle
cycle. -/
theorem queueOrder : Obligations.queueOrder := by
  unfold Obligations.queueOrder
  refine ⟨fun c s => ?_, fun s t c rest hp hstep => ?_, fun s t hp hstep => ?_⟩
  · obtain ⟨t, hexec, hkeeps⟩ := exec_keeps c s
    exact ⟨t, hexec, hkeeps.pending_eq⟩
  · simpa [hp] using (keeps_of_step hstep).pending_eq
  · simpa [hp] using (keeps_of_step hstep).pending_eq

/-- Settles O58: only rows that write INCR change it, and each first has R49's test (`Keeps.incr`). -/
theorem incrStaysGood : Obligations.incrStaysGood := by
  unfold Obligations.incrStaysGood
  exact fun _ _ hincr hstep => (keeps_of_step hstep).incr hincr

/-- Settles O59: memory changes only by writes and by copies of pages, which keep its canonical form (`Keeps.mem`). -/
theorem memoryStaysGood : Obligations.memoryStaysGood := by
  unfold Obligations.memoryStaysGood
  exact fun _ _ hmem hstep => (keeps_of_step hstep).mem hmem
end

section
/-! Reset, the front command and the idle cycle. -/

namespace Sys2Proof.Machine

/-- A list on whose elements `f` does nothing is left by `map`. -/
theorem map_eq_self {α : Type} {f : α → α} {xs : List α} (hf : ∀ x ∈ xs, f x = x) : xs.map f = xs := by
  rw [List.map_congr_left hf, List.map_id']

theorem concedeDue_of_conceding_nil {s : State} (hnone : s.spec.conceding = []) : concedeDue s = s := by
  rw [concedeDue, hnone, List.isEmpty_nil, if_pos rfl]

section
variable {s : State} (hdecs : ∀ p ∈ s.units.decs, p.2.before = none)

include hdecs in
theorem filter_before_eq_nil : s.units.decs.filter (fun p => p.2.before.isSome) = [] := by
  rw [List.filter_eq_nil_iff]
  intro p hp
  simp [hdecs p hp]

include hdecs in
/-- R81: where no unit has anything new, the end of the cycle shows nothing. -/
theorem showNewest_eq_self (hcanvases : ∀ p ∈ s.units.canvases, p.2.before = none)
    (hencs : ∀ p ∈ s.units.encs, p.2.keyNew = false ∧ p.2.restartNew = false) : showNewest s = s := by
  have hd : s.units.decs.map (fun p => (p.1, { p.2 with before := none })) = s.units.decs :=
    map_eq_self fun p hp => by rw [← hdecs p hp]
  have hc : s.units.canvases.map (fun p => (p.1, { p.2 with before := none })) = s.units.canvases :=
    map_eq_self fun p hp => by rw [← hcanvases p hp]
  have he : s.units.encs.map (fun p => (p.1, { p.2 with
      keyPending := p.2.keyPending || p.2.keyNew, restartPending := p.2.restartPending || p.2.restartNew
      keyNew := false, restartNew := false })) = s.units.encs := by
    refine map_eq_self fun ⟨id, e⟩ hp => ?_
    obtain ⟨hkey, hrestart⟩ := hencs _ hp
    cases e
    cases hkey
    cases hrestart
    simp only [Bool.or_false]
  rw [showNewest, hd, hc, he, filter_before_eq_nil hdecs, List.foldl_nil]

end

theorem idle_of_released {s : State} (hrun : s.time.released = true) : idle s = { s with
    time := { s.time with raw := s.time.raw + 1 }
    power := { s.power with aon := s.power.aon + 1 } } := by
  rw [idle, if_pos hrun]

theorem idle_of_not_released {s : State} (hstill : s.time.released = false) :
    idle s = { s with power := { s.power with aon := s.power.aon + 1 } } := by
  rw [idle, hstill, if_neg Bool.false_ne_true]

end Sys2Proof.Machine

open Sys2Proof Sys2Proof.Machine

/-- Settles O1, by the definition of a step. -/
theorem stepRunsFrontCommand : Obligations.stepRunsFrontCommand := by
  unfold Obligations.stepRunsFrontCommand
  exact fun c rest s => step_of_pending rfl

/-- Settles O2: with nothing to concede and nothing new, the end of the cycle is the count of the clocks. -/
theorem idleStepIsOneCycle : Obligations.idleStepIsOneCycle := by
  unfold Obligations.idleStepIsOneCycle
  intro s hp
  have hstep : step s = .next (idle (showNewest (concedeDue s))) := step_of_idle hp
  refine ⟨hstep, fun hnone hdecs hcanvases hencs => ?_⟩
  rw [concedeDue_of_conceding_nil hnone, showNewest_eq_self hdecs hcanvases hencs] at hstep
  exact ⟨fun hrun => by rw [hstep, idle_of_released hrun], fun hstill => by rw [hstep, idle_of_not_released hstill]⟩

/-- Settles O3, by the values that the register tables give. -/
theorem resetValues : Obligations.resetValues := by
  unfold Obligations.resetValues
  refine ⟨⟨rfl, rfl, rfl, rfl, by decide +kernel, rfl, rfl, rfl, rfl, rfl, rfl, rfl, ?_, ⟨rfl, rfl, rfl⟩, ⟨rfl, rfl, rfl, rfl⟩⟩, ?_⟩
  · decide +kernel
  · decide +kernel

/-- Settles O57: INCR starts at the nominal value, and memory holds nothing. -/
theorem resetIsGood : Obligations.resetIsGood := by
  unfold Obligations.resetIsGood State.IncrInv IncrOk
  exact ⟨⟨by decide, by decide⟩, rfl⟩
end

section
/-! Ring commands, check by check (R135 to R139): a check that passes leaves the answer to the next, the first that fails
is the answer. -/

namespace Sys2Proof.Machine

/-- A check that passes leaves the answer to the next ones. -/
theorem guarded_go {s : State} {p : Bool × Nat} {cs : List (Bool × Nat)} {k b : Body} (hp : p.1 = false)
    (hrest : guarded s cs k = b) : guarded s (p :: cs) k = b := (guarded_pass s p cs k hp).trans hrest

/-- A check that fails is the answer. -/
theorem guarded_stop {s : State} {p : Bool × Nat} {cs : List (Bool × Nat)} {k : Body} (hp : p.1 = true) :
    guarded s (p :: cs) k = .reply s p.2 0 0 := guarded_fail s p cs k hp

/-- A command whose body replies answers that reply. -/
theorem next_reply {s : State} {op : Nat} {c : Cmd} {f : Fetched} {body : State → Body} {s1 : State} {st : Nat}
    {w1 w3 : Word} (hbegins : Begins s op c f) (hbody : body (taken s f) = .reply s1 st w1 w3) :
    (.next (runRing s op c body) : Out) = .next (answered s c s1 st w1 w3) :=
  congrArg Host.Outcome.next (runRing_reply hbegins hbody)

/-- A command whose body waits begins and waits. -/
theorem next_waits {s : State} {op : Nat} {c : Cmd} {f : Fetched} {body : State → Body} {s1 : State} {w : Wait}
    (hbegins : Begins s op c f) (hbody : body (taken s f) = .waits s1 w) :
    (.next (runRing s op c body) : Out) = .next (begun s c f s1 w) :=
  congrArg Host.Outcome.next (runRing_waits hbegins hbody)

theorem decide_le_false {m n : Nat} (h : n < m) : decide (m ≤ n) = false := decide_eq_false (Nat.not_le.2 h)

theorem decide_lt_false {m n : Nat} (h : n ≤ m) : decide (m < n) = false := decide_eq_false (Nat.not_lt.2 h)

/-- A value within bounds passes the check of both. -/
theorem within_check {lo n hi : Nat} (hlo : lo ≤ n) (hhi : n ≤ hi) : (decide (n < lo) || decide (hi < n)) = false := by
  rw [decide_lt_false hlo, decide_lt_false hhi, Bool.or_self]

theorem bne_false {α : Type} [BEq α] [LawfulBEq α] {a b : α} (h : a = b) : (a != b) = false := bne_eq_false_iff_eq.2 h

end Sys2Proof.Machine
end

section
/-! The ring commands of the host interface. -/

namespace Sys2Proof.Machine

theorem windowOpen_inside_check {s : State} {a n : Nat} {write : Bool}
    (hin : insideAny s [2, 3, 4, 5] a n = true ∨ (write = false ∧ insideAny s [9] a n = true)) :
    (!(insideAny s [2, 3, 4, 5] a n) && (write || !(insideAny s [9] a n))) = false := by
  obtain h | ⟨hread, h⟩ := hin
  · simp [h]
  · simp [hread, h]

end Sys2Proof.Machine

open Sys2Proof Sys2Proof.Machine

/-- Settles O4: each command passes its checks in their order, and its body is the effect that R148 gives it. -/
theorem hostRingCommands : Obligations.hostRingCommands := by
  unfold Obligations.hostRingCommands
  refine ⟨fun c s f => ⟨?nop, ?ringCreate, ?cqCreate, ?regionAdd, ?windowOpen, ?windowClose, ?connInfo⟩,
    fun c s f => ⟨?cqDestroy, ?ringDestroy, ?regionRemove, ?barrier⟩⟩
  case nop => exact fun hb hres => next_reply hb (guarded_go hres rfl)
  case ringCreate =>
    intro hb hres hqueue hlo hhi halign hroom
    refine next_reply hb (guarded_go hres ?_)
    exact guarded_go hqueue (guarded_go (within_check hlo hhi) (guarded_go (bne_false halign)
      (guarded_go (decide_le_false hroom) rfl)))
  case cqCreate =>
    intro hb hres hlo hhi halign hroom
    refine next_reply hb (guarded_go hres ?_)
    exact guarded_go (within_check hlo hhi) (guarded_go (bne_false halign) (guarded_go (decide_le_false hroom) rfl))
  case regionAdd =>
    intro hb hres hne hlen hroom
    have hsize : (c.w3 == 0 || decide (c.w3.toNat > 2 ^ 40)) = false := by
      rw [beq_false_of_ne hne, decide_lt_false hlen, Bool.or_self]
    exact next_reply hb (guarded_go hres (guarded_go hsize (guarded_go (decide_le_false hroom) rfl)))
  case windowOpen =>
    intro hb hres hin hne hbase hlen hroom
    have halign : (c.w1.toNat % 4096 != 0 || c.w2.toNat % 4096 != 0) = false := by
      rw [bne_false hbase, bne_false hlen, Bool.or_self]
    refine next_reply hb (guarded_go hres (guarded_go (beq_false_of_ne hne) ?_))
    exact guarded_go (windowOpen_inside_check hin) (guarded_go halign (guarded_go (decide_le_false hroom) rfl))
  case windowClose =>
    intro hb hres hhandle hopen
    refine next_reply hb (guarded_go hres (guarded_go ?_ rfl))
    simp [windowCheck, hhandle, hopen]
  case connInfo => exact fun hb hres => next_reply hb (guarded_go hres rfl)
  case cqDestroy =>
    intro hb hres hhandle hslot hne hqueue hrings
    refine next_reply hb (guarded_go hres (guarded_go ?_ (guarded_go hrings rfl)))
    simp [cqCheck, hhandle, hslot, hne, hqueue]
  case ringDestroy =>
    intro r hb hres hhandle hslot hne hring hstopped
    refine next_waits hb (guarded_go hres (guarded_go ?_ rfl))
    simp [ringCheck, hhandle, hslot, hne, hring, hstopped]
  case regionRemove => exact fun hb hres hregion => next_waits hb (guarded_go hres (guarded_go hregion rfl))
  case barrier => exact fun hb hres => next_waits hb (guarded_go hres rfl)
end

section
/-! Connections, windows, doorbells and fetches of the host interface (chapter 4). -/

namespace Sys2Proof.Machine

-- ## The stages of a ring command

/-- Each row is a ring command whose first check is the one of its reserved bits. -/
theorem exists_body_of_mem_plainRows {r : Nat × (Cmd → Instr) × Nat × List Nat} (hr : r ∈ plainRows) :
    ∃ body : Cmd → State → Body, (∀ c s, exec (r.2.1 c) s = .next (runRing s r.1 c (body c))) ∧
      ∀ c s, reservedBad c r.2.2.1 r.2.2.2 = true → body c s = .reply s 0x101 0 0 := by
  unfold plainRows at hr
  fin_cases hr
  all_goals exact ⟨_, fun _ _ => rfl, fun _ _ hbad => guarded_stop hbad⟩

-- ## The doorbell page

theorem filter_eq_singleton {n k : Nat} {p : Nat → Bool} (hk : k < n) (hp : ∀ i < n, p i = true ↔ i = k) :
    (List.range n).filter p = [k] := by
  have hsame : (List.range n).filter p = (List.range n).filter (· == k) :=
    List.filter_congr fun i hi => by
      rw [Bool.eq_iff_iff, hp i (List.mem_range.1 hi), beq_iff_eq]
  rw [hsame, List.filter_beq, List.count_eq_one_of_mem List.nodup_range (List.mem_range.2 hk), List.replicate_one]

/-- A write of one whole slot of the doorbell page is one doorbell. -/
theorem ringDoorbells_whole {s : State} {slot k : Nat} {data : List Byte} (hk : k < 512) (hlen : data.length = 8) :
    ringDoorbells s slot (8 * k) data = doorbell s slot (8 * k) (BitVec.ofNat 64 (leNat data)) := by
  have hone : (List.range 512).filter (fun i => decide (8 * k < 8 * i + 8) && decide (8 * i < 8 * k + data.length)) = [k] := by
    refine filter_eq_singleton hk fun i _ => ?_
    rw [Bool.and_eq_true, decide_eq_true_eq, decide_eq_true_eq, hlen]
    omega
  rw [ringDoorbells, hone]
  simp [hlen]
  rw [List.take_of_length_le (by omega)]

theorem exec_windowRdmaWrite_doorbell {s : State} {slot : Fin 8} {a : Word} {rkey : BitVec 32} {data : List Byte} {k : Nat}
    (hconn : (getSlot s slot).connected = true) (hlen : data.length = 8)
    (hpage : onDoorbellPage s slot a.toNat 8 rkey = true) (hk : k < 512) (ha : a.toNat % 4096 = 8 * k) :
    exec (.windowRdmaWrite slot a data rkey) s = .next (doorbell s slot (8 * k) (BitVec.ofNat 64 (leNat data))) := by
  refine congrArg Host.Outcome.next ?_
  simp only [hconn, hlen, hpage, ha, Bool.not_true, Bool.false_eq_true, if_false, if_true]
  exact ringDoorbells_whole hk hlen

section
variable (s : State) (slot : Nat) (ring : Fin 64) (v : BitVec 64)

theorem doorbell_ringPi : doorbell s slot (8 * (0x20 + ring)) v = ringPiSet s slot ring (v.setWidth 32) := by
  have hring := ring.isLt
  have hindex : (8 * (0x20 + ring.val) - 0x100) / 8 = ring := by omega
  rw [doorbell, if_neg (by omega), if_neg (by omega), if_pos (by omega), hindex]

theorem doorbell_cqCi : doorbell s slot (8 * (0x60 + ring)) v = cqCiSet s slot ring (v.setWidth 32) := by
  have hring := ring.isLt
  have hindex : (8 * (0x60 + ring.val) - 0x300) / 8 = ring := by omega
  rw [doorbell, if_neg (by omega), if_neg (by omega), if_neg (by omega), if_pos (by omega), hindex]

theorem doorbell_cqArm : doorbell s slot (8 * (0xC0 + ring)) v = cqArmSet s slot ring v := by
  have hring := ring.isLt
  have hindex : 8 * (0xC0 + ring.val) / 8 % 64 = ring := by omega
  rw [doorbell, if_neg (by omega), if_neg (by omega), if_neg (by omega), if_neg (by omega), if_neg (by omega),
    if_pos (by omega), hindex]

end

theorem bootBad_eq_false {va key : BitVec 64} {top : Nat} (halign : bits va 47 0 % 64 = 0) (hlo : 6 ≤ bits key 37 32)
    (hhi : bits key 37 32 ≤ top) : bootBad va key top = false := by
  rw [bootBad, bne_false halign, Bool.false_or, within_check hlo hhi]

theorem fetchLimit_le_batch (r : Ring) (cq : Queue) : fetchLimit r cq ≤ 85 :=
  ((min_le_left _ _).trans (min_le_left _ _)).trans (min_le_right _ _)

theorem fetchLimit_le_spare (r : Ring) (cq : Queue) : fetchLimit r cq ≤ cq.spare :=
  (min_le_left _ _).trans (min_le_right _ _)

theorem onlyPosts_wakeEq (s : State) (slot : Nat) : OnlyPosts s (wakeEq s slot) := by
  unfold wakeEq
  dsimp only
  split
  next => exact .refl s
  next =>
    split
    next => exact .refl s
    next =>
      split
      next => exact ⟨_, _, rfl⟩
      next => exact .refl s

theorem onlyPosts_pushErr (s : State) (slot : Nat) (r : ERec) : OnlyPosts s (pushErr s slot r) := by
  unfold pushErr
  dsimp only
  split
  next => exact .refl s
  next eq _ =>
    refine .trans ?_ (onlyPosts_wakeEq _ slot)
    split
    next => exact ⟨_, _, rfl⟩
    next => exact ⟨_, _, rfl⟩

/-- A record reaches the error state, the note of a MODULE-class error, registers, the cycle and MRAM (R496, R500). -/
structure OnlyRecords (s t : State) : Prop where
  time_eq : t.time = s.time
  media_eq : t.media = s.media
  units_eq : t.units = s.units
  memory_eq : t.memory = s.memory
  hci_eq : t.hci = s.hci

theorem onlyRecords_logError (s : State) (r : ERec) : OnlyRecords s (logError s r) := by
  unfold logError
  split
  next => exact ⟨rfl, rfl, rfl, rfl, rfl⟩
  next => exact ⟨rfl, rfl, rfl, rfl, rfl⟩

@[simp] theorem logError_err (s : State) (r : ERec) : (logError s r).err = s.err := by
  unfold logError
  split
  next => rfl
  next => rfl

@[simp] theorem raiseBit_err (s : State) (o i : Nat) : (raiseBit s o i).err = s.err := rfl

theorem onlyRecords_recordErr (s : State) (e : ErrSpec) : OnlyRecords s (recordErr s e).1 := by
  unfold recordErr
  extract_lets esc cls r lasts err power s1 s2
  have h2 : OnlyRecords s s2 := ⟨rfl, rfl, rfl, rfl, rfl⟩
  dsimp only
  split
  next =>
    obtain ⟨htime, hmedia, hunits, hmemory, hhci⟩ := onlyRecords_logError s2 r
    exact ⟨htime, hmedia, hunits, hmemory, hhci⟩
  next => exact h2

theorem recordErr_err (s : State) (e : ErrSpec) : (recordErr s e).1.err.nextSeq = s.err.nextSeq + 1 ∧
    (recordErr s e).1.err.last = some (recordErr s e).2 := by
  unfold recordErr
  extract_lets esc cls r lasts err power s1 s2
  have h2 : s2.err.nextSeq = s.err.nextSeq + 1 ∧ s2.err.last = some r := ⟨rfl, rfl⟩
  dsimp only
  split
  next => rwa [logError_err]
  next => exact h2

namespace OnlyPosts

variable {s t : State} (h : OnlyPosts s t)
include h

theorem err_eq : t.err = s.err := by obtain ⟨_, _, rfl⟩ := h; rfl

theorem memory_eq : t.memory = s.memory := by obtain ⟨_, _, rfl⟩ := h; rfl

theorem media_eq : t.media = s.media := by obtain ⟨_, _, rfl⟩ := h; rfl

theorem units_eq : t.units = s.units := by obtain ⟨_, _, rfl⟩ := h; rfl

end OnlyPosts

/-- The report of the drops of an error queue (R499). -/
def dropsReport (s : State) (slot first : Nat) : ErrSpec :=
  { code := 0x1201, cls := 1, inst := slot, a := regRaw s (oErrDropSlot slot), b := word first }

theorem exec_queueOverflow_report {s : State} {slot : Fin 8} {eq : ErrQueue} {first : Nat}
    (hphase : (getSlot s slot).phase = .bound) (heq : (getSlot s slot).eq = some eq)
    (hfirst : (getSlot s slot).firstDrop = some first) (hspare : eq.spare ≠ 0) :
    exec (.queueOverflow slot) s = .next (
      let sr := recordErr s (dropsReport s slot first)
      let s1 := setSlot sr.1 slot { getSlot sr.1 slot with firstDrop := none }
      pushErr (setRaw s1 (oErrDropSlot slot) 0) slot sr.2) := by
  refine congrArg Host.Outcome.next ?_
  simp only [hphase, heq, hfirst, hspare, if_false]
  rfl

end Sys2Proof.Machine

open Sys2Proof Sys2Proof.Machine

/-- Settles O5: each row has the effect of the branch that the phase of its slot selects; the least rate, the times and the
acknowledge time are read off the registers. -/
theorem connectionEvents : Obligations.connectionEvents := by
  unfold Obligations.connectionEvents
  refine ⟨⟨?cmReq, ?rtu, ?rtuResume, ?rtuTimeout, ?mraRepeat, ?dreq, ?nak, ?hold, ?rnr⟩, fun slot s hconn => ⟨?cnp, ?calm, ?period, ?ce, ?ceLater, ?ceSoon⟩⟩
  case cmReq =>
    intro port r s hrun hstay hon hfit hfree
    refine congrArg Host.Outcome.next ?_
    simp only [hrun, hstay, hon, hfit, hfree, Bool.not_true, Bool.or_self, Bool.false_eq_true, if_false]
  case rtu =>
    intro slot s d hphase hintime
    refine congrArg Host.Outcome.next ?_
    simp [hphase, Nat.not_lt.2 hintime]
  case rtuResume =>
    intro slot s d hphase hintime
    refine congrArg Host.Outcome.next ?_
    simp [hphase, Nat.not_lt.2 hintime]
  case rtuTimeout =>
    intro slot s r d hphase hlate
    refine congrArg Host.Outcome.next ?_
    simp [hphase, hlate]
  case mraRepeat =>
    intro slot s m hphase hbusy hdue
    refine congrArg Host.Outcome.next ?_
    simp [hphase, hbusy, Nat.not_lt.2 hdue, durS]
    rfl
  case dreq =>
    intro slot s hconn
    exact congrArg Host.Outcome.next (if_pos hconn)
  case nak =>
    intro slot s hconn hhold
    refine ⟨congrArg Host.Outcome.next ?_, rfl⟩
    simp [loseConn, hconn, hhold]
  case hold =>
    intro slot s t hphase hdue
    refine congrArg Host.Outcome.next ?_
    simp [hphase, hdue]
  case rnr =>
    intro slot s hconn
    refine ⟨congrArg Host.Outcome.next ?_, fun t ht hdue hretries => congrArg Host.Outcome.next ?_⟩
    · simp [hconn, resend]
    · simp [hconn, ht, hretries, ackTime, hdue]
  case cnp =>
    intro hen
    refine congrArg Host.Outcome.next ?_
    simp [hconn, hen, minRate]
  case calm =>
    intro hen hdue hcalm
    refine congrArg Host.Outcome.next ?_
    simp [hconn, hen, hdue, hcalm]
  case period =>
    intro hen hdue hcalm
    refine congrArg Host.Outcome.next ?_
    simp [hconn, hen, hdue, hcalm]
  case ce =>
    intro hen hnone
    refine congrArg Host.Outcome.next ?_
    simp [hconn, hen, hnone]
  case ceLater =>
    intro t hen hlast hdue
    refine congrArg Host.Outcome.next ?_
    simp [hconn, hen, hlast, hdue]
  case ceSoon =>
    intro t hlast hsoon
    refine congrArg Host.Outcome.next ?_
    simp [hlast, Nat.not_le.2 hsoon]

/-- Settles O54: all rows are ring commands whose first check is that of the reserved bits, so the stages are those of
`runRing`. -/
theorem commandStages : Obligations.commandStages := by
  unfold Obligations.commandStages
  intro r hr c s
  obtain ⟨body, hexec, hbad⟩ := exists_body_of_mem_plainRows hr
  rw [hexec]
  exact ⟨fun hnone => congrArg _ (runRing_none _ hnone), fun f hf hheld => congrArg _ (runRing_held _ hf hheld),
    fun f hf he hstill => congrArg _ (runRing_outOfService _ hf he hstill),
    fun f hb hres => next_reply hb (hbad c _ hres)⟩

/-- Settles O6: an access has the effect of the branch that the window it meets selects; a write of one whole slot of the
doorbell page names exactly that slot (`ringDoorbells_whole`). -/
theorem windowAccesses : Obligations.windowAccesses := by
  unfold Obligations.windowAccesses
  intro slot s a rkey hconn
  refine ⟨?read, ?held, ?write, ?readOutside, ?writeOutside, ?doorbells⟩
  case read =>
    intro len w hw hread hfree
    refine congrArg Host.Outcome.next ?_
    simp [hconn, hw, hread, hfree, dramRead]
  case held =>
    intro len w hw hread hheld hroom
    refine ⟨_, rfl, ?_⟩
    simp [hconn, hw, hread, hheld, Nat.not_le.2 hroom]
  case write =>
    intro data w hpage hw hwrite
    refine congrArg Host.Outcome.next ?_
    simp [hconn, hpage, hw, hwrite]
  case readOutside =>
    intro len hnone
    refine congrArg Host.Outcome.next ?_
    simp [hconn, hnone]
  case writeOutside =>
    intro data hpage hnot
    refine congrArg Host.Outcome.next ?_
    cases hw : windowFor s slot a.toNat data.length rkey with
    | none => simp [hconn, hpage]
    | some w => simp [hconn, hpage, hnot w hw]
  case doorbells =>
    intro data ring hlen hpage
    have hring := ring.isLt
    refine ⟨fun ha => ?_, fun ha => ?_, fun ha => ?_⟩
    · rw [exec_windowRdmaWrite_doorbell hconn hlen hpage (k := 0x20 + ring) (by omega) (by omega), doorbell_ringPi]
      rfl
    · rw [exec_windowRdmaWrite_doorbell hconn hlen hpage (k := 0x60 + ring) (by omega) (by omega), doorbell_cqCi]
      rfl
    · rw [exec_windowRdmaWrite_doorbell hconn hlen hpage (k := 0xC0 + ring) (by omega) (by omega), doorbell_cqArm]
      rfl

/-- Settles O7: each doorbell has the effect of the branch that its slot, its queue and its value select. -/
theorem doorbellPage : Obligations.doorbellPage := by
  unfold Obligations.doorbellPage
  refine ⟨fun slot s => ⟨fun i v => ⟨fun hphase => ?bootWord, fun hphase => ?bootBound⟩, ?bootGo, ?ringPi, ?cqCi, ?eqCi, ?cqArm,
    ?eqArm, fun hconn => ?ignored⟩, fun slot s queue q hq => ⟨?outside, ?wake, fun harm => ?notArmed⟩⟩
  case bootWord =>
    refine congrArg Host.Outcome.next ?_
    simp [bootSlotSet, hphase]
  case bootBound =>
    refine congrArg Host.Outcome.next ?_
    simp [bootSlotSet, hphase, dbErr]
  case bootGo =>
    intro b0 b1 b2 b3 b4 b5 hphase hboot ha1 hlo1 hhi1 ha2 hlo2 hhi2 ha3 hlo3 hhi3
    refine congrArg Host.Outcome.next ?_
    simp [bootGo, hphase, hboot, bootBad_eq_false ha1 hlo1 hhi1, bootBad_eq_false ha2 hlo2 hhi2,
      bootBad_eq_false ha3 hlo3 hhi3]
  case ringPi =>
    intro ring v r hconn hr hfits
    refine congrArg Host.Outcome.next ?_
    simp [ringPiSet, hconn, hr, Nat.not_lt.2 hfits, -BitVec.toNat_sub]
  case cqCi =>
    intro queue v q hconn hq hok
    refine congrArg Host.Outcome.next ?_
    simp [cqCiSet, hconn, hq, ciOk, hok, -BitVec.toNat_sub]
  case eqCi =>
    intro v q hconn hq hok
    refine congrArg Host.Outcome.next ?_
    simp [eqCiSet, hconn, hq, ciOk, hok, -BitVec.toNat_sub]
  case cqArm =>
    intro queue v q hconn hq
    refine congrArg Host.Outcome.next ?_
    simp [cqArmSet, hconn, hq, armOf]
  case eqArm =>
    intro v q hconn hq
    refine congrArg Host.Outcome.next ?_
    simp [eqArmSet, hconn, hq, armOf]
  case ignored => exact congrArg Host.Outcome.next (if_pos hconn)
  case outside =>
    intro v hconn hout
    refine congrArg Host.Outcome.next ?_
    simp [cqCiSet, hconn, hq, ciOk, Nat.not_le.2 hout, dbErr, -BitVec.toNat_sub]
  case wake =>
    intro a hphase harm hunread hdue
    have hgo : a.due q.unread (now s) = true := by
      simp [Arm.due, Queue.unread, hunread, hdue, -BitVec.toNat_sub]
    refine congrArg Host.Outcome.next ?_
    simp [wakeCq, hq, harm, hphase, hgo]
  case notArmed =>
    refine congrArg Host.Outcome.next ?_
    simp [wakeCq, hq, harm]

/-- Settles O8: a fetch is bounded by its limit, and the report of an error queue's drops is one record, posted to its own
slot. -/
theorem descriptorFetches : Obligations.descriptorFetches := by
  unfold Obligations.descriptorFetches
  refine ⟨?fetch, ?overflow, fun slot queue s hconn => congrArg Host.Outcome.next (if_pos hconn)⟩
  case fetch =>
    intro slot ring s rg cq hring hcq hturn hfree hrun hstay hgrant
    refine ⟨fetchLimit_le_batch rg cq, fetchLimit_le_spare rg cq, fun ds => ⟨_, rfl, ?_⟩, ?_, ?_⟩
    · simp only [hring, hcq, hturn, hfree, hrun, hstay, hgrant, bne_self_eq_false, Bool.not_true, Bool.or_self,
        Bool.false_eq_true, if_false]
      rfl
    · refine congrArg Host.Outcome.next ?_
      simp [hring, hcq, hturn, hfree, hrun, hstay, hgrant]
    · refine congrArg Host.Outcome.next ?_
      simp [hring, hcq, hturn, hfree, hrun, hstay, hgrant]
  case overflow =>
    intro slot s eq first hphase heq hfirst hspare
    have hposts := onlyPosts_pushErr (setRaw (setSlot (recordErr s (dropsReport s slot first)).1 slot
      { getSlot (recordErr s (dropsReport s slot first)).1 slot with firstDrop := none }) (oErrDropSlot slot) 0) slot
      (recordErr s (dropsReport s slot first)).2
    have hrecords := onlyRecords_recordErr s (dropsReport s slot first)
    obtain ⟨hseq, hlast⟩ := recordErr_err s (dropsReport s slot first)
    refine ⟨_, exec_queueOverflow_report hphase heq hfirst hspare, ?_, ?_, ?_, ?_, ?_, ?_⟩
    · rw [hposts.err_eq]
      exact hseq
    · rw [hposts.err_eq]
      exact ⟨_, hlast, rfl, rfl⟩
    · exact hposts.memory_eq.trans hrecords.memory_eq
    · exact hposts.time_eq.trans hrecords.time_eq
    · exact hposts.media_eq.trans hrecords.media_eq
    · exact hposts.units_eq.trans hrecords.units_eq
end

section
/-! Bridge time: the time commands, steps and snapshots, PTP, PPS and 10 MHz (chapter 2). -/

namespace Sys2Proof.Machine

theorem TimeBase.now_lt (t : TimeBase) : t.now < 2 ^ 124 := by
  have hlt := Int.emod_lt_of_pos (t.offset + ((t.raw : Int) - t.anchor) * t.incr) (show (0 : Int) < 2 ^ 124 by norm_num)
  rw [TimeBase.now, bridgeTime]
  omega

/-- A snapshot in a cycle without a TIME_STEP captures bridge time. -/
theorem snapWrite_of_cmdStep_zero {s : State} (hnone : (thisCycle s).cmdStep = 0) : snapWrite s =
    setRaw (setRaw s oTbSnapSec (word (now s / 2 ^ 76))) oTbSnapFrac (word (now s / 2 ^ 28)) := by
  have hnow : (((now s : Int) - (thisCycle s).cmdStep) % (2 ^ 124 : Int)).toNat = now s := by
    have hlt : now s < 2 ^ 124 := s.time.now_lt
    rw [hnone]
    omega
  rw [snapWrite, hnow]
  rfl

theorem TimeBase.now_step (t : TimeBase) (a : Int) :
    (t.step a).now = ((((t.now : Nat) : Int) + a) % (2 ^ 124 : Int)).toNat := by
  have hpos : (0 : Int) ≤ (t.offset + ((t.raw : Int) - t.anchor) * t.incr) % 2 ^ 124 :=
    Int.emod_nonneg _ (by norm_num)
  have hnow : (t.now : Int) = (t.offset + ((t.raw : Int) - t.anchor) * t.incr) % 2 ^ 124 := by
    rw [TimeBase.now, bridgeTime, Int.toNat_of_nonneg hpos]
  rw [hnow, Int.emod_add_emod, TimeBase.now, bridgeTime, TimeBase.step]
  congr 2
  ring

theorem setPtp_getPtp (s : State) (port : Nat) : setPtp s port (getPtp s port) = s := by
  unfold setPtp getPtp
  split
  · rfl
  · rfl

@[simp] theorem getPtp_setPtp (s : State) (port : Nat) (p : PtpPort) : getPtp (setPtp s port p) port = p := by
  unfold setPtp getPtp
  split
  · rfl
  · rfl

theorem following_of_state {st : BitVec 4} (h : st = 8 ∨ st = 9) : following st = true := by
  obtain rfl | rfl := h
  · rfl
  · rfl

section
variable {port : Fin 2} {d : BitVec 8} {s : State} (htaken : ptpTaken s port d = true)
include htaken

/-- An Announce on a following port that knows its master restarts the timeout where it is the master's (R67, R73). -/
theorem exec_ptpAnnounce_following {ci m : BitVec 64} {st : BitVec 4}
    (hfollow : following (getPtp s port).state = true) (hmaster : (getPtp s port).master = some m) :
    exec (.ptpAnnounce port d ci st) s = .next (setPtpState (setPtp s port { getPtp s port with
      lastAnnounce := if m = ci then now s else (getPtp s port).lastAnnounce }) port
      (bmcState s (getPtp s port).state st)) := by
  refine congrArg Host.Outcome.next ?_
  simp [htaken, hfollow, hmaster]

end

/-- The two ways of reading one bit of a register agree. -/
theorem bitAt_regRaw (s : State) (o i : Nat) : bitAt (regRaw s o) i = getB s o i := by
  have hwidth : 2 ^ (i + 1 - i) = 2 := by rw [Nat.add_sub_cancel_left, pow_one]
  rw [getB, getF, bits, hwidth, bitAt, ← BitVec.testBit_toNat, Nat.testBit_eq_decide_div_mod_eq]

theorem second_eq : second = 2 ^ 76 := rfl

theorem getPtp_setPtpState (s : State) (port : Nat) (st : BitVec 4) : (getPtp (setPtpState s port st) port).state = st := by
  unfold setPtpState getPtp setPtp
  split
  · rfl
  · rfl

/-- A good TB_PTP_Pn write puts its port in INITIALIZING or DISABLED (R65). -/
theorem getPtp_ptpPortWrite {s : State} {port : Nat} {v : Word} (hgood : ptpPortBad v = false) :
    (getPtp (ptpPortWrite s port v).1 port).state = if bitAt v 0 then 1 else 3 := by
  simp only [ptpPortWrite, hgood, Bool.false_eq_true, if_false, getPtp_setPtp, getPtp_setPtpState]

theorem signalPpm_bounds (v : BitVec 24) : -20 ≤ signalPpm v ∧ signalPpm v ≤ 20 := by
  have hlt : v.toNat % 400001 < 400001 := Nat.mod_lt _ (by norm_num)
  have hlo : ((-200000 : Int) : Rat) ≤ (((v.toNat % 400001 : Nat) : Int) - 200000 : Int) := by
    exact_mod_cast (by omega : (-200000 : Int) ≤ ((v.toNat % 400001 : Nat) : Int) - 200000)
  have hhi : ((((v.toNat % 400001 : Nat) : Int) - 200000 : Int) : Rat) ≤ ((200000 : Int) : Rat) := by
    exact_mod_cast (by omega : ((v.toNat % 400001 : Nat) : Int) - 200000 ≤ (200000 : Int))
  unfold signalPpm
  constructor
  · rw [le_div_iff₀ (by norm_num)]
    exact (by norm_num : (-20 : Rat) * 10000 ≤ ((-200000 : Int) : Rat)).trans hlo
  · rw [div_le_iff₀ (by norm_num)]
    exact hhi.trans (by norm_num : ((200000 : Int) : Rat) ≤ 20 * 10000)

/-- A value that follows another by at most `most` stays between the two, and no further than `most` away (R76). -/
theorem follow_bounds {v most want lo hi : Rat} (hmost : 0 ≤ most) (hv : lo ≤ v ∧ v ≤ hi) (hw : lo ≤ want ∧ want ≤ hi) :
    let r := if want ≥ v then min want (v + most) else max want (v - most)
    lo ≤ r ∧ r ≤ hi ∧ max (r - v) (v - r) ≤ most := by
  obtain ⟨hvlo, hvhi⟩ := hv
  obtain ⟨hwlo, hwhi⟩ := hw
  dsimp only
  split
  next hup =>
    refine ⟨le_min hwlo (by linarith), (min_le_left _ _).trans hwhi, max_le ?_ ?_⟩
    · have := min_le_right want (v + most)
      linarith
    · have : v ≤ min want (v + most) := le_min hup (by linarith)
      linarith
  next hdown =>
    refine ⟨hwlo.trans (le_max_left _ _), max_le hwhi (by linarith), max_le ?_ ?_⟩
    · have : max want (v - most) ≤ v := max_le (not_le.1 hdown).le (by linarith)
      linarith
    · have := le_max_right want (v - most)
      linarith

/-- R76: the control value stays within 50 ppm and moves by at most 0.05 ppm in a second. -/
theorem oscNow_bounds {s : State} (hlo : -50 ≤ s.time.oscPpm) (hhi : s.time.oscPpm ≤ 50) :
    -50 ≤ oscNow s ∧ oscNow s ≤ 50 ∧ max (oscNow s - s.time.oscPpm) (s.time.oscPpm - oscNow s)
      ≤ ((now s - s.time.slewFrom : Nat) : Rat) / 2 ^ 76 / 20 := by
  have hmost : (0 : Rat) ≤ ((now s - s.time.slewFrom : Nat) : Rat) / 2 ^ 76 / 20 := by positivity
  have hsecond : ((second : Nat) : Rat) = 2 ^ 76 := by norm_num [second_eq]
  unfold oscNow
  dsimp only
  rw [hsecond]
  split
  · exact follow_bounds hmost ⟨hlo, hhi⟩ ⟨le_max_left _ _, max_le (by norm_num) (min_le_left _ _)⟩
  · exact ⟨hlo, hhi, by rwa [sub_self, max_self]⟩

end Sys2Proof.Machine

open Sys2Proof Sys2Proof.Machine

/-- Settles O9: each command passes its checks in their order and answers as R77 says. -/
theorem timeRingCommands : Obligations.timeRingCommands := by
  unfold Obligations.timeRingCommands
  intro c s f
  refine ⟨fun hb hres => next_reply hb (guarded_go hres rfl), ?setIncr, ?step, ?cancel, ?subscribe, ?ack, ?clear⟩
  case setIncr =>
    intro hb hres hok
    exact next_reply hb (guarded_go hres (guarded_go ((incrBad_eq_false_iff c.w1).2 hok) rfl))
  case step =>
    intro hb hres hsize
    exact next_reply hb (guarded_go hres (guarded_go hsize rfl))
  case cancel =>
    intro hb hres hmask
    refine next_reply hb (guarded_go hres (guarded_go ?_ ?_))
    · simp [hmask]
    · simp [hmask]
  case subscribe =>
    intro hb hres hmask hqueue
    refine next_reply hb (guarded_go hres (guarded_go ?_ ?_))
    · simp [hqueue]
    · simp [hmask]
  case ack =>
    intro hb hres hport hset
    refine next_reply hb (guarded_go hres (guarded_go (decide_eq_false (by omega)) ?_))
    simp [hport, hset, word, b2n]
  case clear =>
    intro hb hres hport hclear
    have hwas : (decide (bits c.w1 3 0 < 2) && getB s oTbStatus (10 + bits c.w1 3 0)) = false := by
      obtain hgrinal | hnot := hclear
      · rw [decide_lt_false hgrinal, Bool.false_and]
      · rw [hnot, Bool.and_false]
    refine next_reply hb (guarded_go hres (guarded_go (decide_lt_false hport) ?_))
    simp only [getB_taken, hwas]
    rfl

/-- Settles O12: the two writes take effect or are refused as `stepTooLarge` says, and a step adds its amount to what the
time base reads. -/
theorem stepAndSnapWrites : Obligations.stepAndSnapWrites := by
  unfold Obligations.stepAndSnapWrites
  refine ⟨fun s force hopen hst => ⟨fun hsize => ⟨?step, ?stepSnap⟩, fun snap hsize => ?refused, fun hnone => ?snap, ?snapOf⟩,
    fun t a => ⟨t.now_step a, rfl, rfl, rfl, rfl⟩, fun sec frac => ?amount⟩
  case step =>
    refine congrArg Host.Outcome.next ((setupItem_open hopen hst _).trans ?_)
    simp [stepGoWrite, hsize]
  case stepSnap =>
    refine congrArg Host.Outcome.next ((setupItem_open hopen hst _).trans ?_)
    simp [stepGoWrite, hsize]
  case refused =>
    refine congrArg Host.Outcome.next ((setupItem_open hopen hst _).trans ?_)
    simp [stepGoWrite, hsize, emit]
  case snap =>
    refine congrArg Host.Outcome.next ((setupItem_open hopen hst _).trans ?_)
    rw [snapWrite_of_cmdStep_zero hnone]
  case snapOf => exact ⟨_, congrArg Host.Outcome.next (setupItem_open hopen hst _), rfl⟩
  case amount => simp [stepAmount, second]

/-- Settles O13: each message has the effect of the branch that the state of its port selects, and a measured delay moves the
reference as the branches of R71 and R72 say. -/
theorem ptpMessages : Obligations.ptpMessages := by
  unfold Obligations.ptpMessages
  refine ⟨fun port d s => ⟨fun htaken => ⟨?sync, ?syncTwo, ?followUp, ?delayResp, ?delayReq, ?pdelayReq, ?announce⟩, ?dropped⟩,
    fun port s m => ⟨?first, ?within, ?beyond⟩⟩
  case sync =>
    intro q o c hfollow
    refine congrArg Host.Outcome.next ?_
    simp only [htaken, hfollow, Bool.not_true, Bool.false_eq_true, if_false]
    rfl
  case syncTwo =>
    intro q o c hfollow hnone
    refine congrArg Host.Outcome.next ?_
    simp [htaken, hfollow, hnone]
  case followUp =>
    intro q o c rx c0 hwait
    refine congrArg Host.Outcome.next ?_
    simp [htaken, hwait]
  case delayResp =>
    intro q r x c at_ hreq
    refine ⟨fun m hm => congrArg Host.Outcome.next ?_, fun hnone => congrArg Host.Outcome.next ?_⟩
    · simp [htaken, hreq, hm]
    · simp [htaken, hreq, hnone]
  case delayReq =>
    intro q he2e hmaster
    refine congrArg Host.Outcome.next ?_
    simp [htaken, he2e, hmaster]
  case pdelayReq =>
    intro q hp2p hstate
    refine congrArg Host.Outcome.next ?_
    simp [htaken, hp2p, hstate]
  case announce =>
    intro ci st hstate
    have hfollow := following_of_state hstate
    refine ⟨fun hmaster => ?_, fun m hmaster hne => ?_⟩
    · rw [exec_ptpAnnounce_following htaken hfollow hmaster, if_pos rfl]
    · rw [exec_ptpAnnounce_following htaken hfollow hmaster, if_neg hne]
      exact congrArg (fun t => Host.Outcome.next (setPtpState t port _)) (setPtp_getPtp s port)
  case dropped =>
    intro hrun hlink hen hdomain q o c two
    refine congrArg Host.Outcome.next ?_
    simp [ptpTaken, ptpDrop, hrun, hlink, hen, hdomain]
  case first =>
    intro hvalid
    simp [pathDelay, hvalid]
  case within =>
    intro hvalid hsmall
    have hcheck : (getF s oTbStepThresh 23 0 != 0 &&
        decide ((m - (getPtp s port).ref).natAbs * 1000000000 > getF s oTbStepThresh 23 0 * second)) = false := by
      obtain hoff | hle := hsmall
      · rw [bne_false hoff, Bool.false_and]
      · rw [show second = 2 ^ 76 from rfl, decide_lt_false hle, Bool.and_false]
    simp only [pathDelay, hvalid, hcheck, Bool.not_true, Bool.false_eq_true, if_false]
  case beyond =>
    intro hvalid hon hlarge hpending
    have hcheck : (getF s oTbStepThresh 23 0 != 0 &&
        decide ((m - (getPtp s port).ref).natAbs * 1000000000 > getF s oTbStepThresh 23 0 * second)) = true := by
      rw [Bool.and_eq_true, bne_iff_ne, decide_eq_true_eq]
      exact ⟨hon, hlarge⟩
    simp only [pathDelay, hvalid, hcheck, hpending, Bool.not_true, Bool.false_and, Bool.false_eq_true, if_false, if_true]

/-- Settles O14: each row is due in the state that its clause describes; the control value follows the signal within its
bounds (`oscNow_bounds`). -/
theorem ptpTimersAndWrites : Obligations.ptpTimersAndWrites := by
  unfold Obligations.ptpTimersAndWrites
  refine ⟨fun port s => ⟨fun hrun hlink hen => ⟨?sync, ?announce, ?delayReq⟩, ?timeout, ?write⟩,
    fun s => ⟨fun falling hrel hon hpol => ⟨?ppsFirst, ?ppsSoon⟩, ?rise, ?fall, ?valid, ?locked, ?lost, oscNow_bounds⟩⟩
  case sync =>
    intro hmaster hdue
    refine congrArg Host.Outcome.next ?_
    simp [hrun, hlink, bitAt_regRaw, hen, hmaster, Nat.not_lt.2 hdue]
  case announce =>
    intro hmaster hdue
    refine congrArg Host.Outcome.next ?_
    simp [hrun, hlink, bitAt_regRaw, hen, hmaster, Nat.not_lt.2 hdue]
  case delayReq =>
    intro hfollow he2e hdue
    rw [bitAt_regRaw] at he2e
    refine congrArg Host.Outcome.next ?_
    simp [hrun, hlink, bitAt_regRaw, hen, hfollow, he2e, Nat.not_lt.2 hdue]
  case timeout =>
    intro hrun hen hslave honly hdue
    refine congrArg Host.Outcome.next ?_
    simp [hrun, bitAt_regRaw, hen, hslave, honly, Nat.not_lt.2 hdue, following]
  case write =>
    intro v hopen hst hgood
    refine ⟨congrArg Host.Outcome.next ((setupItem_open hopen hst _).trans ?_), getPtp_ptpPortWrite hgood⟩
    simp [ptpPortWrite, hgood]
  case ppsFirst =>
    intro hnone
    refine congrArg Host.Outcome.next ?_
    simp [hrel, hon, hpol, hnone, noPort, bt96Frac]
  case ppsSoon =>
    intro t hlast hle hsoon
    refine congrArg Host.Outcome.next ?_
    simp [hrel, hon, hpol, hlast, hle, hsoon]
  case rise =>
    intro k hsec hon hnext
    refine congrArg Host.Outcome.next ?_
    simp only [hsec, hon, second_eq, hnext, decide_true, Bool.and_self, if_true]
    rfl
  case fall =>
    intro k hsec hhigh hdue
    refine congrArg Host.Outcome.next ?_
    simp only [hsec, hhigh, second_eq, ge_iff_le, hdue, decide_true, Bool.and_self, if_true, ppsLow]
    rfl
  case valid =>
    intro hrel hon hst hdue
    refine ⟨signalPpm (freeVal s 24), (signalPpm_bounds _).1, (signalPpm_bounds _).2, congrArg Host.Outcome.next ?_⟩
    have hoff : (decide (s.time.ref10 = .off) || decide (s.time.ref10 = .frozen)) = true := by
      simpa using hst
    simp only [hrel, hon, hoff, hdue, decide_true, Bool.and_self, if_true]
    rfl
  case locked =>
    intro hst hdue
    refine congrArg Host.Outcome.next ?_
    simp [hst, hdue, noPort]
  case lost =>
    intro hst
    have hused : (decide (s.time.ref10 = .acquiring) || decide (s.time.ref10 = .locked)) = true := by
      simpa using hst
    refine congrArg Host.Outcome.next ?_
    simp only [hused, if_true]
    rfl
end

section
/-! Set-up writes: the fields of a register, what the table of registers says of an offset, and the rows of chapter 5 that write
one register. -/

namespace Sys2Proof.Machine

-- ## Bits of a word

theorem bits_eq_of_getLsbD {v w : Word} {hi lo : Nat} (h : ∀ i, lo ≤ i → i ≤ hi → v.getLsbD i = w.getLsbD i) :
    bits v hi lo = bits w hi lo := by
  refine Nat.eq_of_testBit_eq fun i => ?_
  simp only [bits, Nat.testBit_mod_two_pow, Nat.testBit_div_two_pow, BitVec.testBit_toNat]
  by_cases hi' : i < hi + 1 - lo
  · rw [h (i + lo) (by omega) (by omega)]
  · simp [hi']

/-- A field inside the mask is taken over from the written word. -/
theorem bits_masked {a v m : Word} {hi lo : Nat} (hm : ∀ i ≤ hi, lo ≤ i → m.getLsbD i = true) :
    bits ((a &&& ~~~m) ||| (v &&& m)) hi lo = bits v hi lo := by
  refine bits_eq_of_getLsbD fun i hlo hhi => ?_
  simp [hm i hhi hlo]

theorem mul_add_lt_mul {x k l r : Nat} (hx : x < k) (hr : r < l) : x * l + r < k * l := by
  calc x * l + r < x * l + l := Nat.add_lt_add_left hr _
    _ = (x + 1) * l := (Nat.succ_mul x l).symm
    _ ≤ k * l := Nat.mul_le_mul_right l hx

/-- Setting a field replaces its bits and leaves those above and below. -/
theorem toNat_putBits (w : Word) {hi lo : Nat} (x : Nat) (hlo : lo ≤ hi) (hhi : hi < 48) :
    (putBits w hi lo x).toNat
      = w.toNat / 2 ^ (hi + 1) * 2 ^ (hi + 1) + x % 2 ^ (hi + 1 - lo) * 2 ^ lo + w.toNat % 2 ^ lo := by
  obtain ⟨k, rfl⟩ : ∃ k, hi = lo + k := ⟨hi - lo, by omega⟩
  have hspan : lo + k + 1 - lo = k + 1 := by omega
  have hpow : 2 ^ (lo + k + 1) = 2 ^ lo * 2 ^ (k + 1) := by rw [← pow_add, Nat.add_assoc]
  have hx : x % 2 ^ (k + 1) < 2 ^ (k + 1) := Nat.mod_lt _ (by positivity)
  have hlow := Nat.div_add_mod w.toNat (2 ^ lo)
  have hhigh := Nat.div_add_mod (w.toNat / 2 ^ lo) (2 ^ (k + 1))
  rw [Nat.div_div_eq_div_mul, ← hpow] at hhigh
  have hr : w.toNat % 2 ^ lo < 2 ^ lo := Nat.mod_lt _ (by positivity)
  have hq : w.toNat / 2 ^ (lo + k + 1) < 2 ^ (48 - (lo + k + 1)) := by
    rw [Nat.div_lt_iff_lt_mul (by positivity), ← pow_add, Nat.sub_add_cancel hhi]
    exact w.isLt
  set q := w.toNat / 2 ^ (lo + k + 1)
  set b := w.toNat / 2 ^ lo % 2 ^ (k + 1)
  set r := w.toNat % 2 ^ lo
  set y := x % 2 ^ (k + 1)
  have hw : w.toNat = q * 2 ^ (lo + k + 1) + b * 2 ^ lo + r := by
    rw [← hlow, ← hhigh, hpow]
    ring
  have hsum : y * 2 ^ lo + r < 2 ^ (lo + k + 1) := by
    rw [hpow, Nat.mul_comm (2 ^ lo)]
    exact mul_add_lt_mul hx hr
  have htotal : q * 2 ^ (lo + k + 1) + y * 2 ^ lo + r < 2 ^ 48 := by
    have h48 : 2 ^ 48 = 2 ^ (48 - (lo + k + 1)) * 2 ^ (lo + k + 1) := by rw [← pow_add, Nat.sub_add_cancel hhi]
    rw [h48, Nat.add_assoc]
    exact mul_add_lt_mul hq hsum
  have hbits : bits w (lo + k) lo = b := by rw [bits, hspan]
  rw [putBits, hbits, hspan, BitVec.toNat_ofNat, hw]
  have hcancel : q * 2 ^ (lo + k + 1) + b * 2 ^ lo + r - b * 2 ^ lo + x % 2 ^ (k + 1) * 2 ^ lo
      = q * 2 ^ (lo + k + 1) + y * 2 ^ lo + r := by
    rw [Nat.add_right_comm, Nat.add_sub_cancel]
    exact Nat.add_right_comm _ _ _
  rw [hcancel, Nat.mod_eq_of_lt htotal]

theorem bits_putBits_same (w : Word) {hi lo : Nat} (x : Nat) (hlo : lo ≤ hi) (hhi : hi < 48) :
    bits (putBits w hi lo x) hi lo = x % 2 ^ (hi + 1 - lo) := by
  have hpow : 2 ^ (hi + 1) = 2 ^ (hi + 1 - lo) * 2 ^ lo := by rw [← pow_add, Nat.sub_add_cancel (by omega)]
  have hr : w.toNat % 2 ^ lo < 2 ^ lo := Nat.mod_lt _ (by positivity)
  rw [bits, toNat_putBits w x hlo hhi, hpow, ← Nat.mul_assoc, ← Nat.add_mul, Nat.add_comm, Nat.add_mul_div_right _ _ (by positivity),
    Nat.div_eq_of_lt hr, Nat.zero_add, Nat.add_comm, Nat.add_mul_mod_self_right, Nat.mod_mod]

theorem bits_putBits_above (w : Word) {hi lo hi2 lo2 : Nat} (x : Nat) (hlo : lo ≤ hi) (hhi : hi < lo2) (hhi2 : hi < 48) :
    bits (putBits w hi lo x) hi2 lo2 = bits w hi2 lo2 := by
  have hpow : 2 ^ (hi + 1) = 2 ^ (hi + 1 - lo) * 2 ^ lo := by rw [← pow_add, Nat.sub_add_cancel (by omega)]
  have hr : w.toNat % 2 ^ lo < 2 ^ lo := Nat.mod_lt _ (by positivity)
  have hx : x % 2 ^ (hi + 1 - lo) < 2 ^ (hi + 1 - lo) := Nat.mod_lt _ (by positivity)
  have hsmall : x % 2 ^ (hi + 1 - lo) * 2 ^ lo + w.toNat % 2 ^ lo < 2 ^ (hi + 1) := by
    rw [hpow]
    exact mul_add_lt_mul hx hr
  have hupper : (putBits w hi lo x).toNat / 2 ^ (hi + 1) = w.toNat / 2 ^ (hi + 1) := by
    rw [toNat_putBits w x hlo hhi2, Nat.add_assoc, Nat.add_comm, Nat.add_mul_div_right _ _ (by positivity),
      Nat.div_eq_of_lt hsmall, Nat.zero_add]
  have hlo2 : 2 ^ lo2 = 2 ^ (hi + 1) * 2 ^ (lo2 - (hi + 1)) := by rw [← pow_add, Nat.add_sub_cancel' hhi]
  rw [bits, bits, hlo2, ← Nat.div_div_eq_div_mul, hupper, Nat.div_div_eq_div_mul]

theorem getF_setF_same (s : State) (o x : Nat) {hi lo : Nat} (hlo : lo ≤ hi) (hhi : hi < 48) :
    getF (setF s o hi lo x) o hi lo = x % 2 ^ (hi + 1 - lo) := by
  rw [getF, setF, regRaw_setRaw_self, bits_putBits_same _ _ hlo hhi]

theorem getF_setF_above (s : State) (o x : Nat) {hi lo hi2 lo2 : Nat} (hlo : lo ≤ hi) (hhi : hi < lo2) (hhi2 : hi < 48) :
    getF (setF s o hi lo x) o hi2 lo2 = getF s o hi2 lo2 := by
  rw [getF, setF, regRaw_setRaw_self, bits_putBits_above _ _ hlo hhi hhi2, getF]

-- ## Registers that hold their reset value

theorem Tbl.del_of_get?_eq_none {α : Type} {t : Tbl α} {k : Nat} (h : Tbl.get? t k = none) : Tbl.del t k = t := by
  induction t with
  | nil => rfl
  | cons q t ih =>
    obtain ⟨a, b⟩ := q
    rw [Tbl.get?] at h
    split at h
    next => cases h
    next hne =>
      have hkeep : ((a, b).1 != k) = true := by simpa using hne
      simp only [Tbl.del, List.filter_cons, hkeep, if_true]
      exact congrArg _ (ih h)

theorem setRaw_regRaw_of_unset {s : State} {o : Nat} (h : Tbl.get? s.regs o = none) : setRaw s o (regRaw s o) = s := by
  rw [regRaw, h, Option.getD_none, setRaw, if_pos rfl, Tbl.del_of_get?_eq_none h]

-- ## Set-up writes

/-- What the table of registers says of an offset: the register, its number, and the masks of its RW, W1C and RWC
fields. -/
def regFacts (o : Nat) : Option (Reg × Nat × Word × Word × Word) :=
  (regAt o).map fun r => (r.1.reg, r.2.1, accMask r.1 [.rw], accMask r.1 [.w1c], accMask r.1 [.rwc])

theorem exists_regAt_of_regFacts {o i : Nat} {reg : Reg} {rw_ w1c rwc : Word}
    (h : regFacts o = some (reg, i, rw_, w1c, rwc)) : ∃ d j, regAt o = some (d, i, j) ∧ d.reg = reg ∧
      accMask d [.rw] = rw_ ∧ accMask d [.w1c] = w1c ∧ accMask d [.rwc] = rwc := by
  obtain ⟨⟨d, i', j⟩, hat, hfacts⟩ := Option.map_eq_some_iff.1 h
  cases hfacts
  exact ⟨d, j, hat, rfl, rfl, rfl, rfl⟩

theorem afterReply_of_unchanged {s : State} (haddr : s.oxvan.addressChanged = false) : afterReply s = s := by
  rw [afterReply, haddr, if_neg Bool.false_ne_true]

/-- R155: a mapped register is reached, outside Windfall mode. -/
theorem reach_of_regAt {s : State} {off i j : Nat} {d : RegDef} (hst : s.power.st ≠ .windfall) (halign : off % 8 = 0)
    (hspan : ¬ (0x28 ≤ off ∧ off ≤ 0x38)) (hat : regAt off = some (d, i, j)) : reach s off = .ok (some (d, i, j)) := by
  have hspan' : (decide (0x28 ≤ off) && decide (off ≤ 0x38)) = false := by
    rw [Bool.eq_false_iff]
    simpa using hspan
  simp [reach, halign, hspan', hat, hst]

section
variable {s : State} (hopen : setupOpen s = true)
include hopen

theorem regItem_of_itemWrite {off : Nat} {v : Word} {t : State} {st : IStatus} (hw : itemWrite s off v = (t, st))
    (haddr : t.oxvan.addressChanged = false) : regItem s off v = emit t (.itemStatus st) := by
  simp [regItem, hopen, hw, afterReply, emit, haddr]

/-- A write of a mapped register, outside Windfall mode, has that register's effect (R155, R173). -/
theorem regItem_of_regAt {off i j : Nat} (v : Word) {d : RegDef} (hst : s.power.st ≠ .windfall) (halign : off % 8 = 0)
    (hspan : ¬ (0x28 ≤ off ∧ off ≤ 0x38)) (hat : regAt off = some (d, i, j)) :
    regItem s off v = afterReply (emit (writeReg s d i off v).1 (.itemStatus (writeReg s d i off v).2)) := by
  have hitem : itemWrite s off v = writeReg s d i off v := by
    rw [itemWrite, reach_of_regAt hst halign hspan hat]
  simp only [regItem, hopen, if_true, hitem]

theorem regItem_of_writeReg {off i j : Nat} {v : Word} {d : RegDef} {t : State} {st : IStatus}
    (hst : s.power.st ≠ .windfall) (halign : off % 8 = 0) (hspan : ¬ (0x28 ≤ off ∧ off ≤ 0x38))
    (hat : regAt off = some (d, i, j)) (hw : writeReg s d i off v = (t, st)) (haddr : t.oxvan.addressChanged = false) :
    regItem s off v = emit t (.itemStatus st) := by
  rw [regItem_of_regAt hopen v hst halign hspan hat, hw]
  exact afterReply_of_unchanged haddr

end

theorem and_ones (x : Word) : x &&& 0xFFFFFFFFFFFF#48 = x := BitVec.and_allOnes

/-- A write of a register without RWC fields stores its RW fields. -/
theorem plainWrite_rw {s : State} {d : RegDef} {o : Nat} {v m : Word} (hrw : accMask d [.rw] = m)
    (hw1c : accMask d [.w1c] = 0) (hrwc : accMask d [.rwc] = 0) :
    plainWrite s d o v = setRaw s o ((regRaw s o &&& ~~~m) ||| (v &&& m)) := by
  simp [plainWrite, hrw, hw1c, hrwc, and_ones]

theorem masked_full (a v : Word) : (a &&& ~~~0xFFFFFFFFFFFF#48) ||| (v &&& 0xFFFFFFFFFFFF#48) = v := by
  have hnone : ~~~0xFFFFFFFFFFFF#48 = 0#48 := by decide
  rw [hnone, BitVec.and_zero, BitVec.zero_or, and_ones]

theorem masked_none (a v : Word) : (a &&& ~~~0#48) ||| (v &&& 0#48) = a := by
  rw [BitVec.and_zero, BitVec.or_zero]
  exact and_ones a

/-- An offset whose register the table gives, with the facts that a write of it needs. -/
structure MappedAt (o : Nat) (d : RegDef) (i j : Nat) (reg : Reg) (m : Word) : Prop where
  at_eq : regAt o = some (d, i, j)
  reg_eq : d.reg = reg
  rw_eq : accMask d [.rw] = m
  w1c_eq : accMask d [.w1c] = 0
  rwc_eq : accMask d [.rwc] = 0
  aligned : o % 8 = 0
  beyond : ¬ (0x28 ≤ o ∧ o ≤ 0x38)

theorem exists_mappedAt {o i : Nat} {reg : Reg} {m : Word} (h : regFacts o = some (reg, i, m, 0, 0)) (ha : o % 8 = 0)
    (hs : ¬ (0x28 ≤ o ∧ o ≤ 0x38)) : ∃ d j, MappedAt o d i j reg m := by
  obtain ⟨d, j, hat, hreg, hrw, hw1c, hrwc⟩ := exists_regAt_of_regFacts h
  exact ⟨d, j, hat, hreg, hrw, hw1c, hrwc, ha, hs⟩

section
variable {s : State} {o i j : Nat} {d : RegDef} {reg : Reg} {m v : Word} (h : MappedAt o d i j reg m)
include h

theorem MappedAt.plainWrite_eq : plainWrite s d o v = setRaw s o ((regRaw s o &&& ~~~m) ||| (v &&& m)) :=
  plainWrite_rw h.rw_eq h.w1c_eq h.rwc_eq

theorem MappedAt.reach_eq {s : State} (hst : s.power.st ≠ .windfall) : reach s o = .ok (some (d, i, j)) :=
  reach_of_regAt hst h.aligned h.beyond h.at_eq

theorem MappedAt.getF_plainWrite {hi lo : Nat} (hm : ∀ i ≤ hi, lo ≤ i → m.getLsbD i = true) :
    getF (plainWrite s d o v) o hi lo = bits v hi lo := by
  rw [h.plainWrite_eq, getF, regRaw_setRaw_self, bits_masked hm]

theorem MappedAt.regItem_reaches (hopen : setupOpen s = true) (hst : s.power.st ≠ .windfall) {r : State × IStatus}
    (hw : writeReg s d i o v = r) : regItem s o v = afterReply (emit r.1 (.itemStatus r.2)) := by
  rw [regItem_of_regAt hopen v hst h.aligned h.beyond h.at_eq, hw]

theorem MappedAt.regItem_eq (hopen : setupOpen s = true) (hst : s.power.st ≠ .windfall) {t : State} {st : IStatus}
    (hw : writeReg s d i o v = (t, st)) (haddr : t.oxvan.addressChanged = false) :
    regItem s o v = emit t (.itemStatus st) :=
  regItem_of_writeReg hopen hst h.aligned h.beyond h.at_eq hw haddr

end

end Sys2Proof.Machine

open Sys2Proof Sys2Proof.Machine

/-- Settles O15: one register of each of the classes RW, RWC and RO is written through the table of registers; stored fields
are read back (`getF_setF_same`) and leave the others (`getF_setF_above`). -/
theorem registerWrites : Obligations.registerWrites := by
  unfold Obligations.registerWrites
  refine ⟨fun s v hopen hst haddr => ⟨?step, ?index, ?part, ?seed, ?align, ?unmapped⟩,
    fun s o v => ⟨regRaw_setRaw_self s o v, fun p hp => regRaw_setRaw_ne s o p v hp,
      fun hi lo x hlo hhi => getF_setF_same s o x hlo hhi,
      fun hi lo x hi2 lo2 hlo hhi hlo2 hhi2 => getF_setF_above s o x hlo hhi (by omega)⟩⟩
  case step =>
    have hfacts : regFacts oTbStepSec = some (.tbStepSec, 0, 0xFFFFFFFFFFFF, 0, 0) := by decide +kernel
    obtain ⟨d, j, hat, hreg, hrw, hw1c, hrwc⟩ := exists_regAt_of_regFacts hfacts
    refine congrArg Host.Outcome.next (regItem_of_writeReg hopen hst (by decide) (by decide) hat ?_ haddr)
    simp only [writeReg, hreg]
    rw [plainWrite_rw hrw hw1c hrwc]
    exact congrArg (fun w => (setRaw s oTbStepSec w, IStatus.ok)) (masked_full _ _)
  case index =>
    have hfacts : regFacts oErrMlogIndex = some (.errMlogIndex, 0, 0xFFF, 0, 0) := by decide +kernel
    obtain ⟨d, j, hat, hreg, hrw, hw1c, hrwc⟩ := exists_regAt_of_regFacts hfacts
    refine congrArg Host.Outcome.next (regItem_of_writeReg hopen hst (by decide) (by decide) hat ?_ haddr)
    simp only [writeReg, hreg]
    rw [plainWrite_rw hrw hw1c hrwc]
    rfl
  case part =>
    intro happly hunset
    have hfacts : regFacts oGlbPartA = some (.glbPartA, 0, 0, 0, 0xFFFFFFFFFFFF) := by decide +kernel
    obtain ⟨d, j, hat, hreg, hrw, hw1c, hrwc⟩ := exists_regAt_of_regFacts hfacts
    refine congrArg Host.Outcome.next (regItem_of_writeReg hopen hst (by decide) (by decide) hat ?_ haddr)
    simp only [writeReg, hreg, happly]
    simp [plainWrite, hrw, hw1c, hrwc, and_ones, setRaw_regRaw_of_unset hunset]
  case seed =>
    intro hunset
    have hfacts : regFacts oSeedId = some (.seedId, 0, 0, 0, 0) := by decide +kernel
    obtain ⟨d, j, hat, hreg, hrw, hw1c, hrwc⟩ := exists_regAt_of_regFacts hfacts
    refine congrArg Host.Outcome.next (regItem_of_writeReg hopen hst (by decide) (by decide) hat (t := s) ?_ haddr)
    simp only [writeReg, hreg]
    rw [plainWrite_rw hrw hw1c hrwc]
    exact congrArg (fun t => (t, IStatus.ok))
      ((congrArg (setRaw s oSeedId) (masked_none _ _)).trans (setRaw_regRaw_of_unset hunset))
  case align =>
    intro off hoff
    refine congrArg Host.Outcome.next (regItem_of_itemWrite hopen (t := s) ?_ haddr)
    simp [itemWrite, reach, hoff]
  case unmapped =>
    intro off halign hspan hat
    refine congrArg Host.Outcome.next (regItem_of_itemWrite hopen (t := s) ?_ haddr)
    have hspan' : (decide (0x28 ≤ off) && decide (off ≤ 0x38)) = false := by
      rw [Bool.eq_false_iff]
      simpa using hspan
    simp [itemWrite, reach, halign, hspan', hat]

/-- Settles O16: each row is a write of the register that its offset names, and has that register's own effect. -/
theorem setupRows : Obligations.setupRows := by
  unfold Obligations.setupRows
  intro s hopen hst haddr
  refine ⟨fun hidle => ⟨?save, ?clear⟩, ?saveDone, ?clearDone, ?oxvanCfg, ?mgtCtrl, ?mgtAddress, ?slotDisable, ?gate, ?flush⟩
  case save =>
    obtain ⟨d, j, hmap⟩ := exists_mappedAt (o := oGlbProfile) (reg := .glbProfile) (i := 0) (m := 0) (by decide +kernel)
      (by decide) (by decide)
    refine congrArg Host.Outcome.next (hmap.regItem_eq hopen hst ?_ haddr)
    simp [writeReg, hmap.reg_eq, profileWrite, hidle, hst, bitAt]
  case clear =>
    obtain ⟨d, j, hmap⟩ := exists_mappedAt (o := oGlbProfile) (reg := .glbProfile) (i := 0) (m := 0) (by decide +kernel)
      (by decide) (by decide)
    refine congrArg Host.Outcome.next (hmap.regItem_eq hopen hst ?_ haddr)
    simp [writeReg, hmap.reg_eq, profileWrite, hidle, bitAt]
  case saveDone =>
    intro p hsaving hmram
    refine congrArg Host.Outcome.next ?_
    simp [profileDone, hsaving, hmram]
  case clearDone =>
    intro hsaving hmram
    refine congrArg Host.Outcome.next ?_
    simp [profileDone, hsaving, hmram]
  case oxvanCfg =>
    intro v hport hidle hnone
    obtain ⟨d, j, hmap⟩ := exists_mappedAt (o := oGlbOxvanCfg) (reg := .glbOxvanCfg) (i := 0) (m := 0xFFFFFF00)
      (by decide +kernel) (by decide) (by decide)
    have hsession : (plainWrite s d oGlbOxvanCfg v).oxvan = s.oxvan := by rw [hmap.plainWrite_eq, setRaw_oxvan]
    have hexpire : expire (plainWrite s d oGlbOxvanCfg v) = plainWrite s d oGlbOxvanCfg v := by
      simp [expire, idleOver, hsession, hnone]
    refine ⟨_, congrArg Host.Outcome.next (hmap.regItem_eq hopen hst (t := { plainWrite s d oGlbOxvanCfg v with
      oxvan := { s.oxvan with port := bits v 31 16 } }) (st := .ok) ?_ haddr), rfl, ?_, ?_⟩
    · simp [writeReg, hmap.reg_eq, oxvanCfgSet, hport, hidle, hexpire, hsession, hnone]
    · exact hmap.getF_plainWrite (hi := 31) (lo := 8) (by decide)
    · rw [hmap.plainWrite_eq]
      rfl
  case mgtCtrl =>
    intro v hspeed hmode
    obtain ⟨d, j, hmap⟩ := exists_mappedAt (o := oMgtCtrl) (reg := .mgtCtrl) (i := 0) (m := 0x3FF)
      (by decide +kernel) (by decide) (by decide)
    have hmgmt : (plainWrite s d oMgtCtrl v).mgmt = s.mgmt := by rw [hmap.plainWrite_eq, setRaw_mgmt]
    have hgood : ((bitAt v 0 && bits v 8 4 == 0) || bits v 2 1 == 3 || (bits v 2 1 == 2 && bitAt v 3)) = false := by
      have h3 : bits v 2 1 ≠ 3 := by omega
      have h2 : bits v 2 1 ≠ 2 := by omega
      simp [hspeed, h3, h2]
    refine ⟨_, congrArg Host.Outcome.next (hmap.regItem_eq hopen hst (t := emit { plainWrite s d oMgtCtrl v with
      mgmt := { (plainWrite s d oMgtCtrl v).mgmt with link := false, attempt := 0, backoffUntil := none } } .mgmtRestart)
      (st := .ok) ?_ ?_), ?_, rfl, rfl, rfl, ?_⟩
    · simp only [writeReg, hmap.reg_eq, mgtCtrlSet, hgood, Bool.false_eq_true, if_false]
    · rw [hmap.plainWrite_eq]
      exact haddr
    · exact hmap.getF_plainWrite (hi := 9) (lo := 0) (by decide)
    · rw [hmap.plainWrite_eq]
      simp [emit]
  case mgtAddress =>
    intro v hnone
    obtain ⟨d, j, hmap⟩ := exists_mappedAt (o := oMgtIp6A) (reg := .mgtIp6A) (i := 0) (m := 0xFFFFFFFFFFFF)
      (by decide +kernel) (by decide) (by decide)
    have hsession : (plainWrite s d oMgtIp6A v).oxvan = s.oxvan := by rw [hmap.plainWrite_eq, setRaw_oxvan]
    refine ⟨_, congrArg Host.Outcome.next (hmap.regItem_eq hopen hst (t := plainWrite s d oMgtIp6A v) (st := .ok) ?_ ?_), ?_, ?_⟩
    · simp [writeReg, hmap.reg_eq, mgtAddressSet, sessionAddress, hsession, hnone]
    · rw [hsession]
      exact haddr
    · rw [hmap.plainWrite_eq]
      exact (regRaw_setRaw_self _ _ _).trans (masked_full _ _)
    · rw [hmap.plainWrite_eq]
      rfl
  case slotDisable =>
    intro slot hfree
    have hall : ∀ n : Fin 8, regFacts (oHciSlotCfg n) = some (.hciSlotCfg, n.val, 0xFFFFFFF80001, 0, 0) := by decide +kernel
    have halign : ∀ n : Fin 8, oHciSlotCfg n % 8 = 0 ∧ ¬ (0x28 ≤ oHciSlotCfg n ∧ oHciSlotCfg n ≤ 0x38) := by decide +kernel
    obtain ⟨d, j, hmap⟩ := exists_mappedAt (hall slot) (halign slot).1 (halign slot).2
    let v := putBits (regRaw s (oHciSlotCfg slot)) 0 0 0
    have hv : bits v 0 0 = 0 := bits_putBits_same _ 0 (le_refl 0) (by norm_num)
    refine ⟨_, congrArg Host.Outcome.next (hmap.regItem_eq hopen hst (t := plainWrite s d (oHciSlotCfg slot) v) (st := .ok) ?_ ?_),
      ?_, ?_, ?_⟩
    · simp [writeReg, hmap.reg_eq, slotCfgSet, hfree]
      rfl
    · rw [hmap.plainWrite_eq]
      exact haddr
    · have hbit : getF (plainWrite s d (oHciSlotCfg slot) v) (oHciSlotCfg slot) 0 0 = 0 :=
        (hmap.getF_plainWrite (by decide)).trans hv
      show decide (getF (plainWrite s d (oHciSlotCfg slot) v) (oHciSlotCfg slot) 0 0 = 1) = false
      rw [hbit]
      rfl
    · rw [hmap.plainWrite_eq]
      rfl
    · rw [hmap.plainWrite_eq]
      rfl
  case gate =>
    intro port
    have hall : ∀ n : Fin 2, regFacts (oMacGateCommit n) = some (.macGateCommit, n.val, 0, 0, 0) := by decide +kernel
    have halign : ∀ n : Fin 2, oMacGateCommit n % 8 = 0 ∧ ¬ (0x28 ≤ oMacGateCommit n ∧ oMacGateCommit n ≤ 0x38) := by
      decide +kernel
    obtain ⟨d, j, hmap⟩ := exists_mappedAt (hall port) (halign port).1 (halign port).2
    refine congrArg Host.Outcome.next (hmap.regItem_reaches hopen hst ?_)
    simp [writeReg, hmap.reg_eq, bitAt]
  case flush =>
    intro lane
    have hlane := lane.isLt
    obtain ⟨d, j, hmap⟩ := exists_mappedAt (o := oCipFlush) (reg := .cipFlush) (i := 0) (m := 0)
      (by decide +kernel) (by decide) (by decide)
    have hgo : bitAt (word (1024 + lane.val)) 10 = true := by
      rw [bitAt, ← BitVec.testBit_toNat, Nat.testBit_eq_decide_div_mod_eq, decide_eq_true_eq, word, BitVec.toNat_ofNat]
      omega
    have hnamed : bits (word (1024 + lane.val)) 9 0 = lane := by
      rw [bits, word, BitVec.toNat_ofNat]
      omega
    refine congrArg Host.Outcome.next (hmap.regItem_reaches hopen hst ?_)
    simp [writeReg, hmap.reg_eq, hgo, hnamed]
end

section
/-! Oxvan: sessions and batches (R163 to R173). -/

namespace Sys2Proof.Machine

section
variable {s : State} {f : MgmtFrame} {m : OxMsg} (hon : mgmtAnswers s = true) (htake : mgmtTake s f = .oxvan m)
  (hfresh : idleOver s = false)
include hon htake hfresh

/-- A well-formed message of its own TYPE, with no session to expire, is answered by its handler (R167, R170). -/
theorem withMsg_own {g : OxMsg → State → State} {ty : BitVec 8} (hty : m.type = ty) (hgood : msgMalformed m = false) :
    withMsg s f ty g = g m s := by
  simp [withMsg, hon, htake, hty, expire, hfresh, hgood]

theorem withMsg_malformed {g : OxMsg → State → State} {ty : BitVec 8} (hty : m.type = ty) (hbad : msgMalformed m = true) :
    withMsg s f ty g = reply s m .format m.seq := by
  simp [withMsg, hon, htake, hty, expire, hfresh, hbad]

end

theorem msgOwn_of_no_session {s : State} (m : OxMsg) (hnone : s.oxvan.session = none) : msgOwn m s = false := by
  simp [msgOwn, hnone]

/-- R170: the session whose idle time is over. -/
theorem idleOver_of_session {s : State} {x : Session} (hx : s.oxvan.session = some x)
    (hover : x.idleFrom + getF s oGlbOxvanCfg 15 8 * 2 ^ 76 ≤ mgmtTime s) : idleOver s = true := by
  simp only [idleOver, hx]
  exact decide_eq_true hover

/-- With nothing queued at full duplex, a frame of the management port is sent at once (R210). -/
theorem mgmtSend_at_once {s : State} {f : MgmtOut} (hlink : s.mgmt.link = true) (hfull : mgmtHalf s = false)
    (hempty : s.mgmt.queue = []) : mgmtSend s f = { s with
      mgmt := { s.mgmt with attempt := 0 }
      out := s.out ++ [.mgmt f] } := by
  have hgo : (s.mgmt.link && !(mgmtHalf s)) = true := by rw [hlink, hfull]; rfl
  refine (if_pos hgo).trans ?_
  simp [emits, hempty]

-- ## The items of a batch (R173)

theorem length_runItems (xs : List OxItem) (failed : Bool) (s : State) : (runItems s failed xs).2.2.length = xs.length := by
  induction xs generalizing s failed with
  | nil => rfl
  | cons x xs ih =>
    cases failed with
    | true => simp [runItems, ih]
    | false => simp [runItems, ih]

/-- After a failure the items take free values, and nothing else. -/
theorem runItems_failed (xs : List OxItem) (s : State) : (runItems s true xs).1 = { s with fresh := s.fresh + xs.length } ∧
    (runItems s true xs).2.2.all (fun r => r.2 == .notRun) = true ∧
    (runItems s true xs).2.2.map (fun r => (r.1.op, r.1.offset)) = xs.map (fun x => (x.op, x.offset)) := by
  induction xs generalizing s with
  | nil => exact ⟨rfl, rfl, rfl⟩
  | cons x xs ih =>
    obtain ⟨hstate, hall, hnames⟩ := ih (nextFree s)
    refine ⟨?_, ?_, ?_⟩
    · have hcount : s.fresh + 1 + xs.length = s.fresh + (x :: xs).length := by
        rw [List.length_cons]
        omega
      rw [← hcount]
      exact hstate
    · simp [runItems, hall]
    · simp [runItems, hnames]

theorem runItems_of_ok {x : OxItem} {s : State} (xs : List OxItem) (hok : (runItem s x).2.1 = .ok) :
    (runItems s false (x :: xs)).1 = (runItems (runItem s x).1 false xs).1 := by
  simp [runItems, hok]

/-- An item that writes TB_STEP_SEC stores its value. -/
theorem runItem_stepSec {s : State} (v : Word) (hst : s.power.st ≠ .windfall) :
    (runItem s ⟨2, BitVec.ofNat 24 oTbStepSec, v⟩).1 = setRaw s oTbStepSec v ∧
      (runItem s ⟨2, BitVec.ofNat 24 oTbStepSec, v⟩).2.1 = .ok := by
  obtain ⟨d, j, hmap⟩ := exists_mappedAt (o := oTbStepSec) (reg := .tbStepSec) (i := 0) (m := 0xFFFFFFFFFFFF)
    (by decide +kernel) (by decide) (by decide)
  have hwrite : itemWrite s oTbStepSec v = (setRaw s oTbStepSec v, .ok) := by
    rw [itemWrite, hmap.reach_eq hst]
    simp only [writeReg, hmap.reg_eq]
    rw [hmap.plainWrite_eq]
    exact congrArg (fun w => (setRaw s oTbStepSec w, IStatus.ok)) (masked_full _ _)
  have hread : itemRead (setRaw s oTbStepSec v) oTbStepSec = some (readReg (setRaw s oTbStepSec v) d 0 j oTbStepSec) := by
    rw [itemRead, hmap.reach_eq (s := setRaw s oTbStepSec v) hst]
  have hoff : (BitVec.ofNat 24 oTbStepSec).toNat = oTbStepSec := by decide
  simp [runItem, hoff, hwrite, hread]

end Sys2Proof.Machine

open Sys2Proof Sys2Proof.Machine

/-- Settles O17: a message of its own TYPE reaches its handler (`withMsg_own`), whose branches are the clauses. -/
theorem oxvanSessions : Obligations.oxvanSessions := by
  unfold Obligations.oxvanSessions
  refine ⟨fun s f m hon htake hfresh => ⟨fun hgood => ⟨?open_, ?closeNone, ?pingNone, ?busy, ?close, ?ping⟩, ?format⟩,
    ?dropped, ?reply_, ?fresh, ?expired⟩
  case open_ =>
    intro hty hnone
    refine congrArg Host.Outcome.next ((withMsg_own hon htake hfresh hty hgood).trans ?_)
    simp [openSession, hnone]
  case closeNone =>
    intro hty hnone
    refine congrArg Host.Outcome.next ((withMsg_own hon htake hfresh hty hgood).trans ?_)
    simp [msgOwn_of_no_session m hnone]
  case pingNone =>
    intro hty hnone
    refine congrArg Host.Outcome.next ((withMsg_own hon htake hfresh hty hgood).trans ?_)
    simp [msgOwn_of_no_session m hnone]
  case busy =>
    intro hty hsome hother
    refine congrArg Host.Outcome.next ((withMsg_own hon htake hfresh hty hgood).trans ?_)
    simp [openSession, hsome, hother]
  case close =>
    intro hty hown
    refine congrArg Host.Outcome.next ((withMsg_own hon htake hfresh hty hgood).trans ?_)
    simp [hown, endSession]
  case ping =>
    intro hty hown
    refine congrArg Host.Outcome.next ((withMsg_own hon htake hfresh hty hgood).trans ?_)
    simp [hown, touch]
  case format =>
    intro hty hbad
    exact congrArg Host.Outcome.next (withMsg_malformed hon htake hfresh hty hbad)
  case dropped =>
    intro s f hon htake
    refine congrArg Host.Outcome.next ?_
    simp [hon, htake]
  case reply_ =>
    intro s m st q hlink hfull hempty
    rw [reply, sendOx, mgmtSend_at_once hlink hfull hempty]
    rfl
  case fresh =>
    intro s hfresh
    refine congrArg Host.Outcome.next ?_
    simp [expire, hfresh]
  case expired =>
    intro s x hx hover
    refine congrArg Host.Outcome.next ?_
    simp [expire, idleOver_of_session hx hover, endSession]

/-- Settles O18: the branches of BATCH, and the run of its items, by induction on the list where they no longer run. -/
theorem oxvanBatches : Obligations.oxvanBatches := by
  unfold Obligations.oxvanBatches
  refine ⟨fun s f m x hon htake hfresh hgood hty hx => ⟨?next, ?again, ?other, ?noSession⟩,
    fun xs failed s => length_runItems xs failed s, runItems_failed, fun x xs s hok => runItems_of_ok xs hok, ?step⟩
  case next =>
    intro hown hseq
    refine congrArg Host.Outcome.next ((withMsg_own hon htake hfresh hty hgood).trans ?_)
    simp [batch, hx, hown, hseq]
  case again =>
    intro rep hown hlast hnext hstored
    refine congrArg Host.Outcome.next ((withMsg_own hon htake hfresh hty hgood).trans ?_)
    have hrep : batch m s = sendOx (touch s) m rep := by
      simp only [batch, hx, hown, Bool.not_true, Bool.false_eq_true, if_false, if_neg hnext, if_pos hlast, hstored]
    rw [hrep, touch, hx]
    rfl
  case other =>
    intro hown hlast hnext
    refine congrArg Host.Outcome.next ((withMsg_own hon htake hfresh hty hgood).trans ?_)
    simp only [batch, hx, hown, Bool.not_true, Bool.false_eq_true, if_false, if_neg hnext, if_neg hlast]
  case noSession =>
    intro hother
    refine congrArg Host.Outcome.next ((withMsg_own hon htake hfresh hty hgood).trans ?_)
    simp [batch, hx, hother]
  case step =>
    intro a b s hst
    obtain ⟨hstate, hok⟩ := runItem_stepSec a hst
    obtain ⟨hstate', hok'⟩ := runItem_stepSec (s := setRaw s oTbStepSec a) b hst
    rw [runItems_of_ok _ hok, hstate, runItems_of_ok _ hok', hstate', runItems, regRaw_setRaw_self]
end

section
/-! The power states: requests and transitions, starts, and losses of power (chapter 18). -/

namespace Sys2Proof.Machine

theorem stateItem_of_stateReqWrite {s t : State} {r : Nat} {st : IStatus} (hopen : setupOpen s = true)
    (hw : stateReqWrite s r = (t, st)) : stateItem s r = emit t (.itemStatus st) := by
  simp [stateItem, hopen, hw]

section
variable {s : State} (hst : s.power.st = .active ∨ s.power.st = .quiet)
include hst

theorem setupOpen_of_service : setupOpen s = true := by
  obtain hst | hst := hst
  · simp [setupOpen, hst]
  · simp [setupOpen, hst]

/-- From either state of service the module leaves for Dormant, for a restart, and for one into Windfall mode (R516). -/
theorem stateReqWrite_leaving (hpower : s.power.powerFailAt = none) (hidle : s.power.target = none)
    (hpart : s.oxvan.partApplying = false) : stateReqWrite s 4 = (beginDormant s, .ok) ∧
      stateReqWrite s 6 = (requestedRestart s, .ok) ∧ stateReqWrite s 7 = (requestedRestart (armWindfall s), .ok) := by
  obtain hst | hst := hst
  · simp [stateReqWrite, hst, hpower, hidle, hpart, PState.code]
  · simp [stateReqWrite, hst, hpower, hidle, hpart, PState.code]

end

theorem getPsu_setPsu (s : State) (k : Nat) (x : Supply) : getPsu (setPsu s k x) k = x := by
  unfold getPsu setPsu
  split
  · rfl
  · rfl

theorem setPsu_st (s : State) (k : Nat) (x : Supply) : (setPsu s k x).power.st = s.power.st := by
  unfold setPsu
  split
  · rfl
  · rfl

/-- Mains at a supply with the right airflow code start an Off module (R520). -/
theorem mainsReach_of_off {s : State} {k : Nat} (hoff : s.power.st = .off) (hcode : (getPsu s k).codeOk = true) :
    mainsReach s k = { nextFree (setPsu s k ((getPsu s k).fed s)) with
      power := { (setPsu s k ((getPsu s k).fed s)).power with st := .starting } } := by
  have hout : (getPsu (nextFree (setPsu s k ((getPsu s k).fed s))) k).outOk = true := by
    show (getPsu (setPsu s k ((getPsu s k).fed s)) k).outOk = true
    rw [getPsu_setPsu]
    exact hcode
  have hst : (nextFree (setPsu s k ((getPsu s k).fed s))).power.st = .off := (setPsu_st s k _).trans hoff
  simp only [mainsReach, hst, hout, decide_true, Bool.and_self, if_true]
  rfl

-- ## Starts

theorem startModule_armed {s : State} {f : StartFacts} {button : Bool} (hkept : f.historyLost = false)
    (hvalid : s.mram.historyValid = true) (harmed : s.mram.armed = some button) :
    (startModule s f).power.st = .windfall ∧ (startModule s f).mram.armed = none ∧
      (startModule s f).mram.windfallReason = if button then 2 else 3 := by
  simp [startModule, hkept, hvalid, harmed, enterWindfall]

theorem startModule_thirdFailure {s : State} {f : StartFacts} (hkept : f.historyLost = false)
    (hvalid : s.mram.historyValid = true) (hnone : s.mram.armed = none) (hfails : 3 ≤ s.mram.failCount) :
    (startModule s f).power.st = .windfall ∧ (startModule s f).mram.windfallReason = 1 := by
  simp [startModule, hkept, hvalid, hnone, hfails, enterWindfall]

theorem toNat_word_of_lt {v : Nat} (h : v < 2 ^ 48) : (word v).toNat = v := Nat.mod_eq_of_lt h

theorem releaseTime_stored {s : State} {v : Nat} (hv : s.mram.incr = some v) (hok : IncrOk v) :
    (releaseTime s).time.incr = v ∧ (releaseTime s).time.incrFromMram = true := by
  obtain ⟨hlo, hhi⟩ := hok
  have hword : (word v).toNat = v := toNat_word_of_lt (by omega)
  have hgood : incrBad (word v) = false := (incrBad_eq_false_iff _).2 (by rw [hword]; exact ⟨hlo, hhi⟩)
  simp [releaseTime, hv, hgood, hword]

theorem releaseTime_nominal {s : State} (hnone : s.mram.incr = none) :
    (releaseTime s).time.incr = 94447329657393 ∧ (releaseTime s).time.incrFromMram = false := by
  simp [releaseTime, hnone]

theorem now_releaseTime (s : State) : now (releaseTime s) = 0 := by
  simp [now, releaseTime, TimeBase.now, bridgeTime]

/-- The state from which a module that has become ready is brought up as Active (R518, R520). -/
def readyState (s : State) : State :=
  arrive { s with power := { s.power with
    readyAt := some s.power.aon
    confirmed := false
    moduleErr := false
    hotDormant := s.power.critical } } .active

theorem becomeReady_active {s : State} (hcool : s.power.critical = false) (htemp : s.power.procDc ≤ 950)
    (hactive : getB s oPwrCtrl 1 = false) : becomeReady s = bringUp (readyState s) := by
  have hactive' : getB { s with power := { s.power with
    readyAt := some s.power.aon
    confirmed := false
    moduleErr := false
    hotDormant := s.power.critical } } oPwrCtrl 1 = false := hactive
  simp only [becomeReady, hcool, Bool.false_or, decide_lt_false htemp, Bool.false_eq_true, if_false] at hactive' ⊢
  rw [hactive']
  simp [readyState, hcool]

theorem onlyPosts_errToSlot (s : State) (slot : Nat) (r : ERec) : OnlyPosts s (errToSlot s slot r) := by
  unfold errToSlot
  dsimp only
  split
  next => exact onlyPosts_setSlot _ _ _
  next => exact onlyPosts_setSlot _ _ _
  next =>
    split
    next => exact .refl s
    next =>
      split
      next => exact onlyPosts_pushErr _ _ _
      next => exact (onlyPosts_setSlot _ _ _).trans (onlyPosts_bumpF _ _ _ _ _)
  next => exact .refl s

theorem onlyPosts_errToSlots (s : State) (r : ERec) (n : Nat) : OnlyPosts s (errToSlots s r n) := by
  induction n with
  | zero => exact .refl s
  | succ n ih =>
    rw [errToSlots]
    split
    next => exact ih.trans (onlyPosts_errToSlot _ _ _)
    next => exact ih

/-- An error that is raised is recorded, and the record is posted (R498, R499). -/
theorem onlyPosts_raiseErr (s : State) (e : ErrSpec) : OnlyPosts (recordErr s e).1 (raiseErr s e) := by
  unfold raiseErr
  dsimp only
  split
  next => exact onlyPosts_errToSlots _ _ _
  next => exact .refl _

theorem OnlyPosts.power_eq {s t : State} (h : OnlyPosts s t) : t.power = s.power := by obtain ⟨_, _, rfl⟩ := h; rfl

theorem logError_power (s : State) (r : ERec) : (logError s r).power = s.power := by
  unfold logError
  split
  next => rfl
  next => rfl

theorem recordErr_power (s : State) (e : ErrSpec) : ∃ b, (recordErr s e).1.power = { s.power with moduleErr := b } := by
  unfold recordErr
  extract_lets esc cls r lasts err power s1 s2
  dsimp only
  split
  next =>
    rw [logError_power]
    exact ⟨_, rfl⟩
  next => exact ⟨_, rfl⟩

theorem raiseErr_power (s : State) (e : ErrSpec) : ∃ b, (raiseErr s e).power = { s.power with moduleErr := b } := by
  rw [(onlyPosts_raiseErr s e).power_eq]
  exact recordErr_power s e

theorem raiseErr_nextSeq (s : State) (e : ErrSpec) : (raiseErr s e).err.nextSeq = s.err.nextSeq + 1 := by
  rw [(onlyPosts_raiseErr s e).err_eq]
  exact (recordErr_err s e).1

theorem raiseErr_memory (s : State) (e : ErrSpec) : (raiseErr s e).memory = s.memory :=
  (onlyPosts_raiseErr s e).memory_eq.trans (onlyRecords_recordErr s e).memory_eq

theorem raiseErr_media (s : State) (e : ErrSpec) : (raiseErr s e).media = s.media :=
  (onlyPosts_raiseErr s e).media_eq.trans (onlyRecords_recordErr s e).media_eq

theorem le_foldl_max {xs : List Nat} {n a : Nat} (h : a ≤ n ∨ a ∈ xs) : a ≤ xs.foldl max n := by
  induction xs generalizing n with
  | nil => simpa using h
  | cons x xs ih =>
    refine ih ?_
    obtain hle | hmem := h
    · exact .inl (hle.trans (le_max_left n x))
    · obtain rfl | hmem := List.mem_cons.1 hmem
      · exact .inl (le_max_right n a)
      · exact .inr hmem

/-- SEQ goes on above every record of the log (R496). -/
theorem seq_lt_nextSeqOf {log : List ERec} {r : ERec} (hr : r ∈ log) : r.seq < nextSeqOf log :=
  Nat.lt_succ_of_le (le_foldl_max (.inr (List.mem_map_of_mem hr)))

theorem ppsDropped_mram (s : State) : (ppsDropped s).mram = s.mram := by
  unfold ppsDropped
  split
  · rfl
  · rfl

theorem ppsDropped_pending (s : State) : (ppsDropped s).pending = s.pending := by
  unfold ppsDropped
  split
  · rfl
  · rfl

theorem restart_mram (s : State) : (restart s).mram = s.mram.keysLost := congrArg Mram.keysLost (ppsDropped_mram s)

theorem restart_nextSeq (s : State) : (restart s).err.nextSeq = nextSeqOf s.mram.log :=
  congrArg (fun m : Mram => nextSeqOf m.log) (ppsDropped_mram s)

theorem moduleAction_st {s : State} (hst : s.power.st = .active ∨ s.power.st = .quiet) (hpower : s.power.powerFailAt = none) :
    (moduleAction s).power.st = .starting := by
  obtain hst | hst := hst
  · simp only [moduleAction, hpower, hst, Option.isSome_none, Bool.false_eq_true, if_false]
    rfl
  · simp only [moduleAction, hpower, hst, Option.isSome_none, Bool.false_eq_true, if_false]
    rfl

/-- The state in which POWER_FAIL is recorded: both inputs are gone, and the 8 ms run (R512). -/
def powerFailing (s : State) : State :=
  { s with power := { s.power with
    psu0 := { s.power.psu0 with inOk := false }
    psu1 := { s.power.psu1 with inOk := false }
    powerFailAt := some s.power.aon } }

theorem exec_powerFail_first {s : State} (hon : s.power.st ≠ .off) (hfirst : s.power.powerFailAt = none) :
    exec .powerFail s = .next (raiseErr (powerFailing s) { code := 0x1306, cls := 4, lasts := true }) := by
  refine congrArg Host.Outcome.next ?_
  simp [losePower, hon, hfirst, powerFailing]

/-- What the always-on controller keeps when the rails have dropped (R512, R514). -/
def railsDown (s : State) : Power :=
  { psu0 := { present := s.power.psu0.present, codeOk := s.power.psu0.codeOk, failed := s.power.psu0.failed }
    psu1 := { present := s.power.psu1.present, codeOk := s.power.psu1.codeOk, failed := s.power.psu1.failed }
    fans := s.power.fans.map (fun x => { present := x.present, codeOk := x.codeOk, failed := x.failed })
    aon := s.power.aon }

theorem exec_railsDrop_over {s : State} {t0 : Nat} (hfail : s.power.powerFailAt = some t0)
    (hover : t0 + aonUs 8000 ≤ s.power.aon) :
    exec .railsDrop s = .next { coldState s (railsDown s) with mram := s.mram.keysLost.settled } := by
  refine congrArg Host.Outcome.next ?_
  simp only [hfail, if_neg (Nat.not_lt.2 hover)]
  rfl

end Sys2Proof.Machine

open Sys2Proof Sys2Proof.Machine

/-- Settles O19: a request has the effect of the branch that the state and the code select, and the end of a transition that
of its target. -/
theorem stateRequests : Obligations.stateRequests := by
  unfold Obligations.stateRequests
  refine ⟨fun s hpower hidle hpart => ⟨?active, ?quiet, ?same, ?leaving, ?starting⟩,
    fun s hpower => ⟨?toQuiet, ?queued, ?toActive, ?wake, ?toDormant, ?toStart⟩, ?failing⟩
  case active =>
    intro hst
    refine congrArg Host.Outcome.next ?_
    simp [stateItem, setupOpen, stateReqWrite, hst, hpower, hidle, hpart, PState.code, headFor]
  case quiet =>
    intro hst
    refine congrArg Host.Outcome.next ?_
    simp [stateItem, setupOpen, stateReqWrite, hst, hpower, hidle, hpart, PState.code, headFor]
  case same =>
    intro hst
    refine congrArg Host.Outcome.next ?_
    simp [stateItem, setupOpen, stateReqWrite, hst, hpower, hidle, hpart, PState.code]
  case leaving =>
    intro hst
    have hopen := setupOpen_of_service hst
    obtain ⟨h4, h6, h7⟩ := stateReqWrite_leaving hst hpower hidle hpart
    exact ⟨congrArg Host.Outcome.next (stateItem_of_stateReqWrite hopen h4), rfl,
      congrArg Host.Outcome.next (stateItem_of_stateReqWrite hopen h6), rfl, rfl,
      congrArg Host.Outcome.next (stateItem_of_stateReqWrite hopen h7)⟩
  case starting =>
    intro hst
    refine congrArg Host.Outcome.next ?_
    simp [stateItem, setupOpen, hst]
  case toQuiet =>
    intro htarget hst hempty
    refine ⟨congrArg Host.Outcome.next ?_, rfl, rfl⟩
    simp [hpower, htarget, hst, hempty]
  case queued =>
    intro htarget hst hbusy
    refine congrArg Host.Outcome.next ?_
    simp [hpower, htarget, hst, hbusy]
  case toActive =>
    intro htarget hst
    refine congrArg Host.Outcome.next ?_
    simp [hpower, htarget, hst]
  case wake =>
    intro htarget hst
    refine congrArg Host.Outcome.next ?_
    simp [hpower, htarget, hst]
  case toDormant =>
    intro htarget
    refine ⟨enterDormant s, congrArg Host.Outcome.next ?_, rfl, rfl, rfl, rfl, rfl, rfl, rfl, rfl, rfl⟩
    simp [hpower, htarget]
  case toStart =>
    intro htarget
    refine ⟨congrArg Host.Outcome.next ?_, rfl⟩
    simp [hpower, htarget]
  case failing =>
    intro s hpower
    refine congrArg Host.Outcome.next ?_
    simp [Option.isSome_iff_ne_none.2 hpower]

/-- Settles O20: mains, PWR_OK and READY take the branches that their clauses describe, and the time base is released at 0 s
with the INCR that R49 accepts. -/
theorem startsOfTheModule : Obligations.startsOfTheModule := by
  unfold Obligations.startsOfTheModule
  intro s
  refine ⟨?mains, ?pwrOk, fun f hkept hvalid => ⟨fun button harmed => startModule_armed hkept hvalid harmed,
      fun hnone hfails => startModule_thirdFailure hkept hvalid hnone hfails⟩,
    ⟨rfl, now_releaseTime s, rfl, fun v hv hok => releaseTime_stored hv hok, releaseTime_nominal⟩, ?ready, ?late, ?confirmed⟩
  case mains =>
    intro inlet hoff hpresent hdark hcode
    have hexec : exec (.mainsOn inlet) s = .next (mainsReach s inlet) := by
      refine congrArg Host.Outcome.next ?_
      simp [hpresent, hdark]
    rw [mainsReach_of_off hoff hcode] at hexec
    have hpsu : getPsu (setPsu s inlet ((getPsu s inlet).fed s)) inlet = (getPsu s inlet).fed s := getPsu_setPsu _ _ _
    refine ⟨_, hexec, rfl, ?_, ?_, setPsu_mram s inlet _, setPsu_regs s inlet _⟩
    · exact (congrArg Supply.inOk hpsu).trans rfl
    · exact (congrArg Supply.outOk hpsu).trans hcode
  case pwrOk =>
    intro f hst hno
    refine congrArg Host.Outcome.next ?_
    simp [hst, hno]
  case ready =>
    intro hst hpwr hin hcool htemp hactive
    refine ⟨readyState s, congrArg Host.Outcome.next ?_, rfl, rfl, rfl, rfl⟩
    simp only [hst, hpwr, hin, decide_true, Bool.and_self, if_true]
    exact becomeReady_active hcool htemp hactive
  case late =>
    intro hst hpwr hin
    refine congrArg Host.Outcome.next ?_
    simp [hst, hpwr, hin, failStart]
  case confirmed =>
    intro t hready hlong hclean hnot hmram
    have hsince : sinceReady s = false := by
      simp only [sinceReady, hready]
      exact decide_lt_false hlong
    refine congrArg Host.Outcome.next ?_
    simp [hready, hsince, hclean, hnot, hmram]

/-- Settles O21: POWER_FAIL and a class 4 error are one record each (`raiseErr_nextSeq`), and a restart builds the state anew
around what MRAM keeps (`restart_mram`). -/
theorem powerLoss : Obligations.powerLoss := by
  unfold Obligations.powerLoss
  refine ⟨fun s => ⟨?fail, ?drop, ?early, ?classFour⟩, fun s => ?restart⟩
  case fail =>
    intro hon hfirst
    obtain ⟨b, hpower⟩ := raiseErr_power (powerFailing s) { code := 0x1306, cls := 4, lasts := true }
    refine ⟨_, exec_powerFail_first hon hfirst, ?_, ?_, ?_, raiseErr_nextSeq _ _, raiseErr_memory _ _, raiseErr_media _ _⟩
    · rw [hpower]
      rfl
    · rw [hpower]
      rfl
    · rw [hpower]
      rfl
  case drop =>
    intro t0 hfail hover
    exact ⟨_, exec_railsDrop_over hfail hover, rfl, rfl, rfl, rfl, rfl, rfl, rfl, rfl⟩
  case early =>
    intro t0 hfail hearly
    refine congrArg Host.Outcome.next ?_
    simp only [hfail, if_pos hearly]
  case classFour =>
    intro code inst a b hst h5 h6
    refine ⟨congrArg Host.Outcome.next ?_, moduleAction_st hst⟩
    have hon : s.power.st ≠ .off := by
      obtain hst | hst := hst
      · simp [hst]
      · simp [hst]
    have h5' : ¬ code = 4869#16 := h5
    have h6' : ¬ code = 4870#16 := h6
    simp [hon, h5', h6']
  case restart =>
    refine ⟨rfl, rfl, rfl, rfl, rfl, rfl, rfl, rfl, rfl, rfl, rfl, rfl, rfl, ?_, ?_, ?_, ?_, ?_, fun r hr => ?_,
      ppsDropped_pending s⟩
    · rw [restart_mram]; rfl
    · rw [restart_mram]; rfl
    · rw [restart_mram]; rfl
    · rw [restart_mram]; rfl
    · rw [restart_mram]; rfl
    · rw [restart_nextSeq]
      exact seq_lt_nextSeqOf hr
end

section
/-! Obligations O22 to O24: supplies and heat, firmware and keys, cages and links. -/

namespace Sys2Proof.Machine

theorem feedbackOn_of_held {s : State} {t : Nat} (hst : s.power.st = .active) (hat : s.power.buttonAt = some t)
    (hheld : t + aonUs 1000000 ≤ s.power.aon) : feedbackOn s = true := by
  have hlong : aonUs 1000000 ≤ heldFor s := by
    simp only [heldFor, hat]
    omega
  simp [feedbackOn, hst, hat, hlong]

theorem feedbackOn_of_short {s : State} {t : Nat} (hat : s.power.buttonAt = some t)
    (hshort : s.power.aon < t + aonUs 1000000) : feedbackOn s = false := by
  have hpos : 0 < aonUs 1000000 := by decide
  have hheld : decide (heldFor s ≥ aonUs 1000000) = false := by
    refine decide_le_false ?_
    simp only [heldFor, hat]
    omega
  rw [feedbackOn, hheld, Bool.and_false]

/-- A good supply that is inserted with mains at its inlet runs (R507). -/
theorem exec_supplyInserted_good {s : State} {k : Fin 2} (hnone : (getPsu s k).present = false) :
    exec (.supplyInserted k true true) s = .next (mainsReach (setPsu s k
      { present := true, codeOk := true, failed := (getPsu s k).failed }) k) := by
  refine congrArg Host.Outcome.next ?_
  simp [hnone]

theorem mainsReach_of_running {s : State} {k : Nat} (hst : s.power.st = .active) :
    mainsReach s k = nextFree (setPsu s k ((getPsu s k).fed s)) := by
  have hst' : (nextFree (setPsu s k ((getPsu s k).fed s))).power.st = .active := (setPsu_st s k _).trans hst
  refine if_neg ?_
  rw [hst']
  simp

theorem getImage_setImage (s : State) (b : Bool) (x : ImageSlot) : getImage (setImage s b x) b = x := by
  cases b
  · rfl
  · rfl

theorem getImage_setImage_other (s : State) (b : Bool) (x : ImageSlot) : getImage (setImage s b x) (!b) = getImage s (!b) := by
  cases b
  · rfl
  · rfl

/-- A security write while Oxvan is answered takes effect and reports its status. -/
theorem secItem_open {s : State} (hopen : setupOpen s = true) {r : State × IStatus} {t : State} {st : IStatus}
    (hr : r = (t, st)) : secItem s r = emit t (.itemStatus st) := by
  simp [secItem, hopen, hr]

theorem slotReason_unread (s : State) (b : Bool) : slotReason s b false = 6 := rfl

section
variable {s : State} {b : Bool} {bs : List Byte} (hbytes : (getImage s b).bytes = some bs)
include hbytes

theorem slotReason_of_bytes : slotReason s b true = imageReason s.mram.minSvn bs := by
  simp [slotReason, hbytes]

/-- R530: an image without its magic number. -/
theorem slotReason_magic (h : bs.take 4 ≠ [0x50, 0x58, 0x46, 0x57]) : slotReason s b true = 1 := by
  rw [slotReason_of_bytes hbytes, imageReason, bne_iff_ne.2 h]
  rfl

end

/-- R530: an image that passes is of this model, has the hash of its body, and is no older than the security version. -/
theorem passes_of_imageReason_eq_zero {minSvn : Nat} {bs : List Byte} (h : imageReason minSvn bs = 0) :
    leNat ((bs.drop 4).take 2) = 9 ∧ (bs.drop 32).take 32 = sha256 ((bs.drop 1024).take (leNat ((bs.drop 8).take 4))) ∧
      minSvn ≤ leNat ((bs.drop 6).take 2) := by
  unfold imageReason at h
  dsimp only at h
  split_ifs at h with _ hmodel hhash _ hsvn
  exact ⟨not_not.1 hmodel, not_not.1 hhash, not_lt.1 hsvn⟩

/-- R530: BEGIN on a slot that does not run, with a length in range. -/
theorem fwBeginWrite_accepted {s : State} {b : Bool} {n : Nat} (hrests : s.sec.fw.rests = true)
    (hnot : isRunningSlot s b = false) (hlo : 1024 ≤ n) (hhi : n ≤ 167772160) :
    ∃ t, fwBeginWrite s b n = (t, .ok) ∧ t.sec.fw = .receiving ∧ t.sec.slotB = b ∧ t.sec.length = n ∧ t.sec.received = 0 ∧
      (getImage t b).valid = false ∧ getImage t (!b) = getImage s (!b) := by
  refine ⟨_, if_neg ?_, rfl, rfl, rfl, rfl, ?_, ?_⟩
  · simp [hrests, hnot, Nat.not_lt.2 hlo, Nat.not_lt.2 hhi]
  · exact congrArg ImageSlot.valid (getImage_setImage s b _)
  · exact getImage_setImage_other s b _

/-- R530: ACTIVATE of a verified image, while MRAM can be written. -/
theorem fwActivateWrite_verified {s : State} (hfw : s.sec.fw = .verified) (hmram : mramWritable s = true) :
    ∃ t, fwActivateWrite s = (t, .ok) ∧ t.sec.fw = .activated ∧ t.mram.preferredB = s.sec.slotB ∧ t.mram.failCount = 0 ∧
      (getImage t s.sec.slotB).valid = true := by
  simp only [fwActivateWrite, hfw, ne_eq, not_true_eq_false, if_false, hmram, if_true]
  refine ⟨_, rfl, rfl, rfl, rfl, ?_⟩
  cases s.sec.slotB
  · rfl
  · rfl

theorem getMac_setMac (s : State) (port : Nat) (m : Mac) : getMac (setMac s port m) port = m := by
  unfold setMac getMac
  split
  · rfl
  · rfl

theorem setMac_setMac (s : State) (port : Nat) (m m' : Mac) : setMac (setMac s port m) port m' = setMac s port m' := by
  unfold setMac
  split
  · rfl
  · rfl

theorem cagePowered_setMac (s : State) (port p : Nat) (m : Mac) : cagePowered (setMac s port m) p = cagePowered s p := by
  unfold setMac
  split
  · rfl
  · rfl

theorem now_setMac (s : State) (port : Nat) (m : Mac) : now (setMac s port m) = now s := by
  rw [now, setMac_time]; rfl

/-- R187: the port's link is down, whatever took it down, and nothing waits in it. -/
def Mac.down (m : Mac) (lf rf : Bool) : Mac :=
  { m with link := false, localFault := lf, remoteFault := rf, txq := List.replicate 8 [], replies := [], paused := [],
           stoppedSince := [] }

/-- A link that is down already only takes its faults. -/
theorem linkFalls_of_down {s : State} {port : Nat} (h : (getMac s port).link = false) (lf rf : Bool) :
    linkFalls s port lf rf = setMac s port ((getMac s port).down lf rf) := by
  simp only [linkFalls, h, Bool.false_eq_true, if_false]
  rfl

theorem linkDrop_of_down {s : State} {port : Nat} (h : (getMac s port).link = false) :
    linkDrop s port = setMac s port ((getMac s port).down true false) := by
  simp [linkDrop, h, linkFalls_of_down h]

/-- R183: what a powered cage shows of its plug-in. -/
theorem plugInit_powered {s : State} {port : Nat} (h : cagePowered s port = true) :
    plugInit s port = setMac s port { getMac s port with
      plug := plugValue (getMac s port).module_
      plugAt := s.power.aon
      cmisRetryAt := if plugValue (getMac s port).module_ = 5 then some (now s + durS 5) else none } := by
  simp only [plugInit, h, if_true]

theorem plugShown_settled {s : State} {plug plugAt : Nat} (h : plugAt ≠ s.power.aon) : plugShown s plug plugAt = plug := by
  simp [plugShown, h]

theorem plugValue_silent {p : Plug} (h : p.answers = false) : plugValue (some p) = 5 := by
  simp [plugValue, h]

/-- R182: inserting a plug-in into a powered data cage reads it. -/
theorem plugInsert_powered {s : State} {port : Fin 2} {cage : Fin 4} (hcage : cage.val = port.val)
    (h : cagePowered s port = true) (p : Plug) :
    exec (.plugInsert cage p) s = .next (setMac s port { getMac s port with
      module_ := some p
      plug := plugValue (some p)
      plugAt := s.power.aon
      cmisRetryAt := if plugValue (some p) = 5 then some (now s + durS 5) else none }) := by
  have hdata : cage.val < 2 := hcage ▸ port.isLt
  refine congrArg Host.Outcome.next ((if_pos hdata).trans ?_)
  rw [hcage, plugInit_powered (by rw [cagePowered_setMac, h]), getMac_setMac, setMac_setMac, now_setMac, setMac_power]

/-- R182: removing a plug-in from a powered data cage whose link is down leaves the cage empty. -/
theorem plugRemove_powered {s : State} {port : Fin 2} {cage : Fin 4} (hcage : cage.val = port.val)
    (hlink : (getMac s port).link = false) (h : cagePowered s port = true) :
    exec (.plugRemove cage) s = .next (setMac s port { (getMac s port).down true false with
      module_ := none
      plug := 0
      plugAt := s.power.aon
      cmisRetryAt := none }) := by
  have hdata : cage.val < 2 := hcage ▸ port.isLt
  refine congrArg Host.Outcome.next ((if_pos hdata).trans ?_)
  rw [hcage, linkDrop_of_down hlink, getMac_setMac, setMac_setMac, plugInit_powered (by rw [cagePowered_setMac, h]),
    getMac_setMac, setMac_setMac, setMac_power]
  rfl

end Sys2Proof.Machine

open Sys2Proof Sys2Proof.Machine

/-- Settles O22: each row has the effect of the branch that the supply, the fan, the temperature or the button selects. -/
theorem suppliesFansAndHeat : Obligations.suppliesFansAndHeat := by
  unfold Obligations.suppliesFansAndHeat
  refine ⟨fun s => ⟨?supplyFailed, ?supplyInserted, ?inputRestored, ?fanFailed, ?fanInserted, ?redundancy, ?fanSpeed, ?warning,
      ?critical, ?overheat, ?cool⟩,
    fun s => ⟨?press, ?held, ?release, ?led, ?ledFeedback, ?lampTest, ?lampEnd⟩⟩
  case supplyFailed =>
    intro k o i r hpresent hsome
    refine congrArg Host.Outcome.next ?_
    simp only [hpresent, hsome, Bool.not_true, Bool.or_self, Bool.false_eq_true, if_false]
  case supplyInserted =>
    intro k hnone hst
    have hexec := exec_supplyInserted_good hnone
    rw [mainsReach_of_running ((setPsu_st s k _).trans hst), getPsu_setPsu] at hexec
    refine ⟨_, hexec, ?_, ?_, ?_⟩
    · exact congrArg Supply.present (getPsu_setPsu _ _ _)
    · exact congrArg Supply.outOk (getPsu_setPsu _ _ _)
    · rw [nextFree_err, setPsu_err, setPsu_err]
  case inputRestored =>
    intro k hpresent hdark hst hother
    refine congrArg Host.Outcome.next ?_
    simp [hpresent, hdark, hst, hother]
  case fanFailed =>
    intro f rpm hpresent hst
    refine congrArg Host.Outcome.next ?_
    simp [hpresent, fanOut, hst]
  case fanInserted =>
    intro f hnone hst
    refine congrArg Host.Outcome.next ?_
    simp [hnone, hst]
  case redundancy =>
    intro f t hfailed hsince hlong
    refine congrArg Host.Outcome.next ?_
    simp [hfailed, hsince, hlong, b2n, word]
  case fanSpeed =>
    intro hraised
    refine congrArg Host.Outcome.next ?_
    simp only [hraised, Bool.not_true, Bool.false_eq_true, if_false]
    rfl
  case warning =>
    intro p i hst hhot
    refine congrArg Host.Outcome.next ?_
    simp [hst, hhot, measured]
  case critical =>
    intro p i hst hhot
    refine congrArg Host.Outcome.next ?_
    simp [hst, Nat.not_le.2 hhot, measured]
  case overheat =>
    intro hst hidle hpower
    simp only [overheat, hpower, hst, hidle, Option.isSome_none, Bool.false_eq_true, if_false]
    rfl
  case cool =>
    intro p i hst hcool
    refine congrArg Host.Outcome.next ?_
    simp [hst, hcool, measured]
  case press =>
    intro hst hnone
    refine congrArg Host.Outcome.next ?_
    simp [hst, hnone]
  case held =>
    intro t hst hat hnot
    refine ⟨fun hlong => congrArg Host.Outcome.next ?_, fun hlong hmram => congrArg Host.Outcome.next ?_,
      fun hshort => congrArg Host.Outcome.next ?_⟩
    · simp [feedbackOn_of_held hst hat hlong, hnot, emit]
    · have hon : feedbackOn s = true :=
        feedbackOn_of_held hst hat ((Nat.add_le_add_left (by decide : aonUs 1000000 ≤ aonUs 8000000) t).trans hlong)
      have hheld : aonUs 8000000 ≤ heldFor s := by
        simp only [heldFor, hat]
        omega
      simp [hon, hheld, hnot, hmram, emit]
    · have hpos : 0 < aonUs 8000000 := by decide
      have hheld : decide (heldFor s ≥ aonUs 8000000) = false := by
        refine decide_le_false ?_
        simp only [heldFor, hat]
        omega
      rw [hheld, Bool.and_false, Bool.false_and]
      rfl
  case release =>
    intro t hat hshort
    refine congrArg Host.Outcome.next ?_
    simp [feedbackOn_of_short hat hshort, hat]
  case led =>
    intro hst hlamp hoff
    refine ⟨fun h6 h7 => ?_, fun herr hshow => ?_⟩
    · simp [statusLed, hoff, shown, lampLight, hlamp, lowestRow, hst, h6, h7]
    · simp [statusLed, hoff, shown, lampLight, hlamp, lowestRow, hst, herr, hshow]
  case ledFeedback =>
    intro hst hon hnot
    simp [statusLed, hon, hnot]
  case lampTest =>
    intro hopen
    refine congrArg Host.Outcome.next ?_
    simp [hopen, lampTestWrite, emit]
  case lampEnd =>
    intro t hlamp hlong
    refine congrArg Host.Outcome.next ?_
    simp only [hlamp, if_neg (Nat.not_lt.2 hlong)]
    rfl

/-- Settles O23: each write of the firmware and key registers runs its own unit, whose guard the hypotheses pass; the reason
of a verified slot is `imageReason` of its bytes, and the two identity commands pass their checks in the order of R147. -/
theorem firmwareAndKeys : Obligations.firmwareAndKeys := by
  unfold Obligations.firmwareAndKeys
  refine ⟨fun s hopen => ⟨?begins, ?data, ?programmed, ?verify, ?verified, slotReason_unread s _, ?image, ?activate, ?abort,
    ?reverify, ?load, ?loadBad, ?clear⟩, fun c s f => ⟨?identity, ?quote, ?lost⟩⟩
  case begins =>
    intro b n hrests hnot hlo hhi
    obtain ⟨t, ht, hfacts⟩ := fwBeginWrite_accepted hrests hnot hlo hhi
    exact ⟨_, congrArg Host.Outcome.next (secItem_open hopen ht), hfacts⟩
  case data =>
    intro v hfw hroom
    have hspace : ¬ (4194304 - s.sec.staged.length < 6) := by omega
    refine congrArg Host.Outcome.next (secItem_open hopen ?_)
    simp [fwDataWrite, hfw, hspace, setSec, wordLe]
  case programmed =>
    intro hfw
    have hexec : exec .flashProgramDone s = .next (setSec (setImage s s.sec.slotB { getImage s s.sec.slotB with
        bytes := some (((getImage s s.sec.slotB).bytes.getD []) ++ s.sec.staged) }) (fun x => { x with staged := [] })) := by
      refine congrArg Host.Outcome.next ?_
      simp [hfw]
    refine ⟨_, hexec, ?_, ?_, ?_⟩
    · simp [setSec, setImage_sec]
    · exact congrArg ImageSlot.bytes (getImage_setImage s _ _)
    · exact getImage_setImage_other s _ _
  case verify =>
    intro hfw hlen hempty
    refine congrArg Host.Outcome.next (secItem_open hopen ?_)
    simp [fwVerifyWrite, hfw, Nat.not_lt.2 hlen, hempty, setSec]
  case verified =>
    intro readback hfw
    refine ⟨_, rfl, ?_, ?_⟩
    · simp [hfw, setSec]
    · simp [hfw, setSec]
  case image =>
    intro bs hbytes
    have hpasses : slotReason s s.sec.slotB true = 0 → _ := fun h =>
      passes_of_imageReason_eq_zero ((slotReason_of_bytes hbytes).symm.trans h)
    exact ⟨slotReason_magic hbytes, fun h h0 => h (hpasses h0).1, fun h h0 => absurd (hpasses h0).2.2 (Nat.not_le.2 h),
      fun h h0 => h (hpasses h0).2.1⟩
  case activate =>
    intro hfw hmram
    obtain ⟨t, ht, hfacts⟩ := fwActivateWrite_verified hfw hmram
    exact ⟨_, congrArg Host.Outcome.next (secItem_open hopen ht), hfacts⟩
  case abort => exact congrArg Host.Outcome.next (secItem_open hopen rfl)
  case reverify =>
    intro b hrests hnot hvalid
    refine congrArg Host.Outcome.next (secItem_open hopen ?_)
    simp [fwReverifyWrite, hrests, hnot, hvalid, setSec]
  case load =>
    intro slot l hspare
    refine congrArg Host.Outcome.next (secItem_open hopen ?_)
    simp only [kekLoadWrite, hspare, Bool.false_eq_true, if_false]
    rfl
  case loadBad =>
    intro slot l hspare
    refine congrArg Host.Outcome.next (secItem_open hopen (st := .refused) ?_)
    simp only [kekLoadWrite, hspare, if_true]
  case clear => exact fun slot => congrArg Host.Outcome.next (secItem_open hopen rfl)
  case identity =>
    intro bs hb hres hregion halign cert
    refine ⟨fun hshort => ?_, fun hlen hout => ?_, fun hlen hin hmid hbad => ?_, fun hlen hin hgood => ?_⟩
    · exact next_reply hb (guarded_go hres (guarded_go hregion (if_pos hshort)))
    · refine next_reply hb (guarded_go hres (guarded_go hregion ((if_neg (Nat.not_lt.2 hlen)).trans ?_)))
      exact guarded_stop hout
    · refine next_reply hb (guarded_go hres (guarded_go hregion ((if_neg (Nat.not_lt.2 hlen)).trans ?_)))
      refine guarded_go hin (guarded_go (bne_false halign) (guarded_stop ?_))
      simp [hmid, hbad]
    · refine next_reply hb (guarded_go hres (guarded_go hregion ((if_neg (Nat.not_lt.2 hlen)).trans ?_)))
      refine guarded_go hin (guarded_go (bne_false halign) (guarded_go ?_ rfl))
      obtain hmodule | hgood := hgood
      · simp [hmodule]
      · simp [hgood]
  case quote =>
    intro bs hb hres hregion hreq hres2 halign halign2 hzero
    have hinside : (regionBounds s c.slot c.w1 c.w2.toNat 64 false || regionBounds s c.slot c.w1 c.w3.toNat 512 true) = false := by
      rw [hreq, hres2, Bool.or_self]
    have haligned : (c.w2.toNat % 64 != 0 || c.w3.toNat % 64 != 0) = false := by
      rw [bne_false halign, bne_false halign2, Bool.or_self]
    refine ⟨fun hgood => ?_, fun hbad => ?_⟩
    · refine next_reply hb (guarded_go hres (guarded_go hregion (guarded_go hinside (guarded_go haligned ?_))))
      refine guarded_go hzero (guarded_go ?_ rfl)
      simp [hgood]
    · refine next_reply hb (guarded_go hres (guarded_go hregion (guarded_go hinside (guarded_go haligned ?_))))
      refine guarded_go hzero (guarded_stop ?_)
      simp [hbad]
  case lost =>
    intro hb hres hregion hreq hres2 halign halign2
    have hinside : (regionBounds s c.slot c.w1 c.w2.toNat 64 false || regionBounds s c.slot c.w1 c.w3.toNat 512 true) = false := by
      rw [hreq, hres2, Bool.or_self]
    have haligned : (c.w2.toNat % 64 != 0 || c.w3.toNat % 64 != 0) = false := by
      rw [bne_false halign, bne_false halign2, Bool.or_self]
    exact next_reply hb (guarded_go hres (guarded_go hregion (guarded_go hinside (guarded_go haligned rfl))))

/-- Settles O24: a data cage's rows set the port's `Mac` and read it back; a link that is down only takes its faults. -/
theorem cagesAndLinks : Obligations.cagesAndLinks := by
  unfold Obligations.cagesAndLinks
  refine ⟨fun s port cage hcage => ?_, fun p => ⟨plugValue_silent, fun hans hkind => ?_, fun hans h5 happ hw => ?_, fun hans h5 happ hw => ?_, rfl⟩⟩
  · have hdata : cage.val < 2 := hcage ▸ port.isLt
    refine ⟨fun p hon hread => ?_, fun p hon hsilent => ?_, fun hlink hon => ?_, fun t0 ht0 hdue => ?_, fun hplug hlink => ?_,
      fun hon hplug hsettled => ?_, fun rf hlink => ⟨?_, ?_⟩⟩
    · refine ⟨_, plugInsert_powered hcage hon p, ?_⟩
      simp [getMac_setMac, hread]
    · refine ⟨_, plugInsert_powered hcage hon p, ?_⟩
      simp [getMac_setMac, plugValue_silent hsilent]
    · refine ⟨_, plugRemove_powered hcage hlink hon, ?_⟩
      simp [getMac_setMac, setMac_hci]
    · refine congrArg Host.Outcome.next ((if_pos hdata).trans ?_)
      rw [hcage, ht0]
      exact if_pos hdue
    · refine congrArg Host.Outcome.next ((if_pos hdata).trans ?_)
      rw [hcage, if_pos hplug, linkDrop_of_down hlink]
      dsimp only
      rw [getMac_setMac, setMac_setMac]
      rfl
    · refine congrArg Host.Outcome.next ?_
      simp [hon, plugShown_settled hsettled, hplug]
    · exact congrArg Host.Outcome.next (if_pos hlink)
    · simp only [linkFalls, hlink, if_true]
      cases rf
      · rfl
      · rfl
  · obtain h | h := hkind
    · simp [plugValue, hans, h]
    · simp [plugValue, hans, h]
  · simp [plugValue, hans, h5, happ, hw]
  · simp [plugValue, hans, h5, happ, Nat.not_lt.2 hw]
end

section
/-! Obligations O25 to O27: frame reception, transmission and gate lists, the management port. -/

namespace Sys2Proof.Machine

theorem getMac_bumpC (s : State) (o n port : Nat) : getMac (bumpC s o n) port = getMac s port := by
  cases port
  · rfl
  · rfl

theorem getMac_macCount (s : State) (p c n port : Nat) : getMac (macCount s p c n) port = getMac s port :=
  getMac_bumpC s _ n port

theorem getMac_countRx (s : State) (p len port : Nat) : getMac (countRx s p len) port = getMac s port := by
  rw [countRx, getMac_macCount, getMac_macCount]

/-- Counting received frames leaves every register but the counters. -/
theorem getF_countRx {s : State} {port len p hi lo : Nat} (h : ∀ k, p ≠ oMacCounter port k) :
    getF (countRx s port len) p hi lo = getF s p hi lo := by
  rw [getF, countRx, macCount, macCount, regRaw_bumpC_ne _ _ _ _ (h _), regRaw_bumpC_ne _ _ _ _ (h _)]
  rfl

theorem oMacFc_ne_oMacCounter (port k : Nat) : oMacFc port ≠ oMacCounter port k := by
  unfold oMacFc oMacCounter
  omega

theorem getF_oMacFc_countRx (s : State) (port len hi lo : Nat) :
    getF (countRx s port len) (oMacFc port) hi lo = getF s (oMacFc port) hi lo :=
  getF_countRx (oMacFc_ne_oMacCounter port)

theorem now_countRx (s : State) (port len : Nat) : now (countRx s port len) = now s := rfl

section
variable {s : State} {port : Fin 2} {f : Frame} (hlink : (getMac s port).link = true)
include hlink

/-- R190: a frame that a check turns away is counted there. -/
theorem macFrameReceive_refused {k : Nat} (hk : frameCheck s port f = some k) :
    exec (.macFrameReceive port f) s =
      .next (macCount (macCount (macCount s port 16 f.fecCorr) port 17 f.fecUncorr) port k 1) := by
  refine congrArg Host.Outcome.next ?_
  simp [hlink, hk, cFecCorr, cFecUncorr]

end

/-- A frame none of whose tags is of another kind keeps its body. -/
theorem bodyOf_of_tags {f : Frame} (h : ∀ t ∈ f.tags, t.tpid = 0x8100) : bodyOf f = f.body := by
  refine if_neg ?_
  simp only [Bool.not_eq_true, List.any_eq_false]
  intro t ht
  simp [h t ht]

theorem bodyOf_other {f : Frame} (h : f.body = .other) : bodyOf f = .other := by
  rw [bodyOf, h, ite_self]

theorem with_body_self {f : Frame} {b : FrameBody} (h : f.body = b) : { f with body := b } = f := by
  cases h
  rfl

theorem frameCheck_runt {s : State} {port : Nat} {f : Frame} (h : f.len < 64) : frameCheck s port f = some 2 := by
  simp [frameCheck, firstFail, h, cRunt]

theorem frameCheck_oversize {s : State} {port : Nat} {f : Frame} (h : 64 ≤ f.len)
    (hmax : getF s (oMacCtrl port) 45 32 < f.len) : frameCheck s port f = some 3 := by
  simp [frameCheck, firstFail, Nat.not_lt.2 h, hmax, cOversize]

theorem frameCheck_badFcs {s : State} {port : Nat} {f : Frame} (h : 64 ≤ f.len)
    (hmax : f.len ≤ getF s (oMacCtrl port) 45 32) (hfcs : f.fcsOk = false) : frameCheck s port f = some 4 := by
  simp [frameCheck, firstFail, Nat.not_lt.2 h, Nat.not_lt.2 hmax, hfcs, cFcsErr]

theorem getMac_setF (s : State) (o hi lo x port : Nat) : getMac (setF s o hi lo x) port = getMac s port := by
  cases port
  · rfl
  · rfl

theorem fillRoce_nil (s : State) (port : Nat) (h : s.hci.sendQ = []) : fillRoce s port [] [] = s := by
  obtain ⟨⟩ := s
  rename_i hci _ _ _ _ _ _ _ _ _ _ _ _ _ _
  cases hci
  cases h
  rfl

/-- R198: no source has anything for the class queues. -/
theorem fillQueues_of_idle {s : State} {port : Nat} (hrep : (getMac s port).replies = []) (hptp : s.time.ptpOut = [])
    (hroce : s.hci.sendQ = []) : fillQueues s port = s := by
  have hsend : { s with hci := { s.hci with sendQ := [] } } = s := by
    rw [← hroce]
  simp only [fillQueues, hrep, List.length_nil, fillReplies, hptp, fillPtp, hroce, hsend]
  exact fillRoce_nil s port hroce

/-- Classes whose queues are empty are passed over. -/
theorem selectTx_skip {s : State} {port c : Nat} (n : Nat) (hc : c ≤ n)
    (hempty : ∀ d, c ≤ d → d < n → (getMac s port).txq.getD d [] = []) : selectTx s port n = selectTx s port c := by
  induction n with
  | zero => rw [Nat.le_zero.1 hc]
  | succ n ih =>
    obtain heq | hlt := Nat.lt_or_eq_of_le hc |>.symm
    · rw [heq]
    · have hq := hempty n (Nat.le_of_lt_succ hlt) (Nat.lt_succ_self n)
      rw [selectTx]
      simp only [hq]
      exact ih (Nat.le_of_lt_succ hlt) (fun d h1 h2 => hempty d h1 (Nat.lt_succ_of_lt h2))

/-- R199: with no gate list the oldest frame of an open class leaves. -/
theorem selectTx_open {s : State} {port c : Nat} {f : TxFrame} {rest : List TxFrame}
    (hq : (getMac s port).txq.getD c [] = f :: rest) (hoper : (getMac s port).oper = none) (hkind : ∀ m, f.kind ≠ .ptp m)
    (hopen : classOpen s (getMac s port) c = true) :
    selectTx s port (c + 1) = macCount (macCount (emit
      (setMac s port { getMac s port with
        txq := (getMac s port).txq.set c rest
        sending := some ({ f with held := false }, now s + frameDurT f.len) }) (.frame port { f with held := false }))
      port 9 1) port 10 f.len := by
  rw [selectTx]
  simp only [hq, hopen, hoper, Option.isSome_none, Bool.false_and, Bool.not_true, Bool.false_eq_true, if_false]
  have hsent : ∀ t, frameSent t port f = (t, { f with held := false }) := by
    intro t
    unfold frameSent
    split
    next m hm => exact absurd hm (hkind m)
    next => rfl
  rw [hsent]
  rfl

section
variable {s : State} {port : Nat} {f : TxFrame} {cls : Nat} (hlink : (getMac s port).link = true)
  (hfits : neverFits (getMac s port) cls f.len = false)
include hlink hfits

/-- R198: a class queue with room takes the frame with the port's tag. -/
theorem txAdd_room (hroom : (((getMac s port).txq.getD cls []).map (fun x => x.len)).sum + f.len ≤ 262144) :
    txAdd s port cls f = (setMac s port { getMac s port with
      txq := (getMac s port).txq.set cls ((getMac s port).txq.getD cls [] ++
        [{ f with tag := if getB s (oMacVlan port) 12 then some (getF s (oMacVlan port) 11 0, cls) else none }]) }, true) := by
  simp only [txAdd, hlink, hfits, Bool.not_true, Bool.false_eq_true, if_false, gt_iff_lt]
  exact if_neg (Nat.not_lt.2 hroom)

theorem txAdd_full (hfull : 262144 < (((getMac s port).txq.getD cls []).map (fun x => x.len)).sum + f.len) :
    txAdd s port cls f = (s, false) := by
  simp only [txAdd, hlink, hfits, Bool.not_true, Bool.false_eq_true, if_false, gt_iff_lt]
  exact if_pos hfull

end

theorem gateChange_of_none {s : State} {port : Nat} (h : (getMac s port).admin = none) : gateChange s port = s := by
  simp only [gateChange, h]

theorem gateChange_early {s : State} {port : Nat} {g : GateList} (h : (getMac s port).admin = some g) (ht : now s < g.start) :
    gateChange s port = s := by
  simp only [gateChange, h, if_pos ht]

/-- R204: at its change time the committed list becomes operational. -/
theorem getMac_gateChange_due {s : State} {port : Nat} {g : GateList} (h : (getMac s port).admin = some g)
    (ht : g.start ≤ now s) (hregs : (getMac s port).adminRegs = []) :
    getMac (gateChange s port) port = { getMac s port with
      oper := some g, admin := none, entryNs := 0, entryIndex := 0, neverFits := [],
      gates := (g.cycle.getD 0 { gates := 255, intervalNs := 0 }).gates } := by
  simp only [gateChange, h, if_neg (Nat.not_lt.2 ht), hregs, getMac_setF, getMac_setMac]
  rfl

/-- R203: once its time is over, and no committed list stretches it, an entry gives way to the one at `i`, the next one or,
after the last, the first. -/
theorem gateAdvance_due {s : State} {port i : Nat} {g : GateList} {e n : Gate} (hoper : (getMac s port).oper = some g)
    (hadmin : (getMac s port).admin = none) (he : g.cycle[(getMac s port).entryIndex]? = some e)
    (hdue : g.start + durNs ((getMac s port).entryNs + e.intervalNs) ≤ now s)
    (hi : (if (getMac s port).entryIndex + 1 ≥ g.cycle.length then 0 else (getMac s port).entryIndex + 1) = i)
    (hn : g.cycle[i]? = some n) :
    gateAdvance s port = setMac s port { getMac s port with
      entryNs := (getMac s port).entryNs + e.intervalNs
      entryIndex := i
      gates := n.gates } := by
  have hsome : g.cycle.isEmpty = false := by
    rw [List.isEmpty_eq_false_iff]
    intro hnil
    simp [hnil] at he
  have hshort : g.extended (getMac s port) = false := by simp [GateList.extended, hadmin]
  have hcur : g.cycle.getD (getMac s port).entryIndex { gates := 255, intervalNs := 0 } = e := by
    rw [List.getD_eq_getElem?_getD, he]
    rfl
  have hnext : g.cycle.getD i e = n := by
    rw [List.getD_eq_getElem?_getD, hn]
    rfl
  simp only [gateAdvance, hoper, hcur, decide_eq_true_eq, hi, hnext, Nat.not_lt.2 hdue, hsome, hshort, decide_false,
    Bool.or_self, Bool.false_eq_true, if_false]

theorem emits_nil (s : State) : emits s [] = s := by
  simp only [emits, List.append_nil]

/-- With nothing that waits and no attempt begun there is nothing to send. -/
theorem mgmtFlush_of_idle {s : State} (hq : s.mgmt.queue = []) (ha : s.mgmt.attempt = 0) : mgmtFlush s = s := by
  have hsame : { s.mgmt with queue := [], attempt := 0 } = s.mgmt := by rw [← hq, ← ha]
  rw [mgmtFlush, hsame, hq, List.map_nil, emits_nil, ite_self]

theorem mgmtFlush_full {s : State} (hlink : s.mgmt.link = true) (hhalf : mgmtHalf s = false) :
    mgmtFlush s = { s with
      mgmt := { s.mgmt with queue := [], attempt := 0 }, out := s.out ++ s.mgmt.queue.map Emission.mgmt } := by
  rw [mgmtFlush, hlink, hhalf]
  rfl

theorem mgmtTake_badFcs {s : State} {f : MgmtFrame} (h : f.fcsOk = false) : mgmtTake s f = .badFcs := by
  simp [mgmtTake, h]

theorem sends_of_answers {s : State} (hans : mgmtAnswers s = true) (hb : s.mgmt.backoffUntil = none) :
    ¬ (!(mgmtAnswers s) || s.mgmt.backoffUntil.isSome) = true := by
  rw [hans, hb]
  exact Bool.false_ne_true

/-- R211: what half duplex does with the front frame `f`, by the collision it meets. -/
def halfDuplex (s : State) (f : MgmtOut) (c : Collision) : State :=
  match c with
  | .busy => s
  | .none => emit (mgmtNext s) (.mgmt f)
  | .late => bumpF (emit (mgmtNext s) .mgmtJam) oMgtCount 23 12 1
  | .early =>
    if s.mgmt.attempt + 1 ≥ 16 then bumpF (emit (mgmtNext s) .mgmtJam) oMgtCount 11 0 1
    else nextFree (emit { s with mgmt := { s.mgmt with
      attempt := s.mgmt.attempt + 1
      backoffUntil := some (mgmtTime s + durNs ((freeVal s 10).toNat % 2 ^ min (s.mgmt.attempt + 1) 10
        * slotNs s.mgmt.speed)) } } .mgmtJam)

theorem mgmtTransmit_half {s : State} {f : MgmtOut} {rest : List MgmtOut} (hans : mgmtAnswers s = true)
    (hb : s.mgmt.backoffUntil = none) (hhalf : s.mgmt.half = true) (hspeed : s.mgmt.speed ≠ 2) (hq : s.mgmt.queue = f :: rest)
    (c : Collision) : exec (.mgmtTransmit c) s = .next (halfDuplex s f c) := by
  have hmode : mgmtHalf s = true := by rw [mgmtHalf, hhalf, bne_iff_ne.2 hspeed]; rfl
  refine congrArg Host.Outcome.next ((if_neg (sends_of_answers hans hb)).trans ((if_neg ?_).trans ?_))
  · rw [hmode]
    exact Bool.false_ne_true
  · rw [hq]
    cases c
    · rfl
    · rfl
    · simp only [halfDuplex, hq]
    · rfl

/-- R211: taking the front frame away, with no backoff running. -/
theorem mgmtNext_eq {s : State} {f : MgmtOut} {rest : List MgmtOut} (hb : s.mgmt.backoffUntil = none)
    (hq : s.mgmt.queue = f :: rest) : mgmtNext s = { s with mgmt := { s.mgmt with queue := rest, attempt := 0 } } := by
  rw [mgmtNext, hq, ← hb]
  rfl

end Sys2Proof.Machine

open Sys2Proof Sys2Proof.Machine

/-- Settles O25: a received frame takes the first check that fails, or its queue; counting leaves the MAC and its
flow-control register, so a pause frame is judged by the mode it was received under. -/
theorem frameReception : Obligations.frameReception := by
  unfold Obligations.frameReception
  refine ⟨fun port f s hlink => ⟨fun k hk => macFrameReceive_refused hlink hk, frameCheck_runt, frameCheck_oversize,
    frameCheck_badFcs, fun m hok hbody htags hroom => ?_, fun hok hbody hroom => ?_, fun hok hbody hfull => ?_, rfl⟩,
    fun port s => ⟨fun en q hlink hmode => ?_, fun en q hlink hmode => ?_, fun op en q hlink hmode => ?_,
    fun cls t ht hdue => ?_, fun hheld hdue => ?_, fun cls t ht hwd hdue => ?_, fun cls t ht hdue => ?_⟩⟩
  · have hroce := (bodyOf_of_tags htags).trans hbody
    refine congrArg Host.Outcome.next ?_
    simp only [hlink, hok, hroce, bodyControl, getMac_countRx, getMac_macCount, Bool.not_true, Bool.false_eq_true, if_false,
      if_true, with_body_self hbody, gt_iff_lt]
    exact if_neg (Nat.not_lt.2 hroom)
  · refine congrArg Host.Outcome.next ?_
    simp only [hlink, hok, bodyOf_other hbody, bodyControl, getMac_countRx, getMac_macCount, Bool.not_true,
      Bool.false_eq_true, if_false, with_body_self hbody, gt_iff_lt]
    exact if_neg (Nat.not_lt.2 hroom)
  · refine congrArg Host.Outcome.next ?_
    simp only [hlink, hok, bodyOf_other hbody, bodyControl, getMac_countRx, getMac_macCount, Bool.not_true,
      Bool.false_eq_true, if_false, gt_iff_lt]
    exact if_pos hfull
  · refine congrArg Host.Outcome.next ((if_pos hlink).trans ?_)
    simp [takePause, getF_oMacFc_countRx, getMac_countRx, hmode, now_countRx]
  · refine congrArg Host.Outcome.next ((if_pos hlink).trans ?_)
    simp [takePause, getF_oMacFc_countRx, getMac_countRx, hmode, now_countRx]
  · refine congrArg Host.Outcome.next ((if_pos hlink).trans ?_)
    simp [takePause, getF_oMacFc_countRx, hmode, macCount, cRxMacctl]
  · refine congrArg Host.Outcome.next ?_
    simp only [ht]
    exact if_pos hdue
  · refine congrArg Host.Outcome.next ?_
    simp [hheld, Nat.not_lt.2 hdue]
  · refine congrArg Host.Outcome.next ?_
    simp [ht, hwd, Nat.not_lt.2 hdue, b2n, cPauseWdog]
  · refine congrArg Host.Outcome.next ?_
    simp [ht, Nat.not_lt.2 hdue]

/-- Settles O26: the sources add what there is room for and the highest open class sends (`selectTx` passes over the empty
ones); a gate list is committed, becomes operational and moves from entry to entry. -/
theorem frameTransmission : Obligations.frameTransmission := by
  unfold Obligations.frameTransmission
  refine ⟨fun port s hlink => ⟨fun c f rest hrep hptp hroce hq hoper hkind hopen habove => ?_, fun hrep hptp hroce hempty => ?_, ?_,
    fun f cls hfits hroom => txAdd_room hlink hfits hroom, fun f cls hfits hfull => txAdd_full hlink hfits hfull,
    fun a w hrun hown => ?_, fun a w hrun hown => ?_⟩,
    fun port s => ⟨fun hadmin hshort => ?_, fun g hadmin hearly => ?_, fun g hadmin hdue hregs => ?_,
    fun g e hoper hadmin he hearly => ?_, fun g e hoper hadmin he hdue => ⟨fun n hn => ?_, fun hlast n hn => ?_⟩⟩⟩
  · refine congrArg Host.Outcome.next ((if_pos hlink).trans ?_)
    rw [fillQueues_of_idle hrep hptp hroce, selectTx_skip 8 c.isLt (fun d h1 h2 => habove ⟨d, h2⟩ h1),
      selectTx_open hq hoper hkind hopen]
  · refine congrArg Host.Outcome.next ((if_pos hlink).trans ?_)
    rw [fillQueues_of_idle hrep hptp hroce, selectTx_skip 8 (Nat.zero_le 8) (fun d _ h2 => hempty ⟨d, h2⟩), selectTx]
  · exact congrArg Host.Outcome.next (if_pos hlink)
  · refine congrArg Host.Outcome.next ?_
    simp [hlink, hrun, hown, answerArp, getMac_setMac]
  · refine congrArg Host.Outcome.next ?_
    simp [hlink, hrun, hown, answerArp]
  · rw [gateCommitWrite, gateChange_of_none hadmin]
    simp [gateCommitNow, gateRefused, hshort, firstFail]
  · exact congrArg Host.Outcome.next (gateChange_early hadmin hearly)
  · exact ⟨_, rfl, getMac_gateChange_due hadmin hdue hregs⟩
  · refine congrArg Host.Outcome.next ?_
    simp [gateAdvance, hoper, he, hearly]
  · have hmore := (List.getElem?_eq_some_iff.1 hn).1
    exact congrArg Host.Outcome.next (gateAdvance_due hoper hadmin he hdue (if_neg (Nat.not_le.2 hmore)) hn)
  · exact congrArg Host.Outcome.next (gateAdvance_due hoper hadmin he hdue (if_pos hlast.ge) hn)

/-- Settles O27: each row of the management port while it answers; half duplex is `mgmtHalf`, full duplex sends what waits. -/
theorem managementPort : Obligations.managementPort := by
  unfold Obligations.managementPort
  refine fun s => ⟨fun full half hon => ?_, fun full half r hon hspeed hq => ?_, fun full half hauto => ⟨fun h8 hf => ?_, fun h8 h7 hf => ?_⟩,
    fun hans => ⟨fun f a hf => ?_, fun f src dst d hf => ?_, fun f src dst d hbody hf => ?_, fun f hf => ?_, fun f hf => ?_,
      fun hback hhalf c => ?_, fun f rest hback hhalf hspeed hq => ⟨?_, ?_, fun hfew => ?_, fun hmany => ?_, ?_⟩⟩,
    fun f => mgmtTake_badFcs, fun t ht hdue => ?_⟩
  · exact congrArg Host.Outcome.next (if_neg hon)
  · refine congrArg Host.Outcome.next ((if_neg hon).trans ?_)
    simp only [hspeed]
    refine (mgmtFlush_of_idle (by exact hq) rfl).trans ?_
    rw [hq]
  · simp [mgmtSpeed, hauto, h8, hf]
  · simp [mgmtSpeed, hauto, h8, h7, hf]
  · refine congrArg Host.Outcome.next ?_
    simp only [hans, Bool.not_true, Bool.false_eq_true, if_false, hf]
  · refine congrArg Host.Outcome.next ?_
    simp only [hans, Bool.not_true, Bool.false_eq_true, if_false, hf]
  · refine congrArg Host.Outcome.next ?_
    simp only [hans, Bool.not_true, Bool.false_eq_true, if_false, hf, hbody]
  · refine congrArg Host.Outcome.next ?_
    simp only [hans, Bool.not_true, Bool.false_eq_true, if_false, hf]
  · refine congrArg Host.Outcome.next ?_
    simp only [hans, Bool.not_true, Bool.false_eq_true, if_false, hf]
  · have hlink : s.mgmt.link = true := ((Bool.and_eq_true _ _).mp hans).2
    have hfull : mgmtHalf s = false := by simp [mgmtHalf, hhalf]
    refine congrArg Host.Outcome.next ((if_neg (sends_of_answers hans hback)).trans ((if_pos ?_).trans ?_))
    · rw [hfull]
      rfl
    · exact mgmtFlush_full hlink hfull
  · exact (mgmtTransmit_half hans hback hhalf hspeed hq .none).trans (congrArg (fun t => Host.Outcome.next (emit t (.mgmt f))) (mgmtNext_eq hback hq))
  · exact mgmtTransmit_half hans hback hhalf hspeed hq .busy
  · refine (mgmtTransmit_half hans hback hhalf hspeed hq .early).trans (congrArg Host.Outcome.next ?_)
    exact if_neg (Nat.not_le.2 (Nat.succ_lt_succ hfew))
  · refine (mgmtTransmit_half hans hback hhalf hspeed hq .early).trans (congrArg Host.Outcome.next ?_)
    refine (if_pos (Nat.succ_le_succ hmany)).trans ?_
    rw [mgmtNext_eq hback hq]
    rfl
  · refine (mgmtTransmit_half hans hback hhalf hspeed hq .late).trans (congrArg Host.Outcome.next ?_)
    simp only [halfDuplex, mgmtNext_eq hback hq]
    rfl
  · refine congrArg Host.Outcome.next ?_
    simp only [ht, ge_iff_le, hdue, if_true]
end

section
/-! Obligations O28 to O31: stream objects, legs, media packets, RTCP and rates. -/

namespace Sys2Proof.Machine

/-- A check that is made under a condition passes where it passes under the condition. -/
theorem if_check_false {p : Prop} [Decidable p] {q : Bool × Nat} (h : p → q.1 = false) :
    (if p then q else (false, 0)).1 = false := by
  split
  next hp => exact h hp
  next => rfl

theorem beq_and_false {n k : Nat} {b : Bool} (h : n = k → b = false) : (n == k && b) = false := by
  rw [Bool.and_eq_false_imp]
  exact fun hn => h (beq_iff_eq.1 hn)

theorem bne_and_false {n k : Nat} {b : Bool} (h : n = k ∨ b = false) : (n != k && b) = false := by
  rw [Bool.and_eq_false_imp]
  exact fun hn => h.resolve_left (bne_iff_ne.1 hn)

theorem or_check {a b : Bool} (ha : a = false) (hb : b = false) : (a || b) = false := by
  rw [ha, hb, Bool.or_self]

theorem streamRange_kind {s : State} {x : Stream} (h : streamRange s x = false) : 1 ≤ x.kind ∧ x.kind ≤ 5 := by
  simp only [streamRange, Bool.or_eq_false_iff, decide_eq_false_iff_not, Nat.not_lt] at h
  exact ⟨by omega, by omega⟩

theorem streamChange_eq (sel : Nat) (w : Word) : streamChange sel w =
    if sel = 0 then fun x => { x with meter := if w = 0 then none else some (hIndex w) }
    else if sel = 1 then fun x => { x with
      reorderMs := bits w 47 40, nackEn := bitAt w 39, pliEn := bitAt w 38, ccfbEn := bitAt w 37 }
    else if sel = 2 then fun x => { x with levelId := bits w 31 24, ddId := bits w 23 16 }
    else fun x => { x with rtxEn := bitAt w 47, rtxPt := bits w 38 32, rtxSsrc := bits w 31 0 } := by
  match sel with
  | 0 => rfl
  | 1 => rfl
  | 2 => rfl
  | n + 3 => rfl

theorem hObj_congr {s : State} {tys : List Nat} {w : Word} {ex ex' : Nat → Bool} (h : ex (hIndex w) = ex' (hIndex w)) :
    (hObj s tys w ex).1 = (hObj s tys w ex').1 := by
  simp only [hObj, h]

theorem querySel_passes {n : Nat} (h : n ≤ 0x12 ∨ (0x20 ≤ n ∧ n ≤ 0x23)) :
    (!(decide (n ≤ 0x12) || (decide (0x20 ≤ n) && decide (n ≤ 0x23)))) = false := by
  obtain h | ⟨hlo, hhi⟩ := h
  · simp [h]
  · simp [hlo, hhi]

theorem hMay_own {s : State} {ty : Nat} {w : Word} {ex : Nat → Bool} (h : ofMember s ty w = false) :
    hMay s ty w ex = hObj s [ty] w ex := by
  rw [hMay, h]
  rfl

/-- R236: what stands against a leg that passed its first checks. -/
theorem legCreateLate_none {s : State} {d : Desc} (hshaper : shaperTaken s d.w7 none = false)
    (hclash : legClash s (legWith { conf := 0 } d.w2 d.w3 d.w4 d.w5 d.w6) none = false)
    (hroom : s.media.legs.length < 131072) (hconf : (confOf s d.w1).isSome = true ∨ s.media.confs.length < 16384) :
    legCreateLate s d = none := by
  have hlast : ((confOf s d.w1).isNone && decide (s.media.confs.length ≥ 16384)) = false := by
    obtain h | h := hconf
    · rw [← Option.not_isSome, h]
      rfl
    · simp [Nat.not_le.2 h]
  simp only [legCreateLate, firstFail, hshaper, hclash, ge_iff_le, decide_le_false hroom, hlast, Bool.false_eq_true, if_false]

/-- A handle that names an object names one of this member. -/
theorem hMember_of_hObj {s : State} {tys : List Nat} {w : Word} {ex : Nat → Bool} (h : (hObj s tys w ex).1 = false) :
    hMember w = ownMember s := by
  by_contra hne
  have herr : ∃ e, handleErr s tys w = some e := by
    unfold handleErr
    rw [if_pos hne]
    split_ifs
    · exact ⟨_, rfl⟩
    · exact ⟨_, rfl⟩
    · exact ⟨_, rfl⟩
  obtain ⟨e, he⟩ := herr
  simp [hObj, he] at h

/-- R236: a conference of this member may get a leg. -/
theorem confToAttach_own {s : State} {w : Word} (hown : ofMember s 3 w = false)
    (hobj : (hObj s [3] w (confNamed s)).1 = false) : (confToAttach s w).1 = false := by
  simp only [confToAttach, hMember_of_hObj hobj, bne_self_eq_false, Bool.and_false, Bool.false_and, Bool.false_eq_true,
    if_false, hMay_own hown, hobj]

theorem confToAttach_member {s : State} {w : Word} (hmember : ofMember s 3 w = true) (hidx : hIndex w < 16384) :
    (confToAttach s w).1 = false := by
  simp only [confToAttach, hmember, Bool.not_true, Bool.false_and, Bool.false_eq_true, if_false, hMay, if_true]
  exact decide_le_false hidx

/-- R247: a subscription to a local context of the codec, within its layers. -/
theorem local_source_passes {s : State} {src : Nat} (h : kindOf s src = 1 ∨ kindOf s src = 5) :
    (kindOf s src != 1 && kindOf s src != 5) = false := by
  obtain h | h := h
  · simp [h]
  · simp [h]

theorem ofMember_zero (s : State) : ofMember s 1 0 = false := by
  have htype : (hType 0 == 1) = false := by decide
  rw [ofMember, htype]
  simp

theorem getEngine_specCount (s : State) (cls ctr n e : Nat) : getEngine (specCount s cls ctr n) e = getEngine s e := by
  cases e
  · rfl
  · rfl

theorem Tbl.get?_upd {α : Type} (t : Tbl α) (k p : Nat) (f : α → α) :
    Tbl.get? (Tbl.upd t k f) p = if p = k then (Tbl.get? t p).map f else Tbl.get? t p := by
  induction t with
  | nil => simp [Tbl.upd, Tbl.get?]
  | cons q t ih =>
    obtain ⟨a, b⟩ := q
    by_cases hp : a = p
    · by_cases hk : a = k
      · simp [Tbl.upd, Tbl.get?, ← hp, ← hk]
      · simp [Tbl.upd, Tbl.get?, ← hp, hk]
    · have hrest : Tbl.get? (Tbl.upd ((a, b) :: t) k f) p = Tbl.get? (Tbl.upd t k f) p := by
        by_cases hk : a = k
        · simp [Tbl.upd, Tbl.get?, hk, show ¬ k = p from hk ▸ hp]
        · simp [Tbl.upd, Tbl.get?, hk, hp]
      rw [hrest, ih, Tbl.get?, if_neg hp]

theorem getCtx_updCtx (s : State) (c k : Nat) (f : Stream → Stream) :
    getCtx (updCtx s c f) k = if k = c then (getCtx s k).map f else getCtx s k := Tbl.get?_upd _ _ _ _

/-- Counting for a context leaves the records that it owns. -/
theorem ownRecs_ctxCount (s : State) (c k n p : Nat) : ownRecs (ctxCount s c k n) p = ownRecs s p := by
  have hfirst : (getCtx (ctxCount s c k n) p).bind (fun x => x.firstPos) = (getCtx s p).bind (fun x => x.firstPos) := by
    rw [ctxCount, getCtx_updCtx]
    split
    · cases getCtx s p
      · rfl
      · rfl
    · rfl
  rw [ownRecs, hfirst]
  rfl

theorem heldAlready_ctxCount (s : State) (c k n p : Nat) (x : Stream) (ext : Nat) :
    heldAlready (ctxCount s c k n) p x ext = heldAlready s p x ext := by
  rw [heldAlready, ownRecs_ctxCount]
  rfl

section
variable {s : State} {e : Fin 2} {i : RxItem} {rest : List RxItem} (hrun : running s = true) (hin : (getEngine s e).out = false)
  (hserves : servingEngine s (getEngine s e).turn = e.val) (hhere : portElsewhere s e (getEngine s e).turn = false)
include hrun hin hserves hhere

/-- R219: an engine takes a control frame of its turn's port first. -/
theorem packetClassify_ctrl (hq : (getMac s (getEngine s e).turn).ctrlQ = i :: rest) :
    exec (.packetClassify e) s = .next (flowCheck (setEngine
      (setMac s (getEngine s e).turn { getMac s (getEngine s e).turn with ctrlQ := rest }) e
      { getEngine s e with
        fifo := (getEngine s e).fifo ++ [{ port := (getEngine s e).turn, item := i
                                           pkt := classify s (getEngine s e).turn i
                                           unknown := unknownLeg s (getEngine s e).turn i }]
        turn := 1 - (getEngine s e).turn }) (getEngine s e).turn) := by
  refine congrArg Host.Outcome.next ?_
  simp [hrun, hin, hserves, hhere, hq]

/-- R219: a media frame is taken when no control frame waits and none waits at the gate. -/
theorem packetClassify_media (hctrl : (getMac s (getEngine s e).turn).ctrlQ = [])
    (hq : (getMac s (getEngine s e).turn).mediaQ = i :: rest) (hgate : (getEngine s e).passed = []) :
    exec (.packetClassify e) s = .next (flowCheck (setEngine
      (setMac s (getEngine s e).turn { getMac s (getEngine s e).turn with mediaQ := rest }) e
      { getEngine s e with
        fifo := (getEngine s e).fifo ++ [{ port := (getEngine s e).turn, item := i
                                           pkt := classify s (getEngine s e).turn i
                                           unknown := unknownLeg s (getEngine s e).turn i }]
        turn := 1 - (getEngine s e).turn }) (getEngine s e).turn) := by
  refine congrArg Host.Outcome.next ?_
  simp [hrun, hin, hserves, hhere, hctrl, hq, hgate]

end

theorem kindOf_of_getCtx {s : State} {c : Nat} {x : Stream} (h : getCtx s c = some x) : kindOf s c = x.kind := by
  rw [kindOf, h]
  rfl

theorem ownerOf_of_getCtx {s : State} {c : Nat} {x : Stream} (h : getCtx s c = some x) : ownerOf s c = x.owner := by
  rw [ownerOf, h]
  rfl

theorem subOf_of_getCtx {s : State} {c : Nat} {x : Stream} (h : getCtx s c = some x) : subOf s c = x.sub := by
  rw [subOf, h]
  rfl

/-- R226: the report of a leg none of whose outbound contexts has sent is a receiver report, where it has a context for it. -/
theorem sendRtcp_none {s : State} {leg : Nat} {rs : Nat → List RtcpOut} (h : (rtcpCtx s leg).isNone = true) :
    sendRtcp s leg rs = s := by
  rw [sendRtcp, Option.isNone_iff_eq_none.1 h]

end Sys2Proof.Machine

open Sys2Proof Sys2Proof.Machine

/-- Settles O28: each command passes its checks in their order, and its body is the effect that R219, R240, R244 or R245
gives it. -/
theorem streamObjectCommands : Obligations.streamObjectCommands := by
  unfold Obligations.streamObjectCommands
  refine fun c s f => ⟨?confCreate, ?confDestroy, ?streamCreate, ?streamModify, ?streamDestroy, ?queryCtx, ?queryLeg, ?meterSet,
    ?shaperSet⟩
  case confCreate =>
    intro hb hres hqueue hspan hroom
    exact next_reply hb (guarded_go hres (guarded_go hqueue (guarded_go hspan (guarded_go (decide_le_false hroom) rfl))))
  case confDestroy =>
    intro hb hres hobj hused hlegs hattached
    exact next_reply hb (guarded_go hres (guarded_go hobj (guarded_go hused (guarded_go (or_check hlegs hattached) rfl))))
  case streamCreate =>
    intro hb hres hconf hleg hmeter hgroup hrange hclash hfull hmax hroom
    obtain ⟨hlo, hhi⟩ := streamRange_kind hrange
    refine next_reply hb (guarded_go hres (guarded_go ?_ (guarded_go hmeter (guarded_go ?_ (guarded_go hrange (guarded_go
      (bne_and_false hclash) (guarded_go (or_check hfull hmax) (guarded_go hroom rfl))))))))
    · split
      next h5 => exact hconf h5
      next h5 =>
        rw [if_pos ⟨hlo, by omega⟩]
        exact hleg h5
    · split
      next => rfl
      next h0 => exact hgroup.resolve_left h0
  case streamModify =>
    intro x hb hsel hres hobj hx hmeter hreorder hclash hquar
    have hkind : (getCtx (taken s f) (hIndex c.w1)).getD { kind := 0 } = x := by
      rw [show getCtx (taken s f) (hIndex c.w1) = some x from hx]; rfl
    rw [← streamChange_eq]
    refine next_reply hb (guarded_go (decide_lt_false hsel) (guarded_go hres (guarded_go hobj (guarded_go (if_check_false hmeter)
      (guarded_go (beq_and_false fun h => decide_lt_false (hreorder h)) (guarded_go ?_ (guarded_go hquar rfl)))))))
    simp only [hkind]
    rw [Bool.and_assoc]
    exact beq_and_false fun h => bne_and_false (hclash h)
  case streamDestroy =>
    intro hb hres hobj hread
    exact next_reply hb (guarded_go hres (guarded_go hobj (guarded_go hread rfl)))
  case queryCtx =>
    intro x hb hres htype hobj hsel hquar hx
    have hx' : getCtx (taken s f) (hIndex c.w1) = some x := hx
    refine next_reply hb (guarded_go hres (guarded_go ?_ (guarded_go (querySel_passes hsel) (guarded_go
      (beq_and_false fun _ => hquar) ((if_pos htype).trans ?_)))))
    · exact (hObj_congr (if_pos htype)).trans hobj
    · simp only [hx', Option.getD_some, Bool.and_eq_true, decide_eq_true_eq]
  case queryLeg =>
    intro l hb hres htype hobj hlo hhi hl
    have hl' : getLeg (taken s f) (hIndex c.w1) = some l := hl
    have hnot : hType c.w1 ≠ 1 := by omega
    refine next_reply hb (guarded_go hres (guarded_go ?_ (guarded_go (querySel_passes (.inr ⟨hlo, hhi⟩)) (guarded_go
      (beq_and_false fun h => absurd h hnot) ((if_neg hnot).trans ?_)))))
    · exact (hObj_congr (if_neg hnot)).trans hobj
    · simp only [hl', Option.getD_some, ge_iff_le, hlo, if_true]
  case meterSet =>
    intro hb hres hobj hpir hpir1 hcbs hpbs
    exact next_reply hb (guarded_go hres (guarded_go hobj (guarded_go (or_check (or_check (or_check (decide_lt_false hpir)
      (decide_lt_false hpir1)) (decide_lt_false hcbs)) (decide_lt_false hpbs)) rfl)))
  case shaperSet =>
    intro hb hres hobj hrate hlo hhi hq hfollow hlegs
    refine next_reply hb (guarded_go hres (guarded_go hobj (guarded_go (or_check (or_check (or_check (decide_lt_false hrate)
      (decide_lt_false hlo)) (decide_lt_false hhi)) (decide_lt_false hq)) (guarded_go (or_check hfollow ?_) rfl))))
    obtain hen | hnone := hlegs
    · simp [hen]
    · simp [show legsOfShaper (taken s f) (hIndex c.w1) = [] from hnone]

/-- Settles O29: each command passes its checks in their order, and its body is the effect that R236, R246 or R247 gives it. -/
theorem legCommands : Obligations.legCommands := by
  unfold Obligations.legCommands
  refine fun c s f => ⟨fun hb hres hshaper hrange hport htaken hclash hroom => ⟨fun hown hobj => ?createOwn, fun hmember hidx hnone hconfs => ?createMember⟩,
    ?legModify, ?legDestroy, ?unsubscribe, ?subscribe⟩
  case createOwn =>
    have hown' : ofMember (taken s f) 3 c.w1 = false := hown
    have hconf : confOf (taken s f) c.w1 = some (hIndex c.w1) := by rw [confOf, hown']; rfl
    have hlate : legCreateLate (taken s f) (cmdDesc 0x220 c) = none :=
      legCreateLate_none htaken hclash hroom (.inl (by rw [show (cmdDesc 0x220 c).w1 = c.w1 from rfl, hconf]; rfl))
    refine next_reply hb (guarded_go hres (guarded_go (confToAttach_own hown' hobj) (guarded_go hshaper (guarded_go hrange
      (guarded_go (decide_lt_false hport) ((if_neg ?_).trans ?_))))))
    · simp [hconf]
    · have hshadow : shadowFor (taken s f) (cmdDesc 0x220 c).w1 = (taken s f, hIndex c.w1) := by
        rw [shadowFor, show (cmdDesc 0x220 c).w1 = c.w1 from rfl, hconf]
      simp only [legCreateFinish, hlate, hshadow]
      rfl
  case createMember =>
    have hnone' : confOf (taken s f) c.w1 = none := hnone
    have hlate : legCreateLate (taken s f) (cmdDesc 0x220 c) = none := legCreateLate_none htaken hclash hroom (.inr hconfs)
    refine next_waits hb (guarded_go hres (guarded_go (confToAttach_member hmember hidx) (guarded_go hshaper (guarded_go hrange
      (guarded_go (decide_lt_false hport) ((if_pos ?_).trans rfl))))))
    simp [hlate, hnone']
  case legModify =>
    intro l hb hsel hres hobj hl h0 h1 h2 h3
    have hl' : (getLeg (taken s f) (hIndex c.w1)).getD { conf := 0 } = l := by
      rw [show getLeg (taken s f) (hIndex c.w1) = some l from hl]; rfl
    refine next_reply hb (guarded_go (decide_lt_false hsel) (guarded_go hres (guarded_go hobj (guarded_go
      (if_check_false fun h => (h2 h).1) ?_))))
    simp only [hl']
    exact guarded_go (beq_and_false fun h => (h0 h).1) (guarded_go (beq_and_false h1) (guarded_go
      (beq_and_false fun h => beq_false_of_ne (h3 h)) (guarded_go (beq_and_false fun h => bne_false (h0 h).2.1) (guarded_go
      (beq_and_false fun h => (h2 h).2) (guarded_go (beq_and_false fun h => (h0 h).2.2) rfl)))))
  case legDestroy =>
    intro l hb hres hobj hread hl
    have hl' : getLeg (taken s f) (hIndex c.w1) = some l := hl
    refine next_waits hb (guarded_go hres (guarded_go hobj (guarded_go hread ?_)))
    rw [hl']
    rfl
  case unsubscribe =>
    intro hb hres hleg hout hkind howner hbound h0 hquar
    have hlocal : (c.w3 != 0) = false := bne_false h0
    refine ⟨_, rfl, next_reply hb (guarded_go hres (guarded_go hleg (guarded_go hout (guarded_go
      (or_check (or_check (bne_false hkind) (bne_false howner)) hbound) (guarded_go ?_ ?_)))))⟩
    · rw [if_pos h0]
    · have hremote : ofMember (taken s f) 1 c.w3 = false := h0 ▸ ofMember_zero _
      simp only [hlocal, hremote, Bool.false_and]
      exact guarded_go rfl (guarded_go rfl (guarded_go rfl (guarded_go rfl (guarded_go rfl (guarded_go rfl (guarded_go
        (or_check hquar rfl) (if_pos h0)))))))
  case subscribe =>
    intro hb hres hleg hout hkind howner hbound h0 hlocal hsrc hskind hcodec hsp htp hquar hsquar
    refine ⟨_, rfl, next_reply hb (guarded_go hres (guarded_go hleg (guarded_go hout (guarded_go
      (or_check (or_check (bne_false hkind) (bne_false howner)) hbound) (guarded_go ?_ ?_)))))⟩
    · rw [if_neg h0]
      exact (congrArg Prod.fst (hMay_own hlocal)).trans hsrc
    · have hremote : ofMember (taken s f) 1 c.w3 = false := hlocal
      simp only [bne_iff_ne.2 h0, hremote, Bool.not_false, Bool.true_and, Bool.false_and]
      exact guarded_go (local_source_passes hskind) (guarded_go rfl (guarded_go (bne_false hcodec) (guarded_go
        (or_check (decide_le_false hsp) (decide_le_false htp)) (guarded_go rfl (guarded_go rfl (guarded_go
        (or_check hquar hsquar) ((if_neg h0).trans rfl)))))))

/-- Settles O30: the rows of the packet path, each in the state in which its unit has something to take. -/
theorem mediaPackets : Obligations.mediaPackets := by
  unfold Obligations.mediaPackets
  refine fun s e => ⟨fun i rest => packetClassify_ctrl, fun i rest => packetClassify_media, fun hout => ?_,
    fun i rest p hq hin hreplay hport hpkt => ?_, fun i rest hq hin hreplay hport hpkt _ => ?_, fun i rest hq hin hreplay hnone => ?_,
    fun p rest hq hturn hpace => ?_, fun hpace => ?_, fun k p rest hrun hhas hq => ?_,
    fun p rest x h hrun hq hx hquar hmedia => ?_, fun p rest x h hrun hq hx hquar hmedia hrtx hheld => ?_⟩
  · refine congrArg Host.Outcome.next ?_
    simp only [hout, Bool.true_or, if_true]
  · refine congrArg Host.Outcome.next ?_
    simp [hq, hin, hreplay, hport, hpkt]
  · refine congrArg Host.Outcome.next ?_
    simp [hq, hin, hreplay, hport, hpkt]
  · refine congrArg Host.Outcome.next ?_
    simp [hq, hin, mismatch, getEngine_specCount, hreplay, hnone]
  · refine ⟨_, rfl, congrArg Host.Outcome.next ?_⟩
    have hmay : (s.media.gateTurn == e.val || (getEngine s (1 - e.val)).passed.isEmpty) = true := by
      obtain h | h := hturn
      · simp [h]
      · simp [h]
    simp only [hq, hmay, Bool.not_true, Bool.false_or, decide_eq_true_eq, Nat.not_lt.2 hpace, if_false]
  · refine congrArg Host.Outcome.next ?_
    simp only [hpace, decide_true, Bool.or_true, if_true]
    split
    · rfl
    · rfl
  · refine congrArg Host.Outcome.next ?_
    simp only [hhas, hrun, Bool.and_self, if_true, shaperEval, hq]
    rfl
  · refine congrArg Host.Outcome.next ?_
    have hx' : getCtx { s with media := { s.media with engineIn := rest } } p.ctx = some x := hx
    simp only [hq, hx', hquar, hrun, Bool.not_true, Bool.or_self, Bool.false_eq_true, if_false, hmedia]
  · refine congrArg Host.Outcome.next ?_
    have hx' : getCtx { s with media := { s.media with engineIn := rest } } p.ctx = some x := hx
    simp only [hq, hx', hquar, hrun, Bool.not_true, Bool.or_self, Bool.false_eq_true, if_false, hmedia, acceptRtp, hrtx]
    refine congrArg settle (if_pos ?_)
    rw [heldAlready_ctxCount, heldAlready_ctxCount, heldAlready_ctxCount]
    exact hheld

/-- Settles O31: each row's guard passes in the state in which it is due, and stops it before. -/
theorem rtcpAndRates : Obligations.rtcpAndRates := by
  unfold Obligations.rtcpAndRates
  refine fun s hrun => ⟨fun ctx ntp rtp x hx hk => ?sr, fun leg lsr dlsr hne => ?rr, fun leg dlsr => ?rrFirst,
    fun ctx seqs x hx hk => ?nack, fun ctx fir x hx hk hsub => ?pliNoSub, fun ctx fir x b hx hk hsub hcur => ?pliNoPoint,
    fun ctx fir x b point src hx hk hsub hcur hsrc => ?pli, fun leg l ps hl hlive hccfb => ?ccfb, fun leg l ps hl hlive hccfb => ?ccfbOff,
    fun leg l ssrc x hl hlive hx hev => ?bye, fun leg l hl hlive hdue hnone => ?report, fun leg l c x k hl hlive hdue hout hx hsent hk => ?sender,
    fun leg l hl hearly => ?reportEarly, fun leg l hl hlive hdue hnone => ?feedback, fun leg l hl hearly => ?feedbackEarly,
    fun ctx seq x m hx hk hen hm hdue => ?nackDue, fun ctx seq x m hx hm htwice => ?nackDone, fun leg l hl hccfb hlive hfresh hdue => ?stale,
    fun leg l hl hccfb hlive hstale hdue => ?staleAgain, fun hdue => ?rates, fun hearly => ?ratesEarly,
    fun ctx b p hb hp hdue => ?switch, fun ctx b p hb hp hearly => ?switchEarly⟩
  all_goals refine congrArg Host.Outcome.next ?_
  case sr => simp [hrun, kindOf_of_getCtx hx, hk]
  case rr => simp only [hrun, hne, Bool.not_true, decide_false, Bool.or_self, Bool.false_eq_true, if_false]
  case rrFirst => simp only [hrun, decide_true, Bool.or_true, if_true]
  case nack => simp [hrun, kindOf_of_getCtx hx, hk]
  case pliNoSub => simp [hrun, kindOf_of_getCtx hx, hk, subOf_of_getCtx hx, hsub, ownerOf_of_getCtx hx]
  case pliNoPoint => simp [hrun, kindOf_of_getCtx hx, hk, subOf_of_getCtx hx, hsub, hcur, ownerOf_of_getCtx hx]
  case pli => simp [hrun, kindOf_of_getCtx hx, hk, subOf_of_getCtx hx, hsub, hcur, ownerOf_of_getCtx hx, ← hsrc]
  case ccfb => simp [hl, hrun, hlive, hccfb]
  case ccfbOff => simp [hl, hrun, hlive, hccfb]
  case bye =>
    have hconf : (getLeg s leg).bind (fun l => getConf s l.conf) = some x := by rw [hl]; exact hx
    have hlegLive : legLive s leg = true := by simp [legLive, hl, hlive]
    simp only [hrun, hlegLive, Bool.and_self, if_true, confEvent, hconf, hev, Nat.one_mul]
  case report =>
    simp only [hl, hrun, hlive, Nat.not_lt.2 hdue, hnone, Bool.not_true, decide_false, Bool.or_self, Bool.false_eq_true,
      if_false, List.filter_nil, List.isEmpty_nil, if_true]
    split
    next h => rw [sendRtcp_none h]
    next => rfl
  case sender => simp [hl, hrun, hlive, Nat.not_lt.2 hdue, hout, hx, hsent, hk]
  case reportEarly => simp [hl, hearly]
  case feedback => simp [hl, hrun, hlive, Nat.not_lt.2 hdue, hnone]
  case feedbackEarly => simp [hl, hearly]
  case nackDue =>
    obtain ⟨h0, hdue⟩ | ⟨h1, hdue⟩ := hdue
    · simp [hx, hm, hrun, hen, hk, h0, Nat.not_lt.2 hdue]
    · simp [hx, hm, hrun, hen, hk, h1, Nat.not_lt.2 hdue]
  case nackDone => simp [hx, hm, htwice]
  case stale => simp [hl, hrun, hccfb, hlive, Nat.not_lt.2 hdue, hfresh]
  case staleAgain => simp [hl, hrun, hccfb, hlive, Nat.not_lt.2 hdue, hstale]
  case rates => simp [hrun, Nat.not_lt.2 hdue]
  case ratesEarly => simp [hearly]
  case switch => simp [hb, hp, hrun, hdue]
  case switchEarly => simp [hb, hp, Nat.not_le.2 hearly]
end

section
/-! Obligations O32 and O33: keys and bulk jobs, cipher lanes. -/

namespace Sys2Proof.Machine

/-- What a command that begins leaves, by the answer of its body. -/
def concluded (s : State) (c : Cmd) (f : Fetched) : Body → State
  | .reply s1 st w1 w3 => answered s c s1 st w1 w3
  | .waits s1 w => begun s c f s1 w

theorem next_concluded {s : State} {op : Nat} {c : Cmd} {f : Fetched} {body : State → Body} {b : Body}
    (hbegins : Begins s op c f) (hbody : body (taken s f) = b) :
    (.next (runRing s op c body) : Out) = .next (concluded s c f b) := by
  cases b with
  | reply s1 st w1 w3 => exact next_reply hbegins hbody
  | waits s1 w => exact next_waits hbegins hbody

theorem getD_getCtx {s : State} {f : Fetched} {n : Nat} {x : Stream} (h : getCtx s n = some x) :
    (getCtx (taken s f) n).getD { kind := 0 } = x := by
  rw [show getCtx (taken s f) n = some x from h]
  rfl

/-- R264, R265: KEY_INSTALL past its checks turns to its blob. -/
theorem keyInstall_checked {c : Cmd} {s : State} {f : Fetched} {x : Stream} {blob : List Byte} {kl sl ts tc : Nat}
    (hb : Begins s 0x300 c f)
    (hres : reservedBad c 0 [full, mask 47 37 + 0x3F, full, full, full, full, if bitAt c.w2 37 then full else 0] = false)
    (hobj : (hObj s [1] c.w1 (ctxNamed s)).1 = false) (hx : getCtx s (hIndex c.w1) = some x) (hkind : x.kind ≠ 5)
    (hqueue : noQueue s c.slot (bits c.w2 5 0) = false) (hregion : (regionCheck s c.slot c.w3).1 = false)
    (hvals : ((bitAt c.w2 39 && x.cur.isNone) || (bitAt c.w2 37 && (x.kind == 1 || x.kind == 2)) || (c.w6 != 0 && !x.rtxEn)
      || decide (c.w5.toNat ≥ indexLimit x) || decide (c.w6.toNat ≥ indexLimit x)) = false)
    (hbounds : regionBounds s c.slot c.w3 c.w4.toNat 64 false = false) (halign : c.w4.toNat % 64 = 0)
    (hsuite : suiteOf (bits c.w2 47 40) = some (kl, sl, ts, tc)) (hwrapped : bitAt c.w2 38 = true ∨ getB s oCipCtrl 1 = false) :
    exec (.keyInstall c (.bytes blob)) s = .next (concluded s c f
      ((material (kekOf s c.slot) (bitAt c.w2 38) (kl + sl) blob).elim (.reply (taken s f) 0x151 0 0)
        (keyInstallWith (taken s f) c (bits c.w2 47 40) x))) := by
  have hknown : ((suiteOf (bits c.w2 47 40)).isNone || (!bitAt c.w2 38 && getB s oCipCtrl 1)) = false := by
    rw [hsuite]
    obtain h | h := hwrapped
    · rw [h]
      rfl
    · rw [h, Bool.and_false]
      rfl
  refine next_concluded hb (guarded_go hres (guarded_go hobj ?_))
  simp only [getD_getCtx hx]
  refine guarded_go (beq_false_of_ne hkind) (guarded_go hqueue (guarded_go hregion (guarded_go hvals (guarded_go hbounds
    (guarded_go (bne_false halign) (guarded_go hknown ?_))))))
  simp only [hsuite]
  cases hm : material (kekOf s c.slot) (bitAt c.w2 38) (kl + sl) blob with
  | none => simp only [show material (kekOf (taken s f) c.slot) (bitAt c.w2 38) (kl + sl) blob = none from hm]; rfl
  | some m => simp only [show material (kekOf (taken s f) c.slot) (bitAt c.w2 38) (kl + sl) blob = some m from hm]; rfl

/-- R268: below the mark of an outbound context nothing is installed. -/
theorem keyInstallWith_below {s : State} {c : Cmd} {suite : Nat} {x : Stream} {m : List Byte} (hout : x.kind = 3 ∨ x.kind = 4)
    (hmark : c.w5.toNat < markOf s x (bitAt c.w2 37) c.w7.toNat false) :
    keyInstallWith s c suite x m = .reply s 0x302 (word (markOf s x (bitAt c.w2 37) c.w7.toNat false)) 0 := by
  refine if_pos ?_
  obtain h | h := hout
  · simp [h, hmark]
  · simp [h, hmark]

/-- R267, R274: material that installs its key, erasing what it replaces. -/
theorem keyInstallWith_installs {s : State} {c : Cmd} {suite kl sl ts tc : Nat} {x : Stream} {m : List Byte}
    (hsuite : suiteOf suite = some (kl, sl, ts, tc)) (hpersist : bitAt c.w2 37 = false)
    (hmark : (x.kind == 3 || x.kind == 4) = true → markOf s x false c.w7.toNat false ≤ c.w5.toNat)
    (hmarkRtx : (x.kind == 3 || x.kind == 4) = true → x.rtxEn = true → markOf s x false c.w7.toNat true ≤ c.w6.toNat)
    (hroom : (if bitAt c.w2 39 then x.next.toList else x.cur.toList ++ x.drain.toList) ≠ [] ∨ keysHeld s < keyCapacity s)
    (hquar : x.quarantined = false) :
    keyInstallWith s c suite x m = .waits (retireRecs (updCtx
        { s with media := { s.media with nextKey := s.media.nextKey + 1 } } (hIndex c.w1)
        (fun y => installKey y (bitAt c.w2 39)
          { id := s.media.nextKey, suite := suite, start := c.w5.toNat, startRtx := c.w6.toNat
            session := session kl sl m (x.kind == 2 || x.kind == 4), persist := none, slot := c.slot, queue := bits c.w2 5 0
            ring := c.ring, tag := c.tag })) (if bitAt c.w2 39 then x.next.toList else x.cur.toList ++ x.drain.toList))
      (.keyErase (hIndex c.w1)
        ((if bitAt c.w2 39 then x.next.toList else x.cur.toList ++ x.drain.toList).map (fun e => e.id))
        (word (if (x.kind == 3 || x.kind == 4) then markOf s x false c.w7.toNat false else 0)) 0) := by
  have hmedia : ((x.kind == 3 || x.kind == 4) && decide (c.w5.toNat < markOf s x false c.w7.toNat false)) = false := by
    rw [Bool.and_eq_false_imp]
    exact fun h => decide_lt_false (hmark h)
  have hrtx : ((x.kind == 3 || x.kind == 4) && x.rtxEn && decide (c.w6.toNat < markOf s x false c.w7.toNat true)) = false := by
    rw [Bool.and_eq_false_imp]
    intro h
    obtain ⟨hout, hen⟩ := (Bool.and_eq_true _ _).mp h
    exact decide_lt_false (hmarkRtx hout hen)
  generalize he : (if bitAt c.w2 39 then x.next.toList else x.cur.toList ++ x.drain.toList) = erased at hroom ⊢
  have hcapacity : (erased.isEmpty && decide (keysHeld s ≥ keyCapacity s)) = false := by
    obtain h | h := hroom
    · rw [List.isEmpty_eq_false_iff.2 h, Bool.false_and]
    · simp [Nat.not_le.2 h]
  simp only [keyInstallWith, hpersist, he, hmedia, hrtx, hcapacity, hquar, hsuite, Bool.false_eq_true, if_false]
  rfl

/-- R273: a retired key's record in MRAM goes too, where the command says so. -/
def withoutRecord (s : State) (too : Bool) (k : Key) : State :=
  match too, k.persist with
  | true, some id => { s with mram := { s.mram with keyRecs := s.mram.keyRecs.filter (fun r => r.keyId != id) } }
  | _, _ => s

/-- R273: what KEY_RETIRE does with the key that it names. -/
def keyRetireWith (s : State) (c : Cmd) (x : Stream) (k : Key) : Body :=
  let s1 := withoutRecord s (bitAt c.w2 1) k
  let erased := if bitAt c.w2 0 then x.next.toList else keysOf x
  .waits (retireRecs (updCtx s1 (hIndex c.w1) (fun y =>
      if bitAt c.w2 0 then { y with next := none } else { y with cur := none, next := none, drain := none })) erased)
    (.keyErase (hIndex c.w1) (erased.map (fun e => e.id)) 0 0)

theorem keyRetireWith_current {s : State} {c : Cmd} {x : Stream} {k : Key} (h : bitAt c.w2 0 = false) :
    keyRetireWith s c x k = .waits (retireRecs (updCtx (withoutRecord s (bitAt c.w2 1) k) (hIndex c.w1)
        (fun y => { y with cur := none, next := none, drain := none })) (keysOf x))
      (.keyErase (hIndex c.w1) ((keysOf x).map (fun e => e.id)) 0 0) := by
  simp only [keyRetireWith, h, Bool.false_eq_true, if_false]

theorem keyRetireWith_next {s : State} {c : Cmd} {x : Stream} {k : Key} (h : bitAt c.w2 0 = true) :
    keyRetireWith s c x k = .waits (retireRecs (updCtx (withoutRecord s (bitAt c.w2 1) k) (hIndex c.w1)
        (fun y => { y with next := none })) x.next.toList)
      (.keyErase (hIndex c.w1) (x.next.toList.map (fun e => e.id)) 0 0) := by
  simp only [keyRetireWith, h, if_true]

theorem keyRetire_checked {c : Cmd} {s : State} {f : Fetched} {x : Stream} (hb : Begins s 0x301 c f)
    (hres : reservedBad c 0 [full, 3] = false) (hobj : (hObj s [1] c.w1 (ctxNamed s)).1 = false)
    (hx : getCtx s (hIndex c.w1) = some x) (hkind : x.kind ≠ 5) :
    exec (.keyRetire c) s = .next (concluded s c f
      ((if bitAt c.w2 0 then x.next else x.cur).elim (.reply (taken s f) 0 0 0) (keyRetireWith (taken s f) c x))) := by
  refine next_concluded hb (guarded_go hres (guarded_go hobj ?_))
  simp only [getD_getCtx hx]
  refine guarded_go (beq_false_of_ne hkind) ?_
  cases (if bitAt c.w2 0 then x.next else x.cur) with
  | none => rfl
  | some k => rfl

theorem jobSize_passes {mode n : Nat} {pad decrypt : Bool} (h : mode = 1 → n % 16 = 0 ∨ (pad = true ∧ decrypt = false)) :
    (mode == 1 && (!pad || decrypt) && n % 16 != 0) = false := by
  rw [Bool.and_assoc]
  refine beq_and_false fun hm => ?_
  obtain h0 | ⟨hpad, hdec⟩ := h hm
  · rw [bne_false h0, Bool.and_false]
  · rw [hpad, hdec]
    rfl

/-- R272: a good block queues its job and waits for it. -/
theorem cipherJobWith_queues {s : State} {c : Cmd} {b key bs : List Byte} {mode keyLen n aad total : Nat}
    (hmode : mode = (b.getD 0 0).toNat) (hlen : keyLen = (b.getD 1 0).toNat) (hn : n = bits c.w7 31 0)
    (haad : aad = (if mode = 6 then bits c.w7 47 32 else 0))
    (htotal : total = jobTotal mode (cmdFlag c 0) ((b.getD 2 0).getLsbD 1) aad n) (h1 : 1 ≤ mode) (h6 : mode ≤ 6)
    (hblock : blockReserved mode b = false) (hsome : 1 ≤ n ∨ mode = 6)
    (hsrc : c.w3 ≠ 0 → regionBounds s c.slot c.w3 c.w4.toNat (aad + n) false = false)
    (hdst : c.w5 ≠ 0 → regionBounds s c.slot c.w5 c.w6.toNat total true = false)
    (hsize : mode = 1 → n % 16 = 0 ∨ ((b.getD 2 0).getLsbD 1 = true ∧ cmdFlag c 0 = false))
    (hkeyLen : keyLen = 16 ∨ (keyLen = 32 ∧ mode ≠ 5))
    (hkey : jobKey (kekOf s c.slot) ((b.getD 2 0).getLsbD 0) keyLen b = some key)
    (hmsrc : c.w3 = 0 → badModuleRange c.w4.toNat (aad + n) = false ∧ poisoned s c.w4.toNat (aad + n) = false)
    (hmdst : c.w5 = 0 → badModuleRange c.w6.toNat total = false) :
    ∃ r, r = queueJob s {
        block := b.take 8 ++ key ++ b.drop 64, source := if c.w3 = 0 then [] else bs, decrypt := cmdFlag c 0
        aadLen := aad, length := n, dstSlot := c.slot
        dstRegion := if c.w5 = 0 then none else some (hIndex c.w5 % 1024), dstAddr := c.w6.toNat
        srcRegion := if c.w3 = 0 then none else some (hIndex c.w3 % 1024), srcAddr := c.w4.toNat
        mode := mode, aes256 := keyLen == 32, total := total } ∧
      cipherJobWith s c b (.bytes bs) = .waits r.1 (.cipherJob r.2) := by
  refine ⟨_, rfl, ?_⟩
  have hnone : (n == 0 && mode != 6) = false := by
    obtain h | h := hsome
    · rw [beq_false_of_ne (by omega), Bool.false_and]
    · rw [bne_false h, Bool.and_false]
  have hbounds : ((c.w3 != 0 && regionBounds s c.slot c.w3 c.w4.toNat (aad + n) false) ||
      (c.w5 != 0 && regionBounds s c.slot c.w5 c.w6.toNat total true)) = false :=
    or_check (by rw [Bool.and_eq_false_imp]; exact fun h => hsrc (bne_iff_ne.1 h))
      (by rw [Bool.and_eq_false_imp]; exact fun h => hdst (bne_iff_ne.1 h))
  have hknown : (mode == 0 || decide (6 < mode) || (keyLen == 32 && mode == 5)) = false := by
    refine or_check (or_check (beq_false_of_ne (by omega)) (decide_lt_false h6)) ?_
    obtain h | ⟨-, h⟩ := hkeyLen
    · rw [h]
      rfl
    · rw [beq_false_of_ne h, Bool.and_false]
  have hkeyed : ((keyLen != 16 && keyLen != 32) || (some key).isNone) = false := by
    obtain h | ⟨h, -⟩ := hkeyLen
    · rw [h]
      rfl
    · rw [h]
      rfl
  have hmodule : ((c.w3 == 0 && badModuleRange c.w4.toNat (aad + n)) || (c.w5 == 0 && badModuleRange c.w6.toNat total)) = false :=
    or_check (by rw [Bool.and_eq_false_imp]; exact fun h => (hmsrc (beq_iff_eq.1 h)).1)
      (by rw [Bool.and_eq_false_imp]; exact fun h => hmdst (beq_iff_eq.1 h))
  have hclean : (c.w3 == 0 && poisoned s c.w4.toNat (aad + n)) = false := by
    rw [Bool.and_eq_false_imp]
    exact fun h => (hmsrc (beq_iff_eq.1 h)).2
  simp only [cipherJobWith, ← hmode, ← hlen, ← hn, ← haad, ← htotal, hkey]
  refine guarded_go hblock (guarded_go hnone (guarded_go hbounds (guarded_go (jobSize_passes hsize) (guarded_go hknown
    (guarded_go hkeyed (guarded_go hmodule (guarded_go hclean ?_)))))))
  by_cases h3 : c.w3 = 0
  · simp only [h3, if_true, Option.getD_some]
    rfl
  · simp only [h3, if_false, Option.getD_some]
    rfl

section
variable {s : State} {g : Fin 16} {l : Nat} (hrun : running s = true) (hfree : freeLane s g = some l)
include hrun hfree

/-- R251: with an inbound packet, and the turn not the outbound queue's, the inbound one starts. -/
theorem cipherLaneStart_inbound {p : Pkt} {rest : List Pkt} (hin : (getGroup s g).inQ = p :: rest)
    (hturn : (getGroup s g).turnOut = false ∨ (getGroup s g).outQ = []) :
    exec (.cipherLaneStart g) s = .next (startInbound (setGroup s g { getGroup s g with inQ := rest, turnOut := true }) l p) := by
  refine congrArg Host.Outcome.next ?_
  obtain h | h := hturn
  · simp [hfree, hrun, hin, h]
  · simp [hfree, hrun, hin, h]

theorem cipherLaneStart_outbound {p : OutPkt} {rest : List OutPkt} (hout : (getGroup s g).outQ = p :: rest)
    (hheld : reserveHolds s p = false) (hturn : (getGroup s g).turnOut = true ∨ (getGroup s g).inQ = []) :
    exec (.cipherLaneStart g) s = .next (settle (drainHeld
      (startOutbound (setGroup s g { getGroup s g with outQ := rest, turnOut := false }) l p) g)) := by
  refine congrArg Host.Outcome.next ?_
  obtain h | h := hturn
  · simp [hfree, hrun, hout, hheld, h]
  · simp [hfree, hrun, hout, hheld, h]

theorem cipherLaneStart_job {id : Nat} {rest : List Nat} {j : Job} (hin : (getGroup s g).inQ = [])
    (hout : (getGroup s g).outQ = []) (hjobs : (getGroup s g).jobQ = id :: rest) (hj : Tbl.get? s.media.jobs id = some j)
    (hready : jobWaits s j = false) (hroom : jobsRunning s g < getF s oCipCtrl 14 8) :
    exec (.cipherLaneStart g) s = .next (startJob (setGroup s g { getGroup s g with jobQ := rest }) l id) := by
  refine congrArg Host.Outcome.next ?_
  simp [hfree, hrun, hin, hout, hjobs, hj, hready, Nat.not_le.2 hroom]

end

theorem now_advanceLane (s : State) (l : Nat) : now (advanceLane s l) = now s := by
  unfold advanceLane
  split
  · rfl
  · dsimp only
    split
    · rfl
    · rfl

section
variable {s u : State} {lane : Fin 1024} {p : FifoPkt} (hu : u = advanceLane s lane) (hlast : (getLane u lane).fifo.getLast? = some p)
include hu hlast

section
variable (hbusy : (getLane u lane).busy = true) (hend : (getLane u lane).endAt p ≤ now s)
include hbusy hend

theorem cipherLaneEnd_inbound {q : Pkt} (tagOk : Bool) (hkept : p.dropping = false) (hrows : dataRows p.len < p.pushed)
    (hwork : p.work = .inbound q) :
    exec (.cipherLaneEnd lane tagOk false) s = .next (if tagOk then endPacket u lane .pending true
      else settle (dropInbound (endPacket u lane .void false) q cAuthFail)) := by
  have hnow : now u = now s := by rw [hu]; exact now_advanceLane s lane
  refine congrArg Host.Outcome.next ?_
  simp only [← hu, hlast, hbusy, hnow, Nat.not_lt.2 hend, hkept, Nat.not_le.2 hrows, hwork, Bool.not_true, decide_false,
    Bool.or_self, Bool.false_eq_true, if_false]

theorem cipherLaneEnd_outbound {q : OutPkt} (tagOk : Bool) (hkept : p.dropping = false) (hrows : dataRows p.len < p.pushed)
    (hwork : p.work = .outbound q) :
    exec (.cipherLaneEnd lane tagOk false) s = .next (settle (endPacket u lane .published false)) := by
  have hnow : now u = now s := by rw [hu]; exact now_advanceLane s lane
  refine congrArg Host.Outcome.next ?_
  simp only [← hu, hlast, hbusy, hnow, Nat.not_lt.2 hend, hkept, Nat.not_le.2 hrows, hwork, Bool.not_true, decide_false,
    Bool.or_self, Bool.false_eq_true, if_false]

theorem cipherLaneEnd_dropping {q : Pkt} (tagOk : Bool) (hdrop : p.dropping = true) (hwork : p.work = .inbound q) :
    exec (.cipherLaneEnd lane tagOk false) s = .next (settle (giveUp (endPacket u lane .void false) q)) := by
  have hnow : now u = now s := by rw [hu]; exact now_advanceLane s lane
  refine congrArg Host.Outcome.next ?_
  simp only [← hu, hlast, hbusy, hnow, Nat.not_lt.2 hend, hdrop, hwork, Bool.not_true, decide_false, Bool.or_self,
    Bool.false_eq_true, if_false, if_true]

end

/-- R250: a packet not yet wholly pushed, or not yet at its end, goes on. -/
theorem cipherLaneEnd_early (tagOk : Bool)
    (hearly : now s < (getLane u lane).endAt p ∨ p.dropping = false ∧ p.pushed ≤ dataRows p.len) :
    exec (.cipherLaneEnd lane tagOk false) s = .next u := by
  have hnow : now u = now s := by rw [hu]; exact now_advanceLane s lane
  refine congrArg Host.Outcome.next ?_
  obtain h | ⟨hkept, hrows⟩ := hearly
  · simp only [← hu, hlast, hnow, h, decide_true, Bool.or_true, if_true, Bool.false_eq_true, if_false]
  · simp only [← hu, hlast, hkept, hrows, Bool.false_eq_true, if_false, if_true, ite_self]

end

/-- R279: a lane whose FIFO is full stalls from the row that is due on. -/
theorem Lane.advance_full {ln : Lane} {p : FifoPkt} {t n : Nat} (hlast : ln.fifo.getLast? = some p) (hbusy : ln.busy = true)
    (hkept : p.dropping = false) (hrows : p.pushed ≤ dataRows p.len) (hdue : ln.startAt + coreDur (p.rowAt p.pushed) ≤ t)
    (hfull : 256 ≤ fifoDepth ln) :
    ln.advance t (n + 1) = ({ ln with
        startAt := ln.startAt + coreDur ((t - (ln.startAt + coreDur (p.rowAt p.pushed))) * 3000000000 / second) },
      (t - (ln.startAt + coreDur (p.rowAt p.pushed))) * 3000000000 / second) := by
  simp only [Lane.advance, hlast, hbusy, hkept, gt_iff_lt, ge_iff_le, Nat.not_lt.2 hrows, Nat.not_lt.2 hdue, hfull, Bool.not_true,
    decide_false, Bool.or_self, Bool.false_eq_true, if_false, if_true]

/-- With no key that waits and none that drains an accepted index switches no key. -/
theorem switchInbound_of_settled {x : Stream} (key : Nat) (hnext : x.next = none) (hdrain : x.drain = none) :
    switchInbound x key = x := by
  have hsame : { x with drain := none } = x := by rw [← hdrain]
  have hnot : ¬ x.next.map (fun k => k.id) = some key := by simp [hnext]
  simp only [switchInbound, if_neg hnot]
  split
  · rfl
  · rw [hsame, ite_self]

theorem setReplay_next (x : Stream) (rtx : Bool) (r : Replay) : (setReplay x rtx r).next = x.next := by
  cases rtx
  · rfl
  · rfl

theorem setReplay_drain (x : Stream) (rtx : Bool) (r : Replay) : (setReplay x rtx r).drain = x.drain := by
  cases rtx
  · rfl
  · rfl

/-- R257: an index above the window moves it. -/
theorem acceptIndex_above {r : Replay} {i : Nat} (h : r.valid = false ∨ r.highest < i) :
    acceptIndex r i = { r with
      valid := true
      highest := i
      window := (if r.valid then (r.window * 2 ^ (i - r.highest)) % 2 ^ 128 else 0) ||| 1 } := by
  refine if_neg ?_
  obtain h | h := h
  · simp [h]
  · simp [Nat.not_le.2 h]

section
variable {s : State} {ctx : Nat} {rtx : Bool} {x : Stream} {q : Pkt} (hx : getCtx s ctx = some x)
  (hready : ticketReady s ctx rtx (replayOf x rtx).doneTicket = some q) (hgiven : (replayOf x rtx).givenUp = [])
include hx hready hgiven

theorem ticketStep_replayed (hvalid : (replayOf x rtx).valid = true) (hlow : q.index ≤ (replayOf x rtx).highest)
    (hseen : (replayOf x rtx).window.testBit ((replayOf x rtx).highest - q.index) = true) :
    exec (.ticketStep ctx rtx) s = .next (settle (cipCount (cipCount (keyCount (markTicket (setCtx s ctx (setReplay x rtx
      { replayOf x rtx with doneTicket := (replayOf x rtx).doneTicket + 1 })) ctx rtx q.ticket .void) ctx 0x04 1)
      cReplay 1) cVoid 1)) := by
  refine congrArg Host.Outcome.next ?_
  simp only [hx, hready, hvalid, hlow, hseen, decide_true, Bool.and_self, if_true]
  rw [hgiven]
  rfl

theorem ticketStep_accepted (hnew : (replayOf x rtx).valid = false ∨ (replayOf x rtx).highest < q.index) (hnext : x.next = none)
    (hdrain : x.drain = none) :
    exec (.ticketStep ctx rtx) s = .next (settle (markTicket (setCtx s ctx (setReplay x rtx
      { replayOf x rtx with
        doneTicket := (replayOf x rtx).doneTicket + 1
        valid := true
        highest := q.index
        window := (if (replayOf x rtx).valid then
          ((replayOf x rtx).window * 2 ^ (q.index - (replayOf x rtx).highest)) % 2 ^ 128 else 0) ||| 1 }))
      ctx rtx q.ticket .published)) := by
  have hfresh : ((replayOf x rtx).valid && decide (q.index ≤ (replayOf x rtx).highest)
      && (replayOf x rtx).window.testBit ((replayOf x rtx).highest - q.index)) = false := by
    obtain h | h := hnew
    · rw [h, Bool.false_and, Bool.false_and]
    · rw [decide_le_false h, Bool.and_false, Bool.false_and]
  have hdone : passGivenUp { replayOf x rtx with doneTicket := (replayOf x rtx).doneTicket + 1 } (replayOf x rtx).givenUp.length
      = { replayOf x rtx with doneTicket := (replayOf x rtx).doneTicket + 1 } := by
    rw [hgiven]
    rfl
  refine congrArg Host.Outcome.next ?_
  simp only [hx, hready, hfresh, Bool.false_eq_true, if_false, hdone]
  rw [acceptIndex_above (r := { replayOf x rtx with doneTicket := (replayOf x rtx).doneTicket + 1 }) hnew,
    switchInbound_of_settled _ ((setReplay_next _ _ _).trans hnext)
    ((setReplay_drain _ _ _).trans hdrain), setReplay_drain, hdrain]
  rfl

end

section
variable {s u : State} {lane : Fin 1024} {p : FifoPkt} {rest : List FifoPkt} (hu : u = advanceLane s lane)
  (hfifo : (getLane u lane).fifo = p :: rest)
include hu hfifo

theorem fifoPop_pending (hst : p.state = .pending) : exec (.fifoPop lane) s = .next u := by
  refine congrArg Host.Outcome.next ?_
  simp only [← hu, hfifo, hst]

theorem fifoPop_void (hst : p.state = .void) (hmore : 1 < p.rowsHeld) :
    exec (.fifoPop lane) s = .next (advanceLane (setLane u lane { getLane u lane with
      fifo := { p with rowsHeld := p.rowsHeld - 1, popped := p.popped + 1 } :: rest }) lane) := by
  refine congrArg Host.Outcome.next ?_
  simp only [← hu, hfifo, hst, Nat.not_le.2 hmore, if_false]

theorem fifoPop_published (hst : p.state = .published) (hturn : earlierHeld u p.work = false) (hmore : 1 < p.rowsHeld) :
    exec (.fifoPop lane) s = .next (advanceLane (setLane u lane { getLane u lane with
      fifo := { p with rowsHeld := p.rowsHeld - 1, popped := p.popped + 1 } :: rest }) lane) := by
  refine congrArg Host.Outcome.next ?_
  simp only [← hu, hfifo, hst, hturn, Bool.false_eq_true, if_false, gt_iff_lt, hmore, if_true]

/-- R259: the last row of an inbound packet hands it to the stream engine. -/
theorem fifoPop_last {q : Pkt} (hst : p.state = .published) (hturn : earlierHeld u p.work = false) (hone : p.rowsHeld = 1)
    (hwork : p.work = .inbound q) :
    ∃ t, t = setLane u lane { getLane u lane with fifo := rest } ∧
      exec (.fifoPop lane) s = .next (advanceLane (settle { t with media := { t.media with
        engineIn := t.media.engineIn ++ [q] } }) lane) := by
  rw [hwork] at hturn
  refine ⟨_, rfl, congrArg Host.Outcome.next ?_⟩
  simp only [← hu, hfifo, hst, hturn, hone, Bool.false_eq_true, if_false, gt_iff_lt, Nat.lt_irrefl, deliver, hwork, if_true]

end

end Sys2Proof.Machine

open Sys2Proof Sys2Proof.Machine

/-- Settles O32: each command passes its checks in their order; its body installs, erases, reads or queues. -/
theorem keyCommands : Obligations.keyCommands := by
  unfold Obligations.keyCommands
  refine fun c s f => ⟨?install, ?retire, ?query, ?job⟩
  case install =>
    intro x blob kl sl ts tc hb hres hobj hx hkind hqueue hregion hvals hbounds halign hsuite hwrapped
    have hchecked := fun blob => keyInstall_checked (blob := blob) hb hres hobj hx hkind hqueue hregion hvals hbounds halign
      hsuite hwrapped
    refine ⟨fun hnone => ?_, fun m hm hout hmark => ?_, fun m erased out hm hpersist hout hmark hmarkRtx herased hroom hquar => ⟨_, rfl, ?_⟩⟩
    · rw [hchecked, hnone]
      rfl
    · rw [hchecked, hm, Option.elim_some, keyInstallWith_below (s := taken s f) hout hmark]
      rfl
    · subst hout herased
      rw [hchecked, hm, Option.elim_some,
        keyInstallWith_installs (s := taken s f) hsuite hpersist hmark hmarkRtx hroom hquar]
      rfl
  case retire =>
    intro x hb hres hobj hx hkind
    have hchecked := keyRetire_checked hb hres hobj hx hkind
    refine ⟨fun hnone => ?_, fun k t hk ht => ⟨fun hcur => ?_, fun hnext => ?_⟩⟩
    · rw [hchecked, hnone]
      rfl
    · have hrec : withoutRecord (taken s f) (bitAt c.w2 1) k = t := ht.symm
      rw [hchecked, hk, Option.elim_some, keyRetireWith_current hcur, hrec]
      rfl
    · have hrec : withoutRecord (taken s f) (bitAt c.w2 1) k = t := ht.symm
      rw [hchecked, hk, Option.elim_some, keyRetireWith_next hnext, hrec]
      rfl
  case query =>
    intro x hb hres hobj hx hsel hquar
    refine next_reply hb (guarded_go hres (guarded_go hobj (guarded_go (decide_lt_false hsel) ?_)))
    simp only [getD_getCtx hx]
    exact guarded_go hquar rfl
  case job =>
    intro b key mode keyLen n aad total bs hb hres hblk hsrcR hdstR hbounds halign hmode hlen hn haad htotal h1 h6 hblock hmax hsome
      hsrc hdst hsize hkeyLen hkey hmsrc hmdst
    obtain ⟨r, hr, hbody⟩ := cipherJobWith_queues (s := taken s f) (bs := bs) hmode hlen hn haad htotal h1 h6 hblock hsome hsrc hdst
      hsize hkeyLen hkey hmsrc hmdst
    refine ⟨r, hr, next_waits hb (guarded_go hres (guarded_go hblk (guarded_go ?_ (guarded_go ?_ (guarded_go
      (decide_lt_false (hn ▸ hmax)) (guarded_go hbounds (guarded_go (bne_false halign) hbody)))))))⟩
    · split
      next => rfl
      next h0 => exact hsrcR.resolve_left h0
    · split
      next => rfl
      next h0 => exact hdstR.resolve_left h0

/-- Settles O33: the rows of the lanes and of their FIFOs, each by its guard; a ticket whose index lies above the window
moves it. -/
theorem cipherLanes : Obligations.cipherLanes := by
  unfold Obligations.cipherLanes
  refine fun s => ⟨fun g l p rest hrun hfree hin => cipherLaneStart_inbound hrun hfree hin,
    fun g l p rest hrun hfree hq hheld => cipherLaneStart_outbound hrun hfree hq hheld,
    fun g l id rest j hrun hfree hin hout hjobs => cipherLaneStart_job hrun hfree hin hout hjobs,
    fun g hnone => ?idle,
    fun lane u p q hu hlast hbusy hend hkept hrows hwork =>
      ⟨(cipherLaneEnd_inbound hu hlast hbusy hend true hkept hrows hwork).trans (congrArg Host.Outcome.next (if_pos rfl)),
        (cipherLaneEnd_inbound hu hlast hbusy hend false hkept hrows hwork).trans
          (congrArg Host.Outcome.next (if_neg Bool.false_ne_true))⟩,
    fun lane u p q tagOk hu hlast hbusy hend => cipherLaneEnd_outbound hu hlast hbusy hend tagOk,
    fun lane u p q tagOk hu hlast hbusy hend => cipherLaneEnd_dropping hu hlast hbusy hend tagOk,
    fun lane u p tagOk hu hlast => cipherLaneEnd_early hu hlast tagOk,
    fun ln p t n hlast hbusy hkept hrows hdue hfull => ⟨_, rfl, Lane.advance_full hlast hbusy hkept hrows hdue hfull⟩,
    fun ctx rtx x q hx hready hgiven => ⟨fun ⟨hvalid, hlow, hseen⟩ => ticketStep_replayed hx hready hgiven hvalid hlow hseen,
      ticketStep_accepted hx hready hgiven⟩,
    fun ctx rtx x hx hnone => ?noTicket,
    fun lane u p rest hu hfifo => ⟨fifoPop_pending hu hfifo, fifoPop_void hu hfifo, fifoPop_published hu hfifo,
      fun q hst hturn hone hwork => fifoPop_last hu hfifo hst hturn hone hwork⟩,
    fun lane u hu hempty => ?empty, fun id hmram => ?reserve⟩
  all_goals refine congrArg Host.Outcome.next ?_
  case idle => simp only [hnone]
  case noTicket => simp only [hx, hnone]
  case empty => simp only [← hu, hempty]
  case reserve =>
    have hwritable : ¬ (!(mramWritable s)) = true := by rw [hmram]; exact Bool.false_ne_true
    refine (if_neg hwritable).trans ?_
    exact congrArg (fun rs => { s with mram := { s.mram with keyRecs := rs } })
      (List.map_congr_left fun (r : KeyRec) _ => if_congr (beq_iff_eq (a := r.keyId) (b := id.toNat)) rfl rfl)
end

section
/-! Obligations O34 to O36: decode commands and rows, speculations. -/

namespace Sys2Proof.Machine

theorem getD_getDec {s : State} {f : Fetched} {n : Nat} {x d : Dec} (h : getDec s n = some x) :
    (getDec (taken s f) n).getD d = x := by
  rw [show getDec (taken s f) n = some x from h]
  rfl

/-- R304: the context that DEC_CREATE makes of `x`: its pool and its reservation. -/
def decPlaced (s : State) (x : Dec) : Dec :=
  { x with
    bytes := x.poolSlots * slotBytes x.pxf x.maxW x.maxH
    base := (allocate s 3 (x.poolSlots * slotBytes x.pxf x.maxW x.maxH)).getD 0
    reserved := decReserve x.maxW x.maxH x.fps x.targetS }

/-- R291, R304: the state that holds it, with the pictures it catches up on. -/
def decMade (s : State) (y : Dec) (start src : Nat) : State :=
  if start = 1 then
    catchUp (setDec (overwritten s y.base y.bytes) (Tbl.lowestFree s.units.decs) y) (Tbl.lowestFree s.units.decs) y src
  else setDec (overwritten s y.base y.bytes) (Tbl.lowestFree s.units.decs) y

/-- R304: DEC_CREATE on a source that is here: the lowest code of its checks, or the context. -/
theorem decMake_eq (s : State) (d : Desc) (slot ring src : Nat) :
    decMake s d slot ring src =
      (firstFail (decChecks s (decOf d slot ring src) (bits d.w2 35 34) (codecOf s src))).elim
        (.reply (decMade s (decPlaced s (decOf d slot ring src)) (bits d.w2 35 34) src) 0
          (ownHandle s 6 (Tbl.lowestFree s.units.decs)) 0)
        (fun st => .reply s st 0 0) := by
  unfold decMake
  extract_lets x start n pool y t
  split
  next st h =>
    rw [show firstFail (decChecks s (decOf d slot ring src) (bits d.w2 35 34) (codecOf s src)) = some st from h]
    rfl
  next h =>
    rw [show firstFail (decChecks s (decOf d slot ring src) (bits d.w2 35 34) (codecOf s src)) = none from h]
    rfl

section
variable {c : Cmd} {s : State} {f : Fetched} (hb : Begins s 0x400 c f)
  (hres : reservedBad c 0 [full, mask 47 23 + 0xBF, full, mask 47 32 + mask 9 0] = false)
  (hmay : (hMay s 1 c.w1 (ctxNamed s)).1 = false)
  (hqueue : bitAt c.w2 7 = true → noQueue s c.slot (bits c.w2 5 0) = false)
include hb hres hmay hqueue

theorem decCreate_here (hown : ofMember s 1 c.w1 = false) (hkind : kindOf s (hIndex c.w1) = 1 ∨ kindOf s (hIndex c.w1) = 5)
    (hquar : quarantined s (hIndex c.w1) = false) :
    exec (.decCreate c) s = .next (concluded s c f (decMake (taken s f) (cmdDesc 0x400 c) c.slot c.ring (hIndex c.w1))) := by
  have hown' : ofMember (taken s f) 1 c.w1 = false := hown
  have hqueue' : (bitAt c.w2 7 && noQueue s c.slot (bits c.w2 5 0)) = false := by
    rw [Bool.and_eq_false_imp]
    exact hqueue
  refine next_concluded hb (guarded_go hres (guarded_go hmay ?_))
  simp only [hown', Bool.not_false, Bool.true_and, Bool.false_and, Bool.false_eq_true, if_false]
  exact guarded_go (local_source_passes hkind) (guarded_go hqueue' (guarded_go rfl (guarded_go rfl (guarded_go rfl
    (guarded_go hquar rfl)))))

/-- R304, R478: on a source of another member that is mirrored already. -/
theorem decCreate_member (hmember : ofMember s 1 c.w1 = true) (hspan : (spanAttached s (hMember c.w1)).isSome = true)
    (hmirror : (mirrorFor s c.w1).isSome = true) :
    ∃ r, r = peerSend (taken s f) (hMember c.w1) 0xA82 0 c.w1
        (word ((((mirrorFor s c.w1).bind (getCtx s)).map (fun x => (x.sCount - 1) * 16 + (x.tCount - 1))).getD 0)) 0 none ∧
      exec (.decCreate c) s = .next (begun s c f r.1 (.peer r.2 (cmdDesc 0x400 c))) := by
  have hmember' : ofMember (taken s f) 1 c.w1 = true := hmember
  have hmirror' : (mirrorFor (taken s f) c.w1).isSome = true := hmirror
  have hspan' : (spanAttached (taken s f) (hMember c.w1)).isNone = false := by
    rw [← Option.not_isSome, show (spanAttached (taken s f) (hMember c.w1)).isSome = true from hspan]
    rfl
  have hfound : (mirrorFor (taken s f) c.w1).isNone = false := by
    rw [← Option.not_isSome, hmirror']
    rfl
  have hqueue' : (bitAt c.w2 7 && noQueue s c.slot (bits c.w2 5 0)) = false := by
    rw [Bool.and_eq_false_imp]
    exact hqueue
  refine ⟨_, rfl, next_waits hb (guarded_go hres (guarded_go hmay ?_))⟩
  simp only [hmember', hmirror', hspan', hfound, Bool.not_true, Bool.true_and, Bool.false_and, if_true]
  exact guarded_go rfl (guarded_go hqueue' (guarded_go rfl (guarded_go rfl (guarded_go rfl (guarded_go rfl rfl)))))

end

/-- R305: what DEC_MODIFY changes, by its selector. -/
def decChange (s : State) (c : Cmd) (x : Dec) (sel : Nat) : State :=
  match sel with
  | 0 => setTarget s (hIndex c.w1) (bits c.w2 31 28) (bits c.w2 27 24) (decReserve x.maxW x.maxH x.fps (bits c.w2 31 28))
  | 1 => updDec s (hIndex c.w1) (fun x => { x with repairWaitMs := bits c.w2 9 0 })
  | 2 => updDec s (hIndex c.w1) (fun x => { x with
      taintReq := bitAt c.w2 1, missingReq := bitAt c.w2 0, taintReqMs := bits c.w3 15 0 })
  | _ => updDec s (hIndex c.w1) (fun x => { x with
      eventsEn := bitAt c.w2 7, queue := bits c.w2 5 0, slot := c.slot, ring := c.ring, tag := c.tag })

section
variable {c : Cmd} {s : State} {f : Fetched} {x : Dec} (hb : Begins s 0x401 c f)
  (hres : reservedBad c 0xF ([[full, mask 31 24], [full, mask 9 0], [full, 3, 0xFFFF], [full, 0xBF]].getD (cmdSel c) []) = false)
  (hobj : (hObj s [6] c.w1 (decLive s)).1 = false) (hx : getDec s (hIndex c.w1) = some x)
include hb hres hobj hx

theorem decModify_passes (hsel : cmdSel c ≤ 3)
    (hqueue : cmdSel c = 3 → bitAt c.w2 7 = true → noQueue s c.slot (bits c.w2 5 0) = false)
    (htarget : cmdSel c = 0 → bits c.w2 31 28 ≤ 2 ∧ bits c.w2 27 24 ≤ 2 ∧ (bits c.w2 31 28 = 0 ∨ codecOf s x.source = 5))
    (hrepair : cmdSel c = 1 → bits c.w2 9 0 ≤ 1000)
    (htaint : cmdSel c = 2 → 100 ≤ bits c.w3 15 0 ∧ bits c.w3 15 0 ≤ 10000)
    (hroom : cmdSel c = 0 → decReserve x.maxW x.maxH x.fps (bits c.w2 31 28) ≤ x.reserved ∨
      decRefused s (decReserve x.maxW x.maxH x.fps (bits c.w2 31 28)) x.reserved = false) :
    exec (.decModify c) s = .next (answered s c (decChange (taken s f) c x (cmdSel c)) 0 0 0) := by
  refine next_reply hb (guarded_go (decide_lt_false hsel) (guarded_go hres (guarded_go hobj ?_)))
  simp only [getD_getDec hx]
  refine guarded_go ?_ (guarded_go (beq_and_false fun h => ?_) (guarded_go (beq_and_false fun h => decide_lt_false (hrepair h))
    (guarded_go (beq_and_false fun h => or_check (decide_lt_false (htaint h).1) (decide_lt_false (htaint h).2)) (guarded_go ?_ rfl))))
  · rw [Bool.and_assoc]
    refine beq_and_false fun h => ?_
    rw [Bool.and_eq_false_imp]
    exact hqueue h
  · obtain ⟨hts, htt, hcodec⟩ := htarget h
    refine or_check (or_check (decide_lt_false hts) (decide_lt_false htt)) (bne_and_false ?_)
    exact hcodec.imp_right bne_false
  · rw [Bool.and_assoc]
    refine beq_and_false fun h => ?_
    rw [Bool.and_eq_false_imp]
    exact fun hmore => (hroom h).resolve_left (Nat.not_le.2 (of_decide_eq_true hmore))

end

section
variable {s : State} {d id : Nat} {x : Dec} {t : Task} {w : WaitPic} {rest : List WaitPic} {p : PicFacts}
  (hrun : running s = true) (hx : getDec s d = some x) (ht : runningWith s (keyDec d) = some (id, t)) (hnew : x.served ≠ some id)
  (hlive : t.entry = none)
include hrun hx ht hnew hlive

/-- R285: the core that runs the context's task decodes its next live picture. -/
theorem pictureDecoded_live : exec (.pictureDecoded d p) s = .next (decodeLive s d id x p) := by
  refine congrArg Host.Outcome.next ?_
  simp [hrun, hx, ht, hnew, hlive]

end

section
variable {s : State} {d id : Nat} {x : Dec} {w : WaitPic} {rest : List WaitPic} {p : PicFacts} (hw : x.waiting = w :: rest)
  (hmore : p.more = false)
include hw hmore

theorem decodeLive_unsupported {code : Nat} (hgoing : x.stopped = false) (hcode : featureOf (codecOf s x.source) x p = some code) :
    decodeLive s d id x p = unsupportedPic (skipPicture (updDec s d (fun x => { x with
      waiting := rest, served := some id })) d true) d code x.missingReq := by
  simp [decodeLive, hw, hmore, hgoing, hcode]

theorem decodeLive_passed (hgoing : x.stopped = false) (hcode : featureOf (codecOf s x.source) x p = none)
    (hpass : passedOver (codecOf s x.source) w.target p = true) :
    decodeLive s d id x p = skipPicture (updDec s d (fun x => { x with waiting := rest, served := some id })) d false := by
  simp [decodeLive, hw, hmore, hgoing, hcode, hpass]

theorem decodeLive_stopped (hstopped : x.stopped = true) (hnot : p.randomAccess = false) :
    decodeLive s d id x p = skipPicture (updDec s d (fun x => { x with waiting := rest, served := some id })) d true := by
  cases hcode : featureOf (codecOf s x.source) x p with
  | none => simp [decodeLive, hw, hmore, hstopped, hnot, hcode]
  | some code => simp [decodeLive, hw, hmore, hstopped, hnot, hcode]

section
variable (hcode : featureOf (codecOf s x.source) x p = none) (hpass : passedOver (codecOf s x.source) w.target p = false)
include hcode hpass

theorem decodeLive_decodes {slot : Nat} (hslot : poolSlot x = some slot)
    (hjoin : joinBlocked s d x w p (refRipes s d (slotPics x p.reads)) = none) :
    ∃ u, u = updDec (joinServed s (keyDec d)) d (fun x => { x with waiting := rest, served := some id }) ∧
      (x.stopped = false → decodeLive s d id x p = decodeInto u d slot w p) ∧
      (x.stopped = true → p.randomAccess = true →
        decodeLive s d id x p = decodeInto (decEvent (updDec u d (fun x => { x with
          stopped := false, unsupported := false })) d 2 0 (word w.ts)) d slot w p) := by
  refine ⟨_, rfl, fun hgoing => ?_, fun hstopped hra => ?_⟩
  · simp [decodeLive, hw, hmore, hgoing, hcode, hpass, hslot, hjoin]
  · simp [decodeLive, hw, hmore, hstopped, hra, hcode, hpass, hslot, hjoin]

omit hmore in
theorem decodeLive_joins {slot : Nat} {k : JoinWait} (hgoing : x.stopped = false) (hslot : poolSlot x = some slot)
    (hjoin : joinBlocked s d x w p (refRipes s d (slotPics x p.reads)) = some k) :
    decodeLive s d id x p = joinWaits s k := by
  simp [decodeLive, hw, hgoing, hcode, hpass, hslot, hjoin]

omit hmore in
theorem decodeLive_noSlot (hgoing : x.stopped = false) (hslot : poolSlot x = none) : decodeLive s d id x p = s := by
  simp [decodeLive, hw, hgoing, hcode, hpass, hslot]

end
end

/-- R229: a lone picture whose deadline has come is released. -/
theorem releaseDue_due {s : State} {ctx : Nat} {x : Stream} {p : JbPic} (hx : getCtx s ctx = some x) (hjb : x.jb = [p])
    (hdue : p.firstAt + durMs x.jbTarget ≤ now s) : releaseDue s ctx x.jb.length = releaseFirst s ctx := by
  simp [hjb, releaseDue, hx, hdue]

/-- R229: before its deadline it is released only when it is complete. -/
theorem releaseDue_early {s : State} {ctx : Nat} {x : Stream} {p : JbPic} (hx : getCtx s ctx = some x) (hjb : x.jb = [p])
    (hearly : now s < p.firstAt + durMs x.jbTarget) (hopen : jbComplete x p = false) : releaseDue s ctx x.jb.length = s := by
  simp [hjb, releaseDue, hx, Nat.not_le.2 hearly, releaseComplete, hopen]

section
variable {c : Cmd} {s : State} {f : Fetched} (hb : Begins s 0xB20 c f) (hres : reservedBad c 0 [full] = false)
include hb hres

/-- R113: a reserved class or counter. -/
theorem statRipeness_reserved (hbad : bits c.w1 47 9 ≠ 0 ∨ 5 < bits c.w1 3 0 ∨ 6 < bits c.w1 7 4) :
    exec (.statRipeness c) s = .next (answered s c (taken s f) 0x1B0 0 0) := by
  refine next_reply hb (guarded_go hres (guarded_stop ?_))
  obtain h | h | h := hbad
  · simp [h]
  · simp [h]
  · simp [h]

theorem statRipeness_reads (hzero : bits c.w1 47 9 = 0) (hcls : bits c.w1 3 0 ≤ 5) (hctr : bits c.w1 7 4 ≤ 6) :
    exec (.statRipeness c) s = .next (answered s c
      (if bitAt c.w1 8 && bits c.w1 7 4 != 6 then { taken s f with spec := { s.spec with
        counters := Tbl.del s.spec.counters (16 * bits c.w1 3 0 + bits c.w1 7 4) } } else taken s f)
      0 (word (specValue s (bits c.w1 3 0) (bits c.w1 7 4))) 0) :=
  next_reply hb (guarded_go hres (guarded_go (or_check (or_check (bne_false hzero) (decide_lt_false hcls)) (decide_lt_false hctr))
    rfl))

end

end Sys2Proof.Machine

open Sys2Proof Sys2Proof.Machine

/-- Settles O34: each command passes its checks in their order; DEC_CREATE makes what its own checks let through. -/
theorem decodeCommands : Obligations.decodeCommands := by
  unfold Obligations.decodeCommands
  refine fun c s f => ⟨?create, ?modify, ?destroy, ?intra⟩
  case create =>
    intro hb hres hmay hqueue
    refine ⟨fun hown hkind hquar => ⟨_, rfl, fun st hst => ?_, fun y hok hy => ?_⟩, decCreate_member hb hres hmay hqueue⟩
    · rw [decCreate_here hb hres hmay hqueue hown hkind hquar, decMake_eq,
        show firstFail (decChecks (taken s f) (decOf (cmdDesc 0x400 c) c.slot c.ring (hIndex c.w1))
          (bits (cmdDesc 0x400 c).w2 35 34) (codecOf (taken s f) (hIndex c.w1))) = some st from hst]
      rfl
    · rw [decCreate_here hb hres hmay hqueue hown hkind hquar, decMake_eq,
        show firstFail (decChecks (taken s f) (decOf (cmdDesc 0x400 c) c.slot c.ring (hIndex c.w1))
          (bits (cmdDesc 0x400 c).w2 35 34) (codecOf (taken s f) (hIndex c.w1))) = none from hok, hy]
      rfl
  case modify =>
    intro x hb hres hobj hx
    have hchange := decModify_passes hb hres hobj hx
    refine ⟨fun h0 hts htt hcodec hroom => ?_, fun h1 hms => ?_, fun h2 hlo hhi => ?_, fun h3 hqueue => ?_⟩
    · rw [hchange (by omega) (by omega) (fun _ => ⟨hts, htt, hcodec⟩) (by omega) (by omega) (fun _ => hroom), h0]
      rfl
    · rw [hchange (by omega) (by omega) (by omega) (fun _ => hms) (by omega) (by omega), h1]
      rfl
    · rw [hchange (by omega) (by omega) (by omega) (by omega) (fun _ => ⟨hlo, hhi⟩) (by omega), h2]
      rfl
    · rw [hchange (by omega) (fun _ => hqueue) (by omega) (by omega) (by omega) (by omega), h3]
      rfl
  case destroy =>
    intro x hb hres hobj hread hx
    refine next_waits hb (guarded_go hres (guarded_go hobj (guarded_go hread ?_)))
    simp only [getD_getDec hx]
    rfl
  case intra =>
    intro x hb hres hobj hx hkey
    refine ⟨_, rfl, next_reply hb (guarded_go hres (guarded_go hobj ?_))⟩
    simp only [getD_getDec hx]
    refine guarded_go ?_ rfl
    obtain h | ⟨y, hy, hpli⟩ := hkey
    · exact bne_and_false (.inl h)
    · have hpli' : ((getCtx (taken s f) x.source).map (fun y => y.pliEn)).getD false = true := by
        rw [show getCtx (taken s f) x.source = some y from hy]
        exact hpli
      simp only [hpli', Bool.not_true, Bool.and_false]

/-- Settles O35: each row by the state of its context; the cases of a live picture are `decodeLive`'s. -/
theorem decodeRows : Obligations.decodeRows := by
  unfold Obligations.decodeRows
  refine fun s hrun => ⟨fun ctx x p hx hjb hdue => ?_, fun ctx x p hx hjb hearly hopen => ?_,
    fun d x id t w rest p codec hx ht hnew hlive hw hcodec hmore => ?_, fun d x p hx hnone => ?_, fun d x e en dl hx hen hdl hover => ?_,
    fun d x e en dl mine x1 x2 hx hen hdl hearly hruns hmine hx1 hx2 => ?_,
    fun d x t0 hx ht0 hreq => ⟨fun hdue => ?_, fun hearly => ?_⟩, fun d x hx hclean => ?_⟩
  · refine congrArg Host.Outcome.next ?_
    simp only [hx, hrun, if_true, releaseDue_due hx hjb hdue]
  · refine congrArg Host.Outcome.next ?_
    simp only [hx, hrun, if_true, releaseDue_early hx hjb hearly hopen]
  · subst hcodec
    have hexec := pictureDecoded_live (p := p) hrun hx ht hnew hlive
    refine ⟨fun code hgoing hcode => ?_, fun hgoing hcode hpass => ?_, fun hstopped hnot => ?_, fun slot hcode hpass hslot hjoin => ?_,
      fun slot k hgoing hcode hpass hslot hjoin => ?_, fun hgoing hcode hpass hslot => ?_⟩
    · rw [hexec, decodeLive_unsupported hw hmore hgoing hcode]
    · rw [hexec, decodeLive_passed hw hmore hgoing hcode hpass]
    · rw [hexec, decodeLive_stopped hw hmore hstopped hnot]
    · obtain ⟨u, hu, hgoing, hstopped⟩ := decodeLive_decodes (d := d) (id := id) hw hmore hcode hpass hslot hjoin
      exact ⟨u, hu, fun h => by rw [hexec, hgoing h], fun h hra => by rw [hexec, hstopped h hra]⟩
    · rw [hexec, decodeLive_joins hw hcode hpass hgoing hslot hjoin]
    · rw [hexec, decodeLive_noSlot hw hcode hpass hgoing hslot]
  · refine congrArg Host.Outcome.next ?_
    simp only [hx, hnone]
  · refine congrArg Host.Outcome.next ?_
    simp [hx, hen, hdl, hover]
  · refine congrArg Host.Outcome.next ?_
    subst hmine hx1 hx2
    simp only [hx, hen, hdl, hruns, Option.getD_some, Nat.not_le.2 hearly, Bool.not_true, decide_false, Bool.or_self,
      Bool.false_eq_true, if_false]
    rfl
  · refine congrArg Host.Outcome.next ?_
    simp only [hx, ht0, hrun, hreq, Nat.not_lt.2 hdue, Bool.not_true, decide_false, Bool.or_self, Bool.false_eq_true, if_false]
  · refine congrArg Host.Outcome.next ?_
    simp only [hx, ht0, hearly, decide_true, Bool.or_true, if_true]
  · refine congrArg Host.Outcome.next ?_
    simp only [hx, hclean]

/-- Settles O36: the rows by the deadline of the entry and by the joins that are free, and the three cases of STAT_RIPENESS. -/
theorem speculations : Obligations.speculations := by
  unfold Obligations.speculations
  refine fun s => ⟨fun e en dl hen hdl => ⟨fun hdue hcls => ?_, fun hdue hcls => ?_, fun hearly => ?_⟩, fun e hnone => ?_,
    fun hwait hfree => ?_, fun hnone => ?_, fun c f hb hres => ⟨statRipeness_reserved hb hres, fun hzero hcls hctr => ⟨_, _, rfl, rfl, ?_⟩,
    fun hzero hcls hgauge => ?_⟩⟩
  · refine congrArg Host.Outcome.next ?_
    simp [hen, hdl, hdue, hcls]
  · refine congrArg Host.Outcome.next ?_
    simp [hen, hdl, hdue, hcls]
  · refine congrArg Host.Outcome.next ?_
    simp [hen, hdl, Nat.not_le.2 hearly]
  · refine congrArg Host.Outcome.next ?_
    simp only [hnone]
  · refine congrArg Host.Outcome.next ?_
    simp [hwait, hfree]
  · refine congrArg Host.Outcome.next ?_
    simp [hnone]
  · have hne : bits c.w1 7 4 ≠ 6 := by omega
    rw [statRipeness_reads hb hres hzero hcls (by omega), bne_iff_ne.2 hne, Bool.and_true, specValue, if_neg hne]
  · rw [statRipeness_reads hb hres hzero hcls (by omega), bne_false hgauge, Bool.and_false, specValue, if_pos hgauge]
    rfl
end

section
/-! Obligations O37 to O40: canvas commands and rows, encode commands and rows. -/

namespace Sys2Proof.Machine

theorem knownMatrix_of {m : Nat} (h : m = 1 ∨ m = 5 ∨ m = 6 ∨ m = 9) : knownMatrix m = true := by
  obtain rfl | rfl | rfl | rfl := h
  · rfl
  · rfl
  · rfl
  · rfl

theorem fpsBad_false {num den : Nat} (hnum : 1 ≤ num) (hden : 1 ≤ den) (hle : den ≤ num) (hmax : num ≤ 120 * den) :
    fpsBad num den = false :=
  or_check (or_check (or_check (beq_false_of_ne (Nat.ne_of_gt hnum)) (beq_false_of_ne (Nat.ne_of_gt hden))) (decide_lt_false hle))
    (decide_lt_false hmax)

theorem windowBad_false {us num den : Nat} (hlo : 100 ≤ us) (hhi : us ≤ 1000000) (hperiod : us * num ≤ 1000000 * den) :
    windowBad us num den = false :=
  or_check (or_check (decide_lt_false hlo) (decide_lt_false hhi)) (decide_lt_false hperiod)

theorem sizeBad_false {w h : Nat} (hmax : max w h ≤ 3840) (hmin : min w h ≤ 2160) : sizeBad w h = false :=
  or_check (decide_lt_false hmax) (decide_lt_false hmin)

/-- R312: no buffers, or two or three of a known pixel format. -/
theorem memBufs_check {bufs pxf : Nat} (h : bufs = 0 ∨ ((bufs = 2 ∨ bufs = 3) ∧ (pxf = 1 ∨ pxf = 2 ∨ pxf = 4))) :
    (!(bufs == 0 || bufs == 2 || bufs == 3)) = false ∧ (bufs != 0 && !(pxf == 1 || pxf == 2 || pxf == 4)) = false := by
  obtain rfl | ⟨hb, hp⟩ := h
  · exact ⟨rfl, rfl⟩
  · have hpxf : (pxf == 1 || pxf == 2 || pxf == 4) = true := by
      obtain rfl | rfl | rfl := hp
      · rfl
      · rfl
      · rfl
    rw [hpxf]
    obtain rfl | rfl := hb
    · exact ⟨rfl, rfl⟩
    · exact ⟨rfl, rfl⟩

theorem even_check {n : Nat} (h : n % 2 = 0) : (n % 2 == 1) = false := by
  rw [h]
  rfl

/-- A list of checks all of which pass has no first failure. -/
theorem firstFail_eq_none {cs : List (Bool × Nat)} (h : ∀ p ∈ cs, p.1 = false) : firstFail cs = none := by
  induction cs with
  | nil => rfl
  | cons p cs ih =>
    obtain ⟨hp, hcs⟩ := List.forall_mem_cons.1 h
    rw [firstFail, hp]
    exact ih hcs

theorem any_false {α : Type} {l : List α} {p : α → Bool} (h : ∀ x ∈ l, p x = false) : l.any p = false := by
  rw [List.any_eq_false]
  exact fun x hx => by simp [h x hx]

/-- R316 to R323: records that all pass replace a layout that waits, and wait for their picture start. -/
theorem setLayersWith_places {s : State} {c : Cmd} {id : Nat} {x : Canvas} {recs : List (List Word)} {ls : List Layer}
    {hs : List HoldImage} (hls : ls = recs.map layerOf) (hrecs : ∀ r ∈ recs, recordReserved r = false)
    (hlayers : ∀ l ∈ ls, (sourceCheck s l).1 = false ∧ recordRange s l = false ∧ recordRect x l = false ∧
      (l.source = 0 → badModuleRange l.stillAddr.toNat (stillBytes l) = false))
    (hdepth : ∀ p ∈ s.units.canvases, deeper s id ls 3 p.1 = false)
    (hholds : placeHolds s id { x with waiting := none } ls.zipIdx [] = some hs) :
    setLayersWith s c id x recs = .waits (updCanvas
      ((hs.filter (fun h => !(x.holds.contains h))).foldl (fun s h => overwritten s h.base h.bytes) (endLayers s id 1 0)) id
      (fun x => { x with waiting := some { layers := ls, holds := hs
                                           notBefore := if cmdFlag c 0 then
                                             max (now s + durMs 1) (deadlineAt (nearest (now s) c.w5))
                                           else now s + durMs 1 } })) (.layers id) := by
  have hstill : ls.any (fun l => l.source == 0 && badModuleRange l.stillAddr.toNat (stillBytes l)) = false := by
    refine any_false fun l hl => ?_
    obtain ⟨-, -, -, hrange⟩ := hlayers l hl
    rw [Bool.and_eq_false_imp]
    exact fun h0 => hrange (beq_iff_eq.1 h0)
  have hchecks : firstFail ([(recs.any recordReserved, 0x101)] ++ ls.map (sourceCheck s) ++
      [(ls.any (recordRange s), 0x108), ((s.units.canvases.map (·.1)).any (fun k => deeper s id ls 3 k), 0x171),
       (ls.any (recordRect x), 0x172),
       (ls.any (fun l => l.source == 0 && badModuleRange l.stillAddr.toNat (stillBytes l)), 0x1A2)]) = none := by
    refine firstFail_eq_none fun p hp => ?_
    simp only [List.mem_append, List.mem_map, List.mem_cons, List.not_mem_nil, or_false] at hp
    obtain (rfl | ⟨l, hl, rfl⟩) | rfl | rfl | rfl | rfl := hp
    · exact any_false hrecs
    · exact (hlayers l hl).1
    · exact any_false fun l hl => (hlayers l hl).2.1
    · refine any_false fun k hk => ?_
      obtain ⟨q, hq, rfl⟩ := List.mem_map.1 hk
      exact hdepth q hq
    · exact any_false fun l hl => (hlayers l hl).2.2.1
    · exact hstill
  subst hls
  simp only [setLayersWith, hchecks, hholds]

section
variable {s : State} {id : Nat} {c : Canvas} (hc : getCanvas s id = some c) (hrun : running s = true)
include hc hrun

/-- R314: a picture start that is due takes the picture's number, and what comes of it depends on the state and the picture
in progress. -/
theorem canvasPictureStart_due (hdue : c.startOf c.nextNo ≤ now s) (hlive : c.destroying = false) :
    exec (.canvasPictureStart id) s = .next (
      if mediaOn s then
        if c.cur.isSome then skipCanvas (setCanvas s id { c with nextNo := c.nextNo + 1 }) id c.nextNo
        else startCanvas (setCanvas s id { c with nextNo := c.nextNo + 1 }) id c.nextNo (c.startOf c.nextNo)
      else setCanvas s id { c with nextNo := c.nextNo + 1 }) := by
  refine congrArg Host.Outcome.next ?_
  simp only [hc, hrun, Nat.not_lt.2 hdue, hlive, Bool.not_true, decide_false, Bool.or_self, Bool.false_eq_true, if_false,
    Bool.not_eq_true', ← Bool.not_eq_true, ite_not]

omit hrun in
/-- R328: a picture that does not wait for a join entry has nothing to concede at its deadline. -/
theorem canvasDeadline_ready {p : CanvasPic} {r : Nat} (hcur : c.cur = some p) (hjoin : p.joinWait = false) :
    canvasDeadline s id r = s := by
  simp [canvasDeadline, hc, hcur, hjoin]

theorem canvasDeadline_due {p : CanvasPic} {r : Nat} (hcur : c.cur = some p) (hjoin : p.joinWait = true) (hlast : r + 1 = c.rows)
    (hdue : c.lastDue p.start ≤ now s) :
    canvasDeadline s id r = (sourcesOf s 16 (p.sources.filterMap (fun q => (c.layers[q.1]?).bind
      (fun l => (sourceRipe s l.source q.2).bind (fun r => r.entry))))).foldl (fun s e => resolveEntry s e 2) s := by
  simp [canvasDeadline, hc, hcur, hrun, hjoin, hlast, Nat.not_lt.2 hdue]

end

/-- R320: an opaque sample replaces what lies below it, a transparent one leaves it. -/
theorem blend1_opaque (src below : Nat) : blend1 src below 255 = src := by
  unfold blend1
  omega

theorem blend1_transparent (src below : Nat) : blend1 src below 0 = below := by
  unfold blend1
  omega

/-- A state whose table of channels holds the number 0 twice, the first channel without a source, the second with one. -/
def twoChannels : State :=
  { Tests.atWork with units := { encs := [(0, { srcs := [], output := 0, codec := 0 }), (0, { srcs := [0], output := 0, codec := 0 })] } }

/-- ENC_MODIFY of channel 0 with selector 2 and no new source. -/
def modifySources : Cmd := Tests.cmd (ownHandle twoChannels 8 0) 0 0 0 2

/-- What the channels of a next state have as their pending sources. -/
def pendingSources : Out → List (Option (List Word))
  | .next t => t.units.encs.map (fun p => p.2.pendingSrcs)
  | _ => []

/-- R347, R351: whether the canvases that a channel reads have reached the instant `t`. -/
def encReached (s : State) (e : Enc) (t : Nat) : Bool :=
  !e.fromCanvas || e.srcs.all (fun w => w == 0 || ((getCanvas s (hIndex w)).map (fun c => canvasReached c t)).getD false)

theorem encReached_of {s : State} {e : Enc} {t : Nat} (h : e.fromCanvas = true → ∀ w ∈ e.srcs,
    w = 0 ∨ ∃ k, getCanvas s (hIndex w) = some k ∧ canvasReached k t = true) : encReached s e t = true := by
  rw [encReached, Bool.or_eq_true, Bool.not_eq_true', or_iff_not_imp_left, Bool.not_eq_false, List.all_eq_true]
  intro hcanvas w hw
  obtain h0 | ⟨k, hk, hreached⟩ := h hcanvas w hw
  · simp [h0]
  · simp [hk, hreached]

theorem encReached_false {s : State} {e : Enc} {t : Nat} (hcanvas : e.fromCanvas = true)
    (h : ∃ w ∈ e.srcs, w ≠ 0 ∧ ∃ k, getCanvas s (hIndex w) = some k ∧ canvasReached k t = false) : encReached s e t = false := by
  obtain ⟨w, hw, h0, k, hk, hnot⟩ := h
  rw [encReached, hcanvas, Bool.not_true, Bool.false_or, List.all_eq_false]
  exact ⟨w, hw, by rw [beq_false_of_ne h0, hk]; simp [hnot]⟩

section
variable {s : State} {ch : Nat} {e : Enc} (hrun : running s = true) (he : getEnc s ch = some e)
include hrun he

omit hrun in
/-- R351: before its instant, or before its canvases have reached it, a picture does not start. -/
theorem encPictureStart_early (h : now s < encStart s e e.nextNo ∨ encReached s e (encStart s e e.nextNo) = false) :
    exec (.encPictureStart ch) s = .next s := by
  refine congrArg Host.Outcome.next ?_
  rw [he]
  refine if_pos ?_
  obtain h | h := h
  · simp [h]
  · have h' := h
    unfold encReached at h'
    rw [h']
    simp

theorem encPictureStart_due (hdue : encStart s e e.nextNo ≤ now s) (hreached : encReached s e (encStart s e e.nextNo) = true)
    (hlive : e.stopping = false) :
    exec (.encPictureStart ch) s = .next (e.cur.elim
      (if mediaOn s then
        startEnc (setEnc s ch { e with nextNo := e.nextNo + 1 }) ch { e with nextNo := e.nextNo + 1 } (encStart s e e.nextNo)
      else setEnc s ch { e with nextNo := e.nextNo + 1 })
      (fun p =>
        if !(mediaOn s) then setEnc s ch { e with nextNo := e.nextNo + 1 }
        else if !p.redo && !p.joinWait && p.segments.all (fun g => decide (g.rowsDone.length = g.rows.length)) then s
        else skipEnc (setEnc s ch { e with nextNo := e.nextNo + 1 }) ch)) := by
  have h' := hreached
  unfold encReached at h'
  refine congrArg Host.Outcome.next ?_
  simp only [he, h', hrun, Nat.not_lt.2 hdue, hlive, Bool.not_true, decide_false, Bool.or_self, Bool.false_eq_true, if_false]
  cases e.cur
  · rfl
  · rfl

end

/-- R364: a key request that meets a pending one is merged with it. -/
theorem encRequest_merged {s : State} {ch : Nat} {e : Enc} (he : getEnc s ch = some e) (hkey : e.keyPending = true) :
    (encRequest s ch true).2 = 2 := by
  simp [encRequest, show Tbl.get? s.units.encs ch = some e from he, hkey]

end Sys2Proof.Machine

open Sys2Proof Sys2Proof.Machine

/-- Settles O37: each command passes its checks in their order; a layout is placed when every record passes its own. -/
theorem canvasCommands : Obligations.canvasCommands := by
  unfold Obligations.canvasCommands
  refine fun c s f => ⟨?create, ?layers, ?count, ?destroy⟩
  case create =>
    intro w h mx num den us bufs pxf size base hb hres hqueue hw hh hmx hnum hden hus hbufs hpxf hsize hw64 hh64 hweven hheven hmatrix
      hnum1 hden1 hfps hfpsMax hus100 husMax hperiod hmem hmax hmin hroom halloc
    subst hw hh hmx hnum hden hus hbufs hpxf hsize
    obtain ⟨hcount, hformat⟩ := memBufs_check hmem
    have hqueue' : (bitAt c.w4 7 && noQueue s c.slot (bits c.w4 5 0)) = false := by
      rw [Bool.and_eq_false_imp]
      exact hqueue
    have halloc' : allocate (taken s f) 4 (bits c.w4 27 24 *
      if bits c.w4 27 24 = 0 then 0 else slotBytes (bits c.w4 23 18) (bits c.w1 47 32) (bits c.w1 31 16)) = some base := halloc
    refine next_reply hb (guarded_go hres (guarded_go hqueue' ?_))
    simp only [halloc', Option.getD_some, Option.isNone_some]
    refine guarded_go (or_check (or_check (or_check (or_check (or_check (or_check (or_check (or_check (decide_lt_false hw64)
      (decide_lt_false hh64)) (even_check hweven)) (even_check hheven)) ?_) (fpsBad_false hnum1 hden1 hfps hfpsMax))
      (windowBad_false hus100 husMax hperiod)) hcount) hformat) (guarded_go (sizeBad_false hmax hmin) (guarded_go
      (decide_le_false hroom) (guarded_go rfl rfl)))
    rw [knownMatrix_of hmatrix]
    rfl
  case layers =>
    intro x bs ls hs hb hres hobj hx hregion hbounds halign hlo hhi hls hrecs hlayers hdepth hholds
    refine next_waits hb (guarded_go hres (guarded_go hobj (guarded_go hregion (guarded_go hbounds (guarded_go (bne_false halign)
      (guarded_go (within_check hlo hhi) ?_))))))
    rw [show getCanvas (taken s f) (hIndex c.w1) = some x from hx]
    refine (setLayersWith_places (s := taken s f) (ls := ls) ?_ ?_ hlayers hdepth hholds).trans rfl
    · rw [hls, List.map_map]
      rfl
    · intro r hr
      obtain ⟨i, hi, rfl⟩ := List.mem_map.1 hr
      exact hrecs i (List.mem_range.1 hi)
  case count =>
    intro hb hres hobj hregion hbounds halign hcount d
    refine next_reply hb (guarded_go hres (guarded_go hobj (guarded_go hregion (guarded_go hbounds (guarded_go (bne_false halign)
      (guarded_stop ?_))))))
    simpa using hcount
  case destroy =>
    intro hb hres hobj
    exact ⟨fun hread => next_reply hb (guarded_go hres (guarded_go hobj (guarded_stop hread))),
      fun hread => next_waits hb (guarded_go hres (guarded_go hobj (guarded_go hread rfl)))⟩

/-- Settles O38: a canvas's rows by the picture in progress; blending and the output steps are arithmetic. -/
theorem canvasRows : Obligations.canvasRows := by
  unfold Obligations.canvasRows
  refine ⟨fun s id c hc hrun => ⟨fun hearly => ?_, fun hdue hlive hoff => ?_, fun hdue hlive hon hcur => ?_,
    fun hdue hlive hon hnone => ?_, fun p t k ht hcur hredo hjoin hseq => ?_, fun p hcur hnone => ?_,
    fun p r hcur hjoin => congrArg Host.Outcome.next (canvasDeadline_ready hc hcur hjoin),
    fun p r hcur hjoin hlast hdue => congrArg Host.Outcome.next (canvasDeadline_due hc hrun hcur hjoin hlast hdue)⟩,
    fun src below => ⟨blend1_opaque src below, blend1_transparent src below⟩, fun v hv => ?_, fun v hv => ?_⟩
  · refine congrArg Host.Outcome.next ?_
    simp [hc, hearly]
  · rw [canvasPictureStart_due hc hrun hdue hlive, hoff]
    rfl
  · rw [canvasPictureStart_due hc hrun hdue hlive, hon, hcur]
    rfl
  · rw [canvasPictureStart_due hc hrun hdue hlive, hon, if_pos rfl, if_neg (by simp [hnone])]
  · refine congrArg Host.Outcome.next ?_
    simp [hc, ht, hcur, hrun, hredo, hjoin, Nat.not_lt.2 hseq]
  · refine congrArg Host.Outcome.next ?_
    simp only [hc, hnone]
  · unfold out8
    omega
  · unfold out10
    omega

/-- Refutes O39: ENC_MODIFY with selector 2 gives each channel as many pending sources as that channel has; the statement
gives all of the number's entries as many as the first one has. In a state whose table holds one number twice (`State` does
not exclude it; no run from reset has one), with sources in different numbers, the two differ. -/
theorem not_encodeCommands : ¬ Obligations.encodeCommands := by
  unfold Obligations.encodeCommands
  intro h
  have hbegins : Tests.Shows 0x601 twoChannels modifySources (fun _ _ => true) :=
    Tests.shows (by decide +kernel)
  have hmodify := (h modifySources (Tests.withCmd twoChannels 0x601 modifySources) (Tests.front 0x601 modifySources)).2.1
  have hchannel : getEnc (Tests.withCmd twoChannels 0x601 modifySources) (hIndex modifySources.w1) =
      some { srcs := [], output := 0, codec := 0 } := rfl
  have hlive : (hObj (Tests.withCmd twoChannels 0x601 modifySources) [8] modifySources.w1
      (encLive (Tests.withCmd twoChannels 0x601 modifySources))).1 = false := by decide +kernel
  have hsources := (hmodify _ hbegins.1 hlive hchannel).2.2.1 (by decide +kernel) (by decide +kernel)
    (fun _ hw => absurd hw List.not_mem_nil) (by decide +kernel) (by decide +kernel)
  exact absurd (congrArg pendingSources hsources) (by decide +kernel)

/-- Settles O40: each row by the instant, the picture in progress and the canvases that the channel reads. -/
theorem encodeRows : Obligations.encodeRows := by
  unfold Obligations.encodeRows
  refine fun s hrun ch e he => ⟨fun hearly => encPictureStart_early he (.inl hearly),
    fun _ hcanvas hnot => encPictureStart_early he (.inr (encReached_false hcanvas hnot)),
    fun hdue hreached hlive hcur => ⟨fun hon => ?_, fun hoff => ?_⟩,
    fun p hdue hreached hlive hcur hon hredo hjoin => ⟨fun hdone => ?_, fun hopen => ?_⟩,
    fun p g r id t layer segment n intra ht hcur hg hr hredo hjoin hseq => ⟨fun harrived => ?_, fun harrived => ?_⟩,
    fun p hcur hjoin hredo => ⟨fun hearly => ?_, fun hdue => ?_⟩, fun p hcur hjoin hdue => ?_,
    fun p hs hcur hredo hjoin => ⟨fun hfinal hdone hfit => ?_, fun hopen => ?_⟩, encRequest_merged he⟩
  · rw [encPictureStart_due hrun he hdue (encReached_of hreached) hlive, hcur]
    exact congrArg Host.Outcome.next (if_pos hon)
  · rw [encPictureStart_due hrun he hdue (encReached_of hreached) hlive, hcur]
    exact congrArg Host.Outcome.next (if_neg (by simp [hoff]))
  · rw [encPictureStart_due hrun he hdue (encReached_of hreached) hlive, hcur]
    simp only [Option.elim_some, hon, hredo, hjoin, hdone, Bool.not_true, Bool.false_eq_true, if_false, Bool.not_false, Bool.and_self, if_true]
  · rw [encPictureStart_due hrun he hdue (encReached_of hreached) hlive, hcur]
    simp only [Option.elim_some, hon, hredo, hjoin, hopen, Bool.not_true, Bool.false_eq_true, if_false, Bool.not_false, Bool.and_false, skipEnc]
  · refine congrArg Host.Outcome.next ?_
    simp [he, ht, hcur, hg, hr, hrun, hredo, hjoin, Nat.not_lt.2 hseq, harrived]
  · refine congrArg Host.Outcome.next ?_
    simp [he, ht, hcur, hg, hr, harrived]
  · refine congrArg Host.Outcome.next ?_
    simp [encDeadline, he, hcur, hearly]
  · refine congrArg Host.Outcome.next ?_
    simp only [encDeadline, he, hcur, hrun, Nat.not_lt.2 hdue, hjoin, hredo, Bool.not_true, decide_false, Bool.or_self,
      Bool.false_eq_true, if_false]
  · refine congrArg Host.Outcome.next ?_
    simp only [encDeadline, he, hcur, hrun, Nat.not_lt.2 hdue, hjoin, Bool.not_true, decide_false, Bool.or_self,
      Bool.false_eq_true, if_false, if_true]
  · refine congrArg Host.Outcome.next ?_
    simp only [he, hcur, hrun, hredo, hjoin, hfinal, hfit, hdone, Bool.not_true, Bool.or_self, Bool.false_eq_true, if_false]
  · refine congrArg Host.Outcome.next ?_
    simp [he, hcur, hopen]
end

section
/-! Obligations O41 to O45: audio commands and rows, tasks, diagnostics, DMA commands. -/

namespace Sys2Proof.Machine

theorem imp_check {a b : Bool} (h : a = true → b = false) : (a && b) = false := by
  rw [Bool.and_eq_false_imp]
  exact h

/-- Making seat contexts changes the table of contexts and nothing else. -/
theorem makeSeats_media (s : State) (conf n : Nat) : ∃ m, (makeSeats s conf n).1 = { s with media := m } := by
  induction n generalizing s with
  | zero => exact ⟨s.media, rfl⟩
  | succ n ih => exact ih _

theorem ownHandle_setMix_makeSeats (s : State) (conf n g : Nat) (m : Mix) (ty k : Nat) :
    ownHandle (setMix (makeSeats s conf n).1 g m) ty k = ownHandle s ty k := by
  obtain ⟨media, h⟩ := makeSeats_media s conf n
  rw [h]
  rfl

theorem getD_getMix {s : State} {f : Fetched} {n : Nat} {m d : Mix} (h : getMix s n = some m) :
    (getMix (taken s f) n).getD d = m := by
  rw [show getMix (taken s f) n = some m from h]
  rfl

/-- R367: MIX_CREATE in a conference of this member, past the checks of its operands, turns to those of its block. -/
theorem mixCreate_checked {c : Cmd} {s : State} {f : Fetched} {bs : List Byte} {conf : Nat} {x : Conf} (hb : Begins s 0x700 c f)
    (hres : reservedBad c 0 [full, mask 47 46 + mask 44 12 + 0x1BF, full, full, full] = false)
    (hown : ofMember s 3 c.w1 = false) (hmay : (hMay s 3 c.w1 (confNamed s)).1 = false)
    (hqueue : bitAt c.w2 7 = true → noQueue s c.slot (bits c.w2 5 0) = false) (hregion : (regionCheck s c.slot c.w4).1 = false)
    (hbounds : regionBounds s c.slot c.w4 c.w5.toNat 48 false = false) (halign : c.w5.toNat % 64 = 0)
    (hconf : confOf s c.w1 = some conf) (hx : getConf s conf = some x) (hspan : x.span = false) :
    exec (.mixCreate c (.bytes bs)) s = .next (concluded s c f
      (guarded (taken s f) (mixChecks s c.w2 conf (blockWords s c.slot 8 bs))
        (mixMake (taken s f) (cmdDesc 0x700 c) c.slot c.ring conf none (blockWords s c.slot 8 bs)))) := by
  have hown' : ofMember (taken s f) 3 c.w1 = false := hown
  have hconf' : confOf (taken s f) c.w1 = some conf := hconf
  have hhome : ((getConf (taken s f) conf).map (fun x => x.span)).getD false = false := by
    rw [show getConf (taken s f) conf = some x from hx]
    exact hspan
  refine next_concluded hb (guarded_go hres (guarded_go hmay (guarded_go (imp_check hqueue) (guarded_go hregion (guarded_go hbounds
    (guarded_go (bne_false halign) ?_))))))
  simp only [hconf', Option.getD_some, hown', hhome, Bool.false_eq_true, if_false]
  rfl

section
variable {c : Cmd} {s : State} {f : Fetched} {m : Mix} (hb : Begins s 0x701 c f) (hobj : (hObj s [10] c.w1 (mixLive s)).1 = false)
  (hm : getMix s (hIndex c.w1) = some m)
include hb hobj hm

/-- R389: a change of a mix group's parameters that its checks let through. -/
theorem mixModify_params {k : Nat} (hsel : cmdSel c = 0) (hres : reservedBad c 0xF [full, mask 44 12 + 0x100] = false)
    (hw2 : w2Bad c.w2 = false) (hk : k = (if bits c.w2 44 40 = 0 then 4 else bits c.w2 44 40)) (hk16 : k ≤ 16)
    (hmax : s.media.streams.length + (k - m.kMost) ≤ 5242880) (hroom : s.media.streams.length + (k - m.kMost) ≤ contextCapacity s)
    (haud : audFull s (k - m.kMost) (k - m.kMost) 0 = false) :
    ∃ r t, r = makeSeats (taken s f) m.conf (k - m.seats.length) ∧
      t = updMix r.1 (hIndex c.w1) (fun x => { x with
        pendingW2 := some c.w2, seats := x.seats ++ r.2.map (fun c => { ctx := c }) }) ∧
      exec (.mixModify c) s = .next (answered s c t 0 0 (mixWord3 t (hIndex c.w1))) := by
  subst hk
  refine ⟨_, _, rfl, rfl, next_reply hb ?_⟩
  simp only [hsel, getD_getMix hm, beq_self_eq_true, Bool.true_and]
  exact guarded_go rfl (guarded_go hres (guarded_go hobj (guarded_go rfl (guarded_go hw2 (guarded_go rfl (guarded_go rfl
    (guarded_go (decide_lt_false hk16) (guarded_go (decide_lt_false hmax) (guarded_go (decide_lt_false hroom) (guarded_go haud
    rfl))))))))))

theorem mixModify_format (hsel : cmdSel c = 1) (hres : reservedBad c 0xF [full, 3, mask 47 20] = false) (hne : bits c.w3 47 44 ≠ 0)
    (hcodec : (m.formats.getD (bits c.w2 1 0) { shared := 0, codec := 0 }).codec = bits c.w3 47 44)
    (hknown : formatCodecBad c.w3 = false) (hgood : formatBad c.w3 = false) :
    ∃ t, t = updMix (taken s f) (hIndex c.w1) (fun m => { m with
        pendingFormat := m.pendingFormat ++ [(bits c.w2 1 0, formatOf 0 c.w3)] }) ∧
      exec (.mixModify c) s = .next (answered s c t 0 0 (mixWord3 t (hIndex c.w1))) := by
  refine ⟨_, rfl, next_reply hb ?_⟩
  simp only [hsel, getD_getMix hm]
  refine guarded_go rfl (guarded_go hres (guarded_go hobj (guarded_go rfl (guarded_go rfl (guarded_go ?_ (guarded_go hknown
    (guarded_go rfl (guarded_go rfl (guarded_go rfl (guarded_go rfl rfl))))))))))
  rw [hcodec, beq_false_of_ne hne, bne_self_eq_false, hgood, Bool.and_false]
  rfl

omit hm in
theorem mixModify_events (hsel : cmdSel c = 2) (hres : reservedBad c 0xF [full, 0xBF] = false)
    (hqueue : bitAt c.w2 7 = true → noQueue s c.slot (bits c.w2 5 0) = false) :
    ∃ t, t = updMix (taken s f) (hIndex c.w1) (fun m => { m with
        pendingEvents := some (bitAt c.w2 7, bits c.w2 5 0, c.slot, c.ring, c.tag) }) ∧
      exec (.mixModify c) s = .next (answered s c t 0 0 (mixWord3 t (hIndex c.w1))) := by
  refine ⟨_, rfl, next_reply hb ?_⟩
  simp only [hsel]
  exact guarded_go rfl (guarded_go hres (guarded_go hobj (guarded_go (imp_check hqueue) (guarded_go rfl (guarded_go rfl (guarded_go
    rfl (guarded_go rfl (guarded_go rfl (guarded_go rfl (guarded_go rfl rfl))))))))))

end

theorem completeWhere_of_none {s : State} {p : Inflight → Bool} (h : s.hci.inflight.find? p = none) (st : Nat) (w1 w3 : Word) :
    completeWhere s p st w1 w3 = s := by
  rw [completeWhere, h]

section
variable {s : State} {g : Nat} {m : Mix} (hrun : running s = true) (hm : getMix s g = some m)
include hrun hm

/-- R371, R393: a period start that is due, in a state that may be Active, of a group that may be ending. -/
theorem mixPeriodStart_due (xs : List (Nat × Sound)) (hdue : m.startOf m.m ≤ now s) :
    exec (.mixPeriodStart g xs) s = .next (
      if !(mediaOn s) then updMix s g (fun m => { m with m := m.m + 1 })
      else if m.ending then settle (endMix (updMix s g (fun m => { m with m := m.m + 1 })) g)
      else settle (runPeriod (applyBindings (applyParams (updMix s g (fun m => { m with m := m.m + 1 })) g) g) g m.m
        (m.startOf m.m) (downmixed xs))) := by
  refine congrArg Host.Outcome.next ?_
  simp only [hm, hrun, Nat.not_lt.2 hdue, Bool.not_true, decide_false, Bool.or_self, Bool.false_eq_true, if_false]

/-- R372, R396: a frame that fits, by the instant at which it is final. -/
theorem mixFrameFinal_owed {ctx : Nat} {o : Owed} {h : RtpFacts} (ho : m.owed.find? (fun o => o.ctx == ctx) = some o)
    (hfits : frameFits m o.format h.bytes = true) :
    exec (.mixFrameFinal g ctx h) s = .next (
      let s1 := setMix s g { m with owed := m.owed.erase o }
      if m.dropAt o.start ≤ now s then dropFrames s1 g o.m 1
      else
        let s2 := if m.due o.start < now s then
            mixEvent (bumpC (mixCount s1 g 0x01 1) (oAudCounter 1) 1) g 2 0x502 (word o.m)
          else s1
        if (rtpPayload h.bytes).isEmpty then updMix s2 g (fun m => { m with gaps := ctx :: m.gaps.erase ctx })
        else settle (serveFrame (produceRec (updMix s2 g (fun m => { m with gaps := m.gaps.erase ctx })) ctx
          (o.m * m.clockStep ((getCtx s ctx).getD { kind := 5 }).clock % 2 ^ 32) h (frameMarker m o) (some (frameLevel m o))
          o.conceded) o)) := by
  refine congrArg Host.Outcome.next ?_
  simp only [hm, ho, hrun, hfits, Bool.not_true, Bool.or_self, Bool.false_eq_true, if_false, ge_iff_le, gt_iff_lt,
    decide_eq_true_eq]

end

/-- R384: a limited sample lies within 24 bits. -/
theorem limitSample_bounds (g : Nat) (x : Int) : -8388608 ≤ (limitSample g x).1 ∧ (limitSample g x).1 ≤ 8388607 := by
  unfold limitSample
  dsimp only
  split_ifs
  · exact ⟨by omega, by omega⟩
  · exact ⟨by omega, by omega⟩
  · exact ⟨by omega, by omega⟩

/-- R378: digital silence. -/
theorem measureLevel_silence (n : Nat) : measureLevel (List.replicate n 0) = 127 := by
  simp [measureLevel]

theorem endOn_idle {s : State} {k : Nat} (h : (getCore s k).running = none) : endOn s k = s := by
  rw [endOn, h]

theorem endOn_running {s : State} {k id : Nat} (h : (getCore s k).running = some id) :
    endOn s k = ask (removeTask (putCore (stopBusy s k) k { getCore (stopBusy s k) k with running := none }) id) k := by
  rw [endOn, h]

theorem yieldOn_running {s : State} {k id : Nat} {t : Task} (h : (getCore s k).running = some id) (ht : getTask s id = some t)
    (why : YieldReason) :
    yieldOn s k why = ask (putTask (putCore (stopBusy s k) k { getCore (stopBusy s k) k with running := none }) id
      { t with state := .yielded, core := none, why := some why }) k := by
  simp only [yieldOn, h, ht]

/-- What the end of the cores' windows leaves as it was. -/
structure CoresClosed (s t : State) : Prop where
  tasks : t.sched.tasks = s.sched.tasks
  classLists : t.sched.classLists = s.sched.classLists
  classStats : t.sched.classStats = s.sched.classStats
  memory : t.memory = s.memory

theorem coresClosed_setRaw (s : State) (o : Nat) (v : Word) : CoresClosed s (setRaw s o v) :=
  ⟨rfl, rfl, rfl, rfl⟩

theorem coresClosed_putCore (s : State) (k : Nat) (c : Core) : CoresClosed s (putCore s k c) :=
  ⟨rfl, rfl, rfl, rfl⟩

theorem CoresClosed.trans {s t u : State} (h : CoresClosed s t) (h' : CoresClosed t u) : CoresClosed s u where
  tasks := h'.tasks.trans h.tasks
  classLists := h'.classLists.trans h.classLists
  classStats := h'.classStats.trans h.classStats
  memory := h'.memory.trans h.memory

theorem coresClosed_closeCore (t : Nat) (s : State) (p : Nat × Core) : CoresClosed s (closeCore t s p) := by
  rw [closeCore]
  exact ((coresClosed_setRaw _ _ _).trans (coresClosed_setRaw _ _ _)).trans (coresClosed_putCore _ _ _)

theorem coresClosed_closeCores (t : Nat) (cs : List (Nat × Core)) (s : State) : CoresClosed s (cs.foldl (closeCore t) s) := by
  induction cs generalizing s with
  | nil => exact ⟨rfl, rfl, rfl, rfl⟩
  | cons p cs ih => exact (coresClosed_closeCore t s p).trans (ih _)

theorem regRaw_withSched (s : State) (x : Sched) (o : Nat) : regRaw { s with sched := x } o = regRaw s o := rfl

theorem regRaw_putCore (s : State) (k : Nat) (c : Core) (o : Nat) : regRaw (putCore s k c) o = regRaw s o := rfl

theorem get?_cores_putCore (s : State) (k : Nat) (c : Core) (n : Nat) :
    Tbl.get? (putCore s k c).sched.cores n = if n = k then some c else Tbl.get? s.sched.cores n :=
  Tbl.get?_put _ _ _ _

theorem regRaw_closeCore {s : State} {t o : Nat} {p : Nat × Core} (hw : o ≠ oTskCoreWait p.1) (hl : o ≠ oTskCoreLoad p.1) :
    regRaw (closeCore t s p) o = regRaw s o := by
  rw [closeCore, regRaw_putCore, regRaw_setRaw_ne _ _ _ _ hl, regRaw_setRaw_ne _ _ _ _ hw]

theorem oTskCoreWait_ne_load (m n : Nat) : oTskCoreWait m ≠ oTskCoreLoad n := by
  unfold oTskCoreWait oTskCoreLoad
  omega

theorem oTskCoreWait_inj {m n : Nat} (h : m ≠ n) : oTskCoreWait m ≠ oTskCoreWait n := by
  unfold oTskCoreWait
  omega

theorem oTskCoreLoad_inj {m n : Nat} (h : m ≠ n) : oTskCoreLoad m ≠ oTskCoreLoad n := by
  unfold oTskCoreLoad
  omega

/-- The registers and the entry of a core whose window has ended. -/
structure CoreClosed (s : State) (t : Nat) (p : Nat × Core) : Prop where
  wait : regRaw s (oTskCoreWait p.1) = p.2.stats.wait
  load : regRaw s (oTskCoreLoad p.1) = p.2.stats.load t
  core : Tbl.get? s.sched.cores p.1 = some { p.2 with stats := { busyFrom := p.2.stats.busyFrom.map (fun _ => t) } }

theorem coreClosed_closeCore (s : State) (t : Nat) (p : Nat × Core) : CoreClosed (closeCore t s p) t p where
  wait := by
    rw [closeCore, regRaw_putCore, regRaw_setRaw_ne _ _ _ _ (oTskCoreWait_ne_load _ _), regRaw_setRaw_self]
  load := by rw [closeCore, regRaw_putCore, regRaw_setRaw_self]
  core := by rw [closeCore, get?_cores_putCore, if_pos rfl]

/-- Ending the window of another core leaves it so. -/
theorem CoreClosed.closeCore_other {s : State} {t : Nat} {p q : Nat × Core} (h : CoreClosed s t p) (hne : p.1 ≠ q.1) :
    CoreClosed (closeCore t s q) t p where
  wait := (regRaw_closeCore (oTskCoreWait_inj hne) (oTskCoreWait_ne_load _ _)).trans h.wait
  load := (regRaw_closeCore (oTskCoreWait_ne_load _ _).symm (oTskCoreLoad_inj hne)).trans h.load
  core := by
    rw [closeCore, get?_cores_putCore, if_neg hne, setRaw_sched, setRaw_sched]
    exact h.core

theorem CoreClosed.closeCores_others {t : Nat} {p : Nat × Core} (cs : List (Nat × Core)) (s : State) (h : CoreClosed s t p)
    (hne : ∀ q ∈ cs, p.1 ≠ q.1) : CoreClosed (cs.foldl (closeCore t) s) t p := by
  induction cs generalizing s with
  | nil => exact h
  | cons q cs ih =>
    obtain ⟨hq, hcs⟩ := List.forall_mem_cons.1 hne
    exact ih _ (h.closeCore_other hq) hcs

theorem coreClosed_closeCores (t : Nat) (cs : List (Nat × Core)) (s : State) (hs : Tbl.sorted cs = true) :
    ∀ p ∈ cs, CoreClosed (cs.foldl (closeCore t) s) t p := by
  induction cs generalizing s with
  | nil => exact fun p hp => absurd hp List.not_mem_nil
  | cons q cs ih =>
    obtain ⟨hsorted, hlt⟩ := Tbl.sorted_head hs
    intro p hp
    obtain rfl | hp := List.mem_cons.1 hp
    · exact (coreClosed_closeCore s t p).closeCores_others cs _ (fun r hr => Nat.ne_of_lt (hlt r hr))
    · exact ih _ hsorted p hp

/-- A class's window ends by a write of its register, and every other register keeps its value. -/
theorem regRaw_closeClasses {o : Nat} (cs : List Nat) (s : State) (h : ∀ c ∈ cs, o ≠ oTskClassWait c) :
    regRaw (cs.foldl closeClass s) o = regRaw s o := by
  induction cs generalizing s with
  | nil => rfl
  | cons c cs ih =>
    obtain ⟨hc, hcs⟩ := List.forall_mem_cons.1 h
    rw [List.foldl_cons, ih _ hcs, closeClass, regRaw_setRaw_ne _ _ _ _ hc]

theorem oTskClassWait_inj {m n : Nat} (h : m ≠ n) : oTskClassWait m ≠ oTskClassWait n := by
  unfold oTskClassWait
  omega

theorem oTskCoreWait_ne_classWait (m : Nat) {c : Nat} (_hc : c < 5) : oTskCoreWait m ≠ oTskClassWait c := by
  unfold oTskCoreWait oTskClassWait
  omega

theorem oTskCoreLoad_ne_classWait (m : Nat) {c : Nat} (_hc : c < 5) : oTskCoreLoad m ≠ oTskClassWait c := by
  unfold oTskCoreLoad oTskClassWait
  omega

theorem closeClasses_sched (cs : List Nat) (s : State) : (cs.foldl closeClass s).sched = s.sched := by
  induction cs generalizing s with
  | nil => rfl
  | cons c cs ih => rw [List.foldl_cons, ih, closeClass, setRaw_sched]

theorem closeClasses_memory (cs : List Nat) (s : State) : (cs.foldl closeClass s).memory = s.memory := by
  induction cs generalizing s with
  | nil => rfl
  | cons c cs ih => rw [List.foldl_cons, ih, closeClass, setRaw_memory]

theorem regRaw_closeClasses_mem {c : Nat} (cs : List Nat) (s : State) (hnodup : cs.Nodup) (hc : c ∈ cs) :
    regRaw (cs.foldl closeClass s) (oTskClassWait c) = ((Tbl.get? s.sched.classStats c).getD {}).wait := by
  induction cs generalizing s with
  | nil => exact absurd hc List.not_mem_nil
  | cons d cs ih =>
    obtain ⟨hd, hnodup⟩ := List.nodup_cons.1 hnodup
    obtain rfl | hc := List.mem_cons.1 hc
    · rw [List.foldl_cons, regRaw_closeClasses cs _ fun e he => oTskClassWait_inj (by rintro rfl; exact hd he), closeClass,
        regRaw_setRaw_self]
    · rw [List.foldl_cons, ih _ hnodup hc, closeClass, setRaw_sched]

/-- R503, R559: DIAG_RUN past its checks. -/
theorem diagRun_checked {c : Cmd} {s : State} {f : Fetched} {b : Body} (hb : Begins s 0xB10 c f)
    (hknown : [1, 2, 3, 16].contains (bits c.w1 7 0) = true) (hres : reservedBad c 1 [0xFF, testMask (bits c.w1 7 0)] = false)
    (hbody : (if bits c.w1 7 0 = 16 then
        (if bits c.w2 2 0 < 1 || bits c.w2 2 0 > 4 then Body.fail (taken s f) 0x108
         else .reply (raiseErr (taken s f) { code := 0x1210, cls := bits c.w2 2 0 }) 0 0 0)
      else (testUnit s (bits c.w1 7 0) c.w2).elim (.fail (taken s f) 0x108) (fun u =>
        if s.err.tests.any (fun t => t.1 == u) then .fail (taken s f) 0x108
        else .waits { taken s f with err := { s.err with tests := s.err.tests ++ [(u, now s + durMs (testMs u))] } }
          (.selfTest u (cmdFlag c 0)))) = b) :
    exec (.diagRun c) s = .next (concluded s c f b) := by
  refine next_concluded hb (guarded_go ((congrArg not hknown).trans rfl) (guarded_go hres (Eq.trans ?_ hbody)))
  refine if_congr Iff.rfl rfl ?_
  cases hu : testUnit s (bits c.w1 7 0) c.w2 with
  | none => simp only [show testUnit (taken s f) (bits c.w1 7 0) c.w2 = none from hu]; rfl
  | some u => simp only [show testUnit (taken s f) (bits c.w1 7 0) c.w2 = some u from hu]; rfl

/-- A test that finds its unit is one that R503 lists. -/
theorem testUnit_known {s : State} {test : Nat} {w : Word} {u : TestUnit} (h : testUnit s test w = some u) :
    [1, 2, 3, 16].contains test = true := by
  by_contra hnot
  simp only [List.contains_cons, List.contains_nil, Bool.or_false, Bool.or_eq_true, beq_iff_eq, not_or] at hnot
  obtain ⟨h1, h2, h3, -⟩ := hnot
  rw [testUnit, if_neg h1, if_neg h2, if_neg h3] at h
  exact nomatch h

/-- R503: the end of a self-test that is due. -/
theorem selfTestDone_due {u : TestUnit} {r : BitVec 2} {s : State}
    (hdue : s.err.tests.any (fun t => t.1 == u && decide (t.2 ≤ now s)) = true) (back : Bool)
    (hback : (s.hci.inflight.any (fun i => decide (i.wait = .selfTest u true)) && r == 0) = back) :
    exec (.selfTestDone u r) s = .next (completeWhere
      (if back then unitReturns { s with err := { s.err with tests := s.err.tests.filter (fun t => t.1 != u) } } u
        else { s with err := { s.err with tests := s.err.tests.filter (fun t => t.1 != u) } })
      (fun i => i.wait = .selfTest u true || i.wait = .selfTest u false) 0 (word r.toNat) 0) := by
  subst hback
  exact congrArg Host.Outcome.next (if_pos hdue)

@[simp] theorem noRegion_taken (s : State) (f : Fetched) (slot : Nat) (e : Endpoint) :
    noRegion (taken s f) slot e = noRegion s slot e := rfl

@[simp] theorem regionLeaving_taken (s : State) (f : Fetched) (slot : Nat) (e : Endpoint) :
    regionLeaving (taken s f) slot e = regionLeaving s slot e := rfl

@[simp] theorem submitOpen_taken (s : State) (f : Fetched) (slot ch : Nat) :
    submitOpen (taken s f) slot ch = submitOpen s slot ch := rfl

@[simp] theorem chooseChannel_taken (s : State) (f : Fetched) (slot : Nat) :
    chooseChannel (taken s f) slot = chooseChannel s slot := rfl

@[simp] theorem sideSelBad_taken (s : State) (f : Fetched) (x : Shape) (src : Bool) :
    sideSelBad (taken s f) x src = sideSelBad s x src := rfl

@[simp] theorem hostSideBad_taken (s : State) (f : Fetched) (slot : Nat) (x : Shape) (src : Bool) :
    hostSideBad (taken s f) slot x src = hostSideBad s slot x src := rfl

@[simp] theorem moduleSideBad_taken (s : State) (f : Fetched) (x : Shape) (src : Bool) :
    moduleSideBad (taken s f) x src = moduleSideBad s x src := rfl

@[simp] theorem peerOutside_taken (s : State) (f : Fetched) (x : Shape) : peerOutside (taken s f) x = peerOutside s x := rfl

@[simp] theorem chQueued_taken (s : State) (f : Fetched) (ch : Nat) : chQueued (taken s f) ch = chQueued s ch := rfl

@[simp] theorem chXfers_taken (s : State) (f : Fetched) (ch : Nat) : chXfers (taken s f) ch = chXfers s ch := rfl

@[simp] theorem chClass_taken (s : State) (f : Fetched) (ch : Nat) : chClass (taken s f) ch = chClass s ch := rfl

/-- R421, R423: a transfer of the given shape is made under the next identity and queued on the channel. -/
def queueTransfer (s : State) (c : Cmd) (x : Shape) (ch : Nat) : Body :=
  .waits (reachHead (updChan (setXfer { s with dma := { s.dma with nextId := s.dma.nextId + 1 } } s.dma.nextId
    { ch := ch, shape := x, slot := c.slot, cmd := some s.dma.nextId, fence := cmdFlag c 0
      armAt := if cmdFlag c 1 then some (deadlineAt (nearest (now s) c.w7)) else none })
    ch (fun c => { c with xfers := c.xfers ++ [s.dma.nextId] })) ch) (.dma s.dma.nextId)

/-- R421: DMA_SUBMIT past the checks of its shape turns to its channel. -/
theorem dmaSubmit_checked {c : Cmd} {s : State} {f : Fetched} {x : Shape} {ch : Option Nat} {b : Body} (hb : Begins s 0x800 c f)
    (hres : reservedBad c 3 [mask 47 12 + 0xFF, full, full, full, full, full, full] = false)
    (hx : x = shapeOf c.w1 c.w2 c.w3 c.w4 c.w5 c.w6) (hregion : (noRegion s c.slot x.src || noRegion s c.slot x.dst) = false)
    (hch : ch = (if bits c.w1 7 0 = 0 then chooseChannel s c.slot else some (bits c.w1 7 0)))
    (hnamed : (bits c.w1 7 0 != 0 && !(submitOpen s c.slot (bits c.w1 7 0))) = false)
    (hvalue : (x.opBad || x.sizeBad || sideSelBad s x true || sideSelBad s x false) = false)
    (hhost : (hostSideBad s c.slot x true || hostSideBad s c.slot x false) = false) (halign : x.alignBad = false)
    (hover : x.overlapBad = false) (hmodule : (moduleSideBad s x true || moduleSideBad s x false) = false)
    (hpeer : peerOutside s x = false) (hleave : (regionLeaving s c.slot x.src || regionLeaving s c.slot x.dst) = false)
    (hroom : guarded (taken s f) [((ch.map (fun k => decide (chQueued s k ≥ 64))).getD true, 0x208)]
      (queueTransfer (taken s f) c x (ch.getD 0)) = b) :
    exec (.dmaSubmit c) s = .next (concluded s c f b) := by
  subst hx hch
  refine next_concluded hb ?_
  simp only [noRegion_taken, regionLeaving_taken, submitOpen_taken, chooseChannel_taken, sideSelBad_taken, hostSideBad_taken,
    moduleSideBad_taken, peerOutside_taken, chQueued_taken]
  exact guarded_go hres (guarded_go hregion (guarded_go hnamed (guarded_go hvalue (guarded_go hhost (guarded_go halign
    (guarded_go hover (guarded_go hmodule (guarded_go hpeer (guarded_go hleave hroom)))))))))

end Sys2Proof.Machine

open Sys2Proof Sys2Proof.Machine

/-- Settles O41: each command passes its checks in their order; MIX_CREATE's block has checks of its own. -/
theorem audioCommands : Obligations.audioCommands := by
  unfold Obligations.audioCommands
  refine fun c s f => ⟨?create, ?modify, ?destroy, ?bound, ?bind, ?unbind⟩
  case create =>
    intro bs ws conf x hb hres hown hmay hqueue hregion hbounds halign hws hconf hx hspan
    subst hws
    have hchecked := mixCreate_checked (bs := bs) hb hres hown hmay hqueue hregion hbounds halign hconf hx hspan
    refine ⟨fun st hst => ?_, fun hok => ⟨_, _, rfl, rfl, ?_⟩⟩
    · rw [hchecked, guarded, hst]
      rfl
    · rw [hchecked, guarded, hok]
      simp only [mixMake, ownHandle_setMix_makeSeats]
      rfl
  case modify =>
    exact fun m hb hobj hm => ⟨fun k => mixModify_params hb hobj hm, mixModify_format hb hobj hm, mixModify_events hb hobj⟩
  case destroy =>
    intro hb hres hobj hnone hpend
    refine next_waits hb (guarded_go hres (guarded_go hobj (guarded_go (or_check ?_ hpend) rfl)))
    rw [show boundLegs (taken s f) (hIndex c.w1) = [] from hnone]
    rfl
  case bound =>
    intro hb hres hobj hsome
    refine next_reply hb (guarded_go hres (guarded_go hobj (guarded_stop ?_)))
    have hne : (boundLegs (taken s f) (hIndex c.w1)).isEmpty = false := List.isEmpty_eq_false_iff.2 hsome
    simp only [hne, Bool.not_false, Bool.true_or]
  case bind =>
    intro hb hres hleg h2 hmix h3 h4 hgood hin haud hq3 hq4
    refine ⟨_, rfl, next_waits hb (guarded_go hres (guarded_go hleg ?_))⟩
    simp only [bne_iff_ne.2 h2, if_true, Bool.true_and]
    refine guarded_go hmix (guarded_go ?_ (guarded_go ?_ (guarded_go hgood (guarded_go hin (guarded_go ?_ (guarded_go (or_check ?_ ?_)
      rfl))))))
    · split
      next => rfl
      next h => exact h3.resolve_left h
    · split
      next => rfl
      next h => exact h4.resolve_left h
    · obtain h | h := haud
      · rw [h]
        rfl
      · rw [show audFull (taken s f) 1 0 0 = false from h, Bool.and_false]
    · exact imp_check fun h => hq3.resolve_left (bne_iff_ne.1 h)
    · exact imp_check fun h => hq4.resolve_left (bne_iff_ne.1 h)
  case unbind =>
    intro b hb hres hleg h2 h3 h4 hpend hold hwait
    have hpend' : (taken s f).units.pendingBindings = [] := hpend
    have hold' : Tbl.get? (taken s f).units.bindings (hIndex c.w1) = some b := hold
    have hwait' : (taken s f).hci.inflight.find? (fun i => decide (i.wait = .audioLeg (hIndex c.w1))) = none := hwait
    refine next_waits hb (guarded_go hres (guarded_go hleg ?_))
    simp only [h2, h3, h4, hpend', hold', List.find?_nil, completeWhere_of_none hwait', bne_self_eq_false, Bool.false_and, if_true,
      Bool.false_eq_true, if_false, List.filter_nil, List.nil_append]
    exact guarded_go rfl (guarded_go rfl (guarded_go rfl (guarded_go rfl (guarded_go rfl (guarded_go rfl (guarded_go rfl rfl))))))

/-- Settles O42: the rows of a mix group by its instants, and two facts about its arithmetic. -/
theorem audioRows : Obligations.audioRows := by
  unfold Obligations.audioRows
  refine ⟨fun s g m hrun hm => ⟨fun xs hearly => ?_, fun xs hdue hoff => ?_, fun xs hdue hon hend => ?_, fun xs hdue hon hgoing => ?_,
    fun ctx o h ho hfits => ⟨fun hdrop => ?_, fun htime hkept hempty => ?_, fun x htime hkept hfull hx => ?_,
      fun hlate hkept hempty => ?_⟩, fun ctx o ho => ?_, fun ctx hnone => ?_⟩, limitSample_bounds, measureLevel_silence⟩
  · refine congrArg Host.Outcome.next ?_
    simp [hm, hearly]
  · rw [mixPeriodStart_due hrun hm xs hdue]
    simp only [hoff, Bool.not_false, if_true]
  · rw [mixPeriodStart_due hrun hm xs hdue]
    simp only [hon, hend, Bool.not_true, Bool.false_eq_true, if_false, if_true]
  · rw [mixPeriodStart_due hrun hm xs hdue]
    simp only [hon, hgoing, Bool.not_true, Bool.false_eq_true, if_false]
  · rw [mixFrameFinal_owed hrun hm ho hfits]
    simp only [hdrop, if_true]
  · rw [mixFrameFinal_owed hrun hm ho hfits]
    simp only [Nat.not_le.2 hkept, Nat.not_lt.2 htime, hempty, List.isEmpty_nil, if_false, if_true]
  · rw [mixFrameFinal_owed hrun hm ho hfits]
    simp only [Nat.not_le.2 hkept, Nat.not_lt.2 htime, List.isEmpty_eq_false_iff.2 hfull, hx, Option.getD_some,
      Bool.false_eq_true, if_false]
  · rw [mixFrameFinal_owed hrun hm ho hfits]
    simp only [Nat.not_le.2 hkept, hlate, hempty, List.isEmpty_nil, if_false, if_true]
  · refine congrArg Host.Outcome.next ?_
    simp only [hm, ge_iff_le, ho, hrun, if_true]
  · refine congrArg Host.Outcome.next ?_
    simp only [hm, ge_iff_le, hnone]

/-- Settles O43: tasks and cores by what the core runs; the end of a window by one write after the other, of registers that
are all different. -/
theorem taskRows : Obligations.taskRows := by
  unfold Obligations.taskRows
  refine ⟨fun core s => ⟨fun hidle => ⟨?_, fun why => ?_⟩, fun id hid => ?_, fun id t why hid ht => ⟨fun hmust => ?_, fun hgoes hon => ?_⟩,
    fun hin hmany => ?_, fun hin hone => ?_⟩, fun s hold => ?_, fun s hnew => ?_, fun s hold => ?_, fun s hnew hsorted hcores => ?_⟩
  · exact congrArg (fun t => Host.Outcome.next (settle t)) (endOn_idle hidle)
  · refine congrArg (fun t => Host.Outcome.next (settle t)) ?_
    simp only [hidle, Option.bind_none]
  · exact congrArg (fun t => Host.Outcome.next (settle t)) (endOn_running hid)
  · refine congrArg (fun t => Host.Outcome.next (settle t)) ?_
    simp only [hid, Option.bind_some, ht, Option.map_some, hmust, if_true]
    exact yieldOn_running hid ht why
  · refine congrArg (fun t => Host.Outcome.next (settle t)) ?_
    simp only [hid, Option.bind_some, ht, Option.map_some, hgoes, hon, Bool.false_eq_true, if_false]
  · have hnot : (liveCores s (coreClass core)).length ≠ 1 := by omega
    refine congrArg Host.Outcome.next ?_
    simp only [hin, Bool.false_eq_true, if_false, beq_false_of_ne hnot, Bool.and_false]
  · refine congrArg Host.Outcome.next ?_
    simp only [hin, Bool.false_eq_true, if_false, hone, beq_self_eq_true, Bool.not_false, Bool.and_self, if_true]
  · exact congrArg Host.Outcome.next (if_pos hold)
  · exact ⟨_, congrArg Host.Outcome.next (if_neg (Nat.not_le.2 hnew)), rfl⟩
  · exact congrArg Host.Outcome.next (if_pos hold)
  · have hframe := coresClosed_closeCores (now s) s.sched.cores s
    have hclosed := coreClosed_closeCores (now s) s.sched.cores s hsorted
    refine ⟨_, congrArg Host.Outcome.next (if_neg (Nat.not_le.2 hnew)), rfl, rfl, ?_, ?_, ?_, fun c hc => ?_, fun p hp => ⟨?_, ?_, ?_⟩⟩
    · simp only [closeClasses_sched, hframe.tasks]
    · simp only [closeClasses_sched, hframe.classLists]
    · simp only [closeClasses_memory, hframe.memory]
    · rw [regRaw_withSched, regRaw_closeClasses_mem _ _ List.nodup_range (List.mem_range.2 hc), hframe.classStats]
    · rw [regRaw_withSched, regRaw_closeClasses _ _ fun c hc => oTskCoreWait_ne_classWait _ (List.mem_range.1 hc),
        (hclosed p hp).wait]
    · rw [regRaw_withSched, regRaw_closeClasses _ _ fun c hc => oTskCoreLoad_ne_classWait _ (List.mem_range.1 hc),
        (hclosed p hp).load]
    · simp only [closeClasses_sched]
      exact (hclosed p hp).core

/-- Settles O44: DIAG_RUN by the unit it names, the self-test's end by whether the unit returns, STAT_READ past its checks. -/
theorem diagnostics : Obligations.diagnostics := by
  unfold Obligations.diagnostics
  refine ⟨fun c s f hb hunknown => ?_, fun c s f u hb hres => ⟨fun h16 h1 h4 => ?_, fun h16 hout => ?_, fun h16 hu => ?_,
    fun h16 hu htest => ?_, fun h16 hu htest => ?_⟩, fun u r s => ⟨fun hdue => ?_, fun hdue s1 hs1 => ⟨fun hret hr => ?_, fun hstays => ?_⟩⟩,
    fun s => ⟨fun e => rfl, fun l => rfl, fun k => rfl⟩, fun c s f v gauge hb hres hobj hv => ?_⟩
  · exact next_reply hb (guarded_stop ((congrArg not hunknown).trans rfl))
  · refine diagRun_checked (s := s) (b := .reply _ _ _ _) hb (by rw [h16]; rfl) hres ?_
    rw [if_pos h16, within_check h1 h4]
    rfl
  · refine diagRun_checked (s := s) (b := .reply _ _ _ _) hb (by rw [h16]; rfl) hres ?_
    rw [if_pos h16, if_pos (by simp only [Bool.or_eq_true, decide_eq_true_eq]; omega)]
    rfl
  · by_cases hknown : [1, 2, 3, 16].contains (bits c.w1 7 0) = true
    · refine diagRun_checked (s := s) (b := .reply _ _ _ _) hb hknown hres ?_
      rw [if_neg h16, hu]
      rfl
    · exact next_reply hb (guarded_stop ((congrArg not (Bool.eq_false_iff.2 hknown)).trans rfl))
  · refine diagRun_checked (s := s) (b := .reply _ _ _ _) hb (testUnit_known hu) hres ?_
    rw [if_neg h16, hu, Option.elim_some, if_pos htest]
    rfl
  · refine diagRun_checked (s := s) (b := .waits _ _) hb (testUnit_known hu) hres ?_
    rw [if_neg h16, hu, Option.elim_some, if_neg (Bool.eq_false_iff.1 htest)]
  · exact congrArg Host.Outcome.next (if_neg (Bool.eq_false_iff.1 hdue))
  · subst hs1 hr
    have hany : s.hci.inflight.any (fun i => decide (i.wait = .selfTest u true)) = true := by
      simpa only [List.any_eq_true, decide_eq_true_eq] using hret
    exact selfTestDone_due (s := s) hdue true (by rw [hany]; rfl)
  · subst hs1
    refine selfTestDone_due (s := s) hdue false ?_
    obtain hnone | hr := hstays
    · rw [any_false fun i hi => decide_eq_false (hnone i hi), Bool.false_and]
    · rw [beq_false_of_ne hr, Bool.and_false]
  · refine next_reply hb (guarded_go hres (guarded_go hobj (guarded_go ?_ ?_)))
    · simp only [show statCounter (taken s f) (hType c.w1) (hIndex c.w1) (bits c.w2 7 0) = some (v, gauge) from hv]
      rfl
    · simp only [show statCounter (taken s f) (hType c.w1) (hIndex c.w1) (bits c.w2 7 0) = some (v, gauge) from hv]
      rfl

/-- Settles O45: DMA_SUBMIT past its checks by the channel and its room, DMA_CANCEL and DMA_QUERY by their checks. -/
theorem dmaCommands : Obligations.dmaCommands := by
  unfold Obligations.dmaCommands
  refine fun c s f => ⟨fun x ch hb hres hx hsrc hdst hch hnamed hop hsize hssel hdsel hshost hdhost halign hover hsmod hdmod hpeer hsleave
    hdleave => ?_, fun hb hres hclass => ?_, fun hb hres hclass => ?_⟩
  · have hopen : (bits c.w1 7 0 != 0 && !(submitOpen s c.slot (bits c.w1 7 0))) = false := by
      obtain h | h := hnamed
      · rw [bne_false h, Bool.false_and]
      · rw [h, Bool.not_true, Bool.and_false]
    have hchecked {b : Body} := dmaSubmit_checked (b := b) hb hres hx (or_check hsrc hdst) hch hopen
      (or_check (or_check (or_check hop hsize) hssel) hdsel) (or_check hshost hdhost) halign hover (or_check hsmod hdmod) hpeer
      (or_check hsleave hdleave)
    refine ⟨fun k hk hroom => ?_, fun hfull => ?_⟩
    · subst hk
      exact hchecked (b := queueTransfer (taken s f) c x k) (guarded_go (decide_le_false hroom) rfl)
    · refine hchecked (b := .reply _ _ _ _) (guarded_stop ?_)
      obtain rfl | ⟨k, rfl, hk⟩ := hfull
      · rfl
      · exact decide_eq_true hk
  · refine next_reply hb (guarded_go hres (guarded_go (bne_false hclass) ?_))
    simp only [chXfers_taken]
    rfl
  · refine next_reply hb (guarded_go hres (guarded_go ?_ rfl))
    obtain h | h := hclass
    · rw [chClass_taken, h]
      rfl
    · rw [chClass_taken, h]
      rfl
end

section
/-! Obligations O46, O47 and O49: DMA channels and transfers, sparing, scrub and partition. -/

namespace Sys2Proof.Machine

theorem Tbl.get?_filter_self {α : Type} (t : Tbl α) (p : Nat × α → Bool) (k : Nat) (h : ∀ v, p (k, v) = false) :
    Tbl.get? (List.filter p t) k = none := by
  induction t with
  | nil => rfl
  | cons q t ih =>
    obtain ⟨a, v⟩ := q
    by_cases hp : p (a, v) = true
    · rw [List.filter_cons_of_pos hp, Tbl.get?, if_neg (by rintro rfl; exact absurd hp (Bool.eq_false_iff.1 (h v))), ih]
    · rw [List.filter_cons_of_neg hp, ih]

-- ## Pending values that take effect

/-- R433, R446: registers that take their pending values one after the other hold those that they had at the beginning, and
nothing but the registers changes. -/
theorem adoptPending (os : List Nat) (s : State) (hos : os.Nodup) :
    ∃ rs, os.foldl (fun s o => setRaw s o (pendVal s o)) s = { s with regs := rs } ∧
      (∀ o ∈ os, regRaw { s with regs := rs } o = pendVal s o) ∧
      ∀ o, o ∉ os → regRaw { s with regs := rs } o = regRaw s o := by
  induction os generalizing s with
  | nil => exact ⟨s.regs, rfl, fun o ho => absurd ho List.not_mem_nil, fun _ _ => rfl⟩
  | cons a os ih =>
    obtain ⟨ha, hos⟩ := List.nodup_cons.1 hos
    obtain ⟨rs, hfold, hin, hout⟩ := ih (setRaw s a (pendVal s a)) hos
    refine ⟨rs, hfold, fun o ho => ?_, fun o ho => ?_⟩
    · obtain rfl | ho := List.mem_cons.1 ho
      · exact (hout _ ha).trans (regRaw_setRaw_self _ _ _)
      · have hne : o ≠ a := fun h => ha (h ▸ ho)
        exact (hin o ho).trans (congrArg _ (regRaw_setRaw_ne _ _ _ _ hne))
    · obtain ⟨hne, ho⟩ := List.ne_and_not_mem_of_not_mem_cons ho
      exact (hout o ho).trans (regRaw_setRaw_ne _ _ _ _ hne)

-- ## The channel's own entry

theorem getChan_setChan (s : State) (ch k : Nat) (c : Chan) : getChan (setChan s ch c) k = if k = ch then c else getChan s k := by
  rw [getChan, setChan, Tbl.get?_put]
  split
  · rfl
  · rfl

/-- What setting one channel's entry leaves: all but that entry, in which the generation is given. -/
structure Reprogrammed (s t : State) (ch g : Nat) : Prop where
  regs : t.regs = s.regs
  shadow : t.shadow = s.shadow
  out : t.out = s.out
  memory : t.memory = s.memory
  xfers : t.dma.xfers = s.dma.xfers
  generation : (getChan t ch).generation = g
  others : ∀ k, k ≠ ch → getChan t k = getChan s k

theorem reprogrammed_setChan (s : State) (ch : Nat) (c : Chan) : Reprogrammed s (setChan s ch c) ch c.generation where
  regs := rfl
  shadow := rfl
  out := rfl
  memory := rfl
  xfers := rfl
  generation := by rw [getChan_setChan, if_pos rfl]
  others := fun k hk => by rw [getChan_setChan, if_neg hk]

theorem Reprogrammed.trans {s t u : State} {ch g g' : Nat} (h : Reprogrammed s t ch g) (h' : Reprogrammed t u ch g') :
    Reprogrammed s u ch g' where
  regs := h'.regs.trans h.regs
  shadow := h'.shadow.trans h.shadow
  out := h'.out.trans h.out
  memory := h'.memory.trans h.memory
  xfers := h'.xfers.trans h.xfers
  generation := h'.generation
  others := fun k hk => (h'.others k hk).trans (h.others k hk)

/-- R429, R430: a channel's schedule changes its entry only, and not its generation. -/
theorem Reprogrammed.rearm {s t : State} {ch g : Nat} (h : Reprogrammed s t ch g) (c : Chan)
    (hc : c.generation = (getChan t ch).generation) : Reprogrammed s (setChan t ch c) ch g :=
  (hc.trans h.generation) ▸ h.trans (reprogrammed_setChan t ch c)

-- ## The registers of a channel's set

theorem setRegs_eq (ch : Nat) : setRegs ch = [0x111010, 0x111018, 0x111020, 0x111028, 0x111030, 0x111038, 0x111040, 0x111048,
    0x111050, 0x111058].map (· + 0x80 * ch) := rfl

theorem setRegs_nodup (ch : Nat) : (setRegs ch).Nodup := by
  rw [setRegs_eq]
  exact List.Nodup.map (fun a b h => Nat.add_right_cancel h) (by decide)

theorem commitStatus_not_mem_setRegs (ch : Nat) : oDmaChCommitStatus ∉ setRegs ch := by
  rw [setRegs_eq, List.mem_map]
  rintro ⟨b, hb, h⟩
  have hlow : ∀ b ∈ [0x111010, 0x111018, 0x111020, 0x111028, 0x111030, 0x111038, 0x111040, 0x111048, 0x111050, 0x111058],
      oDmaChCommitStatus < b := by decide
  have := hlow b hb
  omega

/-- R433: what an accepted commit leaves of the state `u` in which it takes effect. -/
structure Committed (u t : State) (ch : Nat) : Prop where
  out : t.out = u.out
  status : regRaw t oDmaChCommitStatus = word (2 ^ 8 + ch)
  regs : ∀ o ∈ setRegs ch, regRaw t o = pendVal u o ∧ Tbl.get? t.shadow o = none
  generation : (getChan t ch).generation = ((getChan u ch).generation + 1) % 2 ^ 24
  others : ∀ k, k ≠ ch → getChan t k = getChan u k
  xfers : t.dma.xfers = u.dma.xfers
  memory : t.memory = u.memory

theorem regRaw_congr {s t : State} (h : t.regs = s.regs) (o : Nat) : regRaw t o = regRaw s o := by
  rw [regRaw, regRaw, h]

/-- R433: a channel whose schedule has changed starts its grid anew, and is armed while it is enabled. -/
def rescheduled (s : State) (ch at_ : Nat) : State :=
  let s1 := updChan s ch (fun c => { c with armOrigin := nearest at_ (regRaw s (oDmaChArm ch)) })
  if chEn s1 ch then armChannel s1 ch else s1

theorem Reprogrammed.rescheduled {s t : State} {ch g : Nat} (h : Reprogrammed s t ch g) (at_ : Nat) :
    Reprogrammed s (rescheduled t ch at_) ch g := by
  have h1 := h.rearm { getChan t ch with armOrigin := nearest at_ (regRaw t (oDmaChArm ch)) } rfl
  rw [Machine.rescheduled]
  split
  · exact h1.rearm _ rfl
  · exact h1

/-- R433: the pending set becomes the active one, and nothing of it is left pending. -/
def adopted (s : State) (ch : Nat) : State :=
  let s1 := (setRegs ch).foldl (fun s o => setRaw s o (pendVal s o)) s
  { s1 with shadow := s1.shadow.filter (fun p => !((setRegs ch).contains p.1)) }

theorem dmaCommitWrite_accepted {s : State} {ch : Nat} (h : commitResult s ch = 1) :
    ∃ s3 changed, s3 = adopted (setRaw (fireArm s ch) oDmaChCommitStatus (word (1 * 2 ^ 8 + ch))) ch ∧
      dmaCommitWrite s ch = (if changed = true then rescheduled
          (updChan s3 ch (fun c => { c with generation := (c.generation + 1) % 2 ^ 24 })) ch (now (fireArm s ch))
        else updChan s3 ch (fun c => { c with generation := (c.generation + 1) % 2 ^ 24 }), .ok) := by
  simp only [dmaCommitWrite, h, if_true, ne_eq, not_true, if_false]
  exact ⟨_, _, rfl, rfl⟩

/-- R433: what the adopted set leaves of the state before it. -/
structure Adopted (s t : State) (ch : Nat) : Prop where
  regs : ∀ o ∈ setRegs ch, regRaw t o = pendVal s o ∧ Tbl.get? t.shadow o = none
  otherRegs : ∀ o, o ∉ setRegs ch → regRaw t o = regRaw s o
  out : t.out = s.out
  memory : t.memory = s.memory
  dma : t.dma = s.dma

theorem adopted_spec (s : State) (ch : Nat) : Adopted s (adopted s ch) ch := by
  obtain ⟨rs, hfold, hin, hkept⟩ := adoptPending (setRegs ch) s (setRegs_nodup ch)
  rw [adopted, hfold]
  exact ⟨fun o ho => ⟨hin o ho, Tbl.get?_filter_self _ _ _ fun v => by simp only [List.contains_iff_mem.2 ho, Bool.not_true]⟩,
    hkept, rfl, rfl, rfl⟩

theorem committed_of_accepted {s : State} {ch : Nat} (h : commitResult s ch = 1) :
    (dmaCommitWrite s ch).2 = .ok ∧ Committed (fireArm s ch) (dmaCommitWrite s ch).1 ch := by
  obtain ⟨s3, changed, hs3, heq⟩ := dmaCommitWrite_accepted h
  have had := adopted_spec (setRaw (fireArm s ch) oDmaChCommitStatus (word (1 * 2 ^ 8 + ch))) ch
  rw [← hs3] at had
  have hchan : ∀ k, getChan s3 k = getChan (fireArm s ch) k := fun k => by rw [getChan, had.dma]; rfl
  have h4 : Reprogrammed s3 (updChan s3 ch (fun c => { c with generation := (c.generation + 1) % 2 ^ 24 })) ch
      (((getChan s3 ch).generation + 1) % 2 ^ 24) := reprogrammed_setChan _ _ _
  have hre : Reprogrammed s3 (dmaCommitWrite s ch).1 ch (((getChan s3 ch).generation + 1) % 2 ^ 24) := by
    rw [heq]
    split
    · exact h4.rescheduled _
    · exact h4
  refine ⟨by rw [heq], hre.out.trans had.out, ?_, fun o ho => ⟨?_, ?_⟩, ?_, fun k hk => ?_, ?_, hre.memory.trans had.memory⟩
  · rw [regRaw_congr hre.regs, had.otherRegs _ (commitStatus_not_mem_setRegs ch), regRaw_setRaw_self, Nat.one_mul]
  · have hne : o ≠ oDmaChCommitStatus := fun h => commitStatus_not_mem_setRegs ch (h ▸ ho)
    obtain ⟨hval, -⟩ := had.regs o ho
    rw [regRaw_congr hre.regs, hval, pendVal, regRaw_setRaw_ne _ _ _ _ hne]
    rfl
  · obtain ⟨-, hnone⟩ := had.regs o ho
    rw [hre.shadow, hnone]
  · rw [hre.generation, hchan]
  · rw [hre.others k hk, hchan]
  · rw [hre.xfers, had.dma]
    rfl

/-- R414: a write of a channel's configuration that names another class than the channel's is refused while it is enabled. -/
theorem dmaCfgWrite_of_fits {s : State} {ch : Nat} {v : Word} (hch : 8 ≤ ch) (hcls : bits v 19 18 ≠ 3)
    (hsame : bitAt (regRaw s (oDmaChCfg ch)) 17 = false ∨ bits v 19 18 = bits (regRaw s (oDmaChCfg ch)) 19 18)
    (hon : bitAt v 17 = false ∨ bitAt (regRaw s (oDmaChCfg ch)) 17 = true) :
    dmaCfgWrite s ch v = (if bitAt (regRaw s (oDmaChCfg ch)) 17 && !(bitAt v 17) then
        updChan (setRaw s (oDmaChCfg ch) (word (bits v 21 8 * 2 ^ 8 + bits v 5 0))) ch (fun c => { c with
          pendingTrig := 0, heldReq := 0, armK := none, windowOpen := false, windowK := none })
      else setRaw s (oDmaChCfg ch) (word (bits v 21 8 * 2 ^ 8 + bits v 5 0)), .ok) := by
  have hfits : (decide (ch < 8) || bits v 19 18 == 3
      || (bitAt (regRaw s (oDmaChCfg ch)) 17 && bits v 19 18 != bits (regRaw s (oDmaChCfg ch)) 19 18)) = false := by
    rw [decide_lt_false hch, beq_false_of_ne hcls]
    obtain h | h := hsame
    · rw [h]
      rfl
    · rw [bne_false h, Bool.and_false]
      rfl
  have hnew : (bitAt v 17 && !(bitAt (regRaw s (oDmaChCfg ch)) 17)) = false := by
    obtain h | h := hon
    · rw [h, Bool.false_and]
    · rw [h, Bool.not_true, Bool.and_false]
  simp only [dmaCfgWrite, hfits, hnew, Bool.false_eq_true, if_false]
  split
  · rfl
  · rfl

-- ## The patrol

/-- What the counts and reports of a corrected unit leave of memory: its bytes and what is poisoned. -/
structure SameBytes (s t : State) : Prop where
  dram : t.memory.dram = s.memory.dram
  poison : t.memory.poison = s.memory.poison

theorem sameBytes_of_memory {s t : State} (h : t.memory = s.memory) : SameBytes s t := ⟨by rw [h], by rw [h]⟩

theorem SameBytes.trans {s t u : State} (h : SameBytes s t) (h' : SameBytes t u) : SameBytes s u :=
  ⟨h'.dram.trans h.dram, h'.poison.trans h.poison⟩

theorem sameBytes_dieFailed (s : State) (stack die : Nat) : SameBytes s (dieFailed s stack die) := by
  have hraised : SameBytes s (raiseErr (bumpF (setF s (oMemCorr stack) die die 1) oMemCount 31 16 1)
      { code := 0x0F02, cls := 1, inst := stack, a := word die }) := sameBytes_of_memory (raiseErr_memory _ _)
  rw [dieFailed]
  split
  · exact hraised.trans ⟨rfl, rfl⟩
  · exact hraised

theorem sameBytes_corrected (s : State) (u die : Nat) : SameBytes s (corrected s u die) := by
  have hcounted : ∀ recent, SameBytes s { bumpF s (oMemCorr (stackOf s u)) 47 16 1 with memory :=
      { (bumpF s (oMemCorr (stackOf s u)) 47 16 1).memory with dieErrors := recent } } := fun _ => ⟨rfl, rfl⟩
  rw [corrected]
  split
  · exact (hcounted _).trans (sameBytes_dieFailed _ _ _)
  · exact hcounted _

/-- R440, R443: an uncorrectable unit of the Preserve is poisoned and counted, and nothing is reported. -/
theorem uncorrectable_preserve {s : State} {u : Nat} (h : regionOfAddr s u = 9) :
    uncorrectable s u = bumpF { s with memory := { s.memory with
      poison := if s.memory.poison.contains u then s.memory.poison else s.memory.poison ++ [u]
      uncorrectable := Tbl.put s.memory.uncorrectable (stackOf s u)
        (satAdd 28 (Tbl.count s.memory.uncorrectable (stackOf s u)) 1) } } oMemCount 47 32 1 := if_pos h

theorem mem_poison_added {s : State} {u : Nat} :
    u ∈ if s.memory.poison.contains u then s.memory.poison else s.memory.poison ++ [u] := by
  split
  next hin => exact List.contains_iff_mem.1 hin
  next => exact List.mem_append_right _ (List.mem_singleton.2 rfl)

/-- What a scrub read does with the unit that it has read. -/
def scrubbed (s : State) : EccFind → State
  | .clean => s
  | .corrected die => corrected s s.memory.patrol die
  | .uncorrectable => uncorrectable s s.memory.patrol

/-- R440, R442: a patrol that reads an uncorrectable unit of the Preserve poisons it. -/
theorem scrubbed_preserve {s : State} (h : regionOfAddr s s.memory.patrol = 9) :
    s.memory.patrol ∈ (scrubbed s .uncorrectable).memory.poison ∧ (scrubbed s .uncorrectable).memory.dram = s.memory.dram ∧
      (scrubbed s .uncorrectable).err = s.err := by
  rw [scrubbed, uncorrectable_preserve h, bumpF_memory, bumpF_err]
  exact ⟨mem_poison_added, rfl, rfl⟩

/-- R442: where the patrol reads next. -/
def patrolAt (s : State) (u : Nat) : State := { s with memory := { s.memory with patrol := u } }

theorem patrolAt_poison (s : State) (u : Nat) : (patrolAt s u).memory.poison = s.memory.poison := rfl

theorem patrolAt_dram (s : State) (u : Nat) : (patrolAt s u).memory.dram = s.memory.dram := rfl

theorem patrolAt_err (s : State) (u : Nat) : (patrolAt s u).err = s.err := rfl

/-- R442: the patrol goes on to the next unit. -/
theorem scrubRead_next {s : State} (hon : getF s oMemCtrl 31 24 ≠ 0) (hrun : running s = true) (hmore : s.memory.patrol + 64 < 2 ^ 41)
    (found : EccFind) : exec (.scrubRead found) s = .next (patrolAt (scrubbed s found) (s.memory.patrol + 64)) := by
  have hlast : decide (s.memory.patrol + 64 ≥ 2 ^ 41) = false := decide_le_false hmore
  refine congrArg Host.Outcome.next ?_
  simp only [hon, decide_false, hrun, Bool.not_true, Bool.or_self, Bool.false_eq_true, if_false, hlast]
  cases found
  · rfl
  · rfl
  · rfl

/-- R442: after the last unit the patrol begins anew, and is counted. -/
theorem scrubRead_last {s : State} (hon : getF s oMemCtrl 31 24 ≠ 0) (hrun : running s = true) (hlast : 2 ^ 41 ≤ s.memory.patrol + 64)
    (found : EccFind) : exec (.scrubRead found) s = .next (bumpF (patrolAt (scrubbed s found) 0) oMemCount 15 0 1) := by
  have hlast : decide (s.memory.patrol + 64 ≥ 2 ^ 41) = true := decide_eq_true hlast
  refine congrArg Host.Outcome.next ?_
  simp only [hon, decide_false, hrun, Bool.not_true, Bool.or_self, Bool.false_eq_true, if_false, hlast, if_true]
  cases found
  · rfl
  · rfl
  · rfl

-- ## The partition

/-- R446: the answer of a partition commit, by the check that it fails. -/
theorem partCommit_answer {s : State} (hopen : setupOpen s = true) (hst : s.power.st ≠ .windfall) {r : Nat} (hr : partCheck s = r)
    (h7 : r ≠ 7) : exec .partCommit s = .next (emit { s with oxvan := { s.oxvan with partResult := r } } (.itemStatus .refused)) := by
  subst hr
  refine congrArg Host.Outcome.next ((setupItem_open hopen hst _).trans ?_)
  simp only [partCommitWrite, h7, if_false, beq_false_of_ne h7, Bool.or_false]

/-- R446: the checks of a partition commit that come before its own words pass. -/
theorem partCheck_quiet {s : State} (hidle : s.oxvan.partApplying = false) (hquiet : s.power.st = .quiet) (htarget : s.power.target = none) :
    partCheck s = if bits (partVal s oGlbPartC) 5 0 > 42 then 4
      else if (partSizes (partVal s oGlbPartA) (partVal s oGlbPartB) (partVal s oGlbPartC)).sum > preserveBase (partVal s oGlbPartC) then 3
      else if partBroken s (partRegions (partVal s oGlbPartA) (partVal s oGlbPartB) (partVal s oGlbPartC)) then 5
      else 7 := by
  simp only [partCheck, hidle, hquiet, htarget, Bool.false_eq_true, if_false, ne_eq, not_true, decide_false, Option.isSome_none,
    Bool.or_self]

theorem partition_preserve (s : State) : ((partition s).getD 9 (0, 0)).2 = preserveSize (regRaw s oGlbPartC) := by
  simp only [partition, partRegions, partSizes, List.map_cons, List.map_nil, layFrom]
  rfl

theorem partVal_eq_pendVal : partVal = pendVal := rfl

/-- R446: the pending words of the partition take effect, and memory that comes into a region reads as zero. -/
def repartitioned (s : State) : State :=
  let s1 := [oGlbPartA, oGlbPartB, oGlbPartC].foldl (fun s o => setRaw s o (partVal s o)) s
  { s1 with
    shadow := s1.shadow.filter (fun p => !([oGlbPartA, oGlbPartB, oGlbPartC].contains p.1))
    oxvan := { s1.oxvan with partResult := 1, partApplying := false }
    memory := { s1.memory with
      dram := s1.memory.dram.filter (fun c => !(zeroNew (partition s) (partition s1) c.1))
      poison := s1.memory.poison.filter (fun u => !(zeroNew (partition s) (partition s1) u)) } }

/-- R446: a Preserve of another size is empty, and no index leads into it. -/
def preserveEmptied (s : State) : State :=
  { s with
    memory := { s.memory with recs := [] }
    media := { s.media with streams := s.media.streams.map (fun p => (p.1, { p.2 with refreshes := [], switchPts := [] })) } }

/-- R446: what an applied partition leaves of the state before it. -/
structure Repartitioned (s t : State) : Prop where
  result : t.oxvan.partResult = 1
  idle : t.oxvan.partApplying = false
  regs : ∀ o ∈ [oGlbPartA, oGlbPartB, oGlbPartC], regRaw t o = partVal s o ∧ Tbl.get? t.shadow o = none
  otherRegs : ∀ o, o ∉ [oGlbPartA, oGlbPartB, oGlbPartC] → regRaw t o = regRaw s o
  writePos : t.memory.writePos = s.memory.writePos

theorem Repartitioned.emptied {s t : State} (h : Repartitioned s t) : Repartitioned s (preserveEmptied t) where
  result := h.result
  idle := h.idle
  regs := h.regs
  otherRegs := h.otherRegs
  writePos := h.writePos

theorem preserveEmptied_streams {s : State} {p : Nat × Stream} (hp : p ∈ (preserveEmptied s).media.streams) :
    p.2.refreshes = [] ∧ p.2.switchPts = [] := by
  obtain ⟨q, -, rfl⟩ := List.mem_map.1 hp
  exact ⟨rfl, rfl⟩

theorem preserveEmptied_recs (s : State) : (preserveEmptied s).memory.recs = [] := rfl

theorem repartitioned_spec (s : State) : Repartitioned s (repartitioned s) ∧ (repartitioned s).memory.recs = s.memory.recs ∧
    (repartitioned s).media = s.media := by
  obtain ⟨rs, hfold, hin, hkept⟩ := adoptPending [oGlbPartA, oGlbPartB, oGlbPartC] s (by decide)
  rw [repartitioned, partVal_eq_pendVal, hfold]
  exact ⟨⟨rfl, rfl, fun o ho => ⟨hin o ho, Tbl.get?_filter_self _ _ _ fun v => by
    simp only [List.contains_iff_mem.2 ho, Bool.not_true]⟩, hkept, rfl⟩, rfl, rfl⟩

theorem partApplied_by_size {s : State} (hbusy : s.oxvan.partApplying = true) :
    exec .partApplied s = .next (
      if ((partition ([oGlbPartA, oGlbPartB, oGlbPartC].foldl (fun s o => setRaw s o (partVal s o)) s)).getD 9 (0, 0)).2 =
        ((partition s).getD 9 (0, 0)).2 then repartitioned s
      else preserveEmptied (repartitioned s)) := by
  refine (congrArg Host.Outcome.next (if_pos hbusy)).trans ?_
  rw [preserveEmptied, repartitioned]

theorem partVal_adopted (s : State) :
    regRaw ([oGlbPartA, oGlbPartB, oGlbPartC].foldl (fun s o => setRaw s o (partVal s o)) s) oGlbPartC = partVal s oGlbPartC := by
  obtain ⟨rs, hfold, hin, -⟩ := adoptPending [oGlbPartA, oGlbPartB, oGlbPartC] s (by decide)
  rw [partVal_eq_pendVal, hfold]
  exact hin _ (List.mem_cons_of_mem _ (List.mem_cons_of_mem _ (List.mem_singleton.2 rfl)))

theorem exec_partApplied {s : State} (hbusy : s.oxvan.partApplying = true) :
    exec .partApplied s = .next (if preserveSize (partVal s oGlbPartC) = preserveSize (regRaw s oGlbPartC) then repartitioned s
      else preserveEmptied (repartitioned s)) := by
  rw [partApplied_by_size hbusy, partition_preserve, partition_preserve, partVal_adopted]

-- ## Starting a transfer

theorem startHead_due {s : State} {k : Nat} {p : Nat × Xfer} (hrun : running s = true)
    (hp : (chXfers s k).find? (fun p => p.2.queued) = some p) (hen : chEn s k = true)
    (hdue : p.2.armAt = none ∨ ∃ t, p.2.armAt = some t ∧ t ≤ now s)
    (hfour : ((chXfers s k).filter (fun p => !p.2.queued)).length < 4)
    (hfence : ((chXfers s k).filter (fun p => !p.2.queued)).any (fun q => q.2.fence) = false)
    (hown : p.2.fence = false ∨ (chXfers s k).filter (fun p => !p.2.queued) = []) :
    startHead s k = settle (reachHead (grantLines (setXfer s p.1 { p.2 with state := .moving }) p.1 p.2.shape.lines) k) := by
  have halone : (((chXfers s k).filter (fun p => !p.2.queued)).isEmpty || !p.2.fence) = true := by
    obtain h | h := hown
    · rw [h, Bool.not_false, Bool.or_true]
    · rw [h, List.isEmpty_nil, Bool.true_or]
  simp only [startHead, hp, hrun, hen, decide_eq_true hfour, hfence, halone, Bool.not_false, Bool.and_true, Bool.true_and]
  obtain h | ⟨t, h, ht⟩ := hdue
  · simp only [h, if_true]
  · simp only [h, decide_eq_true ht, if_true]

theorem startHead_later {s : State} {k t : Nat} {p : Nat × Xfer} (hp : (chXfers s k).find? (fun p => p.2.queued) = some p)
    (harm : p.2.armAt = some t) (ht : now s < t) : startHead s k = s := by
  simp only [startHead, hp, harm, decide_le_false ht, Bool.and_false, Bool.false_and, Bool.false_eq_true, if_false]

-- ## Moving it

/-- A transfer that can move nothing moves nothing. -/
theorem serveXfer_stuck {s : State} {id : Nat} {x : Xfer} (hx : getXfer s id = some x) (hstuck : canMove s x = false) :
    serveXfer s id = s := by
  rw [serveXfer]
  generalize ((s.dma.xfers.map (fun p => p.2.bytesLeft)).sum) = n
  cases n with
  | zero => rfl
  | succ n => simp only [serveUntil, hx, Option.map_some, Option.getD_some, hstuck, Bool.false_eq_true, if_false]

theorem canMove_done {s : State} {x : Xfer} (hready : x.ready = []) (hline : x.line = none) : canMove s x = false := by
  simp only [canMove, hline, Xfer.nextLine, hready, List.head?_nil, Option.isSome_none, Bool.or_self, Bool.and_false, Bool.false_and]

/-- R426: a transfer in flight that does not read the host moves what it can. -/
theorem transferDone_memory {s : State} {id : Nat} {x : Xfer} (hrun : running s = true) (hx : getXfer s id = some x)
    (hstarted : x.state ≠ .queued) (hkind : x.shape.src.kind = 0) (host : HostData) :
    exec (.dmaTransferDone id host) s = .next (stopped (serveXfer s id) id) := by
  refine congrArg Host.Outcome.next ?_
  simp [hx, Xfer.queued, hstarted, hrun, hkind]

/-- R426: a transfer that reads the host takes its answer. -/
theorem transferDone_host {s : State} {id : Nat} {x : Xfer} (hrun : running s = true) (hx : getXfer s id = some x)
    (hstarted : x.state ≠ .queued) (hkind : x.shape.src.kind = 1) :
    (∀ bs, (x.granted - x.linesDone) * x.shape.length ≤ bs.length → exec (.dmaTransferDone id (.bytes bs)) s =
      .next (stopped (serveXfer (setXfer s id { x with hostBytes := bs }) id) id)) ∧
    exec (.dmaTransferDone id .denied) s = .next (endXfer s id 0x301 false) ∧
    exec (.dmaTransferDone id .timeout) s = .next (endXfer s id 0x404 false) := by
  refine ⟨fun bs hbs => congrArg Host.Outcome.next ?_, congrArg Host.Outcome.next ?_, congrArg Host.Outcome.next ?_⟩
  · simp [hx, Xfer.queued, hstarted, hrun, hkind, Nat.not_lt.2 hbs]
  · simp [hx, Xfer.queued, hstarted, hrun, hkind]
  · simp [hx, Xfer.queued, hstarted, hrun, hkind]

theorem transferError_fits {s : State} {id : Nat} {x : Xfer} {cause : DmaCause} (hx : getXfer s id = some x)
    (hstarted : x.state ≠ .queued) (hfits : causeFits x cause = true) (hcause : cause ≠ .memory) (n : Nat) :
    exec (.dmaTransferError id cause n) s =
      .next (endXfer (movePrefix s id (min (n - x.written) x.bytesLeft)) id (causeStatus cause) false) := by
  refine congrArg Host.Outcome.next ?_
  simp only [hx, Xfer.queued, hstarted, decide_false, hfits, Bool.not_true, Bool.or_self, Bool.false_eq_true, if_false]
  cases cause with
  | memory => exact absurd rfl hcause
  | hostRefused => rfl
  | hostTimeout => rfl
  | peer => rfl

theorem stopped_line {s : State} {id i : Nat} {x : Xfer} (hx : getXfer s id = some x) (hhead : x.ready.head? = some i)
    (hline : x.line = none) :
    (lineHeld s x.shape i = true → stopped s id = reachPages s id x) ∧
    (∀ u, lineHeld s x.shape i = false → poisonOf s x i = some u → stopped s id = endXfer (uncorrectable s u) id 0x401 false) := by
  refine ⟨fun hheld => ?_, fun u hfree hpoison => ?_⟩
  · simp only [stopped, hx, hhead, hline, Option.isSome_none, Bool.false_eq_true, if_false, hheld, if_true]
  · simp only [stopped, hx, hhead, hline, Option.isSome_none, Bool.false_eq_true, if_false, hfree, hpoison, failPoisoned]

theorem stopped_done {s : State} {id : Nat} {x : Xfer} (hx : getXfer s id = some x) (hready : x.ready = []) :
    stopped s id = finishXfer s id := by
  simp only [stopped, hx, hready, List.head?_nil]

-- ## The channel whose turn it is

theorem mem_of_roundNext {chs : List Nat} {last c : Nat} (h : roundNext chs last = some c) : c ∈ chs := by
  rw [roundNext] at h
  cases hf : chs.find? (fun c => decide (last < c)) with
  | some d =>
    rw [hf] at h
    obtain rfl : d = c := Option.some.inj h
    exact List.mem_of_find?_eq_some hf
  | none =>
    rw [hf] at h
    exact List.mem_of_mem_head? h

theorem eq_nil_of_roundNext {chs : List Nat} {last : Nat} (h : roundNext chs last = none) : chs = [] := by
  rw [roundNext] at h
  cases hf : chs.find? (fun c => decide (last < c)) with
  | some d =>
    rw [hf] at h
    exact nomatch h
  | none =>
    rw [hf] at h
    exact List.head?_eq_none_iff.1 h

/-- Of four candidates the first is taken, the highest number first. -/
theorem highest_of_four {α : Type} {r : Nat → Option α} {c : α}
    (h : [3, 2, 1, 0].foldl (fun (m : Option α) k => m.orElse (fun _ => r k)) none = some c) :
    ∃ k, r k = some c ∧ ∀ j, j < 4 → k < j → r j = none := by
  cases h3 : r 3 with
  | some d => exact ⟨3, by simpa [h3] using h, fun j hj hkj => by omega⟩
  | none =>
    cases h2 : r 2 with
    | some d => exact ⟨2, by simpa [h3, h2] using h, fun j hj hkj => (show j = 3 by omega) ▸ h3⟩
    | none =>
      cases h1 : r 1 with
      | some d =>
        refine ⟨1, by simpa [h3, h2, h1] using h, fun j hj hkj => ?_⟩
        obtain rfl | rfl : j = 2 ∨ j = 3 := by omega
        · exact h2
        · exact h3
      | none =>
        refine ⟨0, by simpa [h3, h2, h1] using h, fun j hj hkj => ?_⟩
        obtain rfl | rfl | rfl : j = 1 ∨ j = 2 ∨ j = 3 := by omega
        · exact h1
        · exact h2
        · exact h3

/-- R435: of the channels of one class that have something to move, the next one after the last. -/
def turnOfClass (s : State) (k : Nat) : Option Nat :=
  roundNext ((((List.range 248).map (· + 8)).filter (fun c => (chNext s c).isSome)).filter
    (fun c => getF s (oDmaChCfg c) 21 20 == k)) (s.dma.turns.getD k 0)

theorem nextChannel_eq (s : State) :
    nextChannel s = [3, 2, 1, 0].foldl (fun (m : Option Nat) k => m.orElse (fun _ => turnOfClass s k)) none := rfl

/-- R435: no channel with something to move has a higher class than the one that is served. -/
theorem prio_le_of_nextChannel {s : State} {ch c : Nat} (hch : nextChannel s = some ch) (hlo : 8 ≤ c) (hhi : c < 256)
    (hc : (chNext s c).isSome = true) : getF s (oDmaChCfg c) 21 20 ≤ getF s (oDmaChCfg ch) 21 20 := by
  obtain ⟨k, hk, hhigher⟩ := highest_of_four ((nextChannel_eq s).symm.trans hch)
  have hprio : getF s (oDmaChCfg ch) 21 20 = k := by
    obtain ⟨-, h⟩ := List.mem_filter.1 (mem_of_roundNext hk)
    simpa only [beq_iff_eq] using h
  have hfour : getF s (oDmaChCfg c) 21 20 < 4 := Nat.mod_lt _ (by decide)
  by_contra hlt
  have hnone := eq_nil_of_roundNext (hhigher _ hfour (by omega))
  have hable : c ∈ ((List.range 248).map (· + 8)).filter (fun c => (chNext s c).isSome) :=
    List.mem_filter.2 ⟨List.mem_map.2 ⟨c - 8, List.mem_range.2 (by omega), by omega⟩, hc⟩
  exact absurd (beq_self_eq_true _) (List.filter_eq_nil_iff.1 hnone c hable)

-- ## Arming instants and windows

theorem fireArm_due {s : State} {ch j : Nat} (hrun : running s = true) (hprog : progRuns s ch = true)
    (hj : (getChan s ch).armK = some j) (hdue : gridAt s ch j 0 ≤ now s) :
    fireArm s ch = settle (fireTrigger (updChan s ch (fun c => { c with
      armK := if chPeriodUs s ch = 0 then none else some (j + 1) })) ch (some (gridAt s ch j 0))) := by
  simp only [fireArm, hj, hrun, hprog, decide_eq_true hdue, Bool.and_self, if_true]

theorem fireArm_later {s : State} {ch : Nat} (h : ∀ j, (getChan s ch).armK = some j → now s < gridAt s ch j 0) : fireArm s ch = s := by
  cases hj : (getChan s ch).armK with
  | none => simp only [fireArm, hj]
  | some j => simp only [fireArm, hj, decide_le_false (h j hj), Bool.and_false, Bool.false_eq_true, if_false]

theorem openWindow_due {s : State} {ch j : Nat} (hrun : running s = true) (hprog : progRuns s ch = true)
    (hj : (getChan s ch).windowK = some j) (hclosed : (getChan s ch).windowOpen = false) (hdue : gridAt s ch j (chOpenUs s ch) ≤ now s) :
    openWindow s ch = settle (takeHeld (setChan s ch { getChan s ch with windowOpen := true, heldReq := 0 }) ch
      (getChan s ch).heldReq) := by
  simp only [openWindow, hj, hrun, hprog, hclosed, decide_eq_true hdue, Bool.not_false, Bool.and_self, if_true]

theorem openWindow_later {s : State} {ch j : Nat} (hj : (getChan s ch).windowK = some j) (hlater : now s < gridAt s ch j (chOpenUs s ch)) :
    openWindow s ch = s := by
  simp only [openWindow, hj, decide_le_false hlater, Bool.and_false, Bool.false_eq_true, if_false]

theorem chXfers_setChan (s : State) (ch : Nat) (c : Chan) :
    chXfers (setChan s ch c) ch = c.xfers.filterMap (fun id => (getXfer s id).map (fun x => (id, x))) := by
  rw [chXfers, getChan_setChan, if_pos rfl]
  rfl

theorem closeWindow_idle {s : State} {ch j : Nat} (hrun : running s = true) (hj : (getChan s ch).windowK = some j)
    (hopen : (getChan s ch).windowOpen = true) (hdue : gridAt s ch j (chCloseUs s ch) ≤ now s) (hidle : (getChan s ch).xfers = []) :
    closeWindow s ch = settle (setChan s ch { getChan s ch with windowOpen := false, windowK := some (j + 1), pendingTrig := 0 }) := by
  simp only [closeWindow, hj, hrun, hopen, decide_eq_true hdue, Bool.and_self, if_true, chXfers_setChan, hidle, List.filterMap_nil,
    List.head?_nil]

theorem closeWindow_busy {s : State} {ch j id : Nat} {x : Xfer} (hrun : running s = true) (hj : (getChan s ch).windowK = some j)
    (hopen : (getChan s ch).windowOpen = true) (hdue : gridAt s ch j (chCloseUs s ch) ≤ now s) (hbusy : (getChan s ch).xfers = [id])
    (hx : getXfer s id = some x) (hleft : x.linesDone < x.shape.lines) :
    closeWindow s ch = settle (endXfer (setChan s ch { getChan s ch with
      windowOpen := false, windowK := some (j + 1), pendingTrig := 0 }) id 0x502 false) := by
  have hhead : ∀ c : Chan, c.xfers = [id] → (chXfers (setChan s ch c) ch).head? = some (id, x) := fun c hc => by
    rw [chXfers_setChan, hc, List.filterMap_cons, hx]
    rfl
  simp only [closeWindow, hj, hrun, hopen, decide_eq_true hdue, Bool.and_self, if_true, hhead, hbusy, hleft]

theorem closeWindow_later {s : State} {ch j : Nat} (hj : (getChan s ch).windowK = some j) (hlater : now s < gridAt s ch j (chCloseUs s ch)) :
    closeWindow s ch = s := by
  simp only [closeWindow, hj, decide_le_false hlater, Bool.and_false, Bool.false_eq_true, if_false]

end Sys2Proof.Machine

open Sys2Proof Sys2Proof.Machine

/-- Settles O46: the pending set by one register after the other, the rest of a commit by what it sets of the channel. -/
theorem dmaChannels : Obligations.dmaChannels := by
  unfold Obligations.dmaChannels
  refine fun ch s hopen hst => ⟨fun hbad => ?_, fun hgood _ => ?_, fun hlater => ?_, fun v hbad => ?_,
    fun v hch hcls hold hsame => ⟨fun hnew => ?_, fun hnew => ?_⟩, fun v hch hcls hold hnew => ?_⟩
  · refine congrArg Host.Outcome.next ((setupItem_open hopen hst _).trans ?_)
    simp only [dmaCommitWrite, hbad, if_false, ne_eq, not_false_eq_true, if_true]
  · obtain ⟨hok, hdone⟩ := committed_of_accepted hgood
    refine ⟨_, _, rfl, congrArg Host.Outcome.next (setupItem_open hopen hst _), ?_, hdone.status, hdone.regs, hdone.generation,
      hdone.others, hdone.xfers, hdone.memory⟩
    rw [hok, ← hdone.out]
    rfl
  · rw [fireArm]
    split
    next => rfl
    next j hj => simp only [decide_le_false (hlater j hj), Bool.and_false, Bool.false_eq_true, if_false]
  · refine congrArg Host.Outcome.next ((setupItem_open hopen hst _).trans ?_)
    have hrefused : (decide ((ch : Nat) < 8) || bits v 19 18 == 3
        || (bitAt (regRaw s (oDmaChCfg ch)) 17 && bits v 19 18 != bits (regRaw s (oDmaChCfg ch)) 19 18)) = true := by
      simpa only [Bool.or_eq_true, Bool.and_eq_true, decide_eq_true_eq, beq_iff_eq, bne_iff_ne, or_assoc] using hbad
    simp only [dmaCfgWrite, hrefused, if_true]
  · refine congrArg Host.Outcome.next ((setupItem_open hopen hst _).trans ?_)
    rw [dmaCfgWrite_of_fits hch hcls (.inr hsame) (.inr hold), hnew, hold]
    rfl
  · refine congrArg Host.Outcome.next ((setupItem_open hopen hst _).trans ?_)
    rw [dmaCfgWrite_of_fits hch hcls (.inr hsame) (.inr hold), hnew, hold]
    rfl
  · refine congrArg Host.Outcome.next ((setupItem_open hopen hst _).trans ?_)
    rw [dmaCfgWrite_of_fits hch hcls (.inl hold) (.inl hnew), hold]
    rfl

/-- Settles O49: sparing by its state, the patrol by the unit that it reads, the partition by its checks and by one register after
the other. -/
theorem memoryRows : Obligations.memoryRows := by
  unfold Obligations.memoryRows
  refine ⟨fun k s hopen hst => ⟨fun hidle hk => ?_, fun hbad => ?_⟩, fun s => ⟨fun hnot => ?_, fun hcopy hdue hmram => ?_⟩,
    fun s found hoff => ?_, fun s hon hrun => ⟨fun hmore => ⟨scrubRead_next hon hrun hmore .clean, fun die => ?_⟩,
      fun hlast => scrubRead_last hon hrun hlast .clean, fun hregion => ?_⟩,
    fun s hopen hst => ⟨fun hbusy => ?_, fun hidle hnot => ?_, fun hidle hquiet htarget hbig => ?_, fun hidle hquiet htarget hsmall hsum => ?_,
      fun hidle hquiet htarget hsmall hsum => ⟨fun hbroken => ?_, fun hsound => ?_⟩⟩, fun s => ⟨fun hidle => ?_, fun hbusy => ?_⟩⟩
  · refine congrArg Host.Outcome.next ((setupItem_open hopen hst _).trans ?_)
    simp [spareGoWrite, stackServes, startSparing, hidle, hk]
  · refine congrArg Host.Outcome.next ((setupItem_open hopen hst _).trans ?_)
    have hrefused : (decide (s.memory.spare = .idle) && stackServes s k) = false := by
      obtain h | h := hbad
      · rw [decide_eq_false h, Bool.false_and]
      · rw [stackServes, decide_lt_false h, Bool.false_and, Bool.and_false]
    simp only [spareGoWrite, hrefused, Bool.false_eq_true, if_false]
  · refine congrArg Host.Outcome.next ?_
    have hwait : (decide (s.memory.spare = .copying) && decide (s.memory.copyStart + copyDur ≤ now s)) = false := by
      obtain h | h := hnot
      · rw [decide_eq_false h, Bool.false_and]
      · rw [decide_le_false h, Bool.and_false]
    simp only [hwait, Bool.false_eq_true, if_false]
  · refine congrArg Host.Outcome.next ?_
    simp only [hcopy, decide_true, decide_eq_true hdue, Bool.and_self, if_true, hmram]
  · refine congrArg Host.Outcome.next ?_
    obtain h | h := hoff
    · simp only [h, decide_true, Bool.true_or, if_true]
    · simp only [h, Bool.not_false, Bool.or_true, if_true]
  · obtain ⟨hdram, hpoison⟩ := sameBytes_corrected s s.memory.patrol die
    exact ⟨_, scrubRead_next hon hrun hmore (.corrected die), rfl, hdram, hpoison⟩
  · obtain ⟨hin, hdram, herr⟩ := scrubbed_preserve hregion
    by_cases hmore : s.memory.patrol + 64 < 2 ^ 41
    · refine ⟨_, scrubRead_next hon hrun hmore .uncorrectable, ?_⟩
      rw [patrolAt_poison, patrolAt_dram, patrolAt_err]
      exact ⟨hin, hdram, herr⟩
    · refine ⟨_, scrubRead_last hon hrun (Nat.not_lt.1 hmore) .uncorrectable, ?_⟩
      rw [bumpF_memory, bumpF_err, patrolAt_poison, patrolAt_dram, patrolAt_err]
      exact ⟨hin, hdram, herr⟩
  · exact partCommit_answer hopen hst (if_pos hbusy) (by decide)
  · refine partCommit_answer hopen hst (r := 2) ?_ (by decide)
    rw [partCheck, if_neg (Bool.eq_false_iff.1 hidle), if_pos]
    simpa only [Bool.or_eq_true, decide_eq_true_eq, Option.isSome_iff_ne_none] using hnot
  · exact partCommit_answer hopen hst ((partCheck_quiet hidle hquiet htarget).trans (if_pos hbig)) (by decide)
  · refine partCommit_answer hopen hst (r := 3) ?_ (by decide)
    rw [partCheck_quiet hidle hquiet htarget, if_neg (Nat.not_lt.2 hsmall), if_pos hsum]
  · refine partCommit_answer hopen hst (r := 5) ?_ (by decide)
    rw [partCheck_quiet hidle hquiet htarget, if_neg (Nat.not_lt.2 hsmall), if_neg (Nat.not_lt.2 hsum), if_pos hbroken]
  · refine congrArg Host.Outcome.next ((setupItem_open hopen hst _).trans ?_)
    have hr : partCheck s = 7 := by
      rw [partCheck_quiet hidle hquiet htarget, if_neg (Nat.not_lt.2 hsmall), if_neg (Nat.not_lt.2 hsum),
        if_neg (Bool.eq_false_iff.1 hsound)]
    simp only [partCommitWrite, hr, beq_self_eq_true, Bool.or_true, if_true]
  · exact congrArg Host.Outcome.next (if_neg (Bool.eq_false_iff.1 hidle))
  · obtain ⟨hdone, hrecs, hmedia⟩ := repartitioned_spec s
    have hother {t : State} (h : Repartitioned s t) (o : Nat) (ha : o ≠ oGlbPartA) (hb : o ≠ oGlbPartB) (hc : o ≠ oGlbPartC) :
        regRaw t o = regRaw s o :=
      h.otherRegs o (by simp only [List.mem_cons, List.not_mem_nil, ha, hb, hc, or_self, not_false_eq_true])
    rw [exec_partApplied hbusy]
    by_cases hsize : preserveSize (partVal s oGlbPartC) = preserveSize (regRaw s oGlbPartC)
    · exact ⟨_, congrArg Host.Outcome.next (if_pos hsize), hdone.result, hdone.idle, hdone.regs, hother hdone, hdone.writePos,
        fun hne => absurd hsize hne, fun _ => ⟨hrecs, hmedia⟩⟩
    · have hempty := hdone.emptied
      exact ⟨_, congrArg Host.Outcome.next (if_neg hsize), hempty.result, hempty.idle, hempty.regs, hother hempty, hempty.writePos,
        fun _ => ⟨preserveEmptied_recs _, fun p hp => preserveEmptied_streams hp⟩, fun h => absurd h hsize⟩

/-- Settles O47: transfers by where they read, the order of service by the highest class that can move, schedules and windows by
their next instant. -/
theorem dmaTransfers : Obligations.dmaTransfers := by
  unfold Obligations.dmaTransfers
  refine fun s hrun => ⟨fun ch p hp hen hdue hfour hfence hown => ?_, fun ch p t hp harm ht => ?_, fun id x host hx hstarted => ⟨fun hkind => ?_,
    fun i hkind hstuck hline hhead => ?_, fun hkind hready hline => ?_, fun bs hkind hbs => ?_, fun hkind => ?_,
    fun cause n hfits hcause => transferError_fits hx hstarted hfits hcause n⟩, fun id n x ch hx hmove hch => ⟨?_, fun c hlo hhi hc => ?_⟩,
    fun ch id x hnext hx => ⟨_, rfl, ?_⟩, fun ch hprog => ⟨fun j hj => ⟨fun hdue => ?_, fun hlater => ?_⟩, fun j hj => ⟨fun hclosed hdue => ?_,
      fun hlater => ?_, fun hopen hdue hidle => ?_, fun id x hopen hdue hbusy hx hleft => ?_, fun hlater => ?_⟩⟩,
    fun src obj => ⟨fun hno => ?_, fun hobj hactive => ?_, fun hquiet hsrc => ?_⟩⟩
  · exact congrArg Host.Outcome.next (startHead_due hrun hp hen hdue hfour hfence hown)
  · exact congrArg Host.Outcome.next (startHead_later hp harm ht)
  · exact transferDone_memory hrun hx hstarted hkind host
  · rw [transferDone_memory hrun hx hstarted hkind host, serveXfer_stuck hx hstuck]
    obtain ⟨hheld, hpoison⟩ := stopped_line hx hhead hline
    exact ⟨fun h => congrArg _ (hheld h), fun u h hu => congrArg _ (hpoison u h hu)⟩
  · rw [transferDone_memory hrun hx hstarted hkind host, serveXfer_stuck hx (canMove_done hready hline), stopped_done hx hready]
  · obtain ⟨hbytes, -⟩ := transferDone_host hrun hx hstarted hkind
    exact hbytes bs hbs
  · obtain ⟨-, hfailed⟩ := transferDone_host hrun hx hstarted hkind
    exact hfailed
  · simp only [serveUntil, hx, Option.map_some, Option.getD_some, hmove, if_true, hch]
  · exact prio_le_of_nextChannel hch hlo hhi hc
  · simp only [serveChannel, hnext, hx, Option.map_some, Option.getD_some]
  · exact congrArg Host.Outcome.next (fireArm_due hrun hprog hj hdue)
  · exact congrArg Host.Outcome.next (fireArm_later fun k hk => Option.some.inj (hj.symm.trans hk) ▸ hlater)
  · exact congrArg Host.Outcome.next (openWindow_due hrun hprog hj hclosed hdue)
  · exact congrArg Host.Outcome.next (openWindow_later hj hlater)
  · exact congrArg Host.Outcome.next (closeWindow_idle hrun hj hopen hdue hidle)
  · exact congrArg Host.Outcome.next (closeWindow_busy hrun hj hopen hdue hbusy hx hleft)
  · exact congrArg Host.Outcome.next (closeWindow_later hj hlater)
  · refine congrArg Host.Outcome.next ?_
    simp only [hno, Bool.false_and, Bool.false_eq_true, if_false]
  · refine congrArg Host.Outcome.next ?_
    simp only [hobj, hactive, decide_true, Bool.true_or, Bool.and_self, if_true]
  · refine congrArg Host.Outcome.next ?_
    have hnot : (decide (s.power.st = .active) || (decide (s.power.st = .quiet) && decide (src = .ppsIn))) = false := by
      rw [hquiet, decide_eq_false hsrc]
      rfl
    simp only [hnot, Bool.and_false, Bool.false_eq_true, if_false]
end

section
/-! Obligations O50 to O53: the bramble's frames, roster, peer messages and spanning streams. -/

namespace Sys2Proof.Machine

-- ## What a port receives (R463)

theorem grnReceive_other {s : State} {f : GrnFrame} {kind : Nat} {anyone : Bool} (hkind : f.kind.toNat ≠ kind)
    (hten : f.kind.toNat ≤ 10) : grnReceive s f kind anyone = (s, false) := by
  simp only [grnReceive, bne_iff_ne.2 hkind, decide_eq_true hten, Bool.and_self, Bool.or_true, if_true]

/-- A frame on a link that is up, of the row's kind or of none, is this row's to receive. -/
theorem grnReceive_here {s : State} {f : GrnFrame} {kind : Nat} {anyone : Bool} (hrun : running s = true)
    (hlink : (getGrnPort s (b2n f.west)).link = true) (hkind : f.kind.toNat = kind ∨ 10 < f.kind.toNat) :
    grnReceive s f kind anyone = if f.crcOk = true then
        (if grnBad s f anyone = true then (grnPortCount (counted s f) (b2n f.west) gDropped 1, false) else (counted s f, true))
      else (grnPortCount s (b2n f.west) gCrcErr 1, false) := by
  have hmine : (f.kind.toNat != kind && decide (f.kind.toNat ≤ 10)) = false := by
    obtain h | h := hkind
    · rw [bne_false h, Bool.false_and]
    · rw [decide_le_false h, Bool.and_false]
  simp only [grnReceive, hrun, hlink, hmine, Bool.not_true, Bool.or_self, Bool.false_eq_true, if_false]
  cases f.crcOk
  · rfl
  · rfl

theorem running_of_grnActive {s : State} (h : grnActive s = true) : running s = true := by
  rw [grnActive, Bool.and_eq_true] at h
  obtain ⟨hrun, -⟩ := h
  exact hrun

theorem grnReceive_arrives {s : State} {f : GrnFrame} {kind : Nat} {anyone : Bool} (h : Arrives s f kind anyone) :
    grnReceive s f kind anyone = (counted s f, true) := by
  obtain ⟨hactive, hlink, hkind, hcrc, hgood⟩ := h
  rw [grnReceive_here (running_of_grnActive hactive) hlink (.inl hkind), if_pos hcrc, if_neg (Bool.eq_false_iff.1 hgood)]

-- ## What a member takes (R464)

theorem grnTake_dropped {s t : State} {f : GrnFrame} {kind : Nat} {anyone : Bool} (h : grnReceive s f kind anyone = (t, false)) :
    grnTake s f kind anyone = (t, false) := by
  simp only [grnTake, h, Bool.not_false, Bool.true_or, if_true]

theorem grnTake_elsewhere {s : State} {f : GrnFrame} {kind : Nat} {anyone : Bool} (h : Arrives s f kind anyone)
    (hbcast : f.bcast = false) (hdst : f.dst.toNat ≠ grnId s) : grnTake s f kind anyone = (grnPass (counted s f) f, false) := by
  obtain ⟨hactive, -⟩ := id h
  simp only [grnTake, grnReceive_arrives h, hactive, Bool.not_true, Bool.or_self, Bool.false_eq_true, if_false, hbcast, hdst]

theorem grnTake_forHere {s : State} {f : GrnFrame} {kind : Nat} (h : ForHere s f kind) :
    grnTake s f kind false = (counted s f, true) := by
  obtain ⟨harrives, hbcast, hdst⟩ := h
  obtain ⟨hactive, -⟩ := id harrives
  simp only [grnTake, grnReceive_arrives harrives, hactive, Bool.not_true, Bool.or_self, Bool.false_eq_true, if_false, hbcast, hdst,
    if_true]

theorem grnTake_forAll {s : State} {f : GrnFrame} {kind : Nat} {anyone : Bool} (h : ForAll s f kind anyone) :
    grnTake s f kind anyone = (spread s f kind, true) := by
  obtain ⟨harrives, hbcast, hsrc, hnew⟩ := h
  obtain ⟨hactive, -⟩ := id harrives
  simp only [grnTake, grnReceive_arrives harrives, hactive, Bool.not_true, Bool.or_self, Bool.false_eq_true, if_false, hbcast, hsrc,
    if_true, hnew, Option.isSome_none]
  rfl

theorem grnAcked_untaken {s t : State} {f : GrnFrame} {kind : Nat} (h : grnTake s f kind false = (t, false))
    (act : State → State × Nat × List Byte) : grnAcked s f kind act = t := by
  simp only [grnAcked, h, Bool.not_false, if_true]

/-- A row whose frame is not taken leaves what taking it left. -/
theorem passRow_untaken {s t : State} {f : GrnFrame} {e : Nat × (GrnFrame → RtpFacts → Instr)} (he : e ∈ passRows)
    (ht : grnTake s f e.1 false = (t, false)) (h : RtpFacts) : exec (e.2 f h) s = .next t := by
  simp only [passRows, List.mem_cons, List.not_mem_nil, or_false] at he
  obtain rfl | rfl | rfl | rfl | rfl | rfl | rfl := he
  case inr.inr.inr.inr.inl => exact congrArg Host.Outcome.next (grnAcked_untaken ht _)
  all_goals
    refine congrArg Host.Outcome.next ?_
    simp only [ht, Bool.not_false, Bool.true_or, if_true]

/-- The rows that only neighbours receive, BEACON's too, leave what receiving a frame left that they turn away. -/
theorem linkRow_dropped {s t : State} {f : GrnFrame} {age : Nat} {e : Nat × (GrnFrame → RtpFacts → Instr)}
    (he : e ∈ passRows ++ [(1, fun f _ => .beacon f), (0, fun f _ => .hello f age)])
    (ht : ∀ anyone, grnReceive s f e.1 anyone = (t, false)) (h : RtpFacts) : exec (e.2 f h) s = .next t := by
  obtain he | he := List.mem_append.1 he
  · exact passRow_untaken he (grnTake_dropped (ht false)) h
  · simp only [List.mem_cons, List.not_mem_nil, or_false] at he
    obtain rfl | rfl := he
    · refine congrArg Host.Outcome.next ?_
      simp only [ht true, Bool.not_false, Bool.true_or, if_true]
    · refine congrArg Host.Outcome.next ?_
      simp only [ht true, Bool.not_false, if_true]

-- ## A port's own entry

theorem getGrnPort_setGrnPort (s : State) (p : Nat) (g : GrnPort) : getGrnPort (setGrnPort s p g) p = g := by
  unfold getGrnPort setGrnPort
  split
  · rfl
  · rfl

theorem seqs_setGrnPort (s : State) (p : Nat) (g : GrnPort) : (setGrnPort s p g).grn.seqs = s.grn.seqs := by
  unfold setGrnPort
  split
  · rfl
  · rfl

theorem getGrnPort_grnEmit (s : State) (f : GrnFrame) (p : Nat) : getGrnPort (grnEmit s f) p = getGrnPort s p := rfl

theorem out_grnEmit (s : State) (f : GrnFrame) : (grnEmit s f).out.length = s.out.length + 1 := by
  rw [grnEmit, grnPortCount, bumpC_out, emit]
  exact List.length_append

/-- R465: the state in which a port's HELLO leaves: its number, its stamp and its instant are noted. -/
def helloNoted (s : State) (p : Nat) : State :=
  setGrnPort { s with grn := { s.grn with seqs := Tbl.put s.grn.seqs 0 ((nextSeqOfKind s 0 + 1) % 2 ^ 24) } } p
    { getGrnPort s p with lastHelloSent := now s, helloTx := bt96Frac (grnTxStamp s p), helloTxSeq := nextSeqOfKind s 0 }

theorem helloSend_due {s : State} {p : Nat} (hrun : running s = true) (hlink : (getGrnPort s p).link = true)
    (hdue : (getGrnPort s p).lastHelloSent + durUs 2 ≤ now s) : ∃ f, helloSend s p = grnEmit (helloNoted s p) f := by
  refine ⟨_, if_neg ?_⟩
  simp only [hrun, hlink, decide_lt_false hdue, Bool.not_true, Bool.or_self, Bool.false_eq_true, not_false_eq_true]

theorem nextSeqOfKind_helloNoted (s : State) (p : Nat) : nextSeqOfKind (helloNoted s p) 0 = (nextSeqOfKind s 0 + 1) % 2 ^ 24 := by
  rw [nextSeqOfKind, helloNoted, seqs_setGrnPort, Tbl.count, Tbl.get?_put_self]
  rfl

/-- R464: the state in which a frame without its ACK leaves once more. -/
def resending (s : State) (u : Unacked) : State :=
  { s with grn := { s.grn with unacked := s.grn.unacked.map (fun x =>
    if x = u then { x with resends := x.resends + 1, due := now s + durUs (getF s oGrnTimers 15 4) } else x) } }

theorem ackTimeout_resends {s : State} {q : BitVec 24} {u : Unacked} (hrun : running s = true)
    (hu : s.grn.unacked.find? (fun u => u.seq == q.toNat && decide (now s ≥ u.due)) = some u)
    (hmore : u.resends < getF s oGrnTimers 3 0) : ∃ f, exec (.ackTimeout q) s = .next (grnEmit (resending s u) f) := by
  refine ⟨grnOwn (resending s u) (leavesBy s (goesWest s u.dst)) u.kind u.dst false u.conceded u.a u.b u.seq u.payload,
    congrArg Host.Outcome.next ?_⟩
  simp only [hu, hrun, Bool.not_true, Bool.false_eq_true, if_false, hmore, if_true]
  rfl

-- ## Bramble events (R474)

theorem onlyPosts_postEvent (s : State) (slot q : Nat) (tag : BitVec 24) (ring info : Nat) (w1 w3 : Word) :
    OnlyPosts s (postEvent s slot q tag ring info w1 w3) := by
  rw [postEvent]
  exact onlyPosts_postRec _ slot _ _ _ _

/-- A bramble event is posted to one subscriber after another. -/
theorem onlyPosts_brambleEvent (s : State) (kind : Nat) (w1 : Word) (n : Nat) : OnlyPosts s (brambleEvent s kind w1 n) := by
  induction n with
  | zero => exact .refl s
  | succ n ih =>
    refine ih.trans ?_
    rw [brambleEvent]
    split
    next => exact .refl _
    next => exact onlyPosts_postEvent _ n _ _ _ _ _ _

theorem OnlyPosts.grn_eq {s t : State} (h : OnlyPosts s t) : t.grn = s.grn := by
  obtain ⟨_, _, rfl⟩ := h
  rfl

theorem conflict_grn (s : State) (kind : Nat) : (conflict s kind).grn = s.grn := (onlyPosts_brambleEvent s 4 _ 8).grn_eq

theorem onlyPosts_ifEvent (b : Bool) (s : State) (kind : Nat) (w1 : Word) (n : Nat) :
    OnlyPosts s (if b = true then brambleEvent s kind w1 n else s) := by
  split
  · exact onlyPosts_brambleEvent _ _ _ _
  · exact .refl _

theorem setRoster_grn (s : State) (roster master epoch : Nat) (listed : Bool) :
    (setRoster s roster master epoch listed).grn = { s.grn with roster := roster, master := master, epoch := epoch % 2 ^ 24 } := by
  rw [setRoster]
  exact (onlyPosts_ifEvent _ _ _ _ _).grn_eq.trans (onlyPosts_ifEvent _ _ _ _ _).grn_eq

-- ## What receiving a frame leaves of the member

theorem getF_bumpC_ne {s : State} {o p : Nat} (h : p ≠ o) (hi lo n : Nat) : getF (bumpC s o n) p hi lo = getF s p hi lo := by
  rw [getF, getF, bumpC, regRaw_setRaw_ne _ _ _ _ h]

theorem oGrnCfg_ne_portCounter (n k : Nat) : oGrnCfg ≠ oGrnPortCounter n k := by
  unfold oGrnCfg oGrnPortCounter
  omega

theorem grnId_grnPortCount (s : State) (p c n : Nat) : grnId (grnPortCount s p c n) = grnId s :=
  getF_bumpC_ne (oGrnCfg_ne_portCounter _ _) _ _ _

theorem grnId_grnPass (s : State) (f : GrnFrame) : grnId (grnPass s f) = grnId s := by
  rw [grnPass]
  split
  · exact grnId_grnPortCount _ _ _ _
  · exact grnId_grnPortCount _ _ _ _

theorem grn_grnPass (s : State) (f : GrnFrame) : (grnPass s f).grn = s.grn := by
  rw [grnPass]
  split
  · rfl
  · rfl

theorem grnId_spread (s : State) (f : GrnFrame) (kind : Nat) : grnId (spread s f kind) = grnId s :=
  (grnId_grnPass _ _).trans (grnId_grnPortCount _ _ _ _)

/-- Noting a frame changes nothing of the member but which frames it has seen. -/
theorem grn_spread (s : State) (f : GrnFrame) (kind : Nat) : ∃ seen, (spread s f kind).grn = { s.grn with seen := seen } := by
  refine ⟨(spread s f kind).grn.seen, ?_⟩
  rw [spread, grnNote, grn_grnPass]
  rfl

theorem time_grnPass (s : State) (f : GrnFrame) : (grnPass s f).time = s.time := by
  rw [grnPass]
  split
  · rfl
  · rfl

theorem time_spread (s : State) (f : GrnFrame) (kind : Nat) : (spread s f kind).time = s.time :=
  (time_grnPass _ _).trans rfl

theorem now_spread (s : State) (f : GrnFrame) (kind : Nat) : now (spread s f kind) = now s := by
  rw [now, now, time_spread]

theorem joinClash_spread (s : State) (f : GrnFrame) (kind id : Nat) (mac : Word) :
    joinClash (spread s f kind) id mac = joinClash s id mac := by
  obtain ⟨seen, hgrn⟩ := grn_spread s f kind
  rw [joinClash, joinClash, grnId_spread, inRoster, inRoster, hgrn]

-- ## GRN_CFG and RECLAIM (R469, R473)

theorem grnCfgWrite_of_fits {s : State} {v : Word} (hrole : bits v 5 4 ≠ 3) (hplain : bitAt v 7 = false)
    (hsame : bitAt (regRaw s oGrnCfg) 6 = false ∨ bits v 5 0 = bits (regRaw s oGrnCfg) 5 0) :
    grnCfgWrite s v = (if bitAt v 6 && !(bitAt (regRaw s oGrnCfg) 6) then joinStart (setRaw s oGrnCfg (v &&& word 0x7F))
      else if bitAt (regRaw s oGrnCfg) 6 && !(bitAt v 6) then leaveBramble (setRaw s oGrnCfg (v &&& word 0x7F))
      else setRaw s oGrnCfg (v &&& word 0x7F), .ok) := by
  have hfits : (decide (bits v 5 4 = 3) || (bitAt (regRaw s oGrnCfg) 6 && (bits v 5 0 != bits (regRaw s oGrnCfg) 5 0))) = false := by
    rw [decide_eq_false hrole]
    obtain h | h := hsame
    · rw [h]
      rfl
    · rw [bne_false h, Bool.and_false]
      rfl
  simp only [grnCfgWrite, hfits, hplain, Bool.false_eq_true, if_false]

-- ## JOIN and beacons (R470 to R472)

/-- R470: what a JOIN that is heard leaves of the member. -/
def heardJoin (s : State) (id : Nat) (mac : Word) (role : Nat) : State :=
  { s with grn := { s.grn with
    heard := Tbl.put s.grn.heard id (now s), macs := Tbl.put s.grn.macs id mac, roles := Tbl.put s.grn.roles id role } }

theorem exec_join {s : State} {f : GrnFrame} (mac : Word) (h : ForAll s f 6 true) (hop : peerOp f = 0xA86) :
    exec (.join f mac) s = .next (
      if (s.grn.state = .master && joinClash s (bits (peerWord f 1) 3 0) mac) = true then
        conflict (sendAck (spread s f 6) (bits (peerWord f 1) 3 0) 6 f.seq.toNat 0x105 []) 0
      else heardJoin (spread s f 6) (bits (peerWord f 1) 3 0) mac (bits (peerWord f 1) 5 4)) := by
  obtain ⟨seen, hgrn⟩ := grn_spread s f 6
  have hstate : (spread s f 6).grn.state = s.grn.state := by rw [hgrn]
  refine congrArg Host.Outcome.next ?_
  simp only [grnTake_forAll h, hop, bne_self_eq_false, Bool.not_true, Bool.or_self, Bool.false_eq_true, if_false, hstate,
    joinClash_spread, heardJoin, now_spread]

theorem sendJoin_grn (s : State) : (sendJoin s).grn.lastJoin = now s := rfl

theorem out_sendJoin (s : State) : (sendJoin s).out.length = s.out.length + 1 := out_grnEmit _ _

/-- R471: a master whose beacon is due, and that hears half of its roster, sends it. -/
theorem beaconSend_due {s : State} (hactive : grnActive s = true) (hmaster : s.grn.state = .master)
    (hdue : beaconNo s s.grn.lastBeaconSent < beaconNo s (now s)) (hown : s.grn.acting = false) :
    exec .beaconSend s = .next (
      if 2 * ((members s.grn.roster).filter (heardNow s).contains).length < (members s.grn.roster).length then detach s
      else sendBeacon (if rosterMask (members s.grn.roster ++ heardNow s) = s.grn.roster then s
        else setRoster s (rosterMask (members s.grn.roster ++ heardNow s)) (grnId s) (s.grn.epoch + 1) true) (grnId s)) := by
  have hnone : (heardNow s).find? (fun m => m != grnId s && (members s.grn.roster).contains m && s.grn.acting
      && Tbl.get? s.grn.roles m == some 1) = none :=
    List.find?_eq_none.2 fun m _ => by rw [hown, Bool.and_false, Bool.false_and]; exact Bool.false_ne_true
  refine congrArg Host.Outcome.next ?_
  simp only [hactive, hmaster, decide_le_false hdue, hnone, bne_self_eq_false, Bool.not_true, Bool.or_self, Bool.false_eq_true, if_false,
    reduceCtorEq]

/-- R472: a member that has not been heard for LOSS_MS leaves the roster. -/
theorem memberLoss_due {s : State} {m : Fin 16} (hactive : grnActive s = true) (hmaster : s.grn.state = .master)
    (hin : inRoster s m = true) (hother : (m : Nat) ≠ grnId s) (hdue : (Tbl.get? s.grn.heard m).getD 0 + lossDur s ≤ now s) :
    ∃ t, exec (.memberLoss m) s = .next t ∧ t.grn.epoch = (s.grn.epoch + 1) % 2 ^ 24 ∧ t.grn.master = grnId s ∧
      t.grn.roster = rosterMask ((members s.grn.roster).filter (fun x => x != (m : Nat))) := by
  have hgrn := setRoster_grn s (rosterMask ((members s.grn.roster).filter (fun x => x != (m : Nat)))) (grnId s) (s.grn.epoch + 1) true
  refine ⟨_, congrArg Host.Outcome.next (if_pos ?_), ?_⟩
  · simp [hactive, hmaster, hin, hother, hdue]
  · simp only [hgrn, and_self]

theorem becomeMaster_grn (s : State) (roster : Nat) (acting : Bool) : ∃ barred, (becomeMaster s roster acting).grn = { s.grn with
    state := .master, acting := acting, asBackup := false, reclaiming := false, backup := none, lastBeaconSent := now s
    barred := barred, roster := roster, master := grnId s, epoch := (s.grn.epoch + 1) % 2 ^ 24 } :=
  ⟨_, setRoster_grn _ _ _ _ _⟩

theorem grn_grnCount (s : State) (c n : Nat) : (grnCount s c n).grn = s.grn := rfl

-- ## Beacons received

/-- The state once a neighbour's beacon has been counted, passed on with the time it stayed, and noted. -/
def beaconTaken (s : State) (f : GrnFrame) : State :=
  grnNote (grnPass (beaconOn (counted s f) f).1 (beaconOn (counted s f) f).2) f 1 0 []

theorem grn_beaconTaken (s : State) (f : GrnFrame) : ∃ seen, (beaconTaken s f).grn = { s.grn with seen := seen } := by
  refine ⟨(beaconTaken s f).grn.seen, ?_⟩
  rw [beaconTaken, grnNote, grn_grnPass]
  rfl

theorem now_beaconTaken (s : State) (f : GrnFrame) : now (beaconTaken s f) = now s := by
  have htime : (beaconTaken s f).time = s.time := (time_grnPass _ _).trans rfl
  rw [now, now, htime]

theorem grnId_beaconTaken (s : State) (f : GrnFrame) : grnId (beaconTaken s f) = grnId s :=
  (grnId_grnPass _ _).trans (grnId_grnPortCount _ _ _ _)

theorem exec_beacon {s : State} {f : GrnFrame} (h : Arrives s f 1 true) (hsrc : f.src.toNat ≠ grnId s) (hnew : grnSeen s f 1 = none) :
    exec (.beacon f) s = .next (
      if s.grn.state = .master then
        if grnId s > f.src.toNat then
          conflict { beaconTaken s f with grn := { (beaconTaken s f).grn with state := .conflict, acting := false } } 1
        else beaconTaken s f
      else takeBeacon (beaconTaken s f) f) := by
  obtain ⟨seen, hgrn⟩ := grn_beaconTaken s f
  have hstate : (beaconTaken s f).grn.state = s.grn.state := by rw [hgrn]
  obtain ⟨hactive, -⟩ := id h
  refine congrArg Host.Outcome.next ?_
  simp only [grnReceive_arrives h, hactive, hsrc, hnew, decide_false, Option.isSome_none, Bool.not_true, Bool.or_self, Bool.false_eq_true, if_false]
  rw [← hstate]
  rfl

/-- R472: a sample of the master's time is posted, and nothing of the member changes. -/
theorem grn_ifSample (b : Bool) (s : State) (f : GrnFrame) : (if b = true then beaconSample s f else s).grn = s.grn := by
  split
  · exact (onlyPosts_timeEvent _ _ _ _ _ _).grn_eq
  · rfl

/-- R472: a beacon that lists the member makes it one. -/
theorem takeBeacon_listed {s : State} {f : GrnFrame} (hstate : s.grn.state ≠ .conflict) (hkeep : s.grn.reclaiming = false)
    (hlisted : (members (bits f.a 47 32)).contains (grnId s) = true) : ∃ g : Grn, (takeBeacon s f).grn = { g with
      state := .member, roster := bits f.a 47 32, master := bits f.a 31 28, epoch := f.epoch.toNat % 2 ^ 24, lastBeacon := now s
      beacons := s.grn.beacons + 1 } := by
  refine ⟨(takeBeacon s f).grn, ?_⟩
  simp only [takeBeacon, hstate, hkeep, hlisted, Bool.and_false, Bool.not_true, Bool.false_and, Bool.true_and, Bool.false_eq_true, if_false,
    if_true, grn_ifSample, setRoster_grn]

-- ## What counting a frame leaves

theorem regRaw_counted_ne {s : State} {f : GrnFrame} {o : Nat} (h : ∀ n k, o ≠ oGrnPortCounter n k) :
    regRaw (counted s f) o = regRaw s o := regRaw_setRaw_ne _ _ _ _ (h _ _)

theorem oGlbPartA_ne_portCounter (n k : Nat) : oGlbPartA ≠ oGrnPortCounter n k := by
  unfold oGlbPartA oGrnPortCounter
  omega

theorem oGlbPartB_ne_portCounter (n k : Nat) : oGlbPartB ≠ oGrnPortCounter n k := by
  unfold oGlbPartB oGrnPortCounter
  omega

theorem oGlbPartC_ne_portCounter (n k : Nat) : oGlbPartC ≠ oGrnPortCounter n k := by
  unfold oGlbPartC oGrnPortCounter
  omega

theorem partition_counted (s : State) (f : GrnFrame) : partition (counted s f) = partition s := by
  rw [partition, partition, regRaw_counted_ne oGlbPartA_ne_portCounter, regRaw_counted_ne oGlbPartB_ne_portCounter,
    regRaw_counted_ne oGlbPartC_ne_portCounter]

theorem insideAny_counted (s : State) (f : GrnFrame) (rs : List Nat) (a n : Nat) :
    insideAny (counted s f) rs a n = insideAny s rs a n := by
  simp only [insideAny, regionAt, partition_counted]

theorem grn_counted (s : State) (f : GrnFrame) : (counted s f).grn = s.grn := rfl

theorem ownMember_counted (s : State) (f : GrnFrame) : ownMember (counted s f) = ownMember s := by
  have hid : getF (counted s f) oGrnCfg 3 0 = getF s oGrnCfg 3 0 := getF_bumpC_ne (oGrnCfg_ne_portCounter _ _) _ _ _
  rw [ownMember, ownMember, hid, inBramble, inBramble, grn_counted]

theorem ownNamed_counted (s : State) (f : GrnFrame) (ty : Nat) (w : Word) (ex : Nat → Bool) :
    ownNamed (counted s f) ty w ex = ownNamed s ty w ex := by
  rw [ownNamed, ownNamed, ownMember_counted]

theorem confNamed_counted (s : State) (f : GrnFrame) : confNamed (counted s f) = confNamed s := rfl

theorem sourceNamed_counted (s : State) (f : GrnFrame) : sourceNamed (counted s f) = sourceNamed s := rfl

theorem getConf_counted (s : State) (f : GrnFrame) (n : Nat) : getConf (counted s f) n = getConf s n := rfl

theorem heldBy_counted (s : State) (f : GrnFrame) (a n : Nat) : heldBy (counted s f) a n = heldBy s a n := rfl

theorem dma_counted (s : State) (f : GrnFrame) : (counted s f).dma = s.dma := rfl

theorem grnSeen_counted (s : State) (f : GrnFrame) (kind : Nat) : grnSeen (counted s f) f kind = grnSeen s f kind := rfl

theorem media_counted (s : State) (f : GrnFrame) : (counted s f).media = s.media := rfl

-- ## Acked frames (R464)

theorem grnAcked_seen {s : State} {f : GrnFrame} {kind : Nat} {a : Nat × List Byte} (h : ForHere s f kind)
    (hseen : grnSeen s f kind = some a) (act : State → State × Nat × List Byte) :
    grnAcked s f kind act = sendAck (counted s f) f.src.toNat kind f.seq.toNat a.1 a.2 := by
  obtain ⟨-, hbcast, -⟩ := id h
  simp only [grnAcked, grnTake_forHere h, hbcast, grnSeen_counted, hseen, Bool.not_true, Bool.false_eq_true, if_false]

theorem grnAcked_new {s : State} {f : GrnFrame} {kind : Nat} (h : ForHere s f kind) (hnew : grnSeen s f kind = none)
    {act : State → State × Nat × List Byte} {t : State} {st : Nat} {record : List Byte} (ht : act (counted s f) = (t, st, record)) :
    grnAcked s f kind act = acked t f kind st record := by
  obtain ⟨-, hbcast, -⟩ := id h
  simp only [grnAcked, grnTake_forHere h, hbcast, grnSeen_counted, hnew, Bool.not_true, Bool.false_eq_true, if_false, ht, acked]

-- ## Peer messages (R476, R477)

theorem peerMsg_other {s : State} {f : GrnFrame} {op : Nat} (hop : peerOp f ≠ op) (hlo : 0xA80 ≤ peerOp f) (hhi : peerOp f ≤ 0xA86)
    (act : State → State × Nat × Word) : peerMsg s f op act = s := by
  simp only [peerMsg, bne_iff_ne.2 hop, decide_eq_true hlo, decide_eq_true hhi, Bool.and_self, if_true]

/-- A message that no other row takes is this row's. -/
theorem peerMsg_mine {s : State} {f : GrnFrame} {op : Nat} (hop : peerOp f = op ∨ peerOp f < 0xA80 ∨ 0xA86 < peerOp f)
    (act : State → State × Nat × Word) : peerMsg s f op act = settle (grnAcked s f 6 (fun s =>
      let r := if peerOp f = op then act s else (s, 0x100, 0)
      (r.1, r.2.1, peerRecord r.1 f r.2.1 r.2.2))) := by
  have hmine : (peerOp f != op && decide (0xA80 ≤ peerOp f) && decide (peerOp f ≤ 0xA86)) = false := by
    obtain h | h | h := hop
    · rw [bne_false h, Bool.false_and, Bool.false_and]
    · rw [decide_le_false h, Bool.and_false, Bool.false_and]
    · rw [decide_le_false h, Bool.and_false]
  rw [peerMsg, if_neg (Bool.eq_false_iff.1 hmine)]

theorem peerMsg_acts {s : State} {f : GrnFrame} {op : Nat} (h : ForHere s f 6) (hnew : grnSeen s f 6 = none) (hop : peerOp f = op)
    {act : State → State × Nat × Word} {t : State} {st : Nat} {w : Word} (ht : act (counted s f) = (t, st, w)) :
    peerMsg s f op act = settle (acked t f 6 st (peerRecord t f st w)) := by
  rw [peerMsg_mine (.inl hop)]
  refine congrArg settle (grnAcked_new h hnew ?_)
  simp only [hop, if_true, ht]

theorem peerMsg_unknown {s : State} {f : GrnFrame} {op : Nat} (h : ForHere s f 6) (hnew : grnSeen s f 6 = none) (hlo : 0xA80 ≤ op)
    (hhi : op ≤ 0xA86) (hop : peerOp f < 0xA80 ∨ 0xA86 < peerOp f) (act : State → State × Nat × Word) :
    peerMsg s f op act = settle (acked (counted s f) f 6 0x100 (peerRecord (counted s f) f 0x100 0)) := by
  have hother : peerOp f ≠ op := by omega
  rw [peerMsg_mine (.inr hop)]
  refine congrArg settle (grnAcked_new h hnew ?_)
  simp only [hother, if_false]

theorem peerOps_exec {e : Nat × (GrnFrame → Instr)} (he : e ∈ peerOps) (f : GrnFrame) :
    (0xA80 ≤ e.1 ∧ e.1 ≤ 0xA86) ∧ ∃ act, ∀ s, exec (e.2 f) s = .next (peerMsg s f e.1 act) := by
  simp only [peerOps, List.mem_cons, List.not_mem_nil, or_false] at he
  obtain rfl | rfl | rfl | rfl | rfl | rfl := he
  all_goals exact ⟨⟨by decide, by decide⟩, _, fun s => rfl⟩

-- ## The object that a message names

theorem confAttach_missing {s : State} {m : Nat} {w : Word} (h : ownNamed s 3 w (confNamed s) = none) : confAttach s m w = (s, 0x104, 0) := by
  rw [confAttach, h]
  rfl

theorem confDetach_missing {s : State} {m : Nat} {w : Word} (h : ownNamed s 3 w (confNamed s) = none) : confDetach s m w = (s, 0x104, 0) := by
  rw [confDetach, h]
  rfl

theorem streamSubscribe_missing {s : State} {m : Nat} {w v : Word} (h : ownNamed s 1 w (sourceNamed s) = none) :
    streamSubscribe s m w v = (s, 0x104, 0) := by
  rw [streamSubscribe, h]

theorem confAttach_named {s : State} {m n : Nat} {w : Word} {c : Conf} (h : ownNamed s 3 w (confNamed s) = some n)
    (hc : getConf s n = some c) : confAttach s m w = if c.span = true then
      ({ s with media := { s.media with confs := Tbl.put s.media.confs n { c with
        attached := if c.attached.contains m then c.attached else c.attached ++ [m] } } }, 0, 0)
      else (s, 0x108, 0) := by
  simp only [confAttach, h, hc, Option.bind_some, Option.map_some]
  cases c.span
  · rfl
  · rfl

theorem confDetach_named {s : State} {m n : Nat} {w : Word} {c : Conf} (h : ownNamed s 3 w (confNamed s) = some n)
    (hc : getConf s n = some c) : confDetach s m w =
      ({ s with media := { s.media with confs := Tbl.put s.media.confs n { c with
        attached := c.attached.filter (fun x => x != m), joined := c.joined.filter (fun x => x != m) } } }, 0, 0) := by
  simp only [confDetach, h, hc, Option.bind_some, Option.map_some]

-- ## Frames taken for this member

theorem units_spread (s : State) (f : GrnFrame) (kind : Nat) : (spread s f kind).units = s.units := by
  have hpass : (grnPass (counted s f) f).units = s.units := by
    rw [grnPass]
    split
    · rfl
    · rfl
  exact hpass

theorem spanGroups_spread (s : State) (f : GrnFrame) (kind code : Nat) : spanGroups (spread s f kind) code = spanGroups s code := by
  rw [spanGroups, spanGroups, units_spread]

theorem getCtx_counted (s : State) (f : GrnFrame) (c : Nat) : getCtx (counted s f) c = getCtx s c := rfl

theorem mirrorFor_counted (s : State) (f : GrnFrame) (w : Word) : mirrorFor (counted s f) w = mirrorFor s w := rfl

theorem heldAlready_counted (s : State) (f : GrnFrame) (c : Nat) (x : Stream) (n : Nat) :
    heldAlready (counted s f) c x n = heldAlready s c x n := rfl

/-- R480: a packet for a mirror that holds it already changes nothing, any other is stored with its arrival time. -/
theorem exec_media {s : State} {f : GrnFrame} (h : RtpFacts) {c : Nat} {x : Stream} (hhere : ForHere s f 2) (hon : mediaOn s = true)
    (hmirror : mirrorFor s f.a = some c) (hx : getCtx s c = some x) :
    (heldAlready s c x f.b.toNat = true → exec (.media f h) s = .next (counted s f)) ∧
    (∀ y, heldAlready s c x f.b.toNat = false →
      getCtx (ctxCount (ctxCount (counted s f) c 0x00 1) c 0x01 f.payload.length) c = some y →
      exec (.media f h) s = .next (settle (storePacket
        (ctxCount (ctxCount (counted s f) c 0x00 1) c 0x01 f.payload.length) c y (now s)
        f.b.toNat (8 * plainFrame f.payload.length) { h with bytes := f.payload } f.conceded))) := by
  refine ⟨fun hheld => congrArg Host.Outcome.next ?_, fun y hfree hy => congrArg Host.Outcome.next ?_⟩
  · simp only [grnTake_forHere hhere, hon, mirrorFor_counted, hmirror, Option.bind_some, getCtx_counted, hx, Option.map_some,
      heldAlready_counted, hheld, Bool.not_true, Bool.or_self, Bool.false_eq_true, if_false, if_true]
  · simp only [grnTake_forHere hhere, hon, mirrorFor_counted, hmirror, Option.bind_some, getCtx_counted, hx, Option.map_some,
      heldAlready_counted, hfree, hy, Bool.not_true, Bool.or_self, Bool.false_eq_true, if_false]

-- ## Missing numbers (R481)

/-- A run of numbers that begins at the only one there is has length 1. -/
theorem runFrom_single (q : Nat) {n : Nat} (hn : 0 < n) : runFrom q [q] n = 1 := by
  have hend : ∀ n, runFrom (q + 1) [q] n = 0 := fun n => by
    cases n with
    | zero => rfl
    | succ n => simp [runFrom]
  cases n with
  | zero => exact absurd hn (Nat.lt_irrefl 0)
  | succ n => simp [runFrom, hend]

/-- R481: a number that has been missing for 2 ms and was not asked for is fetched. -/
theorem mirrorGap_single {s : State} {c : Nat} {x : Stream} {h : Word} {m : Missing} (hx : getCtx s c = some x)
    (hmirror : x.mirrorOf = some h) (hm : x.missing = [m]) (hnew : m.nacks = 0) (hdue : m.seenAt + durMs 2 ≤ now s)
    (hon : mediaOn s = true) (hactive : grnActive s = true) (hin : inRoster s (hMember h) = true) :
    exec (.mirrorGapTimeout c) s =
      .next (peerSend (grnCount (updCtx s c (fun x => { x with missing := x.missing.map (fun k =>
        if decide (m.seq ≤ k.seq) && decide (k.seq < m.seq + 1) then { k with nacks := 1, lastNack := now s } else k) }))
        gMirrorGaps 1) (hMember h) 0xA84 0 h (word m.seq) (word 1) none).1 := by
  refine congrArg Host.Outcome.next ?_
  have hlist : (x.missing.filter (fun m => m.nacks == 0 && decide (now s ≥ m.seenAt + durMs 2))).map (fun m => m.seq) = [m.seq] := by
    simp [hm, hnew, hdue]
  have hrun : runFrom m.seq [m.seq] 64 = 1 := runFrom_single m.seq (by decide)
  simp only [hx, hmirror, hlist, List.head?_cons, List.foldl_cons, List.foldl_nil, Nat.min_self, hrun, hon, hactive, hin, Bool.not_true,
    Bool.or_self, Bool.false_eq_true, if_false]

theorem mirrorGap_none {s : State} {c : Nat} {x : Stream} {h : Word} (hx : getCtx s c = some x) (hmirror : x.mirrorOf = some h)
    (hwait : ∀ m ∈ x.missing, m.nacks ≠ 0 ∨ now s < m.seenAt + durMs 2) : exec (.mirrorGapTimeout c) s = .next s := by
  refine congrArg Host.Outcome.next ?_
  have hlist : x.missing.filter (fun m => m.nacks == 0 && decide (now s ≥ m.seenAt + durMs 2)) = [] := by
    refine List.filter_eq_nil_iff.2 fun m hm => Bool.eq_false_iff.1 ?_
    obtain h | h := hwait m hm
    · rw [beq_false_of_ne h, Bool.false_and]
    · rw [decide_le_false h, Bool.and_false]
  simp only [hx, hmirror, hlist, List.map_nil, List.head?_nil]

-- ## The master's merge (R483)

theorem length_take_append_three {α : Type} (xs : List α) (k : Nat) (a b c : α) : (xs.take k ++ [a, b, c]).length ≤ k + 3 := by
  rw [List.length_append]
  exact Nat.add_le_add (List.length_take_le _ _) (Nat.le_refl 3)

theorem length_decisionWords (x : Merge) (b : Nat) (outcome : Option Nat) : (decisionWords x b outcome).length ≤ x.k + 3 :=
  length_take_append_three _ _ _ _ _

/-- R483: the master merges a period's reports once they are due, and broadcasts its decision. -/
theorem seatMerge_due {s : State} {g : Nat} {x : Merge} (hx : Tbl.get? s.grn.merges g = some x) (hopen : x.merged = false)
    (hdue : mergeDue s g x = true) (hmaster : s.grn.state = .master) (hactive : grnActive s = true) :
    ∃ (x2 : Merge) (outcome : Option Nat), exec (.seatMerge g) s = .next (settle (decide_ (grnSend { s with grn := { s.grn with
        merges := Tbl.put s.grn.merges g x2 } } 5 0 true false (word g) (word (x.m + 1))
        (wordBytes (decisionWords x2 (x.m + 1) outcome))).1 g (x.m + 1) (decisionWords x2 (x.m + 1) outcome))) ∧
      x2.merged = true ∧ x2.m = x.m ∧ x2.reports = x.reports ∧ x2.k = x.k := by
  show ∃ x2 outcome, execSeatMerge g s = _ ∧ _
  simp only [execSeatMerge, hx, hopen, hdue, hmaster, hactive, bne_self_eq_false, Bool.not_true, Bool.or_self, Bool.false_eq_true, if_false]
  exact ⟨_, _, rfl, rfl, rfl, rfl, rfl⟩

end Sys2Proof.Machine

open Sys2Proof Sys2Proof.Machine

/-- Settles O50: what a row does with a frame by what its port receives and its member takes; links and HELLO by the port's own
entry. -/
theorem grinalLinks : Obligations.grinalLinks := by
  unfold Obligations.grinalLinks
  refine ⟨fun s f age hrun hlink => ⟨fun hcrc e he hkind h => ?_, fun e he hkind hten h => ?_, fun hcrc hbad e he hkind h => ?_,
    fun e he harrives hbcast hdst h => ?_⟩, fun s west hrun hlink => ⟨fun hsoon => ?_, fun hdue => ?_⟩,
    fun s f age r hrun hlink hcrc hkind hgood hr => ?_, fun s west => ⟨fun hpow hplug hdown => ?_, fun hrun hlink hheard => ?_,
      fun hactive hopen => ?_, fun t ht => ⟨fun hsoon => ?_, fun hrun hwrapped hlink hdue hheard => ?_⟩⟩,
    fun s q u hrun hu => ⟨fun hlast => ?_, fun hmore => ?_⟩⟩
  · exact linkRow_dropped he (fun anyone => (grnReceive_here hrun hlink hkind).trans (if_neg (Bool.eq_false_iff.1 hcrc))) h
  · exact linkRow_dropped he (fun anyone => grnReceive_other hkind hten) h
  · refine passRow_untaken he (grnTake_dropped ?_) h
    rw [grnReceive_here hrun hlink hkind, if_pos hcrc, if_pos hbad]
  · exact passRow_untaken he (grnTake_elsewhere harrives hbcast hdst) h
  · refine congrArg Host.Outcome.next ?_
    simp only [helloSend, decide_eq_true hsoon, Bool.or_true, if_true]
  · obtain ⟨f, hsend⟩ := helloSend_due hrun hlink hdue
    have hport : getGrnPort (grnEmit (helloNoted s (b2n west)) f) (b2n west) = { getGrnPort s (b2n west) with
        lastHelloSent := now s, helloTx := bt96Frac (grnTxStamp s (b2n west)), helloTxSeq := nextSeqOfKind s 0 } :=
      (getGrnPort_grnEmit _ _ _).trans (getGrnPort_setGrnPort _ _ _)
    refine ⟨_, congrArg Host.Outcome.next hsend, congrArg _ hport, congrArg _ hport, congrArg _ hport, nextSeqOfKind_helloNoted _ _, ?_⟩
    rw [out_grnEmit, helloNoted, setGrnPort_out]
  · subst hr
    refine congrArg Host.Outcome.next ?_
    have hmine : f.kind.toNat = 0 := congrArg BitVec.toNat hkind
    simp only [grnReceive_here hrun hlink (.inl hmine), hcrc, hgood, Bool.false_eq_true, if_false, if_true, Bool.not_true]
  · refine congrArg Host.Outcome.next ?_
    simp [hpow, hplug, hdown]
  · refine congrArg Host.Outcome.next ?_
    simp [hrun, hlink, hheard]
  · refine congrArg Host.Outcome.next ?_
    simp [running_of_grnActive hactive, hactive, hopen]
  · refine congrArg Host.Outcome.next ?_
    simp [ht, Nat.not_le.2 hsoon]
  · refine congrArg Host.Outcome.next ?_
    simp [ht, hrun, hwrapped, hlink, hdue, hheard]
  · refine congrArg Host.Outcome.next ?_
    simp only [hu, hrun, Bool.not_true, Bool.false_eq_true, if_false, Nat.not_lt.2 hlast]
  · obtain ⟨f, hsend⟩ := ackTimeout_resends hrun hu hmore
    exact ⟨_, hsend, out_grnEmit _ _, rfl⟩

/-- Settles O51: GRN_CFG by its checks, frames of the bramble by what the member takes of them, the timers by their instants. -/
theorem rosterRows : Obligations.rosterRows := by
  unfold Obligations.rosterRows
  refine ⟨fun s v hopen hst => ⟨fun hbad => ?_, fun hrole hplain hold hnew => ?_, fun hrole hplain hold hsame hnew => ?_,
      fun hactive hrole hback hmember => ?_, fun hfirst => ?_⟩,
    fun s f mac w h hop hw => ⟨fun hmaster hclash => ?_, fun hfree => ?_⟩,
    fun s hactive => ⟨fun hmaster hsoon => ?_, fun hmaster hdue hown => ⟨fun hhalf => ?_, fun hfew => ?_⟩, fun hmember => ?_,
      fun hstate hheard => ⟨fun hsoon => ?_, fun hdue => ?_⟩, fun m hmaster hin hother => ⟨fun hsoon => ?_, fun hdue => ?_⟩,
      fun hstate => ⟨fun hsoon => ?_, fun hdue hback => ?_, fun hdue hback hfew => ?_, fun hdue hback hmost => ?_⟩,
      fun f h hsrc hnew hmaster hlower => ?_, fun f h hsrc hnew hstate hkeep hlisted => ?_⟩,
    fun c s f hb => ⟨fun hsel hres hin => ?_, fun hsel hres hin => ?_, fun hsel hres hin hqueue => ?_, fun hsel => ?_,
      fun hsel hres hout => ?_⟩⟩
  · refine congrArg Host.Outcome.next ((setupItem_open hopen hst _).trans ?_)
    have hrefused : (decide (bits v 5 4 = 3) || (bitAt (regRaw s oGrnCfg) 6 && (bits v 5 0 != bits (regRaw s oGrnCfg) 5 0))) = true := by
      simpa only [Bool.or_eq_true, Bool.and_eq_true, decide_eq_true_eq, bne_iff_ne] using hbad
    simp only [grnCfgWrite, hrefused, if_true]
  · refine congrArg Host.Outcome.next ((setupItem_open hopen hst _).trans ?_)
    rw [grnCfgWrite_of_fits hrole hplain (.inl hold), hold, hnew]
    rfl
  · refine congrArg Host.Outcome.next ((setupItem_open hopen hst _).trans ?_)
    rw [grnCfgWrite_of_fits hrole hplain (.inr hsame), hold, hnew]
    rfl
  · refine congrArg Host.Outcome.next ((setupItem_open hopen hst _).trans ?_)
    simp [reclaimWrite, hactive, hrole, hback, hmember]
  · refine congrArg Host.Outcome.next ((setupItem_open hopen hst _).trans ?_)
    simp [reclaimWrite, hfirst]
  · subst hw
    rw [exec_join mac h hop, if_pos (by rw [hmaster, hclash]; rfl)]
  · subst hw
    obtain ⟨seen, hgrn⟩ := grn_spread s f 6
    have hnot : (decide (s.grn.state = .master) && joinClash s (bits (peerWord f 1) 3 0) mac) = false := by
      obtain h | h := hfree
      · rw [decide_eq_false h, Bool.false_and]
      · rw [h, Bool.and_false]
    refine ⟨heardJoin (spread s f 6) (bits (peerWord f 1) 3 0) mac (bits (peerWord f 1) 5 4), ?_, ?_⟩
    · rw [exec_join mac h hop, if_neg (Bool.eq_false_iff.1 hnot)]
    simp only [heardJoin, hgrn, now_spread, Tbl.get?_put_self, and_self]
  · refine congrArg Host.Outcome.next ?_
    simp [hactive, hmaster, hsoon]
  · rw [beaconSend_due hactive hmaster hdue hown, if_neg (Nat.not_lt.2 hhalf)]
  · rw [beaconSend_due hactive hmaster hdue hown, if_pos hfew]
    rfl
  · refine congrArg Host.Outcome.next ?_
    simp [hactive, hmember]
  · refine congrArg Host.Outcome.next ?_
    simp [Nat.not_le.2 hsoon]
  · refine ⟨sendJoin s, congrArg Host.Outcome.next ?_, sendJoin_grn s, out_sendJoin s⟩
    obtain h | h | h := hstate
    all_goals simp [hactive, h, hheard, hdue]
  · refine congrArg Host.Outcome.next ?_
    simp [Nat.not_le.2 hsoon]
  · exact memberLoss_due hactive hmaster hin hother hdue
  · refine congrArg Host.Outcome.next ?_
    simp [hsoon]
  · refine congrArg Host.Outcome.next ?_
    obtain h | h := hstate
    all_goals simp [hactive, h, Nat.not_lt.2 hdue, hback, detach]
  · refine congrArg Host.Outcome.next ?_
    obtain h | h := hstate
    all_goals simp [hactive, h, Nat.not_lt.2 hdue, Nat.not_lt.2 hfew, detach]
  · obtain ⟨barred, hgrn⟩ := becomeMaster_grn s (rosterMask (heardNow s)) true
    refine ⟨grnCount (becomeMaster s (rosterMask (heardNow s)) true) gTakeovers 1, congrArg Host.Outcome.next ?_, ?_⟩
    · obtain h | h := hstate
      all_goals simp [hactive, h, Nat.not_lt.2 hdue, hback, hmost]
    · rw [grn_grnCount, hgrn]
      exact ⟨rfl, rfl, rfl, rfl, rfl⟩
  · refine ⟨conflict { beaconTaken s f with grn := { (beaconTaken s f).grn with state := .conflict, acting := false } } 1, ?_, ?_⟩
    · rw [exec_beacon h hsrc hnew, if_pos hmaster, if_pos hlower]
    · rw [conflict_grn]
  · obtain ⟨seen, hseen⟩ := grn_beaconTaken s f
    have hstate' : (beaconTaken s f).grn.state ≠ .conflict := by
      rw [hseen]
      obtain h | h | h := hstate
      all_goals simp [h]
    have hmaster : s.grn.state ≠ .master := by
      obtain h | h | h := hstate
      all_goals simp [h]
    obtain ⟨g, hgrn⟩ := takeBeacon_listed (s := beaconTaken s f) (f := f) hstate' (by rw [hseen]; exact hkeep)
      (by rw [grnId_beaconTaken]; exact hlisted)
    refine ⟨takeBeacon (beaconTaken s f) f, ?_, ?_⟩
    · rw [exec_beacon h hsrc hnew, if_neg hmaster]
    · rw [hgrn, hseen, now_beaconTaken]
      exact ⟨rfl, rfl, rfl, Nat.mod_eq_of_lt f.epoch.isLt, rfl, rfl⟩
  · have hmember : (!(inBramble s)) = false := congrArg not hin
    refine next_reply hb ?_
    simp only [hsel]
    exact guarded_go rfl (guarded_go hres (guarded_go rfl (guarded_go hmember rfl)))
  · have hmember : (!(inBramble s)) = false := congrArg not hin
    refine next_reply hb ?_
    simp only [hsel]
    exact guarded_go rfl (guarded_go hres (guarded_go rfl (guarded_go hmember rfl)))
  · have hmember : (!(inBramble s)) = false := congrArg not hin
    have hopen : (bitAt c.w2 6 && noQueue s c.slot (bits c.w2 5 0)) = false := by
      cases hsub : bitAt c.w2 6 with
      | false => rfl
      | true => exact hqueue hsub
    refine next_reply hb ?_
    simp only [hsel, beq_self_eq_true, Bool.true_and]
    exact guarded_go rfl (guarded_go hres (guarded_go hopen (guarded_go hmember rfl)))
  · exact next_reply hb (guarded_stop (decide_eq_true hsel))
  · have hnone : (!(inBramble s)) = true := congrArg not hout
    refine next_reply hb ?_
    simp only [hsel]
    exact guarded_go rfl (guarded_go hres (guarded_go rfl (guarded_stop hnone)))

/-- Settles O52: peer messages by what their row's rule does once the frame is counted, peer DMA by the regions of R419. -/
theorem peerRows : Obligations.peerRows := by
  unfold Obligations.peerRows
  refine ⟨fun s f h => ⟨fun e he hop a hseen => ?_, fun e he hop hnew => ?_, fun e he hop hlo hhi => ?_,
      fun hnew => ⟨fun n c hn hc => ⟨fun hop hspan => ?_, fun hop hspan => ?_, fun hop => ?_, fun j hj hop => ?_⟩,
        fun hnone e he hop => ?_, fun hnone e he hop => ?_,
        fun c hc => ⟨fun j hj hop => ?_, fun s1 hs1 hop => ?_, fun hop hn => ?_, fun r hr hop hlo hhi => ?_⟩⟩⟩,
    fun s f => ⟨fun h hnew => ⟨fun hin => ?_, fun hout => ?_⟩, fun h hnew => ⟨fun hlo hhi hin hfree => ?_, fun hbad => ?_⟩,
      fun h id x hx => ?_, fun h u hu hkind => ?_⟩⟩
  · obtain ⟨-, act, hexec⟩ := peerOps_exec he f
    rw [hexec, peerMsg_mine (.inl hop), grnAcked_seen h hseen]
  · obtain ⟨⟨hlo, hhi⟩, act, hexec⟩ := peerOps_exec he f
    rw [hexec, peerMsg_unknown h hnew hlo hhi hop]
  · obtain ⟨-, act, hexec⟩ := peerOps_exec he f
    rw [hexec, peerMsg_other hop hlo hhi]
  · have hn' : ownNamed (counted s f) 3 (peerWord f 1) (confNamed (counted s f)) = some n := by
      rw [ownNamed_counted, confNamed_counted, hn]
    have hc' : getConf (counted s f) n = some c := (getConf_counted _ _ _).trans hc
    refine congrArg Host.Outcome.next (peerMsg_acts h hnew hop ((confAttach_named hn' hc').trans ?_))
    rw [if_pos hspan, media_counted]
  · have hn' : ownNamed (counted s f) 3 (peerWord f 1) (confNamed (counted s f)) = some n := by
      rw [ownNamed_counted, confNamed_counted, hn]
    have hc' : getConf (counted s f) n = some c := (getConf_counted _ _ _).trans hc
    exact congrArg Host.Outcome.next (peerMsg_acts h hnew hop ((confAttach_named hn' hc').trans
      (if_neg (Bool.eq_false_iff.1 hspan))))
  · have hn' : ownNamed (counted s f) 3 (peerWord f 1) (confNamed (counted s f)) = some n := by
      rw [ownNamed_counted, confNamed_counted, hn]
    have hc' : getConf (counted s f) n = some c := (getConf_counted _ _ _).trans hc
    refine congrArg Host.Outcome.next (peerMsg_acts h hnew hop ((confDetach_named hn' hc').trans ?_))
    rw [media_counted]
  · have hn' : ownNamed (counted s f) 3 (peerWord f 1) (confNamed (counted s f)) = some n := by
      rw [ownNamed_counted, confNamed_counted, hn]
    have hc' : getConf (counted s f) n = some c := (getConf_counted _ _ _).trans hc
    subst hj
    refine congrArg Host.Outcome.next (peerMsg_acts h hnew hop ?_)
    simp only [hn']
  · have hnone' : ownNamed (counted s f) 3 (peerWord f 1) (confNamed (counted s f)) = none := by
      rw [ownNamed_counted, confNamed_counted, hnone]
    simp only [List.mem_cons, List.not_mem_nil, or_false] at he
    obtain rfl | rfl | rfl := he
    · exact congrArg Host.Outcome.next (peerMsg_acts h hnew hop (confAttach_missing hnone'))
    · exact congrArg Host.Outcome.next (peerMsg_acts h hnew hop (confDetach_missing hnone'))
    · refine congrArg Host.Outcome.next (peerMsg_acts h hnew hop ?_)
      simp only [hnone']
  · have hnone' : ownNamed (counted s f) 1 (peerWord f 1) (sourceNamed (counted s f)) = none := by
      rw [ownNamed_counted, sourceNamed_counted, hnone]
    simp only [List.mem_cons, List.not_mem_nil, or_false] at he
    obtain rfl | rfl | rfl := he
    · exact congrArg Host.Outcome.next (peerMsg_acts h hnew hop (streamSubscribe_missing hnone'))
    · refine congrArg Host.Outcome.next (peerMsg_acts h hnew hop ?_)
      simp only [hnone']
    · refine congrArg Host.Outcome.next (peerMsg_acts h hnew hop ?_)
      simp only [hnone']
  · subst hj
    exact congrArg Host.Outcome.next (peerMsg_acts h hnew hop rfl)
  · have hc' : ownNamed (counted s f) 1 (peerWord f 1) (sourceNamed (counted s f)) = some c := by
      rw [ownNamed_counted, sourceNamed_counted, hc]
    subst hs1
    refine congrArg Host.Outcome.next (peerMsg_acts h hnew hop ?_)
    simp only [hc']
  · have hc' : ownNamed (counted s f) 1 (peerWord f 1) (sourceNamed (counted s f)) = some c := by
      rw [ownNamed_counted, sourceNamed_counted, hc]
    refine congrArg Host.Outcome.next (peerMsg_acts h hnew hop ?_)
    have hbad : (decide (bits (peerWord f 3) 6 0 = 0) || decide (64 < bits (peerWord f 3) 6 0)) = true := by
      simpa only [Bool.or_eq_true, decide_eq_true_eq] using hn
    simp only [hc', gt_iff_lt, hbad, if_true]
  · have hc' : ownNamed (counted s f) 1 (peerWord f 1) (sourceNamed (counted s f)) = some c := by
      rw [ownNamed_counted, sourceNamed_counted, hc]
    subst hr
    refine congrArg Host.Outcome.next (peerMsg_acts h hnew hop ?_)
    have hpos : bits (peerWord f 3) 6 0 ≠ 0 := by omega
    simp only [hc', hpos, gt_iff_lt, Nat.not_lt.2 hhi, decide_false, Bool.or_self, Bool.false_eq_true, if_false]
  · exact congrArg Host.Outcome.next (grnAcked_new h hnew (if_pos ((insideAny_counted _ _ _ _ _).trans hin)))
  · exact congrArg Host.Outcome.next (grnAcked_new h hnew (if_neg (Bool.eq_false_iff.1 ((insideAny_counted _ _ _ _ _).trans hout))))
  · refine congrArg (fun t => Host.Outcome.next (settle t)) (grnAcked_new h hnew ?_)
    have hpos : bits f.b 13 0 ≠ 0 := by omega
    simp only [insideAny_counted, hin, hpos, gt_iff_lt, Nat.not_lt.2 hhi, decide_false, Bool.not_true, Bool.or_self, Bool.false_eq_true,
      if_false, heldBy_counted, hfree, List.isEmpty_nil, if_true]
  · refine congrArg (fun t => Host.Outcome.next (settle t)) (grnAcked_new h hnew ?_)
    have hrefused : (decide (bits f.b 13 0 = 0) || decide (8192 < bits f.b 13 0)
        || !(insideAny s (endpointRegions true) f.a.toNat (bits f.b 13 0))) = true := by
      simpa only [Bool.or_eq_true, decide_eq_true_eq, Bool.not_eq_true', or_assoc] using hbad
    simp only [insideAny_counted, gt_iff_lt, hrefused, if_true]
  · refine congrArg Host.Outcome.next ?_
    simp only [grnTake_forHere h, Bool.not_true, Bool.false_eq_true, if_false, dma_counted, hx]
  · have hk : bits f.a 47 44 ≠ 6 := by
      have := List.find?_some hu
      simp only [Bool.and_eq_true, beq_iff_eq] at this
      obtain ⟨⟨hk, -⟩, -⟩ := this
      exact hk ▸ hkind
    refine congrArg Host.Outcome.next ?_
    simp only [grnTake_forHere h, Bool.not_true, Bool.false_eq_true, if_false, grn_counted, hu, hk, decide_false, Bool.false_and]

/-- Settles O53: frames by what the member takes of them, the timers by their instants. -/
theorem spanningRows : Obligations.spanningRows := by
  unfold Obligations.spanningRows
  refine ⟨fun s f h hhere => ⟨fun hnot => ?_, fun c x hon hmirror hx => exec_media h hhere hon hmirror hx⟩,
    fun s f hhere => ⟨fun hmaster => ?_, fun hother => ?_⟩, fun s c x h hx hmirror => ⟨fun hwait => ?_, fun m hm hnew hdue hon hactive hin => ?_⟩,
    fun s f hall hon g m hspan hm hfirst => ⟨_, ?_, rfl⟩, fun s f hall => ⟨fun hmember hmaster => ?_, fun hother => ?_⟩,
    fun s g x hx => ⟨fun hnot => ?_, fun hopen hdue hmaster hactive => ?_⟩,
    fun s g m hm => ⟨fun w e hw he => ⟨fun hsoon => ?_, fun hrun hdue hnone => ?_⟩, fun n p seats rest hbuild hon => ⟨fun hsoon => ?_, fun hlate hdue => ?_⟩⟩⟩
  · refine congrArg Host.Outcome.next ?_
    by_cases hon : mediaOn s = true
    · have hnone : mirrorFor s f.a = none := hnot.resolve_left (by simp [hon])
      simp only [grnTake_forHere hhere, hon, mirrorFor_counted, hnone, Option.bind_none, Bool.not_true, Bool.or_self, Bool.false_eq_true,
        if_false]
    · simp only [grnTake_forHere hhere, Bool.eq_false_iff.2 hon, Bool.not_false, Bool.or_true, if_true]
  · refine congrArg Host.Outcome.next ?_
    simp only [grnTake_forHere hhere, grn_counted, hmaster, bne_self_eq_false, Bool.not_true, Bool.or_self, Bool.false_eq_true, if_false]
  · refine congrArg Host.Outcome.next ?_
    simp only [grnTake_forHere hhere, grn_counted, bne_iff_ne.2 hother, Bool.or_true, if_true]
  · exact mirrorGap_none hx hmirror hwait
  · exact mirrorGap_single hx hmirror hm hnew hdue hon hactive hin
  · refine congrArg Host.Outcome.next ?_
    simp only [grnTake_forAll hall, hon, spanGroups_spread, hspan, List.foldl_cons, List.foldl_nil, decide_lt_false hm, hfirst, Bool.not_true,
      Bool.or_self, Bool.false_eq_true, if_false]
  · obtain ⟨seen, hgrn⟩ := grn_spread s f 5
    refine congrArg Host.Outcome.next ?_
    simp only [grnTake_forAll hall, hgrn, hmember, hmaster, bne_self_eq_false, Bool.not_true, Bool.or_self, Bool.false_eq_true, if_false]
  · obtain ⟨seen, hgrn⟩ := grn_spread s f 5
    refine congrArg Host.Outcome.next ?_
    obtain h | h := hother
    · simp only [grnTake_forAll hall, hgrn, bne_iff_ne.2 h, Bool.or_true, Bool.true_or, if_true]
    · simp only [grnTake_forAll hall, hgrn, bne_iff_ne.2 h, Bool.or_true, if_true]
  · refine congrArg Host.Outcome.next ?_
    obtain h | h | h := hnot
    · simp only [hx, h, Bool.or_true, Bool.true_or, if_true]
    · simp only [hx, h, Bool.not_false, Bool.or_true, if_true]
    · simp only [hx, bne_iff_ne.2 h, Bool.or_true, Bool.true_or, if_true]
  · obtain ⟨x2, outcome, hexec, hmerged, hm, hreports, hk⟩ := seatMerge_due hx hopen hdue hmaster hactive
    exact ⟨x2, _, hexec, hmerged, hm, hreports, hk ▸ length_decisionWords x2 (x.m + 1) outcome⟩
  · refine congrArg Host.Outcome.next ?_
    simp only [hm, hw, he, decide_le_false hsoon, Bool.and_false, Bool.false_and, Bool.false_eq_true, if_false]
  · refine congrArg Host.Outcome.next ?_
    simp [hm, hw, he, hrun, hdue, hnone]
  · refine congrArg Host.Outcome.next ?_
    simp only [hm, hbuild, decide_le_false hsoon, Bool.and_false, Bool.false_and, Bool.false_eq_true, if_false]
  · refine congrArg Host.Outcome.next ?_
    simp only [hm, hbuild, hon, decide_eq_true hdue, decide_eq_true hlate, Bool.or_true, Bool.and_self, if_true]
end

section
/-! Obligations O55 and O56: the frame of the host's rows, and the bytes of memory. -/

namespace Sys2Proof.Machine

/-- NOP on ring 0 of slot 0. -/
def nopCommand : Cmd := Tests.cmd 0 0 0 0

/-- A LEG_DESTROY waits in flight, and nothing stands against its end; its leg owns a context under a persistent key; NOP has
been fetched after it. -/
def legEnding : State :=
  let s := Tests.withCmd Tests.atWork 0x000 nopCommand
  { s with
    media := { s.media with streams := [(0, { kind := 1, cur := some { id := 0, suite := 0, start := 0, persist := some 0 } })] }
    hci := { s.hci with inflight := [{ no := 1, slot := 0, ring := 0, cq := 0, tag := 0, quiet := false, wait := .legDestroy 0 }] } }

/-- How many times MRAM has retired keys after a command. -/
def retirementsAfter : Out → Nat
  | .next t => t.mram.retirements
  | _ => 0

/-- Reading one byte after a write of several. -/
theorem readByte_writeBytes (m : List Host.Cell) (a c : Nat) (bs : List Byte) (h : memWf m = true) :
    readByte (writeBytes m a bs) c = if a ≤ c ∧ c < a + bs.length then bs.getD (c - a) 0 else readByte m c := by
  induction bs generalizing m a with
  | nil =>
    have hnone : ¬ (a ≤ c ∧ c < a + ([] : List Byte).length) := by
      simp only [List.length_nil]
      omega
    rw [writeBytes, if_neg hnone]
  | cons b bs ih =>
    rw [writeBytes, ih _ _ (memWf_writeByte m a b h), readByte_writeByte m a c b h, List.length_cons]
    by_cases hca : c = a
    · subst hca
      rw [if_neg (by omega), if_pos rfl, if_pos (by omega), Nat.sub_self]
      rfl
    · rw [if_neg hca]
      by_cases hin : a + 1 ≤ c ∧ c < a + 1 + bs.length
      · obtain ⟨k, rfl⟩ : ∃ k, c = a + 1 + k := ⟨c - (a + 1), by omega⟩
        rw [if_pos hin, if_pos (by omega), Nat.add_sub_cancel_left, show a + 1 + k - a = k + 1 by omega]
        rfl
      · rw [if_neg hin, if_neg (by omega)]

/-- In canonical form the head is the least address that does not read as zero. -/
theorem head_eq_of_readByte {p q : Host.Cell} {m n : List Host.Cell} (hm : memWf (p :: m) = true) (hn : memWf (q :: n) = true)
    (h : ∀ a, readByte (p :: m) a = readByte (q :: n) a) : p.1 ≤ q.1 := by
  obtain ⟨hq, -, -⟩ := (memWf_cons q n).1 hn
  obtain ⟨-, hlt, -⟩ := (memWf_cons p m).1 hm
  by_contra hqp
  have hzero : readByte (p :: m) q.1 = 0 := by
    refine readByte_below _ _ fun r hr => ?_
    obtain rfl | hr := List.mem_cons.1 hr
    · omega
    · exact Nat.lt_trans (by omega) (hlt r hr)
  have hread : readByte (q :: n) q.1 = q.2 := by rw [readByte, if_pos rfl]
  exact hq (hread.symm.trans ((h q.1).symm.trans hzero))

theorem eq_nil_of_readByte {m : List Host.Cell} (hm : memWf m = true) (h : ∀ a, readByte m a = 0) : m = [] := by
  cases m with
  | nil => rfl
  | cons p m =>
    obtain ⟨hp, -, -⟩ := (memWf_cons p m).1 hm
    have hread : readByte (p :: m) p.1 = p.2 := by rw [readByte, if_pos rfl]
    exact absurd (hread.symm.trans (h p.1)) hp

/-- The canonical form of a memory is determined by what it reads as. -/
theorem memWf_ext {m n : List Host.Cell} (hm : memWf m = true) (hn : memWf n = true) (h : ∀ a, readByte m a = readByte n a) :
    m = n := by
  induction m generalizing n with
  | nil => exact (eq_nil_of_readByte hn fun a => (h a).symm).symm
  | cons p m ih =>
    cases n with
    | nil => exact eq_nil_of_readByte hm h
    | cons q n =>
      obtain ⟨-, hpm, hwm⟩ := (memWf_cons p m).1 hm
      obtain ⟨-, hqn, hwn⟩ := (memWf_cons q n).1 hn
      have haddr : p.1 = q.1 := Nat.le_antisymm (head_eq_of_readByte hm hn h) (head_eq_of_readByte hn hm fun a => (h a).symm)
      have hbyte : p.2 = q.2 := by
        have hread := h p.1
        rwa [readByte, if_pos rfl, readByte, if_pos haddr.symm] at hread
      have htail : ∀ a, readByte m a = readByte n a := fun a => by
        by_cases ha : p.1 = a
        · subst ha
          rw [readByte_below m _ hpm, readByte_below n _ fun r hr => haddr ▸ hqn r hr]
        · have hread := h a
          rwa [readByte, if_neg ha, readByte, if_neg (haddr ▸ ha)] at hread
      rw [ih hwm hwn htail, Prod.ext haddr hbyte]

theorem acked_memory (s : State) (f : GrnFrame) (kind status : Nat) (record : List Byte) :
    (acked s f kind status record).memory = s.memory := rfl

theorem memory_counted (s : State) (f : GrnFrame) : (counted s f).memory = s.memory := rfl

theorem readByte_dramWrite {s : State} (h : s.MemInv) (a b : Nat) (bs : List Byte) :
    readByte (dramWrite s a bs).memory.dram b =
      if a ≤ b ∧ b < a + bs.length then bs.getD (b - a) 0 else readByte s.memory.dram b := readByte_writeBytes _ _ _ _ h

theorem mem_poison_dramWrite {s : State} {a b : Nat} {bs : List Byte} (h : b ∈ (dramWrite s a bs).memory.poison) :
    b ∈ s.memory.poison ∧ ¬ (a ≤ b ∧ b + 64 ≤ a + bs.length) := by
  obtain ⟨hin, hkept⟩ := List.mem_filter.1 h
  refine ⟨hin, fun ⟨hlo, hhi⟩ => ?_⟩
  rw [decide_eq_true hlo, decide_eq_true hhi] at hkept
  exact absurd hkept (by decide)

/-- R486: what a peer's write that is taken leaves of memory. -/
theorem exec_dmaWrite {s : State} {f : GrnFrame} (h : ForHere s f 7) (hnew : grnSeen s f 7 = none) :
    ∃ t, exec (.dmaWrite f) s = .next t ∧ t.memory =
      if insideAny s (endpointRegions false) f.a.toNat f.payload.length = true then (dramWrite s f.a.toNat f.payload).memory
      else s.memory := by
  by_cases hin : insideAny s (endpointRegions false) f.a.toNat f.payload.length = true
  · refine ⟨_, congrArg Host.Outcome.next (grnAcked_new h hnew (if_pos ((insideAny_counted _ _ _ _ _).trans hin))), ?_⟩
    rw [acked_memory, if_pos hin, dramWrite, dramWrite, memory_counted]
  · refine ⟨_, congrArg Host.Outcome.next (grnAcked_new h hnew (if_neg fun ht => hin ((insideAny_counted _ _ _ _ _).symm.trans ht))), ?_⟩
    rw [acked_memory, if_neg hin, memory_counted]

end Sys2Proof.Machine

open Sys2Proof Sys2Proof.Machine

/-- Refutes O55: a command's step ends what else can end, and the end of a LEG_DESTROY retires the persistent keys of its leg
in MRAM (R246, R275). In a state in which such a LEG_DESTROY can end (`State` does not exclude it), NOP's step changes MRAM. -/
theorem not_hostRowsFrame : ¬ Obligations.hostRowsFrame := by
  unfold Obligations.hostRowsFrame
  rintro ⟨hrows, -⟩
  obtain ⟨t, ht, hsame, -⟩ := hrows .nop (List.mem_cons_self) nopCommand legEnding
  obtain ⟨-, -, -, -, -, -, -, -, -, -, -, -, -, -, -, -, hmram⟩ := hsame
  have hretired : retirementsAfter (exec (.nop nopCommand) legEnding) = 1 := by decide +kernel
  rw [ht] at hretired
  exact absurd ((congrArg Mram.retirements hmram).symm.trans hretired) (by decide)

/-- Settles O56: a write byte by byte, the canonical form by its least address, a peer's write by where it lands. -/
theorem memoryBytes : Obligations.memoryBytes := by
  unfold Obligations.memoryBytes
  refine ⟨fun s a b bs h => ⟨fun hlo hhi => ?_, fun hout => ?_, memWf_dramWrite s a bs h, fun hlo hhi hmem => ?_, fun hmem => ?_⟩,
    fun m n hm hn h => memWf_ext hm hn h, fun s f h hhere hnew => ?_⟩
  · rw [readByte_dramWrite h, if_pos ⟨hlo, hhi⟩]
  · rw [readByte_dramWrite h, if_neg (by omega)]
  · obtain ⟨-, hkept⟩ := mem_poison_dramWrite hmem
    exact hkept ⟨hlo, hhi⟩
  · obtain ⟨hin, -⟩ := mem_poison_dramWrite hmem
    exact hin
  · obtain ⟨t, ht, hmem⟩ := exec_dmaWrite hhere hnew
    refine ⟨t, ht, fun hin b => ⟨fun hlo hhi => ?_, fun hout => ?_⟩, fun hout => ?_⟩
    · rw [hmem, if_pos hin, readByte_dramWrite h, if_pos ⟨hlo, hhi⟩]
    · rw [hmem, if_pos hin, readByte_dramWrite h, if_neg (by omega)]
    · rw [hmem, if_neg (Bool.eq_false_iff.1 hout)]
end
